-- ==== Sys2Proof/Word.lean ====
section
/-!
DEFINITION. The word types of the TK-4610 model and nothing else: what the spec treats as bits.
Field extraction, sign extension and byte order stand in Sys2Proof/Machine/Bits.lean.
-/

namespace Sys2Proof

/-- A byte of scratchpad, instruction memory or device memory (R12). -/
abbrev Byte := BitVec 8

/-- A 32-bit register, CSR or instruction word (R13, R49). -/
abbrev Word := BitVec 32

/-- A 64-bit value: a time base, a device-memory address, a 64-bit register. -/
abbrev DWord := BitVec 64

/-- A register number of an instruction (R54). -/
abbrev Reg := BitVec 5

end Sys2Proof
end

