-- ==== Sys2Proof/Machine/Packets.lean ====
section
/-!
DEFINITION. What travels on the mesh and between devices, as plain data: messages, grants, refusals,
remote requests, responses. Commands carry these as operands and State lists those in flight.
-/

namespace Sys2Proof.Machine

/-- A message of class 0 datagram, 1 stream or 2 rotate (R72, R119). Addresses are in the form SEND uses:
partition-relative, with the device id in [31:16]; `part` is the partition of this device it belongs to. -/
structure Msg where
  part : Nat
  src : Nat
  dst : Nat
  cls : Nat
  ch : Nat
  /-- Sequence number of the receive record (R129). -/
  seq : Nat
  /-- Send ticket at the source, for acceptance and refusal (R73, R78, R123). -/
  ticket : Nat
  /-- Who made it: 0 SEND, 1 DMA, 2 watermark event (R411), 3 saturation event (R244), 4 fence datagram (R542),
  5 step notification (R325), 6 serving notification (R604). -/
  origin : Nat
  /-- The core of this device that made it (R140); 10240, no core's number, where none did. -/
  orig : Nat
  payload : List Byte
  deriving DecidableEq, Repr

/-- A grant of stream or rotate credit (R124, R127): `dst` is the granted source core, `src` the granting core. -/
structure Grant where
  part : Nat
  dst : Nat
  src : Nat
  ch : Nat
  rot : Bool
  first : Bool
  units : Nat
  recs : Nat
  cap : Nat
  deriving DecidableEq, Repr

/-- A close of a stream or rotate channel (R128): `dst` is the source core whose entry goes, `src` the closing core. -/
structure Close where
  part : Nat
  dst : Nat
  src : Nat
  ch : Nat
  rot : Bool
  /-- The close answers a refused message (R120, R130): its ticket and origin. -/
  refused : Bool
  ticket : Nat
  origin : Nat
  /-- The core of this device that made the refused message. -/
  orig : Nat
  deriving DecidableEq, Repr

/-- A refusal of a datagram returned to its source (R123). -/
structure Refused where
  part : Nat
  dst : Nat
  src : Nat
  ch : Nat
  ticket : Nat
  origin : Nat
  /-- The core of this device that made it. -/
  orig : Nat
  deriving DecidableEq, Repr

/-- A request of a Retriever or DMA engine to a remote scratchpad or another device's memory (R146, R132), or of a bucket stream to its
channel's owner (R376): then `src` is this device, the ticket is the channel. -/
structure Rq where
  part : Nat
  /-- The requesting core, partition-relative, its engine (3 Retriever, 4 DMA, 5 a bucket stream) and descriptor ticket. -/
  src : Nat
  eng : Nat
  ticket : Nat
  /-- Byte offset in the transfer or element position. -/
  pos : Nat
  /-- Target core address, or the target device id in [31:16] for memory. -/
  dst : Nat
  /-- 0 remote scratchpad, 1 device memory. -/
  space : Nat
  /-- 0 read, 1 write, 2 fp32 addition, 3 int32 addition, 4 int64 addition. -/
  op : Nat
  addr : Nat
  len : Nat
  data : List Byte
  /-- Local scratchpad address a read result goes to. -/
  land : Nat
  deriving DecidableEq, Repr

/-- A response to a request of a Retriever or DMA engine. -/
structure Rsp where
  part : Nat
  dst : Nat
  eng : Nat
  ticket : Nat
  pos : Nat
  err : Bool
  data : List Byte
  deriving DecidableEq, Repr

/-- A record of the reduction path: a D32 or D48 block, a SPARSE part or an END (R374, R378). -/
structure RedRec where
  kind : Nat
  j : Nat
  s : Nat
  tag : Nat
  nf : Bool
  rg : Bool
  ck : Bool
  mx : Nat
  count : Nat
  sum : Nat
  vals : List Int
  deriving DecidableEq, Repr

/-- Records of one channel and step on their way to a combiner (R378, R385). `src` is the sending device, 0 for a core of this one;
`core` and `eng` name the local hand-off the packet's credit returns to. -/
structure RedPkt where
  part : Nat
  ch : Nat
  step : Nat
  attempt : Nat
  src : Nat
  core : Nat
  /-- Header flags and reduction checksum (R380). -/
  nf : Bool
  rg : Bool
  ck : Nat
  /-- Its step was skipped or cancelled after it was sent, or its context was opened for such a step (R396). -/
  stale : Bool
  recs : List RedRec
  deriving DecidableEq, Repr

/-- A WYN frame: the header of R461 and the payload. -/
structure Wyn where
  cls : Nat
  nf : Bool
  rg : Bool
  rsp : Bool
  lv : Bool
  av : Bool
  sub : Nat
  ch : Nat
  seq : Nat
  dst : Nat
  src : Nat
  tag : Nat
  hops : Nat
  pri : Nat
  lseq : Nat
  lack : Nat
  ck : Nat
  payload : List Byte
  deriving DecidableEq, Repr

/-- Traffic in flight on the mesh, and frames units of the device have handed to the fabric layer. -/
inductive NetItem where
  | msg (m : Msg)
  | grant (g : Grant)
  | close (c : Close)
  | refusal (r : Refused)
  | req (r : Rq)
  | rsp (r : Rsp)
  | red (p : RedPkt)
  | wyn (w : Wyn)
  /-- A frame the fabric layer has delivered to a unit of partition `part` and the unit has not taken yet. -/
  | inw (part : Nat) (w : Wyn)
  deriving DecidableEq, Repr

/-- Device ids and core addresses are numbers of 16 and 32 bits (R32). -/
def addrDev (a : Nat) : Nat := (a >>> 16) % 65536
def addrRow (a : Nat) : Nat := (a >>> 8) % 128
def addrCol (a : Nat) : Nat := a % 128
/-- A core address that R33 calls invalid. -/
def addrBad (a : Nat) : Bool := a.testBit 15 || a.testBit 7 || decide (80 ≤ addrRow a)
def mkAddr (dev row col : Nat) : Nat := dev * 65536 + row * 256 + col

/-- A core of this device is numbered 128 × logical row + logical column (R34). -/
def coreRow (c : Nat) : Nat := c / 128
def coreCol (c : Nat) : Nat := c % 128
def coreDie (c : Nat) : Nat := (if 40 ≤ coreRow c then 2 else 0) + (if 64 ≤ coreCol c then 1 else 0)
def coreCluster (c : Nat) : Nat := 32 * (coreRow c / 4) + coreCol c / 4
def coreIdx (c : Nat) : Nat := 4 * (coreRow c % 4) + coreCol c % 4
/-- The number that stands for no core. -/
def noCore : Nat := 10240
def isCore (c : Nat) : Bool := decide (c < 10240)
/-- The core of index `i` in cluster `cl`. -/
def clusterCore (cl i : Nat) : Nat := (4 * (cl / 32) + i / 4) * 128 + 4 * (cl % 32) + i % 4
/-- The C-die of a cluster. -/
def clusterDie (cl : Nat) : Nat := coreDie (clusterCore cl 0)

/-- Who a Dictionary request came from (R626, R631): a function's mailbox, the management Ethernet (address and port), MCTP (endpoint
and message tag), or the fabric. -/
inductive DapSrc where
  | mbx (f : Nat)
  | eth (ip port : Nat)
  | mctp (eid tag : Nat)
  | fabric (w : Wyn)
  deriving DecidableEq, Repr

structure DapReq where
  src : DapSrc
  bytes : List Byte
  deriving DecidableEq, Repr

end Sys2Proof.Machine
end

