-- ==== Sys2Proof/Syntax.lean ====
section
/-!
DEFINITION. The commands of the block: one constructor per row of spec/opcode_table.json, with the operands
the rule of the row needs. Every command names the core, engine, port, partition or function it acts for.
-/

namespace Sys2Proof

open Sys2Proof.Machine

/-- The commands. Instruction fields are kept raw, as the formats of R54 hold them. Indices: `core` a device core, `cl` a cluster, `p` a
partition, `t` a site, `g` a port, `c` a channel, `f` a function, `q` a local queue, `i` a record. -/
inductive Instr where
  -- spec/02, control-core instructions
  | alu (core : Nat) (rd ra rb rc : Reg) (fn : BitVec 6)
  | addi (core : Nat) (rd ra : Reg) (imm : BitVec 16)
  | andi (core : Nat) (rd ra : Reg) (imm : BitVec 16)
  | ori (core : Nat) (rd ra : Reg) (imm : BitVec 16)
  | xori (core : Nat) (rd ra : Reg) (imm : BitVec 16)
  | slti (core : Nat) (rd ra : Reg) (imm : BitVec 16)
  | sltiu (core : Nat) (rd ra : Reg) (imm : BitVec 16)
  | slli (core : Nat) (rd ra : Reg) (imm : BitVec 16)
  | srli (core : Nat) (rd ra : Reg) (imm : BitVec 16)
  | srai (core : Nat) (rd ra : Reg) (imm : BitVec 16)
  | lui (core : Nat) (rd ra : Reg) (imm : BitVec 16)
  | fp (core : Nat) (rd ra rb rc : Reg) (fn : BitVec 6)
  | fma (core : Nat) (rd ra rb rc : Reg) (fn : BitVec 6)
  | lb (core : Nat) (rd ra : Reg) (imm : BitVec 16)
  | lbu (core : Nat) (rd ra : Reg) (imm : BitVec 16)
  | lh (core : Nat) (rd ra : Reg) (imm : BitVec 16)
  | lhu (core : Nat) (rd ra : Reg) (imm : BitVec 16)
  | lw (core : Nat) (rd ra : Reg) (imm : BitVec 16)
  | sb (core : Nat) (rd ra : Reg) (imm : BitVec 16)
  | sh (core : Nat) (rd ra : Reg) (imm : BitVec 16)
  | sw (core : Nat) (rd ra : Reg) (imm : BitVec 16)
  | beq (core : Nat) (ra rb : Reg) (off : BitVec 16)
  | bne (core : Nat) (ra rb : Reg) (off : BitVec 16)
  | blt (core : Nat) (ra rb : Reg) (off : BitVec 16)
  | bge (core : Nat) (ra rb : Reg) (off : BitVec 16)
  | bltu (core : Nat) (ra rb : Reg) (off : BitVec 16)
  | bgeu (core : Nat) (ra rb : Reg) (off : BitVec 16)
  | jal (core : Nat) (rd : Reg) (off : BitVec 21)
  | jalr (core : Nat) (rd ra : Reg) (imm : BitVec 16)
  | send (core : Nat) (rd ra rb rc : Reg) (fn : BitVec 6)
  | recv (core : Nat) (rd ra rb rc : Reg) (fn : BitVec 6)
  | waitq (core : Nat) (rd ra rb rc : Reg) (fn : BitVec 6)
  | pollq (core : Nat) (rd ra rb rc : Reg) (fn : BitVec 6)
  | issue (core : Nat) (rd ra rb rc : Reg) (fn : BitVec 6)
  | bar (core : Nat) (rd ra : Reg) (imm : BitVec 16)
  | fence (core : Nat) (rd ra : Reg) (imm : BitVec 16)
  | csrrw (core : Nat) (rd ra : Reg) (num : BitVec 12)
  | csrrs (core : Nat) (rd ra : Reg) (num : BitVec 12)
  | csrrc (core : Nat) (rd ra : Reg) (num : BitVec 12)
  | csrrwi (core : Nat) (rd : Reg) (uimm : BitVec 5) (num : BitVec 12)
  | csrrsi (core : Nat) (rd : Reg) (uimm : BitVec 5) (num : BitVec 12)
  | csrrci (core : Nat) (rd : Reg) (uimm : BitVec 5) (num : BitVec 12)
  | trap (core : Nat) (rd ra : Reg) (imm : BitVec 16)
  | brk (core : Nat) (rd ra : Reg) (imm : BitVec 16)
  | tret (core : Nat) (rd ra : Reg) (imm : BitVec 16)
  | halt (core : Nat) (rd ra : Reg) (imm : BitVec 16)
  -- spec/02, events of a core
  | interrupt (core : Nat)
  | waitqWake (core : Nat)
  | fenceComplete (core : Nat)
  | sendResume (core : Nat)
  | issueResume (core : Nat)
  | run (core : Nat)
  | runClear (core : Nat)
  | step (core : Nat)
  | load (core : Nat)
  | loadDone (core : Nat)
  | hint (core : Nat)
  | unrecov (core : Nat)
  | timerExpiry (core : Nat) (timer : Bool)
  | wdogExpiry (core : Nat)
  | wdogKick (core : Nat) (value : Word)
  | nanrecClear (core : Nat)
  -- spec/03, message unit
  | sendPayloadRead (core : Nat)
  | messageArrival (m : Msg)
  | refusal (r : Refused)
  | grant (g : Grant)
  | streamClose (c : Close)
  | rqTailWrite (core : Nat) (q : BitVec 3) (value : Word)
  | rqEnable (core : Nat) (q : BitVec 3) (cfg : Word)
  | rqDisable (core : Nat) (q : BitVec 3)
  | rqWmWrite (core : Nat) (q : BitVec 3) (value : Word)
  | semWrite (core : Nat) (sem : BitVec 6) (value : Word)
  | semSignal (core : Nat) (value : Word)
  | remoteSpadRequest (r : Rq)
  | responseArrival (r : Rsp)
  | responseTimeout (core : Nat) (eng : Bool)
  | coreWindowAccess (fn : BitVec 6) (win : BitVec 4) (off : BitVec 18) (write : Bool) (size : Nat) (value : DWord)
  | aliasWrite (cluster : Nat) (idx : BitVec 4) (value : Word)
  | meshNak (cluster : Nat) (flits : Nat) (eighth : Bool)
  -- spec/03, DMA and Retriever
  | memToSpad (core : Nat)
  | spadToMem (core : Nat)
  | spadToCore (core : Nat)
  | memToCore (core : Nat)
  | dmaComplete (core : Nat)
  | gather (core : Nat)
  | scatter (core : Nat)
  | scatterAdd (core : Nat)
  | segReduce (core : Nat)
  | hashProbe (core : Nat)
  | hashInsert (core : Nat)
  | setIsect (core : Nat)
  | setUnion (core : Nat)
  | retrieverComplete (core : Nat)
  -- spec/05 to spec/07, engines and tables
  | fwd (core : Nat) (ge : Bool)
  | dgrad (core : Nat) (ge : Bool)
  | wgrad (core : Nat) (ge : Bool)
  | matrixComputeEnd (core : Nat) (ge : Bool)
  | matrixDescriptorComplete (core : Nat) (ge : Bool)
  | handoffCredit (core : Nat) (ge : Bool)
  | holdrel (core : Nat) (ge : Bool)
  | map (core : Nat)
  | reduce (core : Nat)
  | sort (core : Nat)
  | merge (core : Nat)
  | veDescriptorComplete (core : Nat)
  | veSwap (core : Nat) (kinds : BitVec 10)
  | veSwapCopy (core : Nat) (kinds : BitVec 10)
  | veVrData (core : Nat) (write : Bool) (value : Word)
  | tableDataAccess (core : Nat) (num : BitVec 12) (write : Bool) (value : Word)
  | qzFmtshWrite (core : Nat) (slot : BitVec 2) (value : Word)
  | qzSeCfgWrite (core : Nat) (word : BitVec 2) (value : Word)
  | qzHrshWrite (core : Nat) (entry : BitVec 4) (value : Word)
  | qzLsGo (core : Nat) (value : Word)
  | qzRollCommit (core : Nat)
  | qzRollSkip (core : Nat)
  -- spec/08
  | roll (core : Nat)
  | begin (p : Nat)
  | close (p : Nat)
  | veto (p : Nat)
  | resume (p : Nat)
  | breakStep (p : Nat)
  | abandon (p : Nat)
  | ballot (group step att flags count : Nat)
  | outcome (group step att : Nat) (commit : Bool) (flags : Nat)
  | applied (p : Nat)
  | voteTimeout (p : Nat) (newer : Bool)
  -- spec/08
  | readerTake (p i taker : Nat)
  | leaseTake (p i taker : Nat)
  | readerDrop (p i : Nat) (ver : Word)
  | leaseDrop (p i : Nat) (ver : Word)
  | recordLineWrite (p i off : Nat) (data : List Byte)
  | leaseExpiry (p i : Nat)
  | sweepVisit (p i : Nat)
  -- spec/09
  | ueArm (t p : Nat)
  | ueDisarm (t p : Nat)
  | ueBlockApply (t p : Nat)
  | publishFinal (t p : Nat)
  | copyWriteAck (t p : Nat)
  | copyAckTimeout (t p : Nat)
  | reemit (p v : Nat)
  | reapply (p : Nat)
  | ueSwapGrp (p : Nat)
  | ueSwapRow (p : Nat) (pf : Bool)
  | ueSwapCopy (p : Nat) (pf grp row : Bool)
  | uePgrpWrite (p : Nat) (pf : Bool) (v : Word)
  -- spec/10
  | muRdOpen (core : Nat) (i : BitVec 4)
  | muRdClose (core : Nat) (i : BitVec 4)
  | reductionPacket (k : RedPkt)
  | rdInit (c : Nat)
  | seal (c : Nat) (area : Bool) (k : BitVec 24)
  | sealDone (c : Nat) (area : Bool) (k : BitVec 24)
  | rdClose (c : Nat)
  | rdChannelEnable (c : Nat) (pf : Bool) (v : Word)
  -- spec/12
  | frameReceive (g : Nat) (data : List Byte) (corr sym : Nat) (ue : Nat × Bool)
  | frameTransmit (g : Nat)
  | pause (g : Nat) (t : BitVec 16)
  | pfc (g : Nat) (vec : Byte) (times : List (BitVec 16))
  | pauseTimerExpiry (g : Nat) (prio : Option (BitVec 3))
  | pauseResendExpiry (g : Nat)
  | cbsCreditRecovered (g : Nat) (q : BitVec 3)
  | linkUp (g : Nat)
  | linkDown (g : Nat) (receiving : Bool)
  | ldholdExpiry (g : Nat)
  | anTimeout (g : Nat)
  | anRestart (g : Nat)
  | macFlush (g : Nat)
  | macEnable (g : Nat) (en : Bool)
  | macXmodeWrite (x : Nat) (v : Word)
  | macCbsWrite (g : Nat) (q : BitVec 3) (word : Bool) (v : Word)
  -- spec/13
  | wynFrame (g : Nat)
  | frameOriginate (x : NetItem)
  | linkAck (g link : Nat) (a : BitVec 16)
  | linkNak (g link : Nat) (n : BitVec 16) (ack : Option (BitVec 16))
  | ackdlyExpiry (g link : Nat)
  | replayTimeout (g link : Nat)
  | rstlrt (g : Nat)
  | fbSwapFwd
  | fbSwapCopy
  | fbDomWrite (p : BitVec 6) (v : Word)
  -- spec/13
  | feedPacket (c : BitVec 6) (payload : List Byte)
  | recordPlace (c : BitVec 6)
  | slotRelease (c : BitVec 6) (e : BitVec 10) (n : Word)
  | fdEnable (c : BitVec 6) (pf : Bool) (v : Word)
  | fdDisable (c : BitVec 6)
  -- spec/14
  | memoryLineAccess (t : BitVec 3) (off n p unit : Nat) (data : Option (List Byte))
  | read (p : BitVec 6) (w : Wyn)
  | write (p : BitVec 6) (w : Wyn)
  | readRsp (p : BitVec 6) (w : Wyn)
  | writeAck (p : BitVec 6) (w : Wyn)
  | error (p : BitVec 6) (w : Wyn)
  | patrolScrub (t : BitVec 3)
  | selfRefreshEntry (t : BitVec 3) (commanded : Bool)
  | selfRefreshExit (t : BitVec 3)
  | mtRegionWrite (t : BitVec 3) (r : BitVec 4) (w : BitVec 2) (v : Word)
  -- spec/15
  | mirror (p : BitVec 6) (w : Wyn)
  | mirrorAck (p : BitVec 6) (w : Wyn)
  | mark (p : BitVec 6) (w : Wyn)
  | markAck (p : BitVec 6) (w : Wyn)
  | cometRead (p : BitVec 6) (w : Wyn)
  | cometReadRsp (p : BitVec 6) (w : Wyn)
  | cometError (p : BitVec 6) (w : Wyn)
  | mirrorTimeout (p : BitVec 6) (t : BitVec 3) (seq : BitVec 16)
  | restore (p : BitVec 6)
  | cmCtlWrite (p : BitVec 6) (v : Word)
  | cmWinWrite (p : BitVec 6) (k : BitVec 3) (w : BitVec 2) (v : Word)
  | cmHostWrite (h : BitVec 4) (w : BitVec 2) (v : Word)
  | clFence (cl : Nat) (i : BitVec 4)
  | unfence (cl : Nat) (i : BitVec 4)
  | heartbeatSend
  | heartbeat (w : Wyn)
  | heartbeatTimeout (w : BitVec 3)
  | hbWatchWrite (w : BitVec 3) (v : Word)
  -- spec/16
  | sqDoorbell (p : BitVec 6) (q : Nat) (v : Word)
  | cqDoorbell (p : BitVec 6) (q : Nat) (v : Word)
  | sqEnable (p : BitVec 6) (q : Nat) (v : Word)
  | sqDisable (p : BitVec 6) (q : Nat) (v : Word)
  | sqFetch (p : BitVec 6) (q : Nat) (entry : List Byte) (ok : Bool)
  | nop (p : BitVec 6) (q : Nat) (cid : BitVec 16)
  | h2d (p : BitVec 6) (q : Nat) (cid : BitVec 16) (data : List Byte) (err : Option Nat)
  | d2h (p : BitVec 6) (q : Nat) (cid : BitVec 16)
  | h2s (p : BitVec 6) (q : Nat) (cid : BitVec 16) (data : List Byte) (err : Option Nat)
  | s2h (p : BitVec 6) (q : Nat) (cid : BitVec 16)
  | fill (p : BitVec 6) (q : Nat) (cid : BitVec 16)
  | commandComplete (p : BitVec 6) (q : Nat)
  | moderationTimerExpiry (p : BitVec 6) (q : Nat)
  | vectorUnmask (f : BitVec 6) (v : Option (BitVec 11))
  | flr (p : BitVec 6)
  | vfDisable
  | d3hot (f : BitVec 6)
  | d0 (f : BitVec 6)
  | busMasterEnableWrite (f : BitVec 6) (on : Bool)
  | bar2Access (f : BitVec 6) (off n : Nat) (data : Option (List Byte))
  | hiPartWrite (p : BitVec 6) (which : BitVec 2) (v : Word)
  -- spec/17
  | admitReq (p : BitVec 6) (src : Option (BitVec 16)) (w0 w1 a b : Word)
  | start (p : BitVec 6) (src : Option (BitVec 16)) (w0 w1 a b : Word)
  | token (p : BitVec 6) (src : Option (BitVec 16)) (w0 w1 a b : Word)
  | hold (p : BitVec 6) (src : Option (BitVec 16)) (w0 w1 a b : Word)
  | svResume (p : BitVec 6) (src : Option (BitVec 16)) (w0 w1 a b : Word)
  | abort (p : BitVec 6) (src : Option (BitVec 16)) (w0 w1 a b : Word)
  | release (p : BitVec 6) (src : Option (BitVec 16)) (w0 w1 a b : Word)
  | setprio (p : BitVec 6) (src : Option (BitVec 16)) (w0 w1 a b : Word)
  | select (p : BitVec 6) (src : Option (BitVec 16)) (w0 w1 a b : Word)
  | flush (p : BitVec 6) (src : Option (BitVec 16)) (w0 w1 a b : Word)
  | fillTimeout (p : BitVec 6) (m : BitVec 3)
  | batchNotify (p : BitVec 6) (m : BitVec 3)
  | svInit (p : BitVec 6)
  | svPartWrite (p : BitVec 6) (num : Bool) (v : Word)
  | svModelEnable (p : BitVec 6) (m : BitVec 3) (v : Word)
  -- spec/18
  | dapRead (r : DapReq)
  | dapWrite (r : DapReq)
  | dapDescribe (r : DapReq)
  | dapNext (r : DapReq)
  | flashWriteDone (ok : Bool)
  | dapAssemblyTimeout (obj : Nat)
  | dictRestore (r : DapReq)
  | go (f : BitVec 6) (v : Word)
  | setEndpointId (inst : BitVec 5) (op : BitVec 2) (eid : Byte)
  | getEndpointId (inst : BitVec 5)
  | getEndpointUuid (inst : BitVec 5)
  | getMctpVersionSupport (inst : BitVec 5) (typ : Byte)
  | getMessageTypeSupport (inst : BitVec 5)
  | getVendorDefinedMessageSupport (inst : BitVec 5) (selector : Byte)
  | arp (sha : BitVec 48) (spa tpa : BitVec 32)
  | neighbourDiscovery (src target : BitVec 128)
  | echo (v6 : Bool) (src dst : BitVec 128) (body : List Byte)
  -- spec/19
  | governorPeriod (power : BitVec 16) (dies xdies : List (BitVec 16))
  | clusterC0ToC1 (cl : Nat)
  | clusterC1ToC2 (cl : Nat)
  | clusterC2ToC3 (cl : Nat)
  | clusterC1ToC0 (cl : Nat)
  | clusterC2ToC0 (cl : Nat)
  | clusterC3ToC0 (cl : Nat)
  | dieDiToDs (d : BitVec 2)
  | dieDsToDi (d : BitVec 2)
  | deviceP0ToP1
  | deviceP1ToP2
  | deviceP2ToP0
  | powerTransitionComplete (row : BitVec 4) (unit : Nat)
  | standby
  | active
  | pwrSwapPst
  | pwrSwapCopy
  | clmaxWrite (w : Nat) (v : Word)
  | clmaxBc (v : Word)
  | thermalTrip
  | pllLoss (d : BitVec 2)
  | pllRelock (d : BitVec 2) (ok : Bool)
  | shepherdIdleExpiry
  | evcClaim
  | evcComplete (n : BitVec 10)
  | eventPin (n : BitVec 3) (level : Bool)
  -- spec/20
  | nak (j : BitVec 4) (ba : Bool) (lane flits : Nat) (fourth : Bool)
  | retrain (j : BitVec 4)
  | retrainingComplete (j : BitVec 4) (failAB failBA : List Nat)
  | powerOn
  | porstN
  | shpRst (v : Word)
  | packageResetObject
  | perst
  | bootStageComplete (err : Byte) (bad : List Nat)
  | bootWatchdog
  | extest
  | idcode
  | samplePreload
  | clamp
  | highz
  | extestPulse
  | extestTrain
  | bypass (code : Byte)
  | tchal
  | tresp (ok fuse : Bool)
  -- spec/20
  | captureFreeze
  | captureClear
  | captureFlashWrite
  -- spec/20
  | svnRaise (v : Word)
  | lifetimeHour
  -- spec/01, register accesses
  | registerWrite (f : BitVec 6) (space : BitVec 2) (off size : Nat) (v : DWord)
  | registerRead (f : BitVec 6) (space : BitVec 2) (off size : Nat)
  -- spec/20
  | powerLoss
  -- spec/19
  | shepherdPllLocked
  -- spec/17
  | tlastAgeLimit (p : BitVec 6) (r : BitVec 17)
  -- spec/14
  | dramTemperatureReport (t : BitVec 3) (temp : Byte) (x2 : Bool)
  deriving DecidableEq, Repr

end Sys2Proof
end

