-- ==== Sys2Proof/Config.lean ====
section
/-!
DEFINITION. What an implementation fixes and the spec leaves open: constants without a body, so that no
proof can see a value of them. A free value is one of them applied to a counter of State.
-/

namespace Sys2Proof

/-- Values the spec leaves undefined, drawn one after another (log entry 5). -/
opaque Config.freeWord : Nat → Word

/-- The device's base MAC address, fused (R451). -/
opaque Config.baseMac : Nat

/-- The 128-bit serial number and the device UUID material, fused (R642). -/
opaque Config.serial : Nat

/-- The destination MAC address and the device id of the device a direct port leads to (R458, R464: no rule gives them). -/
opaque Config.neighbourMac : Nat → Nat
opaque Config.neighbourDev : Nat → Nat

/-- Identification of an IPv4 header and flow label of an IPv6 header (R458: no rule gives them). -/
opaque Config.ipIdent : Nat → Nat

/-- The payload of a grant (first, units, records, capacity) and what a received one says (R462: no rule gives its layout). -/
opaque Config.grantPayload : Bool → Nat → Nat → Nat → List Byte
opaque Config.grantOf : List Byte → Bool × Nat × Nat × Nat

/-- The device that owns a reduction channel, whose exponent array a bucket stream elsewhere reads (R376: no register names it). -/
opaque Config.rdOwner : Nat → Nat

/-- The private part of a return capture (R700), the firmware version and the security version it reports (R642). -/
opaque Config.capturePrivate : Nat → List Byte
opaque Config.firmware : Nat

/-- The endpoint UUID and the version numbers an MCTP endpoint answers with (R635: no rule gives them). -/
opaque Config.uuid : Nat
opaque Config.mctpVersion : Nat

/-- Names of Dictionary objects, units the object tables do not state, and defaults of values that are readings (R612, R623: no rule
gives them). -/
opaque Config.objectName : Nat → Nat → List Byte
opaque Config.objectUnit : Nat → Nat → Nat
opaque Config.objectDefault : Nat → Nat → Nat

/-- Whether an image's digest and signature verify under a key that the fuses accept (R687, R688). -/
opaque Config.imageSigned : List Byte → Bool

/-- The bits of PUE in word k of a receive record (R110: R75 gives it no place). -/
opaque Config.pueMask : Nat → Word

end Sys2Proof
end

