-- ==== Sys2Proof/Machine/Bits.lean ====
section
/-!
DEFINITION. Bit fields, sign extension, byte order and the checksums several units share.
A repair may mend these, so they stand here and not in Sys2Proof/Word.lean.
-/

namespace Sys2Proof.Machine

/-- The field [lo + len - 1 : lo] of a word, as a number (R11's bit numbering: bit 0 is least significant). -/
def fld (w : Word) (lo len : Nat) : Nat := (w.toNat >>> lo) % 2 ^ len

/-- One bit of a word. -/
def bit (w : Word) (i : Nat) : Bool := w.toNat.testBit i

/-- A word whose field [lo + len - 1 : lo] is replaced by the low bits of `v`. -/
def setFld (w : Word) (lo len v : Nat) : Word :=
  let mask : Word := BitVec.ofNat 32 ((2 ^ len - 1) <<< lo)
  (w &&& ~~~mask) ||| (BitVec.ofNat 32 ((v % 2 ^ len) <<< lo))

/-- A word whose bit `i` is `b`. -/
def setBit (w : Word) (i : Nat) (b : Bool) : Word := setFld w i 1 (if b then 1 else 0)

/-- A word with the bits of `m` set. -/
def orBits (w : Word) (m : Nat) : Word := w ||| BitVec.ofNat 32 m

/-- A field of a natural number (64-bit entries, descriptors read as numbers). -/
def nfld (n lo len : Nat) : Nat := (n >>> lo) % 2 ^ len

/-- A field of `len` bits read as a two's complement integer. -/
def sfld (n lo len : Nat) : Int :=
  let v := nfld n lo len
  if v < 2 ^ (len - 1) then (v : Int) else (v : Int) - (2 ^ len : Int)

/-- A 32-bit word as a two's complement integer. -/
def sint (w : Word) : Int := w.toInt

/-- An integer modulo 2^32. -/
def wordOfInt (i : Int) : Word := BitVec.ofInt 32 i

/-- Bytes to a number, least significant byte first (R12). -/
def leNat : List Byte → Nat
  | [] => 0
  | b :: t => b.toNat + 256 * leNat t

/-- Bytes to a number, most significant byte first (R12: fields of Ethernet frames). -/
def beNat (l : List Byte) : Nat := leNat l.reverse

/-- The `k` low bytes of a number, least significant first (R12). -/
def leBytes : Nat → Nat → List Byte
  | 0, _ => []
  | k + 1, n => BitVec.ofNat 8 n :: leBytes k (n / 256)

/-- The `k` low bytes of a number, most significant first (R12). -/
def beBytes (k n : Nat) : List Byte := (leBytes k n).reverse

/-- Bytes `lo … lo + len - 1` of a list, with 0 past its end. -/
def sliceB (l : List Byte) (lo len : Nat) : List Byte :=
  let t := (l.drop lo).take len
  t ++ List.replicate (len - t.length) 0

/-- A little-endian field of a byte list (descriptors, records, headers). -/
def leAt (l : List Byte) (lo len : Nat) : Nat := leNat (sliceB l lo len)

/-- A big-endian field of a byte list (frames). -/
def beAt (l : List Byte) (lo len : Nat) : Nat := beNat (sliceB l lo len)

/-- One step of a reflected CRC: eight bits of one byte. -/
def crcByte (poly : Nat) : Nat → Nat → Nat
  | 0, c => c
  | k + 1, c => crcByte poly k (if c % 2 = 1 then (c / 2) ^^^ poly else c / 2)

/-- A reflected 32-bit CRC over bytes, initial value and final xor all ones. -/
def crcReflected (poly : Nat) (l : List Byte) : Nat :=
  (l.foldl (fun c b => crcByte poly 8 (c ^^^ b.toNat)) 0xFFFFFFFF) ^^^ 0xFFFFFFFF

/-- The CRC-32 of IEEE 802.3 (R103). -/
def crc32 (l : List Byte) : Nat := crcReflected 0xEDB88320 l

/-- Number of set bits among the low `k` bits. -/
def popcount : Nat → Nat → Nat
  | 0, _ => 0
  | k + 1, n => n % 2 + popcount k (n / 2)

/-- The set bits among the low `k` bits, in rising order. -/
def bitsOf (k n : Nat) : List Nat := (List.range k).filter n.testBit

/-- A saturating increment: the counter stops at its maximum. -/
def satAdd (max a d : Nat) : Nat := if a + d ≤ max then a + d else max

end Sys2Proof.Machine
end

