-- ==== Sys2Proof/Machine/Regs.lean ====
section
/-!
DEFINITION. The register tables of the spec, one row per register: where it lies, which bits are RW, W1C,
W1S and readable, and the value the spec's Reset column gives (R13, R15, R17). CSRs are numbered by
CSR number (R85, R151, R186, R224, R247, R285, R403, R414), device registers by BAR0 byte offset as the
PF sees them (R40). A register with several copies gives its dimensions, outermost first.
-/

namespace Sys2Proof.Machine

/-- One register of the spec's tables. `rd` holds the readable bits; a bit that is in none of the masks is RSVD or WO. -/
structure RegDesc where
  name : String
  off : Nat
  /-- (count, stride) of each dimension, outermost first. -/
  dims : List (Nat × Nat)
  rw : Nat
  rd : Nat
  w1c : Nat
  w1s : Nat
  reset : Nat
  deriving DecidableEq, Repr

/-- Whether offset `d` from the first copy is a copy. -/
def dimsHit : List (Nat × Nat) → Nat → Bool
  | [], d => d == 0
  | (c, s) :: t, d => decide (d / s < c) && dimsHit t (d % s)

/-- The register at a number, if the table holds one there. -/
def findReg (l : List RegDesc) (n : Nat) : Option RegDesc :=
  l.find? fun r => decide (r.off ≤ n) && dimsHit r.dims (n - r.off)

/-- The core-local CSRs. Part 1. -/
def csrRegs0 : List RegDesc := [
  -- R85
  ⟨"CC_COREADDR", 0x0, [], 0x0, 0xFFFFFFFF, 0x0, 0x0, 0x0⟩,
  -- R87
  ⟨"CC_STATUS", 0x1, [], 0x10, 0xF7F, 0x40, 0x0, 0x0⟩,
  -- R88
  ⟨"CC_CTL", 0x2, [], 0x9, 0x19, 0x0, 0x10, 0x0⟩,
  -- R85
  ⟨"CC_PC", 0x3, [], 0x7FFC, 0x7FFC, 0x0, 0x0, 0x0⟩,
  -- R89
  ⟨"CC_FCSR", 0x4, [], 0x73F, 0x73F, 0x0, 0x0, 0x0⟩,
  -- R85
  ⟨"CC_LOAD_LO", 0x5, [], 0xFFFFFFFF, 0xFFFFFFFF, 0x0, 0x0, 0x0⟩,
  -- R85
  ⟨"CC_LOAD_HI", 0x6, [], 0xFFFF, 0xFFFF, 0x0, 0x0, 0x0⟩,
  -- R98
  ⟨"CC_TVEC", 0x10, [], 0x7F81, 0x7F81, 0x0, 0x0, 0x0⟩,
  -- R98
  ⟨"CC_TCAUSE", 0x11, [], 0x0, 0x8000001F, 0x0, 0x0, 0x0⟩,
  -- R85
  ⟨"CC_TPC", 0x12, [], 0x7FFC, 0x7FFC, 0x0, 0x0, 0x0⟩,
  -- R85
  ⟨"CC_TVAL", 0x13, [], 0x0, 0xFFFFFFFF, 0x0, 0x0, 0x0⟩,
  -- R85
  ⟨"CC_TSTATUS", 0x14, [], 0x10, 0x10, 0x0, 0x0, 0x0⟩,
  -- R85
  ⟨"CC_TSCRATCH", 0x15, [], 0xFFFFFFFF, 0xFFFFFFFF, 0x0, 0x0, 0x0⟩,
  -- R85
  ⟨"CC_TENABLE", 0x16, [], 0xFF, 0xFF, 0x0, 0x0, 0x0⟩,
  -- R91
  ⟨"CC_TPEND", 0x17, [], 0x0, 0xFF, 0x9E, 0x0, 0x0⟩,
  -- R85
  ⟨"CC_MSGMASK", 0x18, [], 0xFF, 0xFF, 0x0, 0x0, 0x0⟩,
  -- R85
  ⟨"CC_CYCLE_LO", 0x20, [], 0x0, 0xFFFFFFFF, 0x0, 0x0, 0x0⟩,
  -- R85
  ⟨"CC_CYCLE_HI", 0x21, [], 0x0, 0xFFFFFFFF, 0x0, 0x0, 0x0⟩,
  -- R85
  ⟨"CC_TIME_LO", 0x22, [], 0x0, 0xFFFFFFFF, 0x0, 0x0, 0x0⟩,
  -- R85
  ⟨"CC_TIME_HI", 0x23, [], 0x0, 0xFFFFFFFF, 0x0, 0x0, 0x0⟩,
  -- R85
  ⟨"CC_INSTRET_LO", 0x24, [], 0x0, 0xFFFFFFFF, 0x0, 0x0, 0x0⟩,
  -- R85
  ⟨"CC_INSTRET_HI", 0x25, [], 0x0, 0xFFFFFFFF, 0x0, 0x0, 0x0⟩,
  -- R100
  ⟨"CC_TMR_CTL", 0x28, [(2, 0x4)], 0x7, 0xF, 0x8, 0x0, 0x0⟩,
  -- R99
  ⟨"CC_TMR_CNT", 0x29, [(2, 0x4)], 0xFFFFFFFF, 0xFFFFFFFF, 0x0, 0x0, 0x0⟩,
  -- R99
  ⟨"CC_TMR_RLD", 0x2A, [(2, 0x4)], 0xFFFFFFFF, 0xFFFFFFFF, 0x0, 0x0, 0x0⟩,
  -- R102
  ⟨"CC_WDOG_CTL", 0x30, [], 0xFFFFFF, 0xE0FFFFFF, 0x40000000, 0x80000000, 0x17D79⟩,
  -- R85
  ⟨"CC_WDOG_CNT", 0x31, [], 0x0, 0xFFFFFF, 0x0, 0x0, 0x17D79⟩,
  -- R85
  ⟨"CC_WDOG_KICK", 0x32, [], 0x0, 0x0, 0x0, 0x0, 0x0⟩,
  -- R85
  ⟨"CC_BAR_CMASK", 0x40, [], 0xFFFF, 0xFFFF, 0x0, 0x0, 0xFFFF⟩,
  -- R85
  ⟨"CC_BAR_DIE", 0x41, [], 0x1, 0x1, 0x0, 0x0, 0x1⟩,
  -- R85
  ⟨"CC_DONE", 0x48, [(5, 0x1)], 0x0, 0xFFFF, 0x0, 0x0, 0x0⟩,
  -- R85
  ⟨"CC_SENT", 0x4E, [], 0x0, 0xFFFF, 0x0, 0x0, 0x0⟩,
  -- R86
  ⟨"CC_SPAD_CE", 0x50, [], 0x0, 0xFFFFFFFF, 0x0, 0x0, 0x0⟩,
  -- R86
  ⟨"CC_SPAD_CE_HI", 0x51, [], 0x0, 0x8000FFFF, 0x80000000, 0x0, 0x0⟩,
  -- R86
  ⟨"CC_IMEM_CE", 0x52, [], 0x0, 0xFFFFFFFF, 0x0, 0x0, 0x0⟩,
  -- R86
  ⟨"CC_IMEM_CE_HI", 0x53, [], 0x0, 0x8000FFFF, 0x80000000, 0x0, 0x0⟩,
  -- R85
  ⟨"CC_ECC_ADDR", 0x54, [], 0x0, 0xFFFFFFFF, 0x0, 0x0, 0x0⟩,
  -- R189
  ⟨"CC_NANREC0", 0x60, [], 0x0, 0xFFFF00FF, 0x8, 0x0, 0x0⟩,
  -- R189
  ⟨"CC_NANREC1", 0x61, [], 0x0, 0x7FFFFFFF, 0x0, 0x0, 0x0⟩,
  -- R189
  ⟨"CC_NANREC2", 0x62, [], 0x0, 0xFFFFFFFF, 0x0, 0x0, 0x0⟩]

/-- The core-local CSRs. Part 2. -/
def csrRegs1 : List RegDesc := [
  -- R189
  ⟨"CC_NANREC3", 0x63, [], 0x0, 0xFFFFFFFF, 0x0, 0x0, 0x0⟩,
  -- R151
  ⟨"SP_SEM", 0x100, [(64, 0x1)], 0xFF, 0xFF, 0x0, 0x0, 0x0⟩,
  -- R151
  ⟨"SP_SEM_SIGNAL", 0x140, [], 0x0, 0x0, 0x0, 0x0, 0x0⟩,
  -- R151
  ⟨"SP_ARB", 0x141, [], 0xFF, 0xFF, 0x0, 0x0, 0x20⟩,
  -- R151
  ⟨"SP_UE_ADDR", 0x142, [], 0x0, 0xFFFFFFFF, 0x0, 0x0, 0x0⟩,
  -- R151
  ⟨"SP_UE_CNT", 0x143, [], 0x0, 0xFFFFFFFF, 0x0, 0x0, 0x0⟩,
  -- R151
  ⟨"SP_UE_CNT_HI", 0x144, [], 0x0, 0x8000FFFF, 0x80000000, 0x0, 0x0⟩,
  -- R151
  ⟨"SP_SEMOVF", 0x145, [(2, 0x1)], 0x0, 0xFFFFFFFF, 0xFFFFFFFF, 0x0, 0x0⟩,
  -- R151
  ⟨"SP_WAIT0", 0x147, [], 0x0, 0xFFFFFFFF, 0x0, 0x0, 0x0⟩,
  -- R151
  ⟨"SP_WAIT1", 0x148, [], 0x0, 0xFF, 0x0, 0x0, 0x0⟩,
  -- R152
  ⟨"MU_CTL", 0x200, [], 0xFFFF03FF, 0xFFFF03FF, 0x0, 0x0, 0x406203FF⟩,
  -- R153
  ⟨"MU_STAT", 0x201, [], 0x0, 0x3FF, 0x3FF, 0x0, 0x0⟩,
  -- R151
  ⟨"MU_SRCSEL", 0x202, [], 0x1F, 0x1F, 0x0, 0x0, 0x0⟩,
  -- R151
  ⟨"MU_DGREF_TICKET", 0x203, [], 0x0, 0xFFFF, 0x0, 0x0, 0x0⟩,
  -- R151
  ⟨"MU_DG_REFUSED", 0x204, [], 0x0, 0xFFFFFFFF, 0x0, 0x0, 0x0⟩,
  -- R151
  ⟨"MU_DG_REFUSED_HI", 0x205, [], 0x0, 0x8000FFFF, 0x80000000, 0x0, 0x0⟩,
  -- R151
  ⟨"MU_RX_REFUSED", 0x206, [], 0x0, 0xFFFFFFFF, 0x0, 0x0, 0x0⟩,
  -- R151
  ⟨"MU_RX_REFUSED_HI", 0x207, [], 0x0, 0x8000FFFF, 0x80000000, 0x0, 0x0⟩,
  -- R154
  ⟨"MU_RQ_CFG", 0x210, [(8, 0x8)], 0x7F3F03, 0x7F3F03, 0x0, 0x0, 0x0⟩,
  -- R151
  ⟨"MU_RQ_BASE", 0x211, [(8, 0x8)], 0xFFFFFFFF, 0xFFFFFFFF, 0x0, 0x0, 0x0⟩,
  -- R151
  ⟨"MU_RQ_SIZE", 0x212, [(8, 0x8)], 0xFFFFFFFF, 0xFFFFFFFF, 0x0, 0x0, 0x0⟩,
  -- R151
  ⟨"MU_RQ_CH", 0x213, [(8, 0x8)], 0xFFF0FFF, 0xFFF0FFF, 0x0, 0x0, 0x0⟩,
  -- R151
  ⟨"MU_RQ_SRC", 0x214, [(8, 0x8)], 0xFFFFFFFF, 0xFFFFFFFF, 0x0, 0x0, 0x0⟩,
  -- R151
  ⟨"MU_RQ_HEAD", 0x215, [(8, 0x8)], 0x0, 0xFFFFFFFF, 0x0, 0x0, 0x0⟩,
  -- R151
  ⟨"MU_RQ_TAIL", 0x216, [(8, 0x8)], 0x0, 0x0, 0x0, 0x0, 0x0⟩,
  -- R151
  ⟨"MU_RQ_STATE", 0x217, [(8, 0x8)], 0x0, 0xFFFF00FF, 0x0, 0x0, 0x0⟩,
  -- R151
  ⟨"MU_TXCR_DEST", 0x260, [(16, 0x4)], 0x0, 0xFFFFFFFF, 0x0, 0x0, 0x0⟩,
  -- R151
  ⟨"MU_TXCR_CH", 0x261, [(16, 0x4)], 0x0, 0xFFFF9FFF, 0x0, 0x0, 0x0⟩,
  -- R151
  ⟨"MU_TXCR_CRED", 0x262, [(16, 0x4)], 0x0, 0xFFFFFFFF, 0x0, 0x0, 0x0⟩,
  -- R151
  ⟨"MU_TXCR_REC", 0x263, [(16, 0x4)], 0x0, 0x3F, 0x0, 0x0, 0x0⟩,
  -- R414
  ⟨"MU_STAGE", 0x2A0, [], 0xFFFF, 0xFFFF, 0x0, 0x0, 0x0⟩,
  -- R414
  ⟨"MU_WM_ADDR", 0x2A1, [], 0xFFFFFFFF, 0xFFFFFFFF, 0x0, 0x0, 0x0⟩,
  -- R416
  ⟨"MU_WM_EV", 0x2A2, [], 0x80000FFF, 0xC0000FFF, 0x40000000, 0x0, 0x0⟩,
  -- R415
  ⟨"MU_RQ_WM", 0x2A8, [(8, 0x1)], 0xBFFF3FFF, 0xFFFF3FFF, 0x0, 0x0, 0x40000000⟩,
  -- R414
  ⟨"MU_TXSTALL", 0x2B0, [], 0x0, 0xFFFFFFFF, 0x0, 0x0, 0x0⟩,
  -- R414
  ⟨"MU_TXSTALL_HI", 0x2B1, [], 0x0, 0x8000FFFF, 0x80000000, 0x0, 0x0⟩,
  -- R414
  ⟨"MU_RXWAIT", 0x2B2, [], 0x0, 0xFFFFFFFF, 0x0, 0x0, 0x0⟩,
  -- R414
  ⟨"MU_RXWAIT_HI", 0x2B3, [], 0x0, 0x8000FFFF, 0x80000000, 0x0, 0x0⟩,
  -- R403
  ⟨"MU_RD_CTX", 0x2C0, [], 0x1F1FFF, 0x1F1FFF, 0x0, 0x0, 0x0⟩,
  -- R403
  ⟨"MU_RD_OPEN", 0x2C1, [], 0x0, 0x0, 0x0, 0x0, 0x0⟩]

/-- The core-local CSRs. Part 3. -/
def csrRegs2 : List RegDesc := [
  -- R403
  ⟨"MU_RD_CLOSE", 0x2C2, [], 0x0, 0x0, 0x0, 0x0, 0x0⟩,
  -- R404
  ⟨"MU_RD_STAT", 0x2C3, [], 0x0, 0xFFFFFF, 0x10000, 0x0, 0x0⟩,
  -- R403
  ⟨"MU_RD_BLK", 0x2C4, [], 0x0, 0xFFFFFFFF, 0x0, 0x0, 0x0⟩,
  -- R403
  ⟨"MU_RD_BLK_HI", 0x2C5, [], 0x0, 0x8000FFFF, 0x80000000, 0x0, 0x0⟩,
  -- R151
  ⟨"RV_CTL", 0x300, [], 0x7F, 0x7F, 0x0, 0x0, 0x40⟩,
  -- R151
  ⟨"RV_STAT", 0x301, [], 0x0, 0xFF, 0x0, 0x0, 0x0⟩,
  -- R151
  ⟨"RV_REQ", 0x302, [], 0x0, 0xFFFFFFFF, 0x0, 0x0, 0x0⟩,
  -- R151
  ⟨"RV_REQ_HI", 0x303, [], 0x0, 0x8000FFFF, 0x80000000, 0x0, 0x0⟩,
  -- R225
  ⟨"FE_CTL", 0x400, [], 0x0, 0x0, 0x0, 0x0, 0x0⟩,
  -- R225
  ⟨"GE_CTL", 0x500, [], 0x1, 0x1, 0x0, 0x0, 0x0⟩,
  -- R226
  ⟨"FE_STAT", 0x401, [(2, 0x100)], 0x0, 0xFFF, 0x0, 0x0, 0x0⟩,
  -- R224
  ⟨"FE_BUSY", 0x402, [(2, 0x100)], 0x0, 0xFFFFFFFF, 0x0, 0x0, 0x0⟩,
  -- R224
  ⟨"FE_BUSY_HI", 0x403, [(2, 0x100)], 0x0, 0x8000FFFF, 0x80000000, 0x0, 0x0⟩,
  -- R224
  ⟨"FE_MAC", 0x404, [(2, 0x100)], 0x0, 0xFFFFFFFF, 0x0, 0x0, 0x0⟩,
  -- R224
  ⟨"FE_MAC_HI", 0x405, [(2, 0x100)], 0x0, 0x8000FFFF, 0x80000000, 0x0, 0x0⟩,
  -- R224
  ⟨"FE_DESC", 0x406, [(2, 0x100)], 0x0, 0xFFFFFFFF, 0x0, 0x0, 0x0⟩,
  -- R224
  ⟨"FE_DESC_HI", 0x407, [(2, 0x100)], 0x0, 0x8000FFFF, 0x80000000, 0x0, 0x0⟩,
  -- R224
  ⟨"FE_STALL", 0x408, [(2, 0x100)], 0x0, 0xFFFFFFFF, 0x0, 0x0, 0x0⟩,
  -- R224
  ⟨"FE_STALL_HI", 0x409, [(2, 0x100)], 0x0, 0x8000FFFF, 0x80000000, 0x0, 0x0⟩,
  -- R224
  ⟨"FE_LASTFAULT", 0x40A, [(2, 0x100)], 0x0, 0xFFFF00FF, 0x0, 0x0, 0x0⟩,
  -- R286
  ⟨"VE_STAT", 0x600, [], 0x0, 0x7FF, 0x400, 0x0, 0x0⟩,
  -- R285
  ⟨"VE_FLAGS", 0x601, [], 0x0, 0x3F, 0x3F, 0x0, 0x0⟩,
  -- R285
  ⟨"VE_BUSY", 0x602, [], 0x0, 0xFFFFFFFF, 0x0, 0x0, 0x0⟩,
  -- R285
  ⟨"VE_BUSY_HI", 0x603, [], 0x0, 0x8000FFFF, 0x80000000, 0x0, 0x0⟩,
  -- R285
  ⟨"VE_ELEM", 0x604, [], 0x0, 0xFFFFFFFF, 0x0, 0x0, 0x0⟩,
  -- R285
  ⟨"VE_ELEM_HI", 0x605, [], 0x0, 0x8000FFFF, 0x80000000, 0x0, 0x0⟩,
  -- R285
  ⟨"VE_DESC", 0x606, [], 0x0, 0xFFFFFFFF, 0x0, 0x0, 0x0⟩,
  -- R285
  ⟨"VE_DESC_HI", 0x607, [], 0x0, 0x8000FFFF, 0x80000000, 0x0, 0x0⟩,
  -- R285
  ⟨"VE_STALL", 0x608, [], 0x0, 0xFFFFFFFF, 0x0, 0x0, 0x0⟩,
  -- R285
  ⟨"VE_STALL_HI", 0x609, [], 0x0, 0x8000FFFF, 0x80000000, 0x0, 0x0⟩,
  -- R285
  ⟨"VE_LASTFAULT", 0x60A, [], 0x0, 0xFFFF00FF, 0x0, 0x0, 0x0⟩,
  -- R285
  ⟨"VE_EP", 0x610, [(8, 0x1)], 0x1FDFF, 0x8001FDFF, 0x0, 0x0, 0x0⟩,
  -- R285
  ⟨"VE_EP_SEL", 0x618, [], 0x7FF, 0x7FF, 0x0, 0x0, 0x0⟩,
  -- R285
  ⟨"VE_EP_DATA", 0x619, [], 0xFFFFFFFF, 0xFFFFFFFF, 0x0, 0x0, 0x0⟩,
  -- R285
  ⟨"VE_SWAP", 0x620, [], 0x0, 0x0, 0x0, 0x0, 0x0⟩,
  -- R285
  ⟨"VE_BANKST", 0x621, [], 0x0, 0x103FF, 0x10000, 0x0, 0x0⟩,
  -- R285
  ⟨"VE_VR_SEL", 0x628, [], 0x7FF, 0x7FF, 0x0, 0x0, 0x0⟩,
  -- R285
  ⟨"VE_VR_DATA", 0x629, [], 0xFFFFFFFF, 0xFFFFFFFF, 0x0, 0x0, 0x0⟩,
  -- R285
  ⟨"FT_SEL", 0x700, [], 0x7FF, 0x7FF, 0x0, 0x0, 0x0⟩,
  -- R285
  ⟨"FT_DATA_LO", 0x701, [], 0xFFFFFFFF, 0xFFFFFFFF, 0x0, 0x0, 0x0⟩]

/-- The core-local CSRs. Part 4. -/
def csrRegs3 : List RegDesc := [
  -- R285
  ⟨"FT_DATA_HI", 0x702, [], 0xFFFFFFFF, 0xFFFFFFFF, 0x0, 0x0, 0x0⟩,
  -- R287
  ⟨"FT_CFG", 0x708, [(8, 0x1)], 0x3FFFF, 0x8003FFFF, 0x0, 0x0, 0x0⟩,
  -- R285
  ⟨"FT_X0", 0x710, [(8, 0x1)], 0xFFFFFFFF, 0xFFFFFFFF, 0x0, 0x0, 0x0⟩,
  -- R285
  ⟨"FT_LO", 0x718, [(8, 0x1)], 0xFFFFFFFF, 0xFFFFFFFF, 0x0, 0x0, 0x0⟩,
  -- R285
  ⟨"FT_HI", 0x720, [(8, 0x1)], 0xFFFFFFFF, 0xFFFFFFFF, 0x0, 0x0, 0x0⟩,
  -- R188
  ⟨"QZ_NAN_CTL", 0x800, [], 0x11F, 0x11F, 0x0, 0x0, 0x1F⟩,
  -- R186
  ⟨"QZ_CFLAGS", 0x801, [], 0x0, 0x3F, 0x3F, 0x0, 0x0⟩,
  -- R186
  ⟨"QZ_MBATCH", 0x802, [], 0xFFFF, 0xFFFF, 0x0, 0x0, 0x0⟩,
  -- R186
  ⟨"QZ_FMT", 0x810, [(32, 0x1)], 0x0, 0xFFFFFFFF, 0x0, 0x0, 0x0⟩,
  -- R187
  ⟨"QZ_FMTSH", 0x830, [(4, 0x1)], 0x1FFFFFFF, 0xFFFFFFFF, 0x0, 0x0, 0x0⟩,
  -- R186
  ⟨"QZ_CB_SEL", 0x840, [], 0xF, 0xF, 0x0, 0x0, 0x0⟩,
  -- R186
  ⟨"QZ_CB_VALID", 0x841, [], 0x0, 0xFFFF, 0x0, 0x0, 0xFFFF⟩,
  -- R186
  ⟨"QZ_CB_DATA", 0x848, [(8, 0x1)], 0xFFFFFFFF, 0xFFFFFFFF, 0x0, 0x0, 0x0⟩,
  -- R247
  ⟨"QZ_SE_SEL", 0x850, [], 0x7F, 0x7F, 0x0, 0x0, 0x0⟩,
  -- R248
  ⟨"QZ_SE_CFG", 0x851, [], 0xFFFFFF, 0x80FFFFFF, 0x0, 0x0, 0x0⟩,
  -- R247
  ⟨"QZ_SE_AREA", 0x852, [], 0xFF0FFF, 0xFF0FFF, 0x0, 0x0, 0x0⟩,
  -- R247
  ⟨"QZ_SE_BYTES", 0x853, [], 0xFFFFFF, 0xFFFFFF, 0x0, 0x0, 0x0⟩,
  -- R247
  ⟨"QZ_SE_SATF", 0x854, [], 0xFFFF, 0xFFFF, 0x0, 0x0, 0x0⟩,
  -- R247
  ⟨"QZ_SE_TAG", 0x855, [], 0xFF, 0xFF, 0x0, 0x0, 0x0⟩,
  -- R249
  ⟨"QZ_SE_STATE", 0x856, [], 0x0, 0x3, 0x2, 0x0, 0x0⟩,
  -- R247
  ⟨"QZ_SE_READY", 0x857, [], 0x0, 0xFFFFFFFF, 0x0, 0x0, 0x0⟩,
  -- R247
  ⟨"QZ_SE_SSE", 0x858, [(2, 0x1)], 0x0, 0xFFFFFFFF, 0x0, 0x0, 0x0⟩,
  -- R247
  ⟨"QZ_SE_CNT", 0x85A, [], 0x0, 0xFFFFFFFF, 0x0, 0x0, 0x0⟩,
  -- R247
  ⟨"QZ_SE_CNT_HI", 0x85B, [], 0x0, 0x8000FFFF, 0x80000000, 0x0, 0x0⟩,
  -- R247
  ⟨"QZ_SE_SATC", 0x85C, [], 0x0, 0xFFFFFFFF, 0x0, 0x0, 0x0⟩,
  -- R247
  ⟨"QZ_SE_SATC_HI", 0x85D, [], 0x0, 0x8000FFFF, 0x80000000, 0x0, 0x0⟩,
  -- R247
  ⟨"QZ_SE_LSSE", 0x85E, [(2, 0x1)], 0x0, 0xFFFFFFFF, 0x0, 0x0, 0x0⟩,
  -- R247
  ⟨"QZ_SE_LCNT", 0x860, [], 0x0, 0xFFFFFFFF, 0x0, 0x0, 0x0⟩,
  -- R247
  ⟨"QZ_SE_LCNT_HI", 0x861, [], 0x0, 0x8000FFFF, 0x80000000, 0x0, 0x0⟩,
  -- R247
  ⟨"QZ_SE_LSAT", 0x862, [], 0x0, 0xFFFFFFFF, 0x0, 0x0, 0x0⟩,
  -- R247
  ⟨"QZ_SE_LSAT_HI", 0x863, [], 0x0, 0x8000FFFF, 0x80000000, 0x0, 0x0⟩,
  -- R247
  ⟨"QZ_SE_DEGEN", 0x864, [], 0x0, 0xFFFFFFFF, 0x0, 0x0, 0x0⟩,
  -- R247
  ⟨"QZ_SE_DEGEN_HI", 0x865, [], 0x0, 0x8000FFFF, 0x80000000, 0x0, 0x0⟩,
  -- R247
  ⟨"QZ_SE_NONFIN", 0x866, [], 0x0, 0xFFFFFFFF, 0x0, 0x0, 0x0⟩,
  -- R247
  ⟨"QZ_SE_NONFIN_HI", 0x867, [], 0x0, 0x8000FFFF, 0x80000000, 0x0, 0x0⟩,
  -- R247
  ⟨"QZ_SE_CLAMP", 0x868, [], 0x0, 0xFFFFFFFF, 0x0, 0x0, 0x0⟩,
  -- R247
  ⟨"QZ_SE_CLAMP_HI", 0x869, [], 0x0, 0x8000FFFF, 0x80000000, 0x0, 0x0⟩,
  -- R247
  ⟨"QZ_HRSH", 0x870, [(16, 0x1)], 0xFFFF, 0xFFFF, 0x0, 0x0, 0x0⟩,
  -- R247
  ⟨"QZ_HR", 0x880, [(16, 0x1)], 0x0, 0xFFFF, 0x0, 0x0, 0x0⟩,
  -- R250
  ⟨"QZ_RT_SEL", 0x890, [], 0x1FFF, 0x1FFF, 0x0, 0x0, 0x0⟩]

/-- The core-local CSRs. Part 5. -/
def csrRegs4 : List RegDesc := [
  -- R247
  ⟨"QZ_RT_DATA", 0x891, [], 0xFFFFFFFF, 0xFFFFFFFF, 0x0, 0x0, 0x0⟩,
  -- R247
  ⟨"QZ_HIST_SEL", 0x898, [], 0x1FFF, 0x1FFF, 0x0, 0x0, 0x0⟩,
  -- R247
  ⟨"QZ_HIST_DATA", 0x899, [], 0xFFFFFFFF, 0xFFFFFFFF, 0x0, 0x0, 0x0⟩,
  -- R251
  ⟨"QZ_LS_CTL", 0x8A0, [], 0x1FFFF, 0x1FFFF, 0x0, 0x0, 0x0⟩,
  -- R247
  ⟨"QZ_LS_MUL", 0x8A1, [], 0xFFFFFFFF, 0xFFFFFFFF, 0x0, 0x0, 0x3F800000⟩,
  -- R247
  ⟨"QZ_LS_BAD", 0x8A2, [], 0x0, 0x3FF, 0x0, 0x0, 0x0⟩,
  -- R247
  ⟨"QZ_ROLL_STEP", 0x8A8, [], 0xFFFFFFFF, 0xFFFFFFFF, 0x0, 0x0, 0x0⟩,
  -- R247
  ⟨"QZ_ROLL", 0x8A9, [], 0x0, 0x0, 0x0, 0x0, 0x0⟩,
  -- R247
  ⟨"QZ_EV_ADDR", 0x8B0, [], 0xFFFFFFFF, 0xFFFFFFFF, 0x0, 0x0, 0x0⟩,
  -- R247
  ⟨"QZ_EV", 0x8B1, [], 0x80000FFF, 0x80000FFF, 0x0, 0x0, 0x0⟩,
  -- R252
  ⟨"QZ_QSTAT", 0x8B2, [], 0x0, 0x707, 0x7, 0x0, 0x0⟩]

/-- The core-local CSRs. -/
def csrRegs : List RegDesc := csrRegs0 ++ csrRegs1 ++ csrRegs2 ++ csrRegs3 ++ csrRegs4

/-- SHP_ window. -/
def shpRegs : List RegDesc := [
  -- R45
  ⟨"SHP_DEVICE_INFO", 0x0, [], 0x0, 0xFFFF, 0x0, 0x0, 0x0⟩,
  -- R46
  ⟨"SHP_SITE_MAP", 0x4, [], 0x0, 0xFFFF, 0x0, 0x0, 0x0⟩,
  -- R47
  ⟨"SHP_REPAIR", 0x8, [], 0x0, 0x3F3F3F3F, 0x0, 0x0, 0x0⟩,
  -- R48
  ⟨"SHP_LINK_STAT", 0x100, [(12, 0x20)], 0x0, 0x1003F, 0x10000, 0x0, 0x0⟩,
  -- R48
  ⟨"SHP_LINK_CTL", 0x104, [(12, 0x20)], 0xFF, 0xFF, 0x0, 0x0, 0x10⟩,
  -- R48
  ⟨"SHP_LINK_CRCERR", 0x108, [(12, 0x20)], 0x0, 0xFFFFFFFF, 0x0, 0x0, 0x0⟩,
  -- R48
  ⟨"SHP_LINK_CRCERR_HI", 0x10C, [(12, 0x20)], 0x0, 0x8000FFFF, 0x80000000, 0x0, 0x0⟩,
  -- R48
  ⟨"SHP_LINK_REPLAY", 0x110, [(12, 0x20)], 0x0, 0xFFFFFFFF, 0x0, 0x0, 0x0⟩,
  -- R48
  ⟨"SHP_LINK_REPLAY_HI", 0x114, [(12, 0x20)], 0x0, 0x8000FFFF, 0x80000000, 0x0, 0x0⟩,
  -- R674
  ⟨"SHP_TIME_LO", 0x1000, [], 0x0, 0xFFFFFFFF, 0x0, 0x0, 0x0⟩,
  -- R674
  ⟨"SHP_TIME_HI", 0x1004, [], 0x0, 0xFFFFFFFF, 0x0, 0x0, 0x0⟩,
  -- R674
  ⟨"SHP_CLK", 0x1008, [], 0xFFFF0000, 0xFFFF0003, 0x0, 0x0, 0x3E80000⟩,
  -- R674
  ⟨"SHP_SAT0", 0x1010, [], 0x0, 0x8FFF0003, 0x80000000, 0x0, 0x0⟩,
  -- R674
  ⟨"SHP_SAT1", 0x1014, [], 0x0, 0xFFFFFFFF, 0x0, 0x0, 0x0⟩,
  -- R707
  ⟨"SHP_BOOT", 0x2000, [], 0x0, 0xFF3F, 0x0, 0x0, 0x0⟩,
  -- R707
  ⟨"SHP_FAIL", 0x2004, [], 0x0, 0xFFFF01, 0x0, 0x0, 0x0⟩,
  -- R707
  ⟨"SHP_RST", 0x2008, [], 0x0, 0x0, 0x0, 0x0, 0x0⟩,
  -- R707
  ⟨"SHP_ELOG_SEQ", 0x200C, [], 0x0, 0xFFFFFFFF, 0x0, 0x0, 0x0⟩,
  -- R707
  ⟨"SHP_ELOG", 0x4000, [(512, 0x20), (8, 0x4)], 0x0, 0xFFFFFFFF, 0x0, 0x0, 0x0⟩,
  -- R638
  ⟨"SHP_MBX_CTL", 0x8000, [], 0x27FF, 0x27FF, 0x0, 0x0, 0x0⟩,
  -- R639
  ⟨"SHP_MBX_STAT", 0x8004, [], 0x0, 0x7FF000F, 0xE, 0x0, 0x0⟩,
  -- R637
  ⟨"SHP_MBX_REQ", 0x8800, [(260, 0x4)], 0xFFFFFFFF, 0xFFFFFFFF, 0x0, 0x0, 0x0⟩,
  -- R637
  ⟨"SHP_MBX_RSP", 0x9000, [(260, 0x4)], 0x0, 0xFFFFFFFF, 0x0, 0x0, 0x0⟩]

/-- EVC_ window. -/
def evcRegs : List RegDesc := [
  -- R679
  ⟨"EVC_PRIO", 0x10000, [(128, 0x4)], 0xFFFFFFFF, 0xFFFFFFFF, 0x0, 0x0, 0x0⟩,
  -- R679
  ⟨"EVC_PEND", 0x10400, [(16, 0x4)], 0x0, 0xFFFFFFFF, 0x0, 0x0, 0x0⟩,
  -- R679
  ⟨"EVC_EN", 0x10440, [(16, 0x4)], 0xFFFFFFFF, 0xFFFFFFFF, 0x0, 0x0, 0x0⟩,
  -- R679
  ⟨"EVC_ACTIVE", 0x10480, [(16, 0x4)], 0x0, 0xFFFFFFFF, 0x0, 0x0, 0x0⟩,
  -- R679
  ⟨"EVC_LINE", 0x104C0, [(16, 0x4)], 0x0, 0xFFFFFFFF, 0x0, 0x0, 0x0⟩,
  -- R679
  ⟨"EVC_EDGE", 0x10500, [(2, 0x4)], 0x0, 0xFFFFFFFF, 0x0, 0x0, 0x0⟩,
  -- R679
  ⟨"EVC_EDGE2", 0x10508, [], 0x0, 0xFFFFFFFF, 0x0, 0x0, 0x1⟩,
  -- R679
  ⟨"EVC_EDGE3", 0x1050C, [(13, 0x4)], 0x0, 0xFFFFFFFF, 0x0, 0x0, 0x0⟩,
  -- R679
  ⟨"EVC_PRISPLIT", 0x10600, [], 0x7, 0x7, 0x0, 0x0, 0x4⟩,
  -- R679
  ⟨"EVC_CLAIM", 0x10604, [], 0x0, 0x3FF, 0x0, 0x0, 0x3FF⟩,
  -- R679
  ⟨"EVC_COMPLETE", 0x10608, [], 0x0, 0x0, 0x0, 0x0, 0x0⟩,
  -- R679
  ⟨"EVC_STAT", 0x1060C, [], 0x0, 0x1FF0003, 0x2, 0x0, 0x0⟩,
  -- R680
  ⟨"EVC_PIN", 0x10700, [(8, 0x4)], 0x3FF, 0x7FF, 0x0, 0x0, 0x8⟩]

/-- PWR_ window. Part 1. -/
def pwrRegs0 : List RegDesc := [
  -- R676
  ⟨"PWR_STATE", 0x20000, [], 0x0, 0x7FF, 0x0, 0x0, 0x0⟩,
  -- R675
  ⟨"PWR_CMD", 0x20004, [], 0x0, 0x0, 0x0, 0x0, 0x0⟩,
  -- R675
  ⟨"PWR_WAKE", 0x20008, [], 0xFF, 0xFF, 0x0, 0x0, 0x0⟩,
  -- R675
  ⟨"PWR_CAP", 0x20010, [], 0x0, 0x3FF, 0x0, 0x0, 0x0⟩,
  -- R675
  ⟨"PWR_FMAX", 0x20014, [], 0x7FF, 0x7FF, 0x0, 0x0, 0x0⟩,
  -- R675
  ⟨"PWR_FREQ", 0x20018, [], 0x0, 0x31F07FF, 0x0, 0x0, 0x0⟩,
  -- R678
  ⟨"PWR_GOV", 0x2001C, [], 0x1FFFFF, 0x1FFFFF, 0x0, 0x0, 0x4140A⟩,
  -- R675
  ⟨"PWR_THR", 0x20020, [], 0xFF, 0xFF, 0x0, 0x0, 0x0⟩,
  -- R675
  ⟨"PWR_POWER", 0x20024, [], 0x0, 0xFFFF, 0x0, 0x0, 0x0⟩,
  -- R675
  ⟨"PWR_TJ", 0x20028, [], 0x0, 0xFFFF, 0x0, 0x0, 0x0⟩,
  -- R675
  ⟨"PWR_TEMP", 0x20030, [(4, 0x4)], 0x0, 0xFFFF, 0x0, 0x0, 0x0⟩,
  -- R675
  ⟨"PWR_XTEMP", 0x20040, [(4, 0x4)], 0x0, 0xFFFF, 0x0, 0x0, 0x0⟩,
  -- R675
  ⟨"PWR_EVT", 0x20050, [], 0x0, 0x7F, 0x7F, 0x0, 0x0⟩,
  -- R675
  ⟨"PWR_EVT_EN", 0x20054, [], 0x7F, 0x7F, 0x0, 0x0, 0x0⟩,
  -- R675
  ⟨"PWR_SWAP", 0x20058, [], 0x0, 0x0, 0x0, 0x0, 0x0⟩,
  -- R675
  ⟨"PWR_SEL", 0x2005C, [], 0x1, 0x1, 0x0, 0x0, 0x0⟩,
  -- R675
  ⟨"PWR_BANKST", 0x20060, [], 0x0, 0x10001, 0x10000, 0x0, 0x0⟩,
  -- R677
  ⟨"PWR_PST0", 0x20100, [], 0xFFFF0100, 0xFFFF01FF, 0x0, 0x0, 0x1000120⟩,
  -- R677
  ⟨"PWR_PST0_ACT", 0x20104, [], 0x0, 0x0, 0x0, 0x0, 0x0⟩,
  -- R677
  ⟨"PWR_PST1", 0x20108, [], 0xFFFF0100, 0xFFFF01FF, 0x0, 0x0, 0x320144⟩,
  -- R677
  ⟨"PWR_PST1_ACT", 0x2010C, [], 0x0, 0x0, 0x0, 0x0, 0x0⟩,
  -- R677
  ⟨"PWR_PST2", 0x20110, [], 0xFFFF0100, 0xFFFF01FF, 0x0, 0x0, 0x640168⟩,
  -- R677
  ⟨"PWR_PST2_ACT", 0x20114, [], 0x0, 0x0, 0x0, 0x0, 0x0⟩,
  -- R677
  ⟨"PWR_PST3", 0x20118, [], 0x0, 0x1FF, 0x0, 0x0, 0x104⟩,
  -- R677
  ⟨"PWR_PST3_ACT", 0x2011C, [], 0x0, 0x0, 0x0, 0x0, 0x0⟩,
  -- R677
  ⟨"PWR_PST4", 0x20120, [], 0x0, 0x1FF, 0x0, 0x0, 0x108⟩,
  -- R677
  ⟨"PWR_PST4_ACT", 0x20124, [], 0x0, 0x0, 0x0, 0x0, 0x0⟩,
  -- R677
  ⟨"PWR_PST5", 0x20128, [], 0x0, 0x1FF, 0x0, 0x0, 0x10C⟩,
  -- R677
  ⟨"PWR_PST5_ACT", 0x2012C, [], 0x0, 0x0, 0x0, 0x0, 0x0⟩,
  -- R677
  ⟨"PWR_PST6", 0x20130, [], 0x0, 0x1FF, 0x0, 0x0, 0x121⟩,
  -- R677
  ⟨"PWR_PST6_ACT", 0x20134, [], 0x0, 0x0, 0x0, 0x0, 0x0⟩,
  -- R677
  ⟨"PWR_PST7", 0x20138, [], 0x0, 0x1FF, 0x0, 0x0, 0x105⟩,
  -- R677
  ⟨"PWR_PST7_ACT", 0x2013C, [], 0x0, 0x0, 0x0, 0x0, 0x0⟩,
  -- R677
  ⟨"PWR_PST8", 0x20140, [], 0xFFFF0100, 0xFFFF01FF, 0x0, 0x0, 0x3E80145⟩,
  -- R677
  ⟨"PWR_PST8_ACT", 0x20144, [], 0x0, 0x0, 0x0, 0x0, 0x0⟩,
  -- R677
  ⟨"PWR_PST9", 0x20148, [], 0x0, 0x1FF, 0x0, 0x0, 0x129⟩,
  -- R677
  ⟨"PWR_PST9_ACT", 0x2014C, [], 0x0, 0x0, 0x0, 0x0, 0x0⟩,
  -- R677
  ⟨"PWR_PST10", 0x20150, [], 0xFFFF0100, 0xFFFF01FF, 0x0, 0x0, 0xA0122⟩,
  -- R677
  ⟨"PWR_PST10_ACT", 0x20154, [], 0x7, 0x7, 0x0, 0x0, 0x1⟩,
  -- R677
  ⟨"PWR_PST11", 0x20158, [], 0x0, 0x1FF, 0x0, 0x0, 0x106⟩]

/-- PWR_ window. Part 2. -/
def pwrRegs1 : List RegDesc := [
  -- R677
  ⟨"PWR_PST11_ACT", 0x2015C, [], 0x0, 0x0, 0x0, 0x0, 0x0⟩,
  -- R677
  ⟨"PWR_PST12", 0x20160, [], 0xFFFF0100, 0xFFFF01FF, 0x0, 0x0, 0x146⟩,
  -- R677
  ⟨"PWR_PST12_ACT", 0x20164, [], 0x7, 0x7, 0x0, 0x0, 0x7⟩,
  -- R677
  ⟨"PWR_PST13", 0x20168, [], 0x0, 0x1FF, 0x0, 0x0, 0x10A⟩,
  -- R677
  ⟨"PWR_PST13_ACT", 0x2016C, [], 0x0, 0x0, 0x0, 0x0, 0x0⟩,
  -- R675
  ⟨"PWR_CLMAX", 0x20200, [(40, 0x4)], 0xFFFFFFFF, 0xFFFFFFFF, 0x0, 0x0, 0xAAAAAAAA⟩,
  -- R675
  ⟨"PWR_CLMAX_BC", 0x202A0, [], 0x0, 0x0, 0x0, 0x0, 0x0⟩,
  -- R675
  ⟨"PWR_CLSTATE", 0x20300, [(40, 0x4)], 0x0, 0xFFFFFFFF, 0x0, 0x0, 0x0⟩,
  -- R675
  ⟨"PWR_DNSTEPS", 0x20400, [], 0x0, 0xFFFFFFFF, 0x0, 0x0, 0x0⟩,
  -- R675
  ⟨"PWR_DNSTEPS_HI", 0x20404, [], 0x0, 0x8000FFFF, 0x80000000, 0x0, 0x0⟩,
  -- R675
  ⟨"PWR_PWRLIM_US", 0x20408, [], 0x0, 0xFFFFFFFF, 0x0, 0x0, 0x0⟩,
  -- R675
  ⟨"PWR_PWRLIM_US_HI", 0x2040C, [], 0x0, 0x8000FFFF, 0x80000000, 0x0, 0x0⟩,
  -- R675
  ⟨"PWR_THRLIM_US", 0x20410, [], 0x0, 0xFFFFFFFF, 0x0, 0x0, 0x0⟩,
  -- R675
  ⟨"PWR_THRLIM_US_HI", 0x20414, [], 0x0, 0x8000FFFF, 0x80000000, 0x0, 0x0⟩,
  -- R675
  ⟨"PWR_DSWAKE", 0x20418, [], 0x0, 0xFFFFFFFF, 0x0, 0x0, 0x0⟩,
  -- R675
  ⟨"PWR_DSWAKE_HI", 0x2041C, [], 0x0, 0x8000FFFF, 0x80000000, 0x0, 0x0⟩]

/-- PWR_ window. -/
def pwrRegs : List RegDesc := pwrRegs0 ++ pwrRegs1

/-- HI_ window. -/
def hiRegs : List RegDesc := [
  -- R568
  ⟨"HI_SQ_DB", 0x40000, [(512, 0x8)], 0x0, 0x0, 0x0, 0x0, 0x0⟩,
  -- R568
  ⟨"HI_CQ_DB", 0x40004, [(512, 0x8)], 0x0, 0x0, 0x0, 0x0, 0x0⟩,
  -- R589
  ⟨"HI_Q_SQBASE_LO", 0x50000, [(512, 0x40)], 0xFFFFFFFF, 0xFFFFFFFF, 0x0, 0x0, 0x0⟩,
  -- R589
  ⟨"HI_Q_SQBASE_HI", 0x50004, [(512, 0x40)], 0xFFFFFFFF, 0xFFFFFFFF, 0x0, 0x0, 0x0⟩,
  -- R589
  ⟨"HI_Q_SQCFG", 0x50008, [(512, 0x40)], 0x8000000F, 0x8000000F, 0x0, 0x0, 0x0⟩,
  -- R589
  ⟨"HI_Q_CQBASE_LO", 0x5000C, [(512, 0x40)], 0xFFFFFFFF, 0xFFFFFFFF, 0x0, 0x0, 0x0⟩,
  -- R589
  ⟨"HI_Q_CQBASE_HI", 0x50010, [(512, 0x40)], 0xFFFFFFFF, 0xFFFFFFFF, 0x0, 0x0, 0x0⟩,
  -- R589
  ⟨"HI_Q_CQCFG", 0x50014, [(512, 0x40)], 0xFFFF, 0xFFFF, 0x0, 0x0, 0x0⟩,
  -- R589
  ⟨"HI_Q_CQMOD", 0x50018, [(512, 0x40)], 0xFFFFFF, 0xFFFFFF, 0x0, 0x0, 0x0⟩,
  -- R589
  ⟨"HI_Q_STAT", 0x5001C, [(512, 0x40)], 0x0, 0xFFFF7FFF, 0x0, 0x0, 0x0⟩,
  -- R589
  ⟨"HI_Q_FLAGS", 0x50020, [(512, 0x40)], 0x0, 0x3F, 0x3F, 0x0, 0x0⟩,
  -- R589
  ⟨"HI_Q_UNSIG", 0x50024, [(512, 0x40)], 0x0, 0x3FFF, 0x0, 0x0, 0x0⟩,
  -- R588
  ⟨"HI_FN_VEC", 0x70000, [], 0x7FF7FF, 0x7FF7FF, 0x0, 0x0, 0x0⟩,
  -- R588
  ⟨"HI_FN_ERRVEC", 0x70004, [], 0x7FF, 0x7FF, 0x0, 0x0, 0x0⟩,
  -- R588
  ⟨"HI_FN_EVT", 0x70008, [], 0x0, 0x3, 0x3, 0x0, 0x0⟩,
  -- R588
  ⟨"HI_FN_EVT_EN", 0x7000C, [], 0x3, 0x3, 0x0, 0x0, 0x0⟩,
  -- R588
  ⟨"HI_WIN_BASE_LO", 0x70010, [], 0xFFFFFFFF, 0xFFFFFFFF, 0x0, 0x0, 0x0⟩,
  -- R588
  ⟨"HI_WIN_BASE_HI", 0x70014, [], 0xFFFF, 0xFFFF, 0x0, 0x0, 0x0⟩,
  -- R588
  ⟨"HI_H2D_BYTES", 0x70100, [], 0x0, 0xFFFFFFFF, 0x0, 0x0, 0x0⟩,
  -- R588
  ⟨"HI_H2D_BYTES_HI", 0x70104, [], 0x0, 0x8000FFFF, 0x80000000, 0x0, 0x0⟩,
  -- R588
  ⟨"HI_D2H_BYTES", 0x70108, [], 0x0, 0xFFFFFFFF, 0x0, 0x0, 0x0⟩,
  -- R588
  ⟨"HI_D2H_BYTES_HI", 0x7010C, [], 0x0, 0x8000FFFF, 0x80000000, 0x0, 0x0⟩,
  -- R588
  ⟨"HI_MSGS", 0x70110, [], 0x0, 0xFFFFFFFF, 0x0, 0x0, 0x0⟩,
  -- R588
  ⟨"HI_MSGS_HI", 0x70114, [], 0x0, 0x8000FFFF, 0x80000000, 0x0, 0x0⟩,
  -- R590
  ⟨"HI_PART0_CLU", 0x78000, [], 0x3F1F1F1F, 0x3F1F1F1F, 0x0, 0x0, 0x20140000⟩,
  -- R590
  ⟨"HI_PART_CLU", 0x78020, [(63, 0x20)], 0x3F1F1F1F, 0x3F1F1F1F, 0x0, 0x0, 0x0⟩,
  -- R590
  ⟨"HI_PART0_MEM", 0x78004, [], 0x1FF01FF, 0x1FF01FF, 0x0, 0x0, 0x1000000⟩,
  -- R590
  ⟨"HI_PART_MEM", 0x78024, [(63, 0x20)], 0x1FF01FF, 0x1FF01FF, 0x0, 0x0, 0x0⟩,
  -- R590
  ⟨"HI_PART0_QP", 0x78008, [], 0x3FF01FF, 0x3FF01FF, 0x0, 0x0, 0x2000000⟩,
  -- R590
  ⟨"HI_PART_QP", 0x78028, [(63, 0x20)], 0x3FF01FF, 0x3FF01FF, 0x0, 0x0, 0x0⟩,
  -- R590
  ⟨"HI_PART_CFG", 0x7800C, [(64, 0x20)], 0xFF, 0x101FF, 0x10000, 0x0, 0x1⟩,
  -- R590
  ⟨"HI_ABORT_CNT", 0x78010, [(64, 0x20)], 0x0, 0xFFFF, 0x0, 0x0, 0x0⟩,
  -- R590
  ⟨"HI_ABORT_OLD", 0x78014, [(64, 0x20)], 0x0, 0x81FFFFFF, 0x80000000, 0x0, 0x0⟩,
  -- R43
  ⟨"HI_CORE_SEL", 0x7F000, [(16, 0x4)], 0x80007F7F, 0xC0007F7F, 0x40000000, 0x0, 0x0⟩]

/-- ST_ window. Part 1. -/
def stRegs0 : List RegDesc := [
  -- R328
  ⟨"ST_CTL", 0x80000, [(64, 0x400)], 0xFF07, 0xFF07, 0x0, 0x0, 0x800⟩,
  -- R329
  ⟨"ST_STAT", 0x80004, [(64, 0x400)], 0x0, 0xFFF, 0x600, 0x0, 0x0⟩,
  -- R327
  ⟨"ST_CMD", 0x80008, [(64, 0x400)], 0x0, 0x0, 0x0, 0x0, 0x0⟩,
  -- R327
  ⟨"ST_NEXT", 0x8000C, [(64, 0x400)], 0xFFFFFFFF, 0xFFFFFFFF, 0x0, 0x0, 0x1⟩,
  -- R327
  ⟨"ST_STEP", 0x80010, [(64, 0x400)], 0x0, 0xFFFFFFFF, 0x0, 0x0, 0x0⟩,
  -- R327
  ⟨"ST_OUT", 0x80014, [(64, 0x400)], 0x0, 0xFFFFFFFF, 0x0, 0x0, 0x0⟩,
  -- R327
  ⟨"ST_OUTSTAT", 0x80018, [(64, 0x400)], 0x0, 0xFF0FF1, 0x0, 0x0, 0x0⟩,
  -- R327
  ⟨"ST_APPLIED", 0x8001C, [(64, 0x400)], 0x0, 0xFFFFFFFF, 0x0, 0x0, 0x0⟩,
  -- R327
  ⟨"ST_OPTSTEP", 0x80020, [(64, 0x400)], 0xFFFFFFFF, 0xFFFFFFFF, 0x0, 0x0, 0x0⟩,
  -- R327
  ⟨"ST_ATTEMPT", 0x80024, [(64, 0x400)], 0x0, 0xFF, 0x0, 0x0, 0x0⟩,
  -- R327
  ⟨"ST_BALLOT", 0x80028, [(64, 0x400)], 0x0, 0xFF, 0x0, 0x0, 0x0⟩,
  -- R330
  ⟨"ST_VOTE_CTL", 0x80030, [(64, 0x400)], 0xFFFFFF, 0xFFFFFF, 0x0, 0x0, 0x0⟩,
  -- R327
  ⟨"ST_VOTE_PARENT", 0x80034, [(64, 0x400)], 0xFFFF, 0xFFFF, 0x0, 0x0, 0x0⟩,
  -- R327
  ⟨"ST_VOTE_NDEV", 0x80038, [(64, 0x400)], 0xFFFF, 0xFFFF, 0x0, 0x0, 0x1⟩,
  -- R327
  ⟨"ST_VOTE_TMO", 0x8003C, [(64, 0x400)], 0xFFFFFF, 0xFFFFFF, 0x0, 0x0, 0xC350⟩,
  -- R327
  ⟨"ST_VOTE_CH", 0x80040, [(64, 0x400), (8, 0x4)], 0xFFFFFFFF, 0xFFFFFFFF, 0x0, 0x0, 0x0⟩,
  -- R327
  ⟨"ST_VR_BASE_LO", 0x80060, [(64, 0x400)], 0xFFFFFFFF, 0xFFFFFFFF, 0x0, 0x0, 0x0⟩,
  -- R327
  ⟨"ST_VR_BASE_HI", 0x80064, [(64, 0x400)], 0xFFFF, 0xFFFF, 0x0, 0x0, 0x0⟩,
  -- R327
  ⟨"ST_VR_NUM", 0x80068, [(64, 0x400)], 0x1FFFF, 0x1FFFF, 0x0, 0x0, 0x0⟩,
  -- R327
  ⟨"ST_LEASE_TMO", 0x8006C, [(64, 0x400)], 0xFFFF, 0xFFFF, 0x0, 0x0, 0xEE7⟩,
  -- R331
  ⟨"ST_VRERR0", 0x80070, [(64, 0x400)], 0x0, 0x803FFFFF, 0x80000000, 0x0, 0x0⟩,
  -- R331
  ⟨"ST_VRERR1", 0x80074, [(64, 0x400), (3, 0x4)], 0x0, 0xFFFFFFFF, 0x0, 0x0, 0x0⟩,
  -- R332
  ⟨"ST_NOTIFY", 0x80080, [(64, 0x400)], 0x801F0FFF, 0x801F0FFF, 0x0, 0x0, 0x0⟩,
  -- R327
  ⟨"ST_EVT", 0x80084, [(64, 0x400)], 0x0, 0xFF, 0xFF, 0x0, 0x0⟩,
  -- R327
  ⟨"ST_EVT_EN", 0x80088, [(64, 0x400)], 0xFF, 0xFF, 0x0, 0x0, 0x0⟩,
  -- R327
  ⟨"ST_COMMITS", 0x80100, [(64, 0x400)], 0x0, 0xFFFFFFFF, 0x0, 0x0, 0x0⟩,
  -- R327
  ⟨"ST_COMMITS_HI", 0x80104, [(64, 0x400)], 0x0, 0x8000FFFF, 0x80000000, 0x0, 0x0⟩,
  -- R327
  ⟨"ST_SKIPS", 0x80108, [(64, 0x400)], 0x0, 0xFFFFFFFF, 0x0, 0x0, 0x0⟩,
  -- R327
  ⟨"ST_SKIPS_HI", 0x8010C, [(64, 0x400)], 0x0, 0x8000FFFF, 0x80000000, 0x0, 0x0⟩,
  -- R327
  ⟨"ST_SKIP_NF", 0x80110, [(64, 0x400)], 0x0, 0xFFFFFFFF, 0x0, 0x0, 0x0⟩,
  -- R327
  ⟨"ST_SKIP_NF_HI", 0x80114, [(64, 0x400)], 0x0, 0x8000FFFF, 0x80000000, 0x0, 0x0⟩,
  -- R327
  ⟨"ST_SKIP_RG", 0x80118, [(64, 0x400)], 0x0, 0xFFFFFFFF, 0x0, 0x0, 0x0⟩,
  -- R327
  ⟨"ST_SKIP_RG_HI", 0x8011C, [(64, 0x400)], 0x0, 0x8000FFFF, 0x80000000, 0x0, 0x0⟩,
  -- R327
  ⟨"ST_SKIP_CK", 0x80120, [(64, 0x400)], 0x0, 0xFFFFFFFF, 0x0, 0x0, 0x0⟩,
  -- R327
  ⟨"ST_SKIP_CK_HI", 0x80124, [(64, 0x400)], 0x0, 0x8000FFFF, 0x80000000, 0x0, 0x0⟩,
  -- R327
  ⟨"ST_SKIP_VT", 0x80128, [(64, 0x400)], 0x0, 0xFFFFFFFF, 0x0, 0x0, 0x0⟩,
  -- R327
  ⟨"ST_SKIP_VT_HI", 0x8012C, [(64, 0x400)], 0x0, 0x8000FFFF, 0x80000000, 0x0, 0x0⟩,
  -- R327
  ⟨"ST_SKIP_CFG", 0x80130, [(64, 0x400)], 0x0, 0xFFFFFFFF, 0x0, 0x0, 0x0⟩,
  -- R327
  ⟨"ST_SKIP_CFG_HI", 0x80134, [(64, 0x400)], 0x0, 0x8000FFFF, 0x80000000, 0x0, 0x0⟩,
  -- R327
  ⟨"ST_CANCELS", 0x80138, [(64, 0x400)], 0x0, 0xFFFFFFFF, 0x0, 0x0, 0x0⟩]

/-- ST_ window. Part 2. -/
def stRegs1 : List RegDesc := [
  -- R327
  ⟨"ST_CANCELS_HI", 0x8013C, [(64, 0x400)], 0x0, 0x8000FFFF, 0x80000000, 0x0, 0x0⟩,
  -- R327
  ⟨"ST_VR_BADDROP", 0x80140, [(64, 0x400)], 0x0, 0xFFFFFFFF, 0x0, 0x0, 0x0⟩,
  -- R327
  ⟨"ST_VR_BADDROP_HI", 0x80144, [(64, 0x400)], 0x0, 0x8000FFFF, 0x80000000, 0x0, 0x0⟩,
  -- R327
  ⟨"ST_LEASE_EXP", 0x80148, [(64, 0x400)], 0x0, 0xFFFFFFFF, 0x0, 0x0, 0x0⟩,
  -- R327
  ⟨"ST_LEASE_EXP_HI", 0x8014C, [(64, 0x400)], 0x0, 0x8000FFFF, 0x80000000, 0x0, 0x0⟩,
  -- R327
  ⟨"ST_NOTIFY_REF", 0x80150, [(64, 0x400)], 0x0, 0xFFFFFFFF, 0x0, 0x0, 0x0⟩,
  -- R327
  ⟨"ST_NOTIFY_REF_HI", 0x80154, [(64, 0x400)], 0x0, 0x8000FFFF, 0x80000000, 0x0, 0x0⟩,
  -- R327
  ⟨"ST_VOTE_DISC", 0x80158, [(64, 0x400)], 0x0, 0xFFFFFFFF, 0x0, 0x0, 0x0⟩,
  -- R327
  ⟨"ST_VOTE_DISC_HI", 0x8015C, [(64, 0x400)], 0x0, 0x8000FFFF, 0x80000000, 0x0, 0x0⟩]

/-- ST_ window. -/
def stRegs : List RegDesc := stRegs0 ++ stRegs1

/-- RD_ window. Part 1. -/
def rdRegs0 : List RegDesc := [
  -- R398
  ⟨"RD_EVT", 0x90000, [], 0x0, 0x3F, 0x3F, 0x0, 0x0⟩,
  -- R398
  ⟨"RD_EVT_EN", 0x90004, [], 0x3F, 0x3F, 0x0, 0x0, 0x0⟩,
  -- R399
  ⟨"RD_ERR0", 0x90010, [], 0x0, 0x803F07FF, 0x80000000, 0x0, 0x0⟩,
  -- R399
  ⟨"RD_ERR1", 0x90014, [(2, 0x4)], 0x0, 0xFFFFFFFF, 0x0, 0x0, 0x0⟩,
  -- R399
  ⟨"RD_ERR3", 0x9001C, [], 0x0, 0xFFFF, 0x0, 0x0, 0x0⟩,
  -- R398
  ⟨"RD_RECORDS", 0x90100, [], 0x0, 0xFFFFFFFF, 0x0, 0x0, 0x0⟩,
  -- R398
  ⟨"RD_RECORDS_HI", 0x90104, [], 0x0, 0x8000FFFF, 0x80000000, 0x0, 0x0⟩,
  -- R398
  ⟨"RD_CKERR", 0x90108, [], 0x0, 0xFFFFFFFF, 0x0, 0x0, 0x0⟩,
  -- R398
  ⟨"RD_CKERR_HI", 0x9010C, [], 0x0, 0x8000FFFF, 0x80000000, 0x0, 0x0⟩,
  -- R398
  ⟨"RD_SKEW", 0x90110, [], 0x0, 0xFFFFFFFF, 0x0, 0x0, 0x0⟩,
  -- R398
  ⟨"RD_SKEW_HI", 0x90114, [], 0x0, 0x8000FFFF, 0x80000000, 0x0, 0x0⟩,
  -- R398
  ⟨"RD_RANGE", 0x90118, [], 0x0, 0xFFFFFFFF, 0x0, 0x0, 0x0⟩,
  -- R398
  ⟨"RD_RANGE_HI", 0x9011C, [], 0x0, 0x8000FFFF, 0x80000000, 0x0, 0x0⟩,
  -- R398
  ⟨"RD_NONFIN", 0x90120, [], 0x0, 0xFFFFFFFF, 0x0, 0x0, 0x0⟩,
  -- R398
  ⟨"RD_NONFIN_HI", 0x90124, [], 0x0, 0x8000FFFF, 0x80000000, 0x0, 0x0⟩,
  -- R398
  ⟨"RD_LATE", 0x90128, [], 0x0, 0xFFFFFFFF, 0x0, 0x0, 0x0⟩,
  -- R398
  ⟨"RD_LATE_HI", 0x9012C, [], 0x0, 0x8000FFFF, 0x80000000, 0x0, 0x0⟩,
  -- R401
  ⟨"RD_CH_CFG", 0x91000, [(256, 0x80)], 0x3F3F3F, 0x3F3F3F, 0x0, 0x0, 0x0⟩,
  -- R400
  ⟨"RD_CH_PARENT", 0x91004, [(256, 0x80)], 0xFFFF, 0xFFFF, 0x0, 0x0, 0x0⟩,
  -- R400
  ⟨"RD_CH_NLOCAL", 0x91008, [(256, 0x80)], 0x3FFF, 0x3FFF, 0x0, 0x0, 0x0⟩,
  -- R400
  ⟨"RD_CH_NBLK", 0x9100C, [(256, 0x80)], 0xFFFFFF, 0xFFFFFF, 0x0, 0x0, 0x0⟩,
  -- R400
  ⟨"RD_CH_CAREA_LO", 0x91010, [(256, 0x80)], 0xFFFFFFC0, 0xFFFFFFC0, 0x0, 0x0, 0x0⟩,
  -- R400
  ⟨"RD_CH_CAREA_HI", 0x91014, [(256, 0x80)], 0xFFFF, 0xFFFF, 0x0, 0x0, 0x0⟩,
  -- R400
  ⟨"RD_CH_OBUF_LO", 0x91018, [(256, 0x80)], 0xFFFFFFC0, 0xFFFFFFC0, 0x0, 0x0, 0x0⟩,
  -- R400
  ⟨"RD_CH_OBUF_HI", 0x9101C, [(256, 0x80)], 0xFFFF, 0xFFFF, 0x0, 0x0, 0x0⟩,
  -- R400
  ⟨"RD_CH_SCALE_LO", 0x91020, [(256, 0x80)], 0xFFFFFFC0, 0xFFFFFFC0, 0x0, 0x0, 0x0⟩,
  -- R400
  ⟨"RD_CH_SCALE_HI", 0x91024, [(256, 0x80)], 0xFFFF, 0xFFFF, 0x0, 0x0, 0x0⟩,
  -- R400
  ⟨"RD_CH_BKT0_LO", 0x91028, [(256, 0x80)], 0xFFFFFFC0, 0xFFFFFFC0, 0x0, 0x0, 0x0⟩,
  -- R400
  ⟨"RD_CH_BKT0_HI", 0x9102C, [(256, 0x80)], 0xFFFF, 0xFFFF, 0x0, 0x0, 0x0⟩,
  -- R400
  ⟨"RD_CH_BKT1_LO", 0x91030, [(256, 0x80)], 0xFFFFFFC0, 0xFFFFFFC0, 0x0, 0x0, 0x0⟩,
  -- R400
  ⟨"RD_CH_BKT1_HI", 0x91034, [(256, 0x80)], 0xFFFF, 0xFFFF, 0x0, 0x0, 0x0⟩,
  -- R400
  ⟨"RD_CH_EF_LO", 0x91038, [(256, 0x80)], 0xFFFFFFC0, 0xFFFFFFC0, 0x0, 0x0, 0x0⟩,
  -- R400
  ⟨"RD_CH_EF_HI", 0x9103C, [(256, 0x80)], 0xFFFF, 0xFFFF, 0x0, 0x0, 0x0⟩,
  -- R400
  ⟨"RD_CH_BCFG", 0x91040, [(256, 0x80)], 0xFFF, 0xFFF, 0x0, 0x0, 0x4⟩,
  -- R400
  ⟨"RD_CH_SEED", 0x91044, [(256, 0x80)], 0xFFFFFFFF, 0xFFFFFFFF, 0x0, 0x0, 0x0⟩,
  -- R400
  ⟨"RD_CH_SCFG", 0x91048, [(256, 0x80)], 0xFFFF, 0xFFFF, 0x0, 0x0, 0x63⟩,
  -- R400
  ⟨"RD_CH_INITSTEP", 0x9104C, [(256, 0x80)], 0xFFFFFFFF, 0xFFFFFFFF, 0x0, 0x0, 0x0⟩,
  -- R400
  ⟨"RD_CH_CMD", 0x91050, [(256, 0x80)], 0x0, 0x0, 0x0, 0x0, 0x0⟩,
  -- R402
  ⟨"RD_CH_STAT", 0x91054, [(256, 0x80)], 0x0, 0x30F, 0x300, 0x0, 0x0⟩,
  -- R400
  ⟨"RD_CH_DONE", 0x91058, [(256, 0x80)], 0x0, 0xFFFFFFFF, 0x0, 0x0, 0x0⟩]

/-- RD_ window. Part 2. -/
def rdRegs1 : List RegDesc := [
  -- R400
  ⟨"RD_CH_DONEF", 0x9105C, [(256, 0x80)], 0x0, 0xFF07, 0x0, 0x0, 0x0⟩]

/-- RD_ window. -/
def rdRegs : List RegDesc := rdRegs0 ++ rdRegs1

/-- CM_ window. Part 1. -/
def cmRegs0 : List RegDesc := [
  -- R550
  ⟨"CM_CTL", 0xA0000, [(64, 0x200)], 0xFFFFFF01, 0xFFFFFF01, 0x0, 0x0, 0x4000⟩,
  -- R551
  ⟨"CM_STAT", 0xA0004, [(64, 0x200)], 0x0, 0x3FF3F, 0x30000, 0x0, 0x1⟩,
  -- R549
  ⟨"CM_CMD", 0xA0008, [(64, 0x200)], 0x0, 0x0, 0x0, 0x0, 0x0⟩,
  -- R549
  ⟨"CM_RSTEP", 0xA000C, [(64, 0x200)], 0xFFFFFFFF, 0xFFFFFFFF, 0x0, 0x0, 0x0⟩,
  -- R549
  ⟨"CM_ROPT", 0xA0010, [(64, 0x200)], 0x0, 0xFFFFFFFF, 0x0, 0x0, 0x0⟩,
  -- R549
  ⟨"CM_LASTMARK", 0xA0014, [(64, 0x200)], 0x0, 0xFFFFFFFF, 0x0, 0x0, 0x0⟩,
  -- R549
  ⟨"CM_FN_ADDR", 0xA0018, [(64, 0x200)], 0xFFFFFFFF, 0xFFFFFFFF, 0x0, 0x0, 0x0⟩,
  -- R549
  ⟨"CM_FN", 0xA001C, [(64, 0x200)], 0x80000FFF, 0x80000FFF, 0x0, 0x0, 0x0⟩,
  -- R549
  ⟨"CM_EVT", 0xA0020, [(64, 0x200)], 0x0, 0xF, 0xF, 0x0, 0x0⟩,
  -- R549
  ⟨"CM_EVT_EN", 0xA0024, [(64, 0x200)], 0xF, 0xF, 0x0, 0x0, 0x0⟩,
  -- R549
  ⟨"CM_TMO", 0xA0028, [(64, 0x200)], 0xFFFF, 0xFFFF, 0x0, 0x0, 0x2710⟩,
  -- R552
  ⟨"CM_WIN_SBASE", 0xA0040, [(64, 0x200), (8, 0x10)], 0xFFFFFF, 0xFFFFFF, 0x0, 0x0, 0x0⟩,
  -- R552
  ⟨"CM_WIN_PAGES", 0xA0044, [(64, 0x200), (8, 0x10)], 0x1FFFFFF, 0x1FFFFFF, 0x0, 0x0, 0x0⟩,
  -- R552
  ⟨"CM_WIN_VALID", 0xA0048, [(64, 0x200), (8, 0x10)], 0x80000000, 0x80000000, 0x0, 0x0, 0x0⟩,
  -- R549
  ⟨"CM_MIR_BYTES", 0xA0100, [(64, 0x200)], 0x0, 0xFFFFFFFF, 0x0, 0x0, 0x0⟩,
  -- R549
  ⟨"CM_MIR_BYTES_HI", 0xA0104, [(64, 0x200)], 0x0, 0x8000FFFF, 0x80000000, 0x0, 0x0⟩,
  -- R549
  ⟨"CM_MARKS", 0xA0108, [(64, 0x200)], 0x0, 0xFFFFFFFF, 0x0, 0x0, 0x0⟩,
  -- R549
  ⟨"CM_MARKS_HI", 0xA010C, [(64, 0x200)], 0x0, 0x8000FFFF, 0x80000000, 0x0, 0x0⟩,
  -- R549
  ⟨"CM_MFAIL", 0xA0110, [(64, 0x200)], 0x0, 0xFFFFFFFF, 0x0, 0x0, 0x0⟩,
  -- R549
  ⟨"CM_MFAIL_HI", 0xA0114, [(64, 0x200)], 0x0, 0x8000FFFF, 0x80000000, 0x0, 0x0⟩,
  -- R549
  ⟨"CM_FN_REF", 0xA0118, [(64, 0x200)], 0x0, 0xFFFFFFFF, 0x0, 0x0, 0x0⟩,
  -- R549
  ⟨"CM_FN_REF_HI", 0xA011C, [(64, 0x200)], 0x0, 0x8000FFFF, 0x80000000, 0x0, 0x0⟩,
  -- R553
  ⟨"CM_HB_CTL", 0xA8000, [], 0xFFFF, 0xFFFF, 0x0, 0x0, 0x3E8⟩,
  -- R553
  ⟨"CM_HB_TMO", 0xA8004, [], 0xFFFFFF, 0xFFFFFF, 0x0, 0x0, 0x2710⟩,
  -- R553
  ⟨"CM_DEVEVT", 0xA8008, [], 0x0, 0x7, 0x7, 0x0, 0x0⟩,
  -- R553
  ⟨"CM_DEVEVT_EN", 0xA800C, [], 0x7, 0x7, 0x0, 0x0, 0x0⟩,
  -- R553
  ⟨"CM_HB_TGT", 0xA8010, [(4, 0x4)], 0x8000FFFF, 0x8000FFFF, 0x0, 0x0, 0x0⟩,
  -- R553
  ⟨"CM_HB_WATCH", 0xA8040, [(8, 0x8)], 0x8000FFFF, 0x8003FFFF, 0x0, 0x0, 0x0⟩,
  -- R553
  ⟨"CM_HB_TIME", 0xA8044, [(8, 0x8)], 0x0, 0xFFFFFFFF, 0x0, 0x0, 0x0⟩,
  -- R554
  ⟨"CM_HOST", 0xA8100, [(16, 0x40)], 0xBF77FFFF, 0xFF77FFFF, 0x40000000, 0x0, 0x0⟩,
  -- R554
  ⟨"CM_HOST_PAGES", 0xA8104, [(16, 0x40)], 0x1FFFFFF, 0x1FFFFFF, 0x0, 0x0, 0x0⟩,
  -- R554
  ⟨"CM_HOST_GENA", 0xA8108, [(16, 0x40)], 0xFFFFFF, 0xFFFFFF, 0x0, 0x0, 0x0⟩,
  -- R554
  ⟨"CM_HOST_GENB", 0xA810C, [(16, 0x40)], 0xFFFFFF, 0xFFFFFF, 0x0, 0x0, 0x0⟩,
  -- R554
  ⟨"CM_HOST_ST", 0xA8110, [(16, 0x40)], 0x0, 0xF, 0x0, 0x0, 0x0⟩,
  -- R554
  ⟨"CM_HOST_STEP", 0xA8114, [(16, 0x40), (4, 0x4)], 0x0, 0xFFFFFFFF, 0x0, 0x0, 0x0⟩,
  -- R553
  ⟨"CM_HOST_BYTES", 0xA8600, [], 0x0, 0xFFFFFFFF, 0x0, 0x0, 0x0⟩,
  -- R553
  ⟨"CM_HOST_BYTES_HI", 0xA8604, [], 0x0, 0x8000FFFF, 0x80000000, 0x0, 0x0⟩,
  -- R553
  ⟨"CM_HOST_REF", 0xA8608, [], 0x0, 0xFFFFFFFF, 0x0, 0x0, 0x0⟩,
  -- R553
  ⟨"CM_HOST_REF_HI", 0xA860C, [], 0x0, 0x8000FFFF, 0x80000000, 0x0, 0x0⟩,
  -- R553
  ⟨"CM_HB_SENT", 0xA8610, [], 0x0, 0xFFFFFFFF, 0x0, 0x0, 0x0⟩]

/-- CM_ window. Part 2. -/
def cmRegs1 : List RegDesc := [
  -- R553
  ⟨"CM_HB_SENT_HI", 0xA8614, [], 0x0, 0x8000FFFF, 0x80000000, 0x0, 0x0⟩]

/-- CM_ window. -/
def cmRegs : List RegDesc := cmRegs0 ++ cmRegs1

/-- SV_ window. Part 1. -/
def svRegs0 : List RegDesc := [
  -- R608
  ⟨"SV_CTL", 0xB0000, [(64, 0x400)], 0x1, 0x1, 0x0, 0x0, 0x0⟩,
  -- R608
  ⟨"SV_STAT", 0xB0004, [(64, 0x400)], 0x0, 0x7, 0x4, 0x0, 0x0⟩,
  -- R608
  ⟨"SV_PART_BASE", 0xB0008, [(64, 0x400)], 0xFFFF, 0xFFFF, 0x0, 0x0, 0x0⟩,
  -- R608
  ⟨"SV_PART0_NUM", 0xB000C, [], 0x1FFFF, 0x1FFFF, 0x0, 0x0, 0x10000⟩,
  -- R608
  ⟨"SV_PART_NUM", 0xB040C, [(63, 0x400)], 0x1FFFF, 0x1FFFF, 0x0, 0x0, 0x0⟩,
  -- R608
  ⟨"SV_POOL_LO", 0xB0010, [(64, 0x400)], 0xFFFFC000, 0xFFFFC000, 0x0, 0x0, 0x0⟩,
  -- R608
  ⟨"SV_POOL_HI", 0xB0014, [(64, 0x400)], 0xFFFF, 0xFFFF, 0x0, 0x0, 0x0⟩,
  -- R608
  ⟨"SV_POOL_NPG", 0xB0018, [(64, 0x400)], 0x1FFFFFF, 0x1FFFFFF, 0x0, 0x0, 0x0⟩,
  -- R608
  ⟨"SV_FREE_LO", 0xB001C, [(64, 0x400)], 0xFFFFFFFC, 0xFFFFFFFC, 0x0, 0x0, 0x0⟩,
  -- R608
  ⟨"SV_FREE_HI", 0xB0020, [(64, 0x400)], 0xFFFF, 0xFFFF, 0x0, 0x0, 0x0⟩,
  -- R608
  ⟨"SV_PT_LO", 0xB0024, [(64, 0x400)], 0xFFFFFFFC, 0xFFFFFFFC, 0x0, 0x0, 0x0⟩,
  -- R608
  ⟨"SV_PT_HI", 0xB0028, [(64, 0x400)], 0xFFFF, 0xFFFF, 0x0, 0x0, 0x0⟩,
  -- R608
  ⟨"SV_PTW", 0xB002C, [(64, 0x400)], 0x1FFFF, 0x1FFFF, 0x0, 0x0, 0x0⟩,
  -- R608
  ⟨"SV_CPORT_LO", 0xB0030, [(64, 0x400)], 0xFFFFF000, 0xFFFFF000, 0x0, 0x0, 0x0⟩,
  -- R608
  ⟨"SV_CPORT_HI", 0xB0034, [(64, 0x400)], 0xFFFF, 0xFFFF, 0x0, 0x0, 0x0⟩,
  -- R608
  ⟨"SV_FREEPG", 0xB0038, [(64, 0x400)], 0x0, 0x1FFFFFF, 0x0, 0x0, 0x0⟩,
  -- R608
  ⟨"SV_LOWPG", 0xB003C, [(64, 0x400)], 0x1FFFFFF, 0x1FFFFFF, 0x0, 0x0, 0x0⟩,
  -- R608
  ⟨"SV_CMD", 0xB0040, [(64, 0x400), (4, 0x4)], 0x0, 0x0, 0x0, 0x0, 0x0⟩,
  -- R608
  ⟨"SV_CMDSTAT", 0xB0050, [(64, 0x400)], 0x0, 0xF, 0x0, 0x0, 0x0⟩,
  -- R608
  ⟨"SV_EVT", 0xB0054, [(64, 0x400)], 0x0, 0x1F, 0x1F, 0x0, 0x0⟩,
  -- R608
  ⟨"SV_EVT_EN", 0xB0058, [(64, 0x400)], 0x1F, 0x1F, 0x0, 0x0, 0x0⟩,
  -- R608
  ⟨"SV_ERR0", 0xB0060, [(64, 0x400)], 0x0, 0x81FFFFFF, 0x80000000, 0x0, 0x0⟩,
  -- R608
  ⟨"SV_ERR1", 0xB0064, [(64, 0x400)], 0x0, 0xFFFF, 0x0, 0x0, 0x0⟩,
  -- R608
  ⟨"SV_RQSEL", 0xB0080, [(64, 0x400)], 0x1FFFF, 0x1FFFF, 0x0, 0x0, 0x0⟩,
  -- R608
  ⟨"SV_RQ", 0xB00A0, [(64, 0x400), (9, 0x4)], 0x0, 0xFFFFFFFF, 0x0, 0x0, 0x0⟩,
  -- R609
  ⟨"SV_MODEL_CFG", 0xB0100, [(64, 0x400), (8, 0x40)], 0x7FFFFFF, 0x7FFFFFF, 0x0, 0x0, 0x0⟩,
  -- R609
  ⟨"SV_MODEL_FILL", 0xB0104, [(64, 0x400), (8, 0x40)], 0xFFFFFFFF, 0xFFFFFFFF, 0x0, 0x0, 0x0⟩,
  -- R609
  ⟨"SV_MODEL_NOTIFY", 0xB0108, [(64, 0x400), (8, 0x40)], 0xFFFFFFFF, 0xFFFFFFFF, 0x0, 0x0, 0x0⟩,
  -- R609
  ⟨"SV_MODEL_CH", 0xB010C, [(64, 0x400), (8, 0x40)], 0xFFF, 0xFFF, 0x0, 0x0, 0x0⟩,
  -- R609
  ⟨"SV_MODEL_RING_LO", 0xB0110, [(64, 0x400), (8, 0x40)], 0xFFFFFFC0, 0xFFFFFFC0, 0x0, 0x0, 0x0⟩,
  -- R609
  ⟨"SV_MODEL_RING_HI", 0xB0114, [(64, 0x400), (8, 0x40)], 0xFFFF, 0xFFFF, 0x0, 0x0, 0x0⟩,
  -- R609
  ⟨"SV_MODEL_FOL", 0xB0118, [(64, 0x400), (8, 0x40)], 0xFFFF0003, 0xFFFF0003, 0x0, 0x0, 0x0⟩,
  -- R609
  ⟨"SV_MODEL_FOL01", 0xB011C, [(64, 0x400), (8, 0x40)], 0xFFFFFFFF, 0xFFFFFFFF, 0x0, 0x0, 0x0⟩,
  -- R609
  ⟨"SV_MODEL_FOL2", 0xB0120, [(64, 0x400), (8, 0x40)], 0xFFFF, 0xFFFF, 0x0, 0x0, 0x0⟩,
  -- R609
  ⟨"SV_MODEL_MSEQ", 0xB0124, [(64, 0x400), (8, 0x40)], 0x0, 0xFFFFFFFF, 0x0, 0x0, 0x0⟩,
  -- R609
  ⟨"SV_MODEL_INFLIGHT", 0xB0128, [(64, 0x400), (8, 0x40)], 0x0, 0x1F, 0x0, 0x0, 0x0⟩,
  -- R609
  ⟨"SV_MODEL_NREADY", 0xB012C, [(64, 0x400), (8, 0x40)], 0x0, 0x1FFFF, 0x0, 0x0, 0x0⟩,
  -- R609
  ⟨"SV_MODEL_NRUN", 0xB0130, [(64, 0x400), (8, 0x40)], 0x0, 0x1FFFF, 0x0, 0x0, 0x0⟩,
  -- R608
  ⟨"SV_ADMITS", 0xB0300, [(64, 0x400)], 0x0, 0xFFFFFFFF, 0x0, 0x0, 0x0⟩,
  -- R608
  ⟨"SV_ADMITS_HI", 0xB0304, [(64, 0x400)], 0x0, 0x8000FFFF, 0x80000000, 0x0, 0x0⟩]

/-- SV_ window. Part 2. -/
def svRegs1 : List RegDesc := [
  -- R608
  ⟨"SV_TOKENS", 0xB0308, [(64, 0x400)], 0x0, 0xFFFFFFFF, 0x0, 0x0, 0x0⟩,
  -- R608
  ⟨"SV_TOKENS_HI", 0xB030C, [(64, 0x400)], 0x0, 0x8000FFFF, 0x80000000, 0x0, 0x0⟩,
  -- R608
  ⟨"SV_BATCHES", 0xB0310, [(64, 0x400)], 0x0, 0xFFFFFFFF, 0x0, 0x0, 0x0⟩,
  -- R608
  ⟨"SV_BATCHES_HI", 0xB0314, [(64, 0x400)], 0x0, 0x8000FFFF, 0x80000000, 0x0, 0x0⟩,
  -- R608
  ⟨"SV_MEMBERS", 0xB0318, [(64, 0x400)], 0x0, 0xFFFFFFFF, 0x0, 0x0, 0x0⟩,
  -- R608
  ⟨"SV_MEMBERS_HI", 0xB031C, [(64, 0x400)], 0x0, 0x8000FFFF, 0x80000000, 0x0, 0x0⟩,
  -- R608
  ⟨"SV_DONE", 0xB0320, [(64, 0x400)], 0x0, 0xFFFFFFFF, 0x0, 0x0, 0x0⟩,
  -- R608
  ⟨"SV_DONE_HI", 0xB0324, [(64, 0x400)], 0x0, 0x8000FFFF, 0x80000000, 0x0, 0x0⟩,
  -- R608
  ⟨"SV_REFUSED", 0xB0328, [(64, 0x400)], 0x0, 0xFFFFFFFF, 0x0, 0x0, 0x0⟩,
  -- R608
  ⟨"SV_REFUSED_HI", 0xB032C, [(64, 0x400)], 0x0, 0x8000FFFF, 0x80000000, 0x0, 0x0⟩,
  -- R608
  ⟨"SV_LATE", 0xB0330, [(64, 0x400)], 0x0, 0xFFFFFFFF, 0x0, 0x0, 0x0⟩,
  -- R608
  ⟨"SV_LATE_HI", 0xB0334, [(64, 0x400)], 0x0, 0x8000FFFF, 0x80000000, 0x0, 0x0⟩,
  -- R608
  ⟨"SV_NOPAGE", 0xB0338, [(64, 0x400)], 0x0, 0xFFFFFFFF, 0x0, 0x0, 0x0⟩,
  -- R608
  ⟨"SV_NOPAGE_HI", 0xB033C, [(64, 0x400)], 0x0, 0x8000FFFF, 0x80000000, 0x0, 0x0⟩,
  -- R608
  ⟨"SV_NOTIFY_REF", 0xB0340, [(64, 0x400)], 0x0, 0xFFFFFFFF, 0x0, 0x0, 0x0⟩,
  -- R608
  ⟨"SV_NOTIFY_REF_HI", 0xB0344, [(64, 0x400)], 0x0, 0x8000FFFF, 0x80000000, 0x0, 0x0⟩]

/-- SV_ window. -/
def svRegs : List RegDesc := svRegs0 ++ svRegs1

/-- FD_ window. -/
def fdRegs : List RegDesc := [
  -- R494
  ⟨"FD_CH_CFG", 0xC0000, [(64, 0x400)], 0x3F3F, 0x3F3F, 0x0, 0x0, 0x0⟩,
  -- R493
  ⟨"FD_CH_OCV", 0xC0004, [(64, 0x400)], 0xFF0FFF, 0xFF0FFF, 0x0, 0x0, 0x0⟩,
  -- R493
  ⟨"FD_CH_RECLEN", 0xC0008, [(64, 0x400)], 0xFFFFFF, 0xFFFFFF, 0x0, 0x0, 0x0⟩,
  -- R493
  ⟨"FD_CH_GAIN", 0xC000C, [(64, 0x400)], 0xFFFFFFFF, 0xFFFFFFFF, 0x0, 0x0, 0x3F800000⟩,
  -- R493
  ⟨"FD_CH_BIAS", 0xC0010, [(64, 0x400)], 0xFFFFFFFF, 0xFFFFFFFF, 0x0, 0x0, 0x0⟩,
  -- R493
  ⟨"FD_CH_VOCAB", 0xC0014, [(64, 0x400)], 0xFFFFFFFF, 0xFFFFFFFF, 0x0, 0x0, 0xFFFFFFFF⟩,
  -- R493
  ⟨"FD_CH_UNK", 0xC0018, [(64, 0x400)], 0xFFFFFFFF, 0xFFFFFFFF, 0x0, 0x0, 0x0⟩,
  -- R493
  ⟨"FD_CH_PT_LO", 0xC001C, [(64, 0x400)], 0xFFFFFFE0, 0xFFFFFFE0, 0x0, 0x0, 0x0⟩,
  -- R493
  ⟨"FD_CH_PT_HI", 0xC0020, [(64, 0x400)], 0xFFFF, 0xFFFF, 0x0, 0x0, 0x0⟩,
  -- R493
  ⟨"FD_CH_PTN", 0xC0024, [(64, 0x400)], 0x7FF07FF, 0x7FF07FF, 0x0, 0x0, 0x0⟩,
  -- R493
  ⟨"FD_CH_RP_LO", 0xC0028, [(64, 0x400)], 0xFFFFF000, 0xFFFFF000, 0x0, 0x0, 0x0⟩,
  -- R493
  ⟨"FD_CH_RP_HI", 0xC002C, [(64, 0x400)], 0xFFFF, 0xFFFF, 0x0, 0x0, 0x0⟩,
  -- R493
  ⟨"FD_CH_UDP", 0xC0030, [(64, 0x400)], 0xFFFF, 0xFFFF, 0x0, 0x0, 0xBE00⟩,
  -- R493
  ⟨"FD_CH_SEED", 0xC0034, [(64, 0x400)], 0xFFFFFFFF, 0xFFFFFFFF, 0x0, 0x0, 0x0⟩,
  -- R495
  ⟨"FD_CH_STAT", 0xC0038, [(64, 0x400)], 0x0, 0xF, 0xC, 0x0, 0x0⟩,
  -- R493
  ⟨"FD_CH_FLAGS", 0xC003C, [(64, 0x400)], 0x0, 0x3F, 0x3F, 0x0, 0x0⟩,
  -- R493
  ⟨"FD_CH_NEXTREC", 0xC0040, [(64, 0x400)], 0x0, 0xFFFFFFFF, 0x0, 0x0, 0x0⟩,
  -- R493
  ⟨"FD_CH_TAG", 0xC0044, [(64, 0x400)], 0xFF, 0xFF, 0x0, 0x0, 0x0⟩,
  -- R493
  ⟨"FD_RECORDS", 0xC0100, [(64, 0x400)], 0x0, 0xFFFFFFFF, 0x0, 0x0, 0x0⟩,
  -- R493
  ⟨"FD_RECORDS_HI", 0xC0104, [(64, 0x400)], 0x0, 0x8000FFFF, 0x80000000, 0x0, 0x0⟩,
  -- R493
  ⟨"FD_GAP", 0xC0108, [(64, 0x400)], 0x0, 0xFFFFFFFF, 0x0, 0x0, 0x0⟩,
  -- R493
  ⟨"FD_GAP_HI", 0xC010C, [(64, 0x400)], 0x0, 0x8000FFFF, 0x80000000, 0x0, 0x0⟩,
  -- R493
  ⟨"FD_DROP", 0xC0110, [(64, 0x400)], 0x0, 0xFFFFFFFF, 0x0, 0x0, 0x0⟩,
  -- R493
  ⟨"FD_DROP_HI", 0xC0114, [(64, 0x400)], 0x0, 0x8000FFFF, 0x80000000, 0x0, 0x0⟩,
  -- R493
  ⟨"FD_BADHDR", 0xC0118, [(64, 0x400)], 0x0, 0xFFFFFFFF, 0x0, 0x0, 0x0⟩,
  -- R493
  ⟨"FD_BADHDR_HI", 0xC011C, [(64, 0x400)], 0x0, 0x8000FFFF, 0x80000000, 0x0, 0x0⟩,
  -- R493
  ⟨"FD_VOCAB", 0xC0120, [(64, 0x400)], 0x0, 0xFFFFFFFF, 0x0, 0x0, 0x0⟩,
  -- R493
  ⟨"FD_VOCAB_HI", 0xC0124, [(64, 0x400)], 0x0, 0x8000FFFF, 0x80000000, 0x0, 0x0⟩,
  -- R493
  ⟨"FD_PLACEERR", 0xC0128, [(64, 0x400)], 0x0, 0xFFFFFFFF, 0x0, 0x0, 0x0⟩,
  -- R493
  ⟨"FD_PLACEERR_HI", 0xC012C, [(64, 0x400)], 0x0, 0x8000FFFF, 0x80000000, 0x0, 0x0⟩,
  -- R493
  ⟨"FD_BADREL", 0xC0130, [(64, 0x400)], 0x0, 0xFFFFFFFF, 0x0, 0x0, 0x0⟩,
  -- R493
  ⟨"FD_BADREL_HI", 0xC0134, [(64, 0x400)], 0x0, 0x8000FFFF, 0x80000000, 0x0, 0x0⟩]

/-- FB_ window. Part 1. -/
def fbRegs0 : List RegDesc := [
  -- R489
  ⟨"FB_PORT_CTL", 0x100000, [(32, 0x8000)], 0x7, 0x7, 0x0, 0x0, 0x1⟩,
  -- R488
  ⟨"FB_RLO", 0x100004, [(32, 0x8000)], 0xFFFF, 0xFFFF, 0x0, 0x0, 0xFFFF⟩,
  -- R488
  ⟨"FB_RHI", 0x100008, [(32, 0x8000)], 0xFFFF, 0xFFFF, 0x0, 0x0, 0x0⟩,
  -- R488
  ⟨"FB_PORT_FWD", 0x10000C, [(32, 0x8000)], 0x7, 0x7, 0x0, 0x0, 0x0⟩,
  -- R490
  ⟨"FB_LRT", 0x100010, [(32, 0x8000)], 0xFFFFFFF, 0xFFFFFFF, 0x0, 0x0, 0x8032032⟩,
  -- R488
  ⟨"FB_PORT_STAT", 0x100014, [(32, 0x8000)], 0x0, 0x3FFF, 0x0, 0x0, 0x0⟩,
  -- R488
  ⟨"FB_IP4", 0x100020, [(32, 0x8000)], 0xFFFFFFFF, 0xFFFFFFFF, 0x0, 0x0, 0x0⟩,
  -- R488
  ⟨"FB_IP6", 0x100030, [(32, 0x8000), (4, 0x4)], 0xFFFFFFFF, 0xFFFFFFFF, 0x0, 0x0, 0x0⟩,
  -- R488
  ⟨"FB_RXFRAMES", 0x100100, [(32, 0x8000)], 0x0, 0xFFFFFFFF, 0x0, 0x0, 0x0⟩,
  -- R488
  ⟨"FB_RXFRAMES_HI", 0x100104, [(32, 0x8000)], 0x0, 0x8000FFFF, 0x80000000, 0x0, 0x0⟩,
  -- R488
  ⟨"FB_FWD", 0x100108, [(32, 0x8000)], 0x0, 0xFFFFFFFF, 0x0, 0x0, 0x0⟩,
  -- R488
  ⟨"FB_FWD_HI", 0x10010C, [(32, 0x8000)], 0x0, 0x8000FFFF, 0x80000000, 0x0, 0x0⟩,
  -- R488
  ⟨"FB_BADHDR", 0x100110, [(32, 0x8000)], 0x0, 0xFFFFFFFF, 0x0, 0x0, 0x0⟩,
  -- R488
  ⟨"FB_BADHDR_HI", 0x100114, [(32, 0x8000)], 0x0, 0x8000FFFF, 0x80000000, 0x0, 0x0⟩,
  -- R488
  ⟨"FB_NOROUTE", 0x100118, [(32, 0x8000)], 0x0, 0xFFFFFFFF, 0x0, 0x0, 0x0⟩,
  -- R488
  ⟨"FB_NOROUTE_HI", 0x10011C, [(32, 0x8000)], 0x0, 0x8000FFFF, 0x80000000, 0x0, 0x0⟩,
  -- R488
  ⟨"FB_TTL", 0x100120, [(32, 0x8000)], 0x0, 0xFFFFFFFF, 0x0, 0x0, 0x0⟩,
  -- R488
  ⟨"FB_TTL_HI", 0x100124, [(32, 0x8000)], 0x0, 0x8000FFFF, 0x80000000, 0x0, 0x0⟩,
  -- R488
  ⟨"FB_RETURNED", 0x100128, [(32, 0x8000)], 0x0, 0xFFFFFFFF, 0x0, 0x0, 0x0⟩,
  -- R488
  ⟨"FB_RETURNED_HI", 0x10012C, [(32, 0x8000)], 0x0, 0x8000FFFF, 0x80000000, 0x0, 0x0⟩,
  -- R488
  ⟨"FB_NODOM", 0x100130, [(32, 0x8000)], 0x0, 0xFFFFFFFF, 0x0, 0x0, 0x0⟩,
  -- R488
  ⟨"FB_NODOM_HI", 0x100134, [(32, 0x8000)], 0x0, 0x8000FFFF, 0x80000000, 0x0, 0x0⟩,
  -- R488
  ⟨"FB_NOPEER", 0x100138, [(32, 0x8000)], 0x0, 0xFFFFFFFF, 0x0, 0x0, 0x0⟩,
  -- R488
  ⟨"FB_NOPEER_HI", 0x10013C, [(32, 0x8000)], 0x0, 0x8000FFFF, 0x80000000, 0x0, 0x0⟩,
  -- R488
  ⟨"FB_LRT_REPLAY", 0x100140, [(32, 0x8000)], 0x0, 0xFFFFFFFF, 0x0, 0x0, 0x0⟩,
  -- R488
  ⟨"FB_LRT_REPLAY_HI", 0x100144, [(32, 0x8000)], 0x0, 0x8000FFFF, 0x80000000, 0x0, 0x0⟩,
  -- R488
  ⟨"FB_LRT_NAK", 0x100148, [(32, 0x8000)], 0x0, 0xFFFFFFFF, 0x0, 0x0, 0x0⟩,
  -- R488
  ⟨"FB_LRT_NAK_HI", 0x10014C, [(32, 0x8000)], 0x0, 0x8000FFFF, 0x80000000, 0x0, 0x0⟩,
  -- R488
  ⟨"FB_LRT_DUP", 0x100150, [(32, 0x8000)], 0x0, 0xFFFFFFFF, 0x0, 0x0, 0x0⟩,
  -- R488
  ⟨"FB_LRT_DUP_HI", 0x100154, [(32, 0x8000)], 0x0, 0x8000FFFF, 0x80000000, 0x0, 0x0⟩,
  -- R488
  ⟨"FB_LOST", 0x100158, [(32, 0x8000)], 0x0, 0xFFFFFFFF, 0x0, 0x0, 0x0⟩,
  -- R488
  ⟨"FB_LOST_HI", 0x10015C, [(32, 0x8000)], 0x0, 0x8000FFFF, 0x80000000, 0x0, 0x0⟩,
  -- R491
  ⟨"FB_PEER_DEVID", 0x102000, [(32, 0x8000), (256, 0x20)], 0x8000FFFF, 0x8000FFFF, 0x0, 0x0, 0x0⟩,
  -- R491
  ⟨"FB_PEER_MAC_LO", 0x102004, [(32, 0x8000), (256, 0x20)], 0xFFFFFFFF, 0xFFFFFFFF, 0x0, 0x0, 0x0⟩,
  -- R491
  ⟨"FB_PEER_MAC_HI", 0x102008, [(32, 0x8000), (256, 0x20)], 0xFFFF, 0xFFFF, 0x0, 0x0, 0x0⟩,
  -- R491
  ⟨"FB_PEER_IP", 0x10200C, [(32, 0x8000), (256, 0x20), (4, 0x4)], 0xFFFFFFFF, 0xFFFFFFFF, 0x0, 0x0, 0x0⟩,
  -- R491
  ⟨"FB_PEER_R", 0x10201C, [(32, 0x8000), (256, 0x20)], 0x0, 0x0, 0x0, 0x0, 0x0⟩,
  -- R492
  ⟨"FB_CTL", 0x104000, [], 0xFF, 0x1FF, 0x0, 0x0, 0xFF⟩,
  -- R492
  ⟨"FB_DEVID", 0x104004, [], 0xFFFF, 0xFFFF, 0x0, 0x0, 0x0⟩,
  -- R492
  ⟨"FB_ETYPE", 0x104008, [], 0xFFFF, 0xFFFF, 0x0, 0x0, 0x88B5⟩]

/-- FB_ window. Part 2. -/
def fbRegs1 : List RegDesc := [
  -- R492
  ⟨"FB_UDPPORT", 0x10400C, [], 0xFFFF, 0xFFFF, 0x0, 0x0, 0xBDEC⟩,
  -- R492
  ⟨"FB_PRI", 0x104010, [], 0x3FFFFFFF, 0x3FFFFFFF, 0x0, 0x0, 0x34C53B64⟩,
  -- R492
  ⟨"FB_RSPPRI", 0x104014, [], 0x7, 0x7, 0x0, 0x0, 0x6⟩,
  -- R492
  ⟨"FB_SWAP", 0x104018, [], 0x0, 0x0, 0x0, 0x0, 0x0⟩,
  -- R492
  ⟨"FB_SEL", 0x10401C, [], 0x1, 0x1, 0x0, 0x0, 0x0⟩,
  -- R492
  ⟨"FB_EVT", 0x104020, [], 0x0, 0x3F, 0x3F, 0x0, 0x0⟩,
  -- R492
  ⟨"FB_EVT_EN", 0x104024, [], 0x3F, 0x3F, 0x0, 0x0, 0x0⟩,
  -- R492
  ⟨"FB_DOM", 0x104100, [(64, 0x4)], 0xFFFF, 0x8000FFFF, 0x80000000, 0x0, 0x0⟩]

/-- FB_ window. -/
def fbRegs : List RegDesc := fbRegs0 ++ fbRegs1

/-- MAC_ window. Part 1. -/
def macRegs0 : List RegDesc := [
  -- R452
  ⟨"MAC_CTL", 0x200000, [(32, 0x8000)], 0xFF07, 0xFF07, 0x0, 0x0, 0xA06⟩,
  -- R453
  ⟨"MAC_STAT", 0x200004, [(32, 0x8000)], 0x0, 0xFF7F, 0x0, 0x0, 0x0⟩,
  -- R451
  ⟨"MAC_ADDR_LO", 0x200008, [(32, 0x8000)], 0xFFFFFFFF, 0xFFFFFFFF, 0x0, 0x0, 0x0⟩,
  -- R451
  ⟨"MAC_ADDR_HI", 0x20000C, [(32, 0x8000)], 0xFFFF, 0xFFFF, 0x0, 0x0, 0x0⟩,
  -- R451
  ⟨"MAC_MAXLEN", 0x200010, [(32, 0x8000)], 0x3FFF, 0x3FFF, 0x0, 0x0, 0x2400⟩,
  -- R451
  ⟨"MAC_FILT", 0x200014, [(32, 0x8000)], 0x7, 0x7, 0x0, 0x0, 0x2⟩,
  -- R451
  ⟨"MAC_VLAN", 0x200018, [(32, 0x8000)], 0xFFFF, 0xFFFF, 0x0, 0x0, 0x0⟩,
  -- R451
  ⟨"MAC_PCPMAP", 0x20001C, [(32, 0x8000)], 0xFFFFFF, 0xFFFFFF, 0x0, 0x0, 0xFAC688⟩,
  -- R454
  ⟨"MAC_PAUSE", 0x200020, [(32, 0x8000)], 0xFFFFFF07, 0xFFFFFF0F, 0x8, 0x0, 0xFF302000⟩,
  -- R451
  ⟨"MAC_PAUSE_TXQ", 0x200024, [(32, 0x8000)], 0xFFFF, 0xFFFF, 0x0, 0x0, 0xFFFF⟩,
  -- R451
  ⟨"MAC_PAUSE_STAT", 0x200028, [(32, 0x8000)], 0x0, 0xFFFF00FF, 0x0, 0x0, 0x0⟩,
  -- R455
  ⟨"MAC_AN", 0x20002C, [(32, 0x8000)], 0x7, 0x7, 0x0, 0x0, 0x3⟩,
  -- R456
  ⟨"MAC_XMODE", 0x200030, [(4, 0x40000)], 0x3, 0x80000003, 0x80000000, 0x0, 0x0⟩,
  -- R451
  ⟨"MAC_LANE", 0x200034, [(32, 0x8000)], 0xFF, 0xFF, 0x0, 0x0, 0x0⟩,
  -- R451
  ⟨"MAC_EVT", 0x200038, [(32, 0x8000)], 0x0, 0x3F, 0x3F, 0x0, 0x0⟩,
  -- R451
  ⟨"MAC_EVT_EN", 0x20003C, [(32, 0x8000)], 0x3F, 0x3F, 0x0, 0x0, 0x0⟩,
  -- R451
  ⟨"MAC_HASH", 0x200040, [(32, 0x8000), (16, 0x4)], 0xFFFFFFFF, 0xFFFFFFFF, 0x0, 0x0, 0x0⟩,
  -- R457
  ⟨"MAC_CBS", 0x200080, [(32, 0x8000), (8, 0x10)], 0x800FFFFF, 0xC00FFFFF, 0x40000000, 0x0, 0x0⟩,
  -- R457
  ⟨"MAC_CBS_HI", 0x200084, [(32, 0x8000), (8, 0x10)], 0xFFFFFF, 0xFFFFFF, 0x0, 0x0, 0x0⟩,
  -- R457
  ⟨"MAC_CBS_CREDIT", 0x200088, [(32, 0x8000), (8, 0x10)], 0x0, 0xFFFFFFFF, 0x0, 0x0, 0x0⟩,
  -- R451
  ⟨"MAC_QOWN_LO", 0x200100, [(32, 0x8000), (8, 0x8)], 0xFFFFFFFF, 0xFFFFFFFF, 0x0, 0x0, 0x1⟩,
  -- R451
  ⟨"MAC_QOWN_HI", 0x200104, [(32, 0x8000), (8, 0x8)], 0xFFFFFFFF, 0xFFFFFFFF, 0x0, 0x0, 0x0⟩,
  -- R451
  ⟨"MAC_WFS", 0x200140, [(32, 0x8000), (16, 0x4)], 0xFFFFFFFF, 0xFFFFFFFF, 0x0, 0x0, 0x1010101⟩,
  -- R451
  ⟨"MAC_WFS_TRANSIT", 0x200180, [(32, 0x8000)], 0xFF, 0xFF, 0x0, 0x0, 0x10⟩,
  -- R450
  ⟨"MAC_RX_FRAMES", 0x200400, [(32, 0x8000)], 0x0, 0xFFFFFFFF, 0x0, 0x0, 0x0⟩,
  -- R450
  ⟨"MAC_RX_FRAMES_HI", 0x200404, [(32, 0x8000)], 0x0, 0x8000FFFF, 0x80000000, 0x0, 0x0⟩,
  -- R450
  ⟨"MAC_RX_OCTETS", 0x200408, [(32, 0x8000)], 0x0, 0xFFFFFFFF, 0x0, 0x0, 0x0⟩,
  -- R450
  ⟨"MAC_RX_OCTETS_HI", 0x20040C, [(32, 0x8000)], 0x0, 0x8000FFFF, 0x80000000, 0x0, 0x0⟩,
  -- R450
  ⟨"MAC_RX_FCS", 0x200410, [(32, 0x8000)], 0x0, 0xFFFFFFFF, 0x0, 0x0, 0x0⟩,
  -- R450
  ⟨"MAC_RX_FCS_HI", 0x200414, [(32, 0x8000)], 0x0, 0x8000FFFF, 0x80000000, 0x0, 0x0⟩,
  -- R450
  ⟨"MAC_RX_RUNT", 0x200418, [(32, 0x8000)], 0x0, 0xFFFFFFFF, 0x0, 0x0, 0x0⟩,
  -- R450
  ⟨"MAC_RX_RUNT_HI", 0x20041C, [(32, 0x8000)], 0x0, 0x8000FFFF, 0x80000000, 0x0, 0x0⟩,
  -- R450
  ⟨"MAC_RX_OVERSIZE", 0x200420, [(32, 0x8000)], 0x0, 0xFFFFFFFF, 0x0, 0x0, 0x0⟩,
  -- R450
  ⟨"MAC_RX_OVERSIZE_HI", 0x200424, [(32, 0x8000)], 0x0, 0x8000FFFF, 0x80000000, 0x0, 0x0⟩,
  -- R450
  ⟨"MAC_RX_FILTERED", 0x200428, [(32, 0x8000)], 0x0, 0xFFFFFFFF, 0x0, 0x0, 0x0⟩,
  -- R450
  ⟨"MAC_RX_FILTERED_HI", 0x20042C, [(32, 0x8000)], 0x0, 0x8000FFFF, 0x80000000, 0x0, 0x0⟩,
  -- R450
  ⟨"MAC_RX_OVF", 0x200430, [(32, 0x8000)], 0x0, 0xFFFFFFFF, 0x0, 0x0, 0x0⟩,
  -- R450
  ⟨"MAC_RX_OVF_HI", 0x200434, [(32, 0x8000)], 0x0, 0x8000FFFF, 0x80000000, 0x0, 0x0⟩,
  -- R450
  ⟨"MAC_RX_PAUSE", 0x200438, [(32, 0x8000)], 0x0, 0xFFFFFFFF, 0x0, 0x0, 0x0⟩,
  -- R450
  ⟨"MAC_RX_PAUSE_HI", 0x20043C, [(32, 0x8000)], 0x0, 0x8000FFFF, 0x80000000, 0x0, 0x0⟩]

/-- MAC_ window. Part 2. -/
def macRegs1 : List RegDesc := [
  -- R450
  ⟨"MAC_RX_PFC", 0x200440, [(32, 0x8000)], 0x0, 0xFFFFFFFF, 0x0, 0x0, 0x0⟩,
  -- R450
  ⟨"MAC_RX_PFC_HI", 0x200444, [(32, 0x8000)], 0x0, 0x8000FFFF, 0x80000000, 0x0, 0x0⟩,
  -- R450
  ⟨"MAC_RX_CTL_IGN", 0x200448, [(32, 0x8000)], 0x0, 0xFFFFFFFF, 0x0, 0x0, 0x0⟩,
  -- R450
  ⟨"MAC_RX_CTL_IGN_HI", 0x20044C, [(32, 0x8000)], 0x0, 0x8000FFFF, 0x80000000, 0x0, 0x0⟩,
  -- R450
  ⟨"MAC_TX_FRAMES", 0x200450, [(32, 0x8000)], 0x0, 0xFFFFFFFF, 0x0, 0x0, 0x0⟩,
  -- R450
  ⟨"MAC_TX_FRAMES_HI", 0x200454, [(32, 0x8000)], 0x0, 0x8000FFFF, 0x80000000, 0x0, 0x0⟩,
  -- R450
  ⟨"MAC_TX_OCTETS", 0x200458, [(32, 0x8000)], 0x0, 0xFFFFFFFF, 0x0, 0x0, 0x0⟩,
  -- R450
  ⟨"MAC_TX_OCTETS_HI", 0x20045C, [(32, 0x8000)], 0x0, 0x8000FFFF, 0x80000000, 0x0, 0x0⟩,
  -- R450
  ⟨"MAC_TX_PAUSE", 0x200460, [(32, 0x8000)], 0x0, 0xFFFFFFFF, 0x0, 0x0, 0x0⟩,
  -- R450
  ⟨"MAC_TX_PAUSE_HI", 0x200464, [(32, 0x8000)], 0x0, 0x8000FFFF, 0x80000000, 0x0, 0x0⟩,
  -- R450
  ⟨"MAC_TX_HELD", 0x200468, [(32, 0x8000)], 0x0, 0xFFFFFFFF, 0x0, 0x0, 0x0⟩,
  -- R450
  ⟨"MAC_TX_HELD_HI", 0x20046C, [(32, 0x8000)], 0x0, 0x8000FFFF, 0x80000000, 0x0, 0x0⟩,
  -- R450
  ⟨"MAC_TX_FLUSHED", 0x200470, [(32, 0x8000)], 0x0, 0xFFFFFFFF, 0x0, 0x0, 0x0⟩,
  -- R450
  ⟨"MAC_TX_FLUSHED_HI", 0x200474, [(32, 0x8000)], 0x0, 0x8000FFFF, 0x80000000, 0x0, 0x0⟩,
  -- R450
  ⟨"MAC_TX_NOQUEUE", 0x200478, [(32, 0x8000)], 0x0, 0xFFFFFFFF, 0x0, 0x0, 0x0⟩,
  -- R450
  ⟨"MAC_TX_NOQUEUE_HI", 0x20047C, [(32, 0x8000)], 0x0, 0x8000FFFF, 0x80000000, 0x0, 0x0⟩,
  -- R450
  ⟨"MAC_TX_OVERSIZE", 0x200480, [(32, 0x8000)], 0x0, 0xFFFFFFFF, 0x0, 0x0, 0x0⟩,
  -- R450
  ⟨"MAC_TX_OVERSIZE_HI", 0x200484, [(32, 0x8000)], 0x0, 0x8000FFFF, 0x80000000, 0x0, 0x0⟩,
  -- R450
  ⟨"MAC_FEC_CORR", 0x200488, [(32, 0x8000)], 0x0, 0xFFFFFFFF, 0x0, 0x0, 0x0⟩,
  -- R450
  ⟨"MAC_FEC_CORR_HI", 0x20048C, [(32, 0x8000)], 0x0, 0x8000FFFF, 0x80000000, 0x0, 0x0⟩,
  -- R450
  ⟨"MAC_FEC_UE", 0x200490, [(32, 0x8000)], 0x0, 0xFFFFFFFF, 0x0, 0x0, 0x0⟩,
  -- R450
  ⟨"MAC_FEC_UE_HI", 0x200494, [(32, 0x8000)], 0x0, 0x8000FFFF, 0x80000000, 0x0, 0x0⟩,
  -- R450
  ⟨"MAC_FEC_SYM", 0x200498, [(32, 0x8000)], 0x0, 0xFFFFFFFF, 0x0, 0x0, 0x0⟩,
  -- R450
  ⟨"MAC_FEC_SYM_HI", 0x20049C, [(32, 0x8000)], 0x0, 0x8000FFFF, 0x80000000, 0x0, 0x0⟩,
  -- R450
  ⟨"MAC_LINK_DOWN", 0x2004A0, [(32, 0x8000)], 0x0, 0xFFFFFFFF, 0x0, 0x0, 0x0⟩,
  -- R450
  ⟨"MAC_LINK_DOWN_HI", 0x2004A4, [(32, 0x8000)], 0x0, 0x8000FFFF, 0x80000000, 0x0, 0x0⟩,
  -- R450
  ⟨"MAC_TXQ_FRAMES", 0x200500, [(32, 0x8000), (8, 0x8)], 0x0, 0xFFFFFFFF, 0x0, 0x0, 0x0⟩,
  -- R450
  ⟨"MAC_TXQ_FRAMES_HI", 0x200504, [(32, 0x8000), (8, 0x8)], 0x0, 0x8000FFFF, 0x80000000, 0x0, 0x0⟩]

/-- MAC_ window. -/
def macRegs : List RegDesc := macRegs0 ++ macRegs1

/-- MT_ window. -/
def mtRegs : List RegDesc := [
  -- R516
  ⟨"MT_CTL", 0x300000, [(8, 0x20000)], 0xFFFF0001, 0xFFFF0001, 0x0, 0x0, 0x640001⟩,
  -- R517
  ⟨"MT_STAT", 0x300004, [(8, 0x20000)], 0x0, 0x1FF0F, 0x0, 0x0, 0x0⟩,
  -- R515
  ⟨"MT_SCRUB", 0x300008, [(8, 0x20000)], 0xFF01, 0xFF01, 0x0, 0x0, 0x1801⟩,
  -- R515
  ⟨"MT_SCRUB_POS", 0x30000C, [(8, 0x20000)], 0x0, 0xFFFFFF, 0x0, 0x0, 0x0⟩,
  -- R515
  ⟨"MT_CE_THRESH", 0x300010, [(8, 0x20000)], 0xFFFFFF, 0xFFFFFF, 0x0, 0x0, 0x100⟩,
  -- R515
  ⟨"MT_CE_ADDR", 0x300018, [(8, 0x20000)], 0x0, 0xFFFFFFFF, 0x0, 0x0, 0x0⟩,
  -- R515
  ⟨"MT_CE_ADDR_HI", 0x30001C, [(8, 0x20000)], 0x0, 0xF, 0x0, 0x0, 0x0⟩,
  -- R515
  ⟨"MT_UE_ADDR", 0x300020, [(8, 0x20000)], 0x0, 0xFFFFFFFF, 0x0, 0x0, 0x0⟩,
  -- R515
  ⟨"MT_UE_ADDR_HI", 0x300024, [(8, 0x20000)], 0x0, 0xF, 0x0, 0x0, 0x0⟩,
  -- R515
  ⟨"MT_EVT", 0x300028, [(8, 0x20000)], 0x0, 0xF, 0xF, 0x0, 0x0⟩,
  -- R515
  ⟨"MT_EVT_EN", 0x30002C, [(8, 0x20000)], 0xF, 0xF, 0x0, 0x0, 0x0⟩,
  -- R515
  ⟨"MT_CE", 0x300100, [(8, 0x20000)], 0x0, 0xFFFFFFFF, 0x0, 0x0, 0x0⟩,
  -- R515
  ⟨"MT_CE_HI", 0x300104, [(8, 0x20000)], 0x0, 0x8000FFFF, 0x80000000, 0x0, 0x0⟩,
  -- R515
  ⟨"MT_UE", 0x300108, [(8, 0x20000)], 0x0, 0xFFFFFFFF, 0x0, 0x0, 0x0⟩,
  -- R515
  ⟨"MT_UE_HI", 0x30010C, [(8, 0x20000)], 0x0, 0x8000FFFF, 0x80000000, 0x0, 0x0⟩,
  -- R515
  ⟨"MT_SCRUB_CE", 0x300110, [(8, 0x20000)], 0x0, 0xFFFFFFFF, 0x0, 0x0, 0x0⟩,
  -- R515
  ⟨"MT_SCRUB_CE_HI", 0x300114, [(8, 0x20000)], 0x0, 0x8000FFFF, 0x80000000, 0x0, 0x0⟩,
  -- R515
  ⟨"MT_SCRUB_UE", 0x300118, [(8, 0x20000)], 0x0, 0xFFFFFFFF, 0x0, 0x0, 0x0⟩,
  -- R515
  ⟨"MT_SCRUB_UE_HI", 0x30011C, [(8, 0x20000)], 0x0, 0x8000FFFF, 0x80000000, 0x0, 0x0⟩,
  -- R515
  ⟨"MT_REFUSED", 0x300120, [(8, 0x20000)], 0x0, 0xFFFFFFFF, 0x0, 0x0, 0x0⟩,
  -- R515
  ⟨"MT_REFUSED_HI", 0x300124, [(8, 0x20000)], 0x0, 0x8000FFFF, 0x80000000, 0x0, 0x0⟩,
  -- R515
  ⟨"MT_SR_ENTRY", 0x300128, [(8, 0x20000)], 0x0, 0xFFFFFFFF, 0x0, 0x0, 0x0⟩,
  -- R515
  ⟨"MT_SR_ENTRY_HI", 0x30012C, [(8, 0x20000)], 0x0, 0x8000FFFF, 0x80000000, 0x0, 0x0⟩,
  -- R515
  ⟨"MT_SR_WAIT", 0x300130, [(8, 0x20000)], 0x0, 0xFFFFFFFF, 0x0, 0x0, 0x0⟩,
  -- R515
  ⟨"MT_SR_WAIT_HI", 0x300134, [(8, 0x20000)], 0x0, 0x8000FFFF, 0x80000000, 0x0, 0x0⟩,
  -- R515
  ⟨"MT_RD_LINES", 0x300138, [(8, 0x20000)], 0x0, 0xFFFFFFFF, 0x0, 0x0, 0x0⟩,
  -- R515
  ⟨"MT_RD_LINES_HI", 0x30013C, [(8, 0x20000)], 0x0, 0x8000FFFF, 0x80000000, 0x0, 0x0⟩,
  -- R515
  ⟨"MT_WR_LINES", 0x300140, [(8, 0x20000)], 0x0, 0xFFFFFFFF, 0x0, 0x0, 0x0⟩,
  -- R515
  ⟨"MT_WR_LINES_HI", 0x300144, [(8, 0x20000)], 0x0, 0x8000FFFF, 0x80000000, 0x0, 0x0⟩,
  -- R515
  ⟨"MT_WFS", 0x300200, [(8, 0x20000), (16, 0x4)], 0xFFFFFFFF, 0xFFFFFFFF, 0x0, 0x0, 0x1010101⟩,
  -- R518
  ⟨"MT_REGION_BASE", 0x300400, [(8, 0x20000), (16, 0x10)], 0xFFFFFF, 0xFFFFFF, 0x0, 0x0, 0x0⟩,
  -- R518
  ⟨"MT_REGION_PAGES", 0x300404, [(8, 0x20000), (16, 0x10)], 0x1FFFFFF, 0x1FFFFFF, 0x0, 0x0, 0x0⟩,
  -- R518
  ⟨"MT_REGION", 0x300408, [(8, 0x20000), (16, 0x10)], 0x80003F07, 0xC0003F07, 0x40000000, 0x0, 0x0⟩]

/-- UE_ window. Part 1. -/
def ueRegs0 : List RegDesc := [
  -- R361
  ⟨"UE_STAT", 0x400000, [(8, 0x20000)], 0x0, 0xF, 0x0, 0x0, 0x0⟩,
  -- R362
  ⟨"UE_ERR0", 0x400010, [(8, 0x20000)], 0x0, 0x801FFFFF, 0x80000000, 0x0, 0x0⟩,
  -- R362
  ⟨"UE_ERR1", 0x400014, [(8, 0x20000)], 0x0, 0x1FFFFFFF, 0x0, 0x0, 0x0⟩,
  -- R362
  ⟨"UE_ERR2", 0x400018, [(8, 0x20000)], 0x0, 0xFFFFFFFF, 0x0, 0x0, 0x0⟩,
  -- R362
  ⟨"UE_ERR3", 0x40001C, [(8, 0x20000)], 0x0, 0xFFFFFFFF, 0x0, 0x0, 0x0⟩,
  -- R361
  ⟨"UE_RUNS_FREE", 0x400020, [(8, 0x20000)], 0x0, 0x1FFF, 0x0, 0x0, 0x1000⟩,
  -- R361
  ⟨"UE_BLOCKS", 0x400100, [(8, 0x20000)], 0x0, 0xFFFFFFFF, 0x0, 0x0, 0x0⟩,
  -- R361
  ⟨"UE_BLOCKS_HI", 0x400104, [(8, 0x20000)], 0x0, 0x8000FFFF, 0x80000000, 0x0, 0x0⟩,
  -- R361
  ⟨"UE_NONFIN", 0x400108, [(8, 0x20000)], 0x0, 0xFFFFFFFF, 0x0, 0x0, 0x0⟩,
  -- R361
  ⟨"UE_NONFIN_HI", 0x40010C, [(8, 0x20000)], 0x0, 0x8000FFFF, 0x80000000, 0x0, 0x0⟩,
  -- R361
  ⟨"UE_GMISS", 0x400110, [(8, 0x20000)], 0x0, 0xFFFFFFFF, 0x0, 0x0, 0x0⟩,
  -- R361
  ⟨"UE_GMISS_HI", 0x400114, [(8, 0x20000)], 0x0, 0x8000FFFF, 0x80000000, 0x0, 0x0⟩,
  -- R361
  ⟨"UE_COPYFAIL", 0x400118, [(8, 0x20000)], 0x0, 0xFFFFFFFF, 0x0, 0x0, 0x0⟩,
  -- R361
  ⟨"UE_COPYFAIL_HI", 0x40011C, [(8, 0x20000)], 0x0, 0x8000FFFF, 0x80000000, 0x0, 0x0⟩,
  -- R361
  ⟨"UE_STATEUE", 0x400120, [(8, 0x20000)], 0x0, 0xFFFFFFFF, 0x0, 0x0, 0x0⟩,
  -- R361
  ⟨"UE_STATEUE_HI", 0x400124, [(8, 0x20000)], 0x0, 0x8000FFFF, 0x80000000, 0x0, 0x0⟩,
  -- R361
  ⟨"UE_MAP_LO", 0x401000, [(8, 0x20000), (64, 0x10)], 0xFFFFFFC0, 0xFFFFFFC0, 0x0, 0x0, 0x0⟩,
  -- R361
  ⟨"UE_MAP_HI", 0x401004, [(8, 0x20000), (64, 0x10)], 0xFFFF, 0xFFFF, 0x0, 0x0, 0x0⟩,
  -- R361
  ⟨"UE_MAP_NUM", 0x401008, [(8, 0x20000), (64, 0x10)], 0x1FFF, 0x1FFF, 0x0, 0x0, 0x0⟩,
  -- R361
  ⟨"UE_MAP_CTL", 0x40100C, [(8, 0x20000), (64, 0x10)], 0x1, 0xFFF001F, 0x10, 0x0, 0x0⟩,
  -- R363
  ⟨"UE_PGRP0", 0x422000, [], 0x1FFFF, 0x8001FFFF, 0x80000000, 0x0, 0x10000⟩,
  -- R363
  ⟨"UE_PGRP", 0x422040, [(63, 0x40)], 0x1FFFF, 0x8001FFFF, 0x80000000, 0x0, 0x0⟩,
  -- R363
  ⟨"UE_CRV_BASE_LO", 0x422004, [(64, 0x40)], 0xFFFFFFC0, 0xFFFFFFC0, 0x0, 0x0, 0x0⟩,
  -- R363
  ⟨"UE_CRV_BASE_HI", 0x422008, [(64, 0x40)], 0xFFFF, 0xFFFF, 0x0, 0x0, 0x0⟩,
  -- R363
  ⟨"UE_SWAP", 0x42200C, [(64, 0x40)], 0x0, 0x0, 0x0, 0x0, 0x0⟩,
  -- R363
  ⟨"UE_BANKST", 0x422010, [(64, 0x40)], 0x0, 0x10003, 0x10000, 0x0, 0x0⟩,
  -- R363
  ⟨"UE_CMD", 0x422014, [(64, 0x40)], 0x0, 0x0, 0x0, 0x0, 0x0⟩,
  -- R363
  ⟨"UE_CMDSTAT", 0x422018, [(64, 0x40)], 0x0, 0xF, 0xE, 0x0, 0x0⟩,
  -- R363
  ⟨"UE_EVT", 0x42201C, [(64, 0x40)], 0x0, 0x7F, 0x7F, 0x0, 0x0⟩,
  -- R363
  ⟨"UE_EVT_EN", 0x422020, [(64, 0x40)], 0x7F, 0x7F, 0x0, 0x0, 0x0⟩,
  -- R363
  ⟨"UE_SEL", 0x422024, [(64, 0x40)], 0x1, 0x1, 0x0, 0x0, 0x0⟩,
  -- R364
  ⟨"UE_GRP0", 0x424000, [(256, 0x20)], 0xFF1F01, 0xFF1F01, 0x0, 0x0, 0xFF0001⟩,
  -- R364
  ⟨"UE_GRP1", 0x424004, [(256, 0x20)], 0x1FF01FF, 0x1FF01FF, 0x0, 0x0, 0xFF00FF⟩,
  -- R364
  ⟨"UE_GRP2", 0x424008, [(256, 0x20)], 0xFFFFFFFF, 0xFFFFFFFF, 0x0, 0x0, 0x0⟩,
  -- R364
  ⟨"UE_GRP3", 0x42400C, [(256, 0x20)], 0xFFFFFFFF, 0xFFFFFFFF, 0x0, 0x0, 0x3F800000⟩,
  -- R364
  ⟨"UE_GRP4", 0x424010, [(256, 0x20), (3, 0x4)], 0xFFFFFFFF, 0xFFFFFFFF, 0x0, 0x0, 0x0⟩,
  -- R364
  ⟨"UE_GRP7", 0x42401C, [(256, 0x20)], 0x0, 0x0, 0x0, 0x0, 0x0⟩,
  -- R361
  ⟨"UE_LRMUL", 0x426000, [(256, 0x4)], 0xFFFFFFFF, 0xFFFFFFFF, 0x0, 0x0, 0x3F800000⟩,
  -- R341
  ⟨"UE_ROW_A", 0x427000, [(32, 0x40), (4, 0x4)], 0xFFFFFFFF, 0xFFFFFFFF, 0x0, 0x0, 0x0⟩,
  -- R341
  ⟨"UE_ROW_C0", 0x427010, [(32, 0x40)], 0xFFFFFFFF, 0xFFFFFFFF, 0x0, 0x0, 0x3F800000⟩]

/-- UE_ window. Part 2. -/
def ueRegs1 : List RegDesc := [
  -- R341
  ⟨"UE_ROW_C1", 0x427014, [(32, 0x40), (5, 0x4)], 0xFFFFFFFF, 0xFFFFFFFF, 0x0, 0x0, 0x0⟩,
  -- R341
  ⟨"UE_ROW_EPS", 0x427028, [(32, 0x40)], 0xFFFFFFFF, 0xFFFFFFFF, 0x0, 0x0, 0x3F800000⟩,
  -- R341
  ⟨"UE_ROW_VALID", 0x42702C, [(32, 0x40)], 0x0, 0x80000000, 0x0, 0x0, 0x80000000⟩,
  -- R361
  ⟨"UE_MON", 0x428000, [(256, 0x20), (8, 0x4)], 0x0, 0xFFFFFFFF, 0x0, 0x0, 0x0⟩]

/-- UE_ window. -/
def ueRegs : List RegDesc := ueRegs0 ++ ueRegs1

/-- MU_ window, one block per cluster. -/
def muRegs : List RegDesc := [
  -- R155
  ⟨"MU_CL_ALIAS", 0x800000, [(640, 0x1000), (16, 0x4)], 0x17F, 0x77F, 0x400, 0x0, 0x0⟩,
  -- R155
  ⟨"MU_CL_ARB", 0x800040, [(640, 0x1000)], 0xFF, 0xFF, 0x0, 0x0, 0x40⟩,
  -- R155
  ⟨"MU_CL_LINKERR", 0x800048, [(640, 0x1000)], 0x0, 0xFFFFFFFF, 0x0, 0x0, 0x0⟩,
  -- R155
  ⟨"MU_CL_LINKERR_HI", 0x80004C, [(640, 0x1000)], 0x0, 0x8000FFFF, 0x80000000, 0x0, 0x0⟩,
  -- R555
  ⟨"MU_CL_FENCE", 0x800050, [(640, 0x1000)], 0xF, 0x1000F, 0x10000, 0x0, 0x0⟩,
  -- R555
  ⟨"MU_CL_FCAUSE_LO", 0x800058, [(640, 0x1000)], 0x0, 0xFFFFFFFF, 0x0, 0x0, 0x0⟩,
  -- R555
  ⟨"MU_CL_FCAUSE_HI", 0x80005C, [(640, 0x1000)], 0x0, 0xFFFFFFFF, 0x0, 0x0, 0x0⟩]

/-- The table of the window a BAR0 offset lies in (R40). -/
def windowRegs (off : Nat) : List RegDesc :=
  if off < 0x10000 then shpRegs
  else if off < 0x20000 then evcRegs
  else if off < 0x30000 then pwrRegs
  else if off < 0x40000 then []
  else if off < 0x80000 then hiRegs
  else if off < 0x90000 then stRegs
  else if off < 0xA0000 then rdRegs
  else if off < 0xB0000 then cmRegs
  else if off < 0xC0000 then svRegs
  else if off < 0xD0000 then fdRegs
  else if off < 0x100000 then []
  else if off < 0x200000 then fbRegs
  else if off < 0x300000 then macRegs
  else if off < 0x400000 then mtRegs
  else if off < 0x500000 then ueRegs
  else if off < 0x800000 then []
  else if off < 0xC00000 then muRegs
  else []

/-- The device register at a BAR0 offset. -/
def findBar0 (off : Nat) : Option RegDesc := findReg (windowRegs off) off

/-- The CSR of a number (R84). -/
def findCsr (n : Nat) : Option RegDesc := findReg csrRegs n

/-- The Reset column of a CSR; numbers without a register read 0. -/
def csrReset (n : Nat) : Word :=
  match findCsr n with
  | some r => BitVec.ofNat 32 r.reset
  | none => 0

/-- A write by access code: RW bits take the value, W1C bits are cleared and W1S bits set by ones (R13, R15). -/
def writeCode (r : RegDesc) (old v : Word) : Word :=
  let rw : Word := BitVec.ofNat 32 r.rw
  let c : Word := BitVec.ofNat 32 r.w1c
  let st : Word := BitVec.ofNat 32 r.w1s
  ((((old &&& ~~~rw) ||| (v &&& rw)) &&& ~~~(v &&& c)) ||| (v &&& st))

/-- A read by access code: WO and RSVD bits read 0 (R13). -/
def readCode (r : RegDesc) (v : Word) : Word := v &&& BitVec.ofNat 32 r.rd

end Sys2Proof.Machine
end

