-- ==== Sys2Proof/Machine/Sparse.lean ====
section
/-!
DEFINITION. Sparse plain data by key: a list of (key, value) pairs, keys strictly rising, no entry
equal to what an unlisted key reads as. Memory, register files and tables of like units are held so.
-/

namespace Sys2Proof.Machine

/-- Sparse data by key (for bytes this is a list of the host's cells). -/
abbrev Map (α : Type) := List (Nat × α)

/-- The value at a key; `d` says what an unlisted key reads as. -/
def Map.get {α : Type} (d : Nat → α) : Map α → Nat → α
  | [], k => d k
  | (j, v) :: t, k => if k = j then v else Map.get d t k

/-- The data without any entry at `k`. -/
def Map.del {α : Type} (k : Nat) : Map α → Map α
  | [] => []
  | (j, v) :: t => if k = j then Map.del k t else (j, v) :: Map.del k t

/-- The data with an entry at `k`, in key order. -/
def Map.ins {α : Type} (k : Nat) (v : α) : Map α → Map α
  | [] => [(k, v)]
  | (j, w) :: t =>
    if k < j then (k, v) :: (j, w) :: t
    else if k = j then (k, v) :: t
    else (j, w) :: Map.ins k v t

/-- The data with value `v` at `k`; writing what an unlisted key reads as removes the entry. -/
def Map.set {α : Type} [DecidableEq α] (d : Nat → α) (m : Map α) (k : Nat) (v : α) : Map α :=
  if v = d k then Map.del k m else Map.ins k v m

/-- The canonical form: keys strictly rising from `lo`, no entry equal to the default. -/
def Map.wfFrom {α : Type} [DecidableEq α] (d : Nat → α) : Nat → Map α → Bool
  | _, [] => true
  | lo, (j, v) :: t => decide (lo ≤ j) && (decide (v ≠ d j) && Map.wfFrom d (j + 1) t)

/-- The canonical form of sparse data. -/
def Map.wf {α : Type} [DecidableEq α] (d : Nat → α) (m : Map α) : Bool := Map.wfFrom d 0 m

/-- The value at a key changed by a function. -/
def Map.upd {α : Type} [DecidableEq α] (d : Nat → α) (m : Map α) (k : Nat) (f : α → α) : Map α :=
  m.set d k (f (m.get d k))

/-- `n` consecutive values from key `k`. -/
def Map.getN {α : Type} (d : Nat → α) (m : Map α) (k n : Nat) : List α :=
  (List.range n).map fun i => m.get d (k + i)

/-- Consecutive values stored from key `k` on. -/
def Map.setN {α : Type} [DecidableEq α] (d : Nat → α) : Map α → Nat → List α → Map α
  | m, _, [] => m
  | m, k, v :: t => Map.setN d (m.set d k v) (k + 1) t

/-- The data without the entries whose key lies in [lo, lo + n). -/
def Map.clearRange {α : Type} (m : Map α) (lo n : Nat) : Map α :=
  m.filter fun e => decide (e.1 < lo) || decide (lo + n ≤ e.1)

/-- The keys listed. -/
def Map.keys {α : Type} (m : Map α) : List Nat := m.map (·.1)

/-- Every listed value changed by a function, in canonical form. -/
def Map.mapAll {α : Type} [DecidableEq α] (d : Nat → α) (f : Nat → α → α) : Map α → Map α
  | [] => []
  | (j, v) :: t =>
    let t' := Map.mapAll d f t
    if f j v = d j then t' else (j, f j v) :: t'

end Sys2Proof.Machine
end

