-- ==== Sys2Proof/Machine/StateCore.lean ====
section
/-!
DEFINITION. The state of one core: its control core, scratchpad, instruction memory, message unit,
engines, tables and reduction interface (spec/02 to spec/07, spec/10 R382-R386). Plain data.
-/

namespace Sys2Proof.Machine

/-- A descriptor in an engine's queue, as ISSUE copied it (R68, R69, R71, R183). -/
structure Desc where
  ticket : Nat
  /-- Scratchpad address it was issued from. -/
  addr : Nat
  recd : Bool
  bytes : List Byte
  bcast : List Word
  /-- QZ_MBATCH and the instruction address at the ISSUE. -/
  mb : Nat
  iaddr : Nat
  deriving DecidableEq, Repr

/-- A descriptor past its queue (R214, R281): its stage is 0 start-up, 1 compute or running, 2 drain, 3 ended. -/
structure Job where
  desc : Desc
  stage : Nat
  /-- Fault code and detail found so far; 0 none (R70, R118). -/
  fault : Nat
  detail : Nat
  /-- The partition's step number when it started (R182, R233). -/
  step : Word
  /-- Active bank of each kind when it started, one bit per kind (R276). -/
  banks : Nat
  /-- Start-up waits for a roll (R237). -/
  rollWait : Bool
  /-- Output tag and scale bytes taken at start (R245, R237). -/
  tag : Nat
  scales : List Nat
  /-- How often the scale entry had been re-initialised when it started (R232). -/
  gen : Nat
  /-- A matrix product whose half is discarded when its compute ends (R205). -/
  drop : Bool
  /-- Accumulators at the end of compute, row by row (R204). -/
  acc : List Word
  /-- Requests not yet issued, and issued without a response (R146, R132). -/
  todo : List Rq
  out : List Rq
  /-- Rows a SEG_REDUCE over a remote core has received, by element position (R146). -/
  got : List (Nat × List Byte)
  /-- Messages sent and not yet placed (R132). -/
  msgs : Nat
  /-- Bytes of a transfer already cut into messages (R132). -/
  sent : Nat
  /-- Blocks a reduction hand-off has sent so far (R211, R213). -/
  blocks : Nat
  /-- The drain of a reduction hand-off has begun: it has the channel to itself (R212). -/
  begun : Bool
  /-- A fault met after remote requests that are still to be answered: code and detail (R145). -/
  ending : Option (Nat × Nat)
  deriving DecidableEq, Repr

/-- A held accumulator half (R204, R205). -/
structure Half where
  m : Nat
  n : Nat
  acc : List Word
  deriving DecidableEq, Repr

/-- One engine's queue and what stands past it (R68-R70, R184). -/
structure Eng where
  queue : List Desc
  /-- Ticket of the next ISSUE (R69). -/
  next : Nat
  jobs : List Job
  half : Option Half
  /-- Completion queue, oldest first, records of four words (R70). -/
  comp : List (List Word)
  /-- A record that waits for room (R70). -/
  heldRec : Option (List Word)
  /-- Stopped by QZ_NAN_CTL.STOP (R184). -/
  stopped : Bool
  deriving DecidableEq, Repr

def Eng.reset : Eng := ⟨[], 1, [], none, [], none, false⟩

/-- What a core in WAIT waits for (R53, R76, R78, R79, R126, R68). -/
inductive Wait where
  | waitq (rd : Reg) (mask : Nat)
  | fence (mask : Nat)
  | bar (imm : Nat)
  | send (rd ra rb rc : Reg) (fn : Nat)
  | issue (rd ra : Reg) (fn : Nat)
  deriving DecidableEq, Repr

/-- A SEND whose payload the message unit has not yet finished with (R73). A discarded one has `live = false`. -/
structure SendItem where
  ticket : Nat
  live : Bool
  addr : Nat
  len : Nat
  dst : Nat
  src : Nat
  cls : Nat
  ch : Nat
  /-- Units deducted, and the placement position before, returned when the payload read fails (R110). -/
  units : Nat
  posBefore : Nat
  deriving DecidableEq, Repr

/-- A transmit entry (R125, R126, R151). -/
structure TxEntry where
  dst : Nat
  ch : Nat
  rot : Bool
  seq : Nat
  cred : Nat
  cap : Nat
  recs : Nat
  pos : Nat
  deriving DecidableEq, Repr

/-- What a receive queue holds beyond its registers: records oldest first, filled zones oldest first,
amounts freed and not yet granted, and the fenced core it stands in for (R122, R124, R127, R141). -/
structure Rxq where
  recs : List (List Word)
  zones : List Nat
  ungrU : Nat
  ungrR : Nat
  standIn : Option Nat
  deriving DecidableEq, Repr

def Rxq.reset : Rxq := ⟨[], [], 0, 0, none⟩

/-- An open context of the reduction interface (R382-R386). -/
structure RdCtx where
  ch : Nat
  eln : Nat
  ebase : Nat
  nexp : Nat
  tag0 : Nat
  ntile : Nat
  tblk : Nat
  cbase : Nat
  seed : Nat
  step : Nat
  attempt : Nat
  nf : Bool
  rg : Bool
  /-- Its step has been skipped or cancelled (R396). -/
  stale : Bool
  deriving DecidableEq, Repr

/-- One core. -/
structure Core where
  /-- s1 to s31 (R49). -/
  regs : Map Word
  /-- Program counter (R50). -/
  pc : Word
  /-- CSRs by number (R84). -/
  csr : Map Word
  /-- Banked tables, history RAM, scale-entry state and vector registers, by the keys of Machine/Tables.lean. -/
  tab : Map Word
  /-- Active bank of each VE_SWAP kind, one bit per kind (R275, R279). -/
  act : Nat
  /-- A low half latched by a read of its high half (R86). -/
  latch : Map (Option Word)
  imem : Map Byte
  spad : Map Byte
  /-- Failing words of instruction memory and scratchpad: 1 failed bit is correctable, more are uncorrectable (R52, R109). -/
  imemErr : Map Nat
  spadErr : Map Nat
  wait : Option Wait
  /-- A single step is under way (R88). -/
  stepping : Bool
  /-- Engines 0 FE, 1 GE, 2 VE, 3 Retriever, 4 DMA (R68). -/
  engs : Map Eng
  /-- Fault records not yet removed, oldest first: engine and ticket (R91, R96). -/
  faults : List (Nat × Nat)
  /-- Next send ticket, SENDs not finished with, tickets sent and not accepted by a core of this device, and by another device
  (R73, R78). -/
  sendNext : Nat
  sendq : List SendItem
  sacc : List Nat
  saccFar : List Nat
  rx : Map Rxq
  tx : Map (Option TxEntry)
  /-- Open contexts of the reduction interface. -/
  ctxs : Map (Option RdCtx)
  /-- Down-counters that may have counted since their register was last read or written: timers 0 and 1, and the watchdog, one bit
  each (R99, R101). The model's own field: the model follows no clock. -/
  ticked : Nat
  deriving DecidableEq, Repr

/-- A core right after a core reset (R17, R49, R85). -/
def Core.reset : Core :=
  { regs := [], pc := 0, csr := [], tab := [], act := 0, latch := [], imem := [], spad := [],
    imemErr := [], spadErr := [], wait := none, stepping := false, engs := [], faults := [], sendNext := 1,
    sendq := [], sacc := [], saccFar := [], rx := [], tx := [], ctxs := [], ticked := 0 }

/-- What an unlisted byte of scratchpad or instruction memory reads as. -/
def byte0 : Nat → Byte := fun _ => 0
def word0 : Nat → Word := fun _ => 0
def nat0 : Nat → Nat := fun _ => 0
def eng0 : Nat → Eng := fun _ => Eng.reset
def rxq0 : Nat → Rxq := fun _ => Rxq.reset
def core0 : Nat → Core := fun _ => Core.reset
def none0 {α : Type} : Nat → Option α := fun _ => none

end Sys2Proof.Machine
end

