-- ==== Sys2Proof/Machine/StateDev.lean ====
section
/-!
DEFINITION. The state of the device outside its cores: barriers, error log, links, and the units of
spec/08 to spec/20, as plain data.
-/

namespace Sys2Proof.Machine

/-- What is fixed at manufacture (R45-R47, R685, R705): VARIANT 0 T, 1 F, 2 M. -/
structure Fuse where
  variant : Nat
  stepping : Nat
  repair : Nat
  deriving DecidableEq, Repr

/-- A barrier phase in progress: its participants and the cores that have arrived (R80). -/
structure Barrier where
  mask : Nat
  parts : List Nat
  arrived : List Nat
  deriving DecidableEq, Repr

/-- An error-log entry (R696). -/
structure LogEntry where
  seq : Nat
  time : Nat
  level : Nat
  unit : Nat
  cause : Nat
  action : Nat
  part : Nat
  pvalid : Bool
  fatal : Bool
  loc : Nat
  d1 : Nat
  d2 : Nat
  deriving DecidableEq, Repr

/-- A PCIe function: its MSI-X table, enables and power state (R557, R576-R578, R582-R587). -/
structure HostFn where
  busMaster : Bool
  d3hot : Bool
  msixEn : Bool
  fnMask : Bool
  /-- VF Enable of the function; the PF is always enabled (R582). -/
  enabled : Bool
  pmeEn : Bool
  pmeStatus : Bool
  /-- MSI-X table words 4v + w; word 3 bit 0 is the vector's Mask bit. -/
  table : Map Word
  pba : Map Bool
  /-- Due states of the STEP, MBX and ERR sources, and the OR that drives STEP (R576). -/
  dueStep : Bool
  dueMbx : Bool
  dueErr : Bool
  stepLine : Bool
  /-- The queue whose segment was served last, and the bytes the partition may still be served in its turn (R570). -/
  lastQ : Nat
  deficit : Nat
  /-- Configuration words the host has written, by the model's own numbers (R557, log entry 23). -/
  cfg : Map Word
  deriving DecidableEq, Repr

/-! ### The step controller (R288-R322) -/

/-- A step that has begun and not left; its state stands in ST_STAT.SA or ST_STAT.SB. -/
structure OpenStep where
  num : Nat
  att : Nat
  /-- The host has written CLOSE (R292). -/
  hclosed : Bool
  /-- VETO was written before the ballot was sent (R317). -/
  veto : Bool
  /-- The device's own ballot is ready (R292). -/
  ready : Bool
  /-- VTMO has been raised for it (R318). -/
  vtmo : Bool
  /-- A held outcome: commit and flags (R316). -/
  held : Option (Bool × Nat)
  deriving DecidableEq, Repr

/-- Children's ballots of one step and attempt, merged (R311, R313). -/
structure Ballots where
  step : Nat
  att : Nat
  flags : Nat
  count : Nat
  children : Nat
  deriving DecidableEq, Repr

/-- A reduction channel's report of a step (R391). -/
structure Report where
  ch : Nat
  step : Nat
  att : Nat
  flags : Nat
  deriving DecidableEq, Repr

structure StepCtl where
  a : Option OpenStep
  b : Option OpenStep
  ballots : List Ballots
  reports : List Report
  deriving DecidableEq, Repr

def StepCtl.reset : StepCtl := ⟨none, none, [], []⟩

/-- A step's roll on its way to one core (R293, R319, R320). -/
structure Roll where
  core : Nat
  step : Nat
  commit : Bool
  deriving DecidableEq, Repr

/-! ### The update engines (R333-R359) -/

/-- A run entry (R336). -/
structure RunEnt where
  state : Nat
  layout : Nat
  group : Nat
  nblk : Nat
  rch : Nat
  gidx : Nat
  vrec : Nat
  norec : Bool
  coff : Nat
  last : Bool
  deriving DecidableEq, Repr

/-- The step factors of a group that is not frozen, with its row (R338, R347). -/
structure Factor where
  group : Nat
  lr : Word
  c1 : Word
  k : Word
  p : Word
  gscale : Word
  clip : Word
  rlo : Word
  rhi : Word
  row : List Word
  deriving DecidableEq, Repr

/-- The progress of an apply on one tile; sums are (group, SQD, SQW) in binary64 (R350, R359). -/
structure UeTile where
  tile : Nat
  run : Nat
  blk : Nat
  wait : Bool
  lost : Bool
  ended : Bool
  sums : List (Nat × Nat × Nat)
  deriving DecidableEq, Repr

/-- The copy of a record that is being published (R354-R358). `phase` 0 waits for holds, 1 is writing, 2 is all written. -/
structure Copy where
  tile : Nat
  vrec : Nat
  slot : Nat
  ver : Nat
  phase : Nat
  failed : Bool
  /-- Destinations, as location words of R354. -/
  locs : List Nat
  cfsel : Nat
  floor : Nat
  tgt : Nat
  rows : Nat
  lblk : Nat
  /-- Writes not yet acknowledged. -/
  out : Nat
  /-- The run by whose place in the table Final parts are ordered. -/
  run : Nat
  reemit : Bool
  deriving DecidableEq, Repr

/-- A write of copy data on its way to one destination (R356). -/
structure CopyWrite where
  tile : Nat
  part : Nat
  vrec : Nat
  loc : Nat
  reemit : Bool
  /-- The run and its block the write is of (R362). -/
  run : Nat
  blk : Nat
  pieces : List (Nat × List Byte)
  deriving DecidableEq, Repr

/-- The apply of a committed step (R319, R350, R530, R536). -/
structure Apply where
  step : Nat
  att : Nat
  opt : Nat
  facs : List Factor
  tiles : List UeTile
  copies : List Copy
  mirFailed : Bool
  markSent : Bool
  marked : Bool
  /-- A restore of the step before has completed since LOST was set. -/
  restored : Bool
  /-- A function reset disarms the run tables when the step leaves (R353). -/
  disarm : Bool
  deriving DecidableEq, Repr

/-- A Comet request without its response (R523, R527, R528, R534): kind 0 MIRROR, 1 MARK of a step, 2 READ, 3 MARK of a restore. -/
structure CmReq where
  part : Nat
  tile : Nat
  seq : Nat
  kind : Nat
  step : Nat
  line : Nat
  len : Nat
  deriving DecidableEq, Repr

/-! ### Reduction channels (R366-R397) -/

/-- What a combiner holds of one step besides its blocks (R387-R393): flags NF 1, RG 2, CK 4. -/
structure RedStep where
  step : Nat
  att : Nat
  /-- NF 1, RG 2, CK of a check that failed here 4, CK that a record carried 8. -/
  flags : Nat
  ends : Nat
  complete : Bool
  /-- Buckets sealed, CLOSE written, and the bucket stream's END added. -/
  sealed : List Nat
  closing : Bool
  closed : Bool
  deriving DecidableEq, Repr

/-- A sealed bucket whose conversion runs (R393). -/
structure Seal where
  ch : Nat
  area : Nat
  k : Nat
  step : Nat
  att : Nat
  /-- READs of the owner's exponent array it sent, and the answers by position; an ERROR answer has no bytes (R376). -/
  need : Nat
  exps : List (Nat × List Byte)
  deriving DecidableEq, Repr

/-! ### Ports (R426-R449, R475-R479) -/

/-- A frame in a transmit queue or a replay buffer. `flow` is its partition, 64 for transit traffic; `hop` is 0 for the cable's other
end, k + 1 for entry k of the peer table; `lseq` is set once the frame has been sent under retry. -/
structure TxFrame where
  flow : Nat
  shared : Bool
  hop : Nat
  lseq : Option Nat
  wyn : Wyn
  deriving DecidableEq, Repr

/-- The frame in transmission; queue 8 stands for a pause frame. -/
structure TxNow where
  bytes : List Byte
  queue : Nat
  deriving DecidableEq, Repr

/-- Deficit round robin of one queue: the flow whose turn it is, whether it has had its quantum, and deficits by flow (R447). -/
structure Drr where
  turn : Nat
  given : Bool
  deficit : Map Nat
  deriving DecidableEq, Repr

/-- A received frame the fabric layer has not yet taken: its priority and its bytes without FCS (R435, R443). -/
structure RxFrame where
  prio : Nat
  bytes : List Byte
  deriving DecidableEq, Repr

/-- One end of a retry link (R475-R479). `sent` is unacknowledged, oldest first; the last `todo` of it are to be sent again. -/
structure RetryLink where
  next : Nat
  sent : List TxFrame
  todo : Nat
  replays : Nat
  failed : Bool
  expect : Nat
  /-- Something has been accepted, and an acceptance has not been acknowledged yet. -/
  any : Bool
  owed : Bool
  /-- The last LINK_NAK: the number it named and when (R476). -/
  nak : Option (Nat × Nat)
  deriving DecidableEq, Repr

def RetryLink.reset : RetryLink := ⟨0, [], 0, 0, false, 0, false, false, none⟩

structure Port where
  queues : Map (List TxFrame)
  now : Option TxNow
  drr : Map Drr
  /-- CBS credit in units of 1/400,000 bit (R449). -/
  credit : Map Int
  /-- Loaded pause timers that run: PAUSE, and PFC by priority; 0 is released (R440, R441). -/
  pause : Nat
  pfc : Map Nat
  rx : List RxFrame
  /-- Pause frames due, priority (8 for PAUSE) and time, and the priorities paused (R443). -/
  due : List (Nat × Nat)
  xoff : List Nat
  links : Map RetryLink
  /-- The LDHOLD timer runs (R431). -/
  hold : Bool
  /-- Link-control frames that wait for transmit space, with their hops (R444). -/
  ctlq : List (Nat × Wyn)
  deriving DecidableEq, Repr

def Port.reset : Port :=
  { queues := [], now := none, drr := [], credit := [], pause := 0, pfc := [], rx := [], due := [], xoff := [], links := [],
    hold := false, ctlq := [] }

/-! ### Feed channels (R480-R487) -/

/-- A placement entry (R483). -/
structure FdEntry where
  dest : Nat
  base : Nat
  nslot : Nat
  slotln : Nat
  sem : Nat
  semen : Bool
  first : Nat
  count : Nat
  deriving DecidableEq, Repr

/-- A record of the feed unit, with ST_STEP when its first packet arrived. -/
structure FdRecord where
  num : Nat
  step : Nat
  data : List Byte
  deriving DecidableEq, Repr

structure FdCh where
  table : List FdEntry
  /-- The first packet since the enable has set NEXTREC. -/
  started : Bool
  part : Option FdRecord
  waiting : List FdRecord
  /-- Slots in use, and GAP due in the next piece, by entry. -/
  used : Map Nat
  gaps : List Nat
  deriving DecidableEq, Repr

def FdCh.reset : FdCh := ⟨[], false, none, [], [], []⟩

/-- A restore that runs (R534): windows still to be read, the next line of the first of them, OPT of the first READ_RSP, and whether
the final MARK has been sent. -/
structure Restore where
  step : Nat
  opt : Option Nat
  wins : List Nat
  line : Nat
  marking : Bool
  deriving DecidableEq, Repr

/-! ### Host queues (R566-R574) -/

/-- A fetched command: its bytes, SQHEAD after its fetch, its age, and once it has completed its STATUS, DETAIL and FLAGS (R569-R572). Of its
segments (R570) it holds how many have been issued and how many have moved their data; of its conversion (R575) the elements converted, the
bytes written at the destination, the bytes of an element or block that the next segment completes, the flags so far, and ST_STEP when it
started. -/
structure HostCmd where
  age : Nat
  head : Nat
  bytes : List Byte
  done : Option (Nat × Nat × Nat)
  issued : Nat := 0
  moved : Nat := 0
  elems : Nat := 0
  dst : Nat := 0
  carry : List Byte := []
  fl : BitVec 6 := 0
  step : Word := 0
  deriving DecidableEq, Repr

/-- What a queue pair holds beside its registers: the SQ tail, the CQ head, and fetched commands whose entries are not written. -/
structure HostQ where
  tail : Nat
  cqHead : Nat
  cmds : List HostCmd
  deriving DecidableEq, Repr

def HostQ.reset : HostQ := ⟨0, 0, []⟩

/-! ### Serving (R592-R606) -/

/-- An entry of the request table (R593): state 0 FREE, 1 PREFILL, 2 READY, 3 RUNNING, 4 HELD, 5 DONE. `fresh` says that no decode step
has run since START (FIRST of R604). -/
structure Req where
  state : Nat
  model : Nat
  prio : Nat
  flags : Nat
  len : Nat
  maxlen : Nat
  npages : Nat
  gen : Nat
  last : Nat
  tlast : Nat
  seq : Nat
  user : Nat
  fresh : Bool
  /-- Its age has reached 2^31 µs and stays there (R603). -/
  capped : Bool
  deriving DecidableEq, Repr

def Req.reset : Req := ⟨0, 0, 0, 0, 0, 0, 0, 0, 0, 0, 0, 0, false, false⟩

/-- A batch in flight (R603-R606): `count` members in all, `await` of those taken so far without their TOKEN, `members` so far, and
whether its notification has been sent. -/
structure Batch where
  part : Nat
  model : Nat
  seq : Nat
  count : Nat
  members : List Nat
  await : Nat
  sent : Bool
  deriving DecidableEq, Repr

/-- A command that stands before the serving unit: its partition, the device it came from (0 is this one), whether the host wrote it, and its
four words (R595, R600). -/
structure SvCmd where
  part : Nat
  dev : Nat
  host : Bool
  words : List Nat
  deriving DecidableEq, Repr

/-! ### The Shepherd island (spec/18 to spec/20) -/

/-- A power transition under way (R651, R655, R656): its row, its cluster or die, and the bank of the power-state table it started
with. `wake` says that a wake event has come during an entry. -/
structure Trans where
  row : Nat
  unit : Nat
  bank : Nat
  wake : Bool
  deriving DecidableEq, Repr

/-- A package link's lanes by direction, A to B first: errors since the last retraining, and lanes out of service (R25-R27). -/
structure PLink where
  errAB : Map Nat
  errBA : Map Nat
  outAB : List Nat
  outBA : List Nat
  deriving DecidableEq, Repr

def PLink.reset : PLink := ⟨[], [], [], []⟩

/-- What fuses and flash hold beside RWP objects and the repair record (R684, R686-R688, R701, R704, R705, R708): the SVN of a valid
image by slot, the minimum SVN and how often it was raised, unlock and provisioning counts, lifetime counters by sub-index, RWP writes,
the held capture and which copy is next. -/
structure Service where
  slots : Map (Option Nat)
  minSvn : Nat
  raises : Nat
  unlocks : Nat
  provs : Nat
  life : Map Nat
  rwpWrites : Nat
  capture : Option (List Byte)
  copy : Nat
  deriving DecidableEq, Repr

/-- As devices ship (R726). -/
def Service.shipped : Service := ⟨[(0, some 0)], 0, 0, 0, 0, [], 0, none, 0⟩

/-- A response kept for a repeated request (R631). -/
structure DapKept where
  kind : Nat
  who : Nat
  tid : Nat
  resp : List Byte
  deriving DecidableEq, Repr

/-- An assembly of a DOMAIN object (R626). -/
structure DapAsm where
  kind : Nat
  who : Nat
  data : List Byte
  deriving DecidableEq, Repr

/-- A flash write of an RWP object under way, with its request (R618). -/
structure DapWrite where
  req : DapReq
  obj : Nat
  value : List Byte
  deriving DecidableEq, Repr

/-- What has left the device, newest last: the model's record of its outputs. -/
inductive OutItem where
  | msix (fn vec : Nat)
  | hostWrite (fn addr : Nat) (data : List Byte)
  | frame (port : Nat) (data : List Byte)
  | dap (fn : Nat) (data : List Byte)
  /-- A read of a BAR by a function returns its data, poisoned or not. -/
  | completion (fn : Nat) (data : List Byte) (poison : Bool)
  | pme (fn : Nat)
  /-- A configuration request is answered with Request Retry Status (R690). -/
  | retry (fn : Nat)
  /-- Of the Shepherd core and its ports: a claimed source, a response on the management Ethernet or MCTP, bits shifted out by JTAG,
  and a heartbeat sent just before a package reset. -/
  | claim (n : Nat)
  | mgmt (data : List Byte)
  | smbus (data : List Byte)
  /-- Dictionary responses: a datagram to an address and port, and an MCTP message to an endpoint with the request's tag (R632, R636). -/
  | udp (ip port : Nat) (data : List Byte)
  | mctp (eid tag : Nat) (data : List Byte)
  | jtag (bits : Nat)
  | lastFrame (w : Wyn)
  deriving DecidableEq, Repr

end Sys2Proof.Machine
end

