-- ==== Sys2Proof/Machine/State.lean ====
section
/-!
DEFINITION. The state of the block, its reset, and why a step may stop.
-/

namespace Sys2Proof.Machine

/-- Why a command may be refused. -/
inductive Refusal where
  /-- Raised by an arm of exec whose command has no meaning yet; safe: the machine stops. -/
  | notModelled (mnemonic : String)
  deriving DecidableEq, Repr

/-- Why a command may fault. -/
inductive Fault where
  /-- Raised by no meaning so far; safe: the machine would stop where the spec gives no effect. -/
  | noEffect
  deriving DecidableEq, Repr

structure State where
  /-- Commands waiting, first in first out. -/
  pending : List Instr
  /-- The model's own counter of free values drawn (Config.freeWord). -/
  freeCtr : Nat
  fuse : Fuse
  /-- The device time base (R644). -/
  sclk : DWord
  /-- Device registers by BAR0 offset; a per-function register of function f lies at f × 2^25 + offset. -/
  regs : Map Word
  /-- A low half latched by a read of its high half (R671). -/
  latch : Map (Option Word)
  cores : Map Core
  /-- Device memory by tile × 2^36 + tile-local offset (R37, R509). -/
  mem : Map Byte
  /-- Failing 64-byte lines of device memory by line number: 1 failed symbol is correctable, more are uncorrectable (R503). -/
  memErr : Map Nat
  /-- Mesh traffic in flight. -/
  net : List NetItem
  /-- Barrier phases of clusters, and of (die × 64 + partition) (R80). -/
  barC : Map (Option Barrier)
  barD : Map (Option Barrier)
  /-- The error log ring by slot, entries overwritten (R697). -/
  elog : Map (Option LogEntry)
  elogOver : Nat
  /-- Active banks of the device tables that are not core-local, one bit per key (R280). -/
  devAct : Map Nat
  fns : Map HostFn
  /-- C-dies whose PLL has lost lock, one bit each (R647). -/
  pllLost : Nat
  /-- Records of a partition the sweep has visited since BREAK (R306). -/
  swept : Map (List Nat)
  /-- The step controller of each partition, and rolls on their way to cores. -/
  stc : Map StepCtl
  rolls : List Roll
  /-- Cached run tables by tile × 64 + partition (R337). -/
  runs : Map (List RunEnt)
  applies : Map (Option Apply)
  /-- A REEMIT that is busy, by partition (R358). -/
  reemits : Map (Option Copy)
  copyq : List CopyWrite
  /-- Comet requests without a response, and the next SEQ of each source tile (R523). -/
  cmReqs : List CmReq
  cmSeq : Map Nat
  /-- Combine blocks by (2 × channel + parity) × 2^24 + J, and what else a combiner holds, by 2 × channel + parity (R374, R388). -/
  comb : Map (Option RedRec)
  redSteps : Map (Option RedStep)
  seals : List Seal
  /-- Ports by global port number (R21). -/
  ports : Map Port
  feeds : Map FdCh
  /-- Rotate transfers from other devices of which packets are still to come (R127). -/
  rotIn : List Msg
  /-- Memory requests to other devices without a response, by SEQ, and the next SEQ (R466). -/
  rqOut : List (Nat × Rq)
  rqSeq : Nat
  /-- A restore that runs, by partition (R534). -/
  restores : Map (Option Restore)
  /-- Host queue pairs, and the number of commands fetched so far. -/
  hostqs : Map HostQ
  hostSeq : Nat
  /-- The partition whose turn the segment scheduler has reached (R570), and the width and speed the host link has trained to, none while
  it trains (R556, R690). -/
  hostTurn : Nat
  hostLink : Option (Nat × Nat)
  /-- The request table by request id, batches in flight, and commands that stand at command ports (R592-R606). -/
  reqs : Map Req
  batches : List Batch
  svq : List SvCmd
  /-- The next line of each tile's patrol scrub (R508). -/
  scrub : Map Nat
  /-- Power transitions under way, the actions held (SR 1, LINKDN 2, HBSB 4), an
  episode of CAPMISS, and the THERMTRIP_N land (R651-R663). -/
  trans : List Trans
  pwrHeld : Nat
  capMiss : Bool
  thermtrip : Bool
  /-- The class of each active source, and the filtered levels of the event pins, one bit each (R666, R670). -/
  evcClass : Map Nat
  pins : Nat
  plinks : Map PLink
  /-- The other image slot has been tried since the reset (R688). -/
  bootRetry : Bool
  svc : Service
  /-- A capture that is frozen and not yet in flash, and freezes refused (R701). -/
  capPend : Option (List Byte)
  capRefused : Nat
  /-- Thermal trips, fatal errors and a hot governor period of the hour that runs (R705). -/
  hourTrips : Nat
  hourFatals : Nat
  hourHot : Bool
  /-- The JTAG instruction, an outstanding challenge, test modes unlocked, failed responses and when the last one failed (R702-R704). -/
  jtag : Nat
  challenge : Bool
  unlocked : Bool
  respFails : Nat
  respAt : Option Nat
  /-- RWP objects in flash, by index × 256 + sub-index, and as they were at the last package reset (R612, R618). -/
  objs : Map Nat
  objsBoot : Map Nat
  /-- The Dictionary: requests queued, a flash write under way, kept responses, assemblies, requests discarded, and the MCTP endpoint
  id (R618, R626-R640). -/
  dapq : List DapReq
  dapWrite : Option DapWrite
  dapKept : List DapKept
  dapAsm : Map (Option DapAsm)
  dapDrop : Nat
  mctpEid : Nat
  /-- Entries of the repair record, 8 bytes each (R693). -/
  repairRec : List (List Byte)
  out : List OutItem
  deriving DecidableEq, Repr

/-- Right after a package reset and before boot, with fuses and flash as given (R17, R682-R684, log entry 20). -/
def State.fresh (fuse : Fuse) (svc : Service) (objs : Map Nat) (rep : List (List Byte)) (cap fmax thr : Nat) : State :=
  { pending := [], freeCtr := 0, fuse := fuse, sclk := 0,
    regs := [(0x20010, BitVec.ofNat 32 cap), (0x20014, BitVec.ofNat 32 fmax), (0x20018, BitVec.ofNat 32 (fmax + 16 * 2 ^ 16)),
             (0x20020, BitVec.ofNat 32 thr)].filter fun e => decide (e.2 ≠ 0),
    latch := [], cores := [], mem := [], memErr := [], net := [], barC := [], barD := [], elog := [], elogOver := 0, devAct := [],
    fns := [], pllLost := 0, swept := [], stc := [], rolls := [], runs := [], applies := [], reemits := [], copyq := [], cmReqs := [],
    cmSeq := [], comb := [], redSteps := [], seals := [], ports := [], feeds := [], rotIn := [], rqOut := [], rqSeq := 0, restores := [],
    hostqs := [], hostSeq := 0, hostTurn := 0, hostLink := none, reqs := [], batches := [], svq := [], scrub := [], trans := [], pwrHeld := 0,
    capMiss := false, thermtrip := false, evcClass := [], pins := 0xFF, plinks := [], bootRetry := false, svc := svc, capPend := none,
    capRefused := 0, hourTrips := 0, hourFatals := 0, hourHot := false, jtag := 1, challenge := false, unlocked := false, respFails := 0,
    respAt := none, objs := objs, objsBoot := objs, dapq := [], dapWrite := none, dapKept := [], dapAsm := [], dapDrop := 0, mctpEid := 0,
    repairRec := rep, out := [] }

/-- The device as it ships, right after reset: a TK-4610T of stepping 0 whose C-dies are unrepaired. -/
def State.reset : State := State.fresh ⟨0, 0, 0x28282828⟩ Service.shipped [] [] 700 900 100

end Sys2Proof.Machine
end

