-- ==== Sys2Proof/Machine/Topology.lean ====
section
/-!
DEFINITION. Where things lie in the package: which C-die an edge site adjoins, the two ends of each package link, the dies a packet
passes, and the physical row behind a logical one (spec/01 R19, R22, R24, R35; spec/03 R135).
-/

namespace Sys2Proof.Machine

/-- The C-die that edge site k adjoins (R19). -/
def siteDie (k : Nat) : Nat :=
  if k = 0 ∨ k = 7 then 0 else if k = 1 ∨ k = 2 then 1 else if k = 5 ∨ k = 6 then 2 else 3

/-- An end of a package link: a C-die or an edge site. -/
inductive LinkEnd where
  | die (d : Nat)
  | site (k : Nat)
  deriving DecidableEq, Repr

/-- The A end and the B end of package link j (R22). -/
def linkEnds (j : Nat) : LinkEnd × LinkEnd :=
  match j with
  | 0 => (.die 0, .die 1)
  | 1 => (.die 2, .die 3)
  | 2 => (.die 0, .die 2)
  | 3 => (.die 1, .die 3)
  | k + 4 => (.die (siteDie k), .site k)

/-- The package links that end at C-die d: its two bridges and its two site links. -/
def dieLinks (d : Nat) : List Nat :=
  (List.range 12).filter fun j => (linkEnds j).1 == .die d || (linkEnds j).2 == .die d

/-- C-dies 0 and 1 lie beside each other, as do 2 and 3; 0 and 2 share the left column (R34). -/
def dieAt (row col : Nat) : Nat := 2 * row + col

/-- The dies a packet from die a to die b enters after a: across the horizontal bridge first, then the vertical one (R24, R135). -/
def dieRoute (a b : Nat) : List Nat :=
  (if a % 2 = b % 2 then [] else [dieAt (a / 2) (b % 2)]) ++ (if a / 2 = b / 2 then [] else [dieAt (b / 2) (b % 2)])

/-- The bridge between two adjacent dies. -/
def bridgeOf (a b : Nat) : Option Nat :=
  (List.range 4).find? fun j => linkEnds j == (.die a, .die b) || linkEnds j == (.die b, .die a)

/-- The physical row that serves die-local logical row l of a die whose repaired row is `rr`; 40 is unrepaired (R35, R47). -/
def physRow (rr l : Nat) : Nat := if l < rr then l else l + 1

/-- RRd of the SHP_REPAIR word (R47): the physical row of die d that is held powered off. -/
def repairRow (word d : Nat) : Nat := (word >>> (8 * d)) % 64

/-- The physical place of a core on its die under the device's repair word (R34, R35). -/
def corePlace (word c : Nat) : Nat × Nat × Nat :=
  (coreDie c, physRow (repairRow word (coreDie c)) (coreRow c % 40), coreCol c % 64)

end Sys2Proof.Machine
end

