-- ==== Sys2Proof/Machine/Ops.lean ====
section
/-!
DEFINITION. The named operations over registers, counters, events, the error log and partitions that every
unit shares (spec/00, spec/01, spec/16 R561-R564, R576-R578, spec/19 R664-R673, spec/20 R695-R697).
-/

namespace Sys2Proof.Machine

/-! ### Registers -/

/-- BAR0 is 32 MiB; function f's own registers are held at f × 32 MiB (R40). -/
def fnKey (f off : Nat) : Nat := f * 0x2000000 + off

/-- Reset values the tables leave to the device: site fill, base MAC, the UDP port of a feed channel (R20, R45, R451, R493). -/
def regReset (key : Nat) : Word :=
  let off := key % 0x2000000
  match findBar0 off with
  | none => 0
  | some r =>
    if 0x200000 ≤ off ∧ off < 0x300000 ∧ off % 0x8000 = 8 then
      BitVec.ofNat 32 ((Config.baseMac + (off - 0x200000) / 0x8000) % 2 ^ 32)
    else if 0x200000 ≤ off ∧ off < 0x300000 ∧ off % 0x8000 = 12 then
      BitVec.ofNat 32 ((Config.baseMac + (off - 0x200000) / 0x8000) / 2 ^ 32 % 2 ^ 16)
    else if 0xC0000 ≤ off ∧ off < 0xD0000 ∧ off % 0x400 = 0x30 then
      BitVec.ofNat 32 (r.reset + (off - 0xC0000) / 0x400)
    else BitVec.ofNat 32 r.reset

def State.reg (s : State) (k : Nat) : Word := s.regs.get regReset k
def State.setReg (s : State) (k : Nat) (v : Word) : State := { s with regs := s.regs.set regReset k v }
/-- A field of a device register. -/
def State.regFld (s : State) (k lo len : Nat) : Nat := fld (s.reg k) lo len
def State.setRegFld (s : State) (k lo len v : Nat) : State := s.setReg k (setFld (s.reg k) lo len v)
def State.orReg (s : State) (k m : Nat) : State := s.setReg k (orBits (s.reg k) m)
def State.clrReg (s : State) (k m : Nat) : State := s.setReg k (s.reg k &&& ~~~(BitVec.ofNat 32 m))
/-- A 64-bit register pair as a number. -/
def State.reg64 (s : State) (k : Nat) : Nat := (s.reg k).toNat + 2 ^ 32 * (s.reg (k + 4)).toNat

def State.core (s : State) (c : Nat) : Core := s.cores.get core0 c
def State.setCore (s : State) (c : Nat) (k : Core) : State := { s with cores := s.cores.set core0 c k }
def State.modCore (s : State) (c : Nat) (f : Core → Core) : State := s.setCore c (f (s.core c))

def Core.get (k : Core) (n : Nat) : Word := k.csr.get csrReset n
def Core.put (k : Core) (n : Nat) (v : Word) : Core := { k with csr := k.csr.set csrReset n v }
def Core.cf (k : Core) (n lo len : Nat) : Nat := fld (k.get n) lo len
def Core.putFld (k : Core) (n lo len v : Nat) : Core := k.put n (setFld (k.get n) lo len v)
def Core.orCsr (k : Core) (n m : Nat) : Core := k.put n (orBits (k.get n) m)
def Core.clrCsr (k : Core) (n m : Nat) : Core := k.put n (k.get n &&& ~~~(BitVec.ofNat 32 m))
/-- A scalar register; s0 reads as 0 (R49). -/
def Core.s (k : Core) (r : Reg) : Word := if r = 0 then 0 else k.regs.get word0 r.toNat
/-- A write of a scalar register; a write of s0 is discarded (R49). -/
def Core.setS (k : Core) (r : Reg) (v : Word) : Core :=
  if r = 0 then k else { k with regs := k.regs.set word0 r.toNat v }
def Core.eng (k : Core) (e : Nat) : Eng := k.engs.get eng0 e
def Core.setEng (k : Core) (e : Nat) (x : Eng) : Core := { k with engs := k.engs.set eng0 e x }
def Core.rxq (k : Core) (q : Nat) : Rxq := k.rx.get rxq0 q
def Core.setRxq (k : Core) (q : Nat) (x : Rxq) : Core := { k with rx := k.rx.set rxq0 q x }
/-- Run state (R53): 0 HALT, 1 RUN, 2 WAIT, 3 LOAD, 4 FENCED. -/
def Core.rs (k : Core) : Nat := k.cf 1 0 3
def Core.setRs (k : Core) (v : Nat) : Core := k.putFld 1 0 3 v

def State.csr (s : State) (c n : Nat) : Word := (s.core c).get n

/-! ### RWP objects of the Dictionary (R612, R618, R642, R681, R591, R708, R725) -/

def objKey (i sub : Nat) : Nat := i * 256 + sub
/-- The DEFAULT of an RWP object. -/
def objReset (k : Nat) : Nat :=
  if k = objKey 0x0110 1 then 1
  else if k = objKey 0x0180 1 then 48621
  else if k = objKey 0x0181 1 ∨ k = objKey 0x0181 2 then 2
  else if k = objKey 0x0181 3 then 1
  else if k = objKey 0x0182 1 then 0x4C
  else if k = objKey 0x1000 1 then 700
  else if k = objKey 0x1001 1 then 900
  else if k = objKey 0x1003 1 then 100
  else if k = objKey 0x40FF 1 then 32
  else 0
def State.obj (s : State) (i sub : Nat) : Nat := s.objs.get objReset (objKey i sub)

/-! ### Free values -/

/-- The next free value; nothing constrains it. -/
def State.freeVal (s : State) : Word × State :=
  (Config.freeWord s.freeCtr, { s with freeCtr := s.freeCtr + 1 })

/-! ### Events and the event controller (R664-R668) -/

def evcPendKey (src : Nat) : Nat := 0x10400 + 4 * (src / 32)
def evcActiveKey (src : Nat) : Nat := 0x10480 + 4 * (src / 32)
def State.evcActive (s : State) (src : Nat) : Bool := bit (s.reg (evcActiveKey src)) (src % 32)
def State.evcSetPend (s : State) (src : Nat) : State := s.orReg (evcPendKey src) (2 ^ (src % 32))

/-- Whether source `src` is of the edge kind (R679). -/
def State.evcEdge (s : State) (src : Nat) : Bool :=
  if src < 8 then bit (s.reg (0x10700 + 4 * src)) 8 else src == 64

/-- The OR of the enabled event bits of a register pair. -/
def State.evOr (s : State) (evt en : Nat) : Bool := (s.reg evt &&& s.reg en) ≠ 0

/-- A lane fault of C-die d: a package link that ends at it runs at half width (R27, R664). -/
def State.laneFault (s : State) (d : Nat) : Bool := (dieLinks d).any fun j => s.regFld (0x100 + 0x20 * j) 0 2 == 3

/-- The line of a level source (R664). Source 65 is a queued request, 66 to 69 are a die's PLL, lane faults
and temperature (log entry 21). -/
def State.evcLine (s : State) (src : Nat) : Bool :=
  if src < 8 then bit (s.reg (0x10700 + 4 * src)) 10
  else if src < 20 then bit (s.reg (0x100 + 0x20 * (src - 8))) 16
  else if src < 28 then s.evOr (0x300028 + 0x20000 * (src - 20)) (0x30002C + 0x20000 * (src - 20))
  else if src < 60 then s.evOr (0x200038 + 0x8000 * (src - 28)) (0x20003C + 0x8000 * (src - 28))
  else if src = 60 then s.evOr 0x104020 0x104024
  else if src = 61 then s.evOr 0x90000 0x90004
  else if src = 62 then s.evOr 0xA8008 0xA800C
  else if src = 63 then s.evOr 0x20050 0x20054
  else if src = 65 then !s.dapq.isEmpty
  else if src = 66 ∨ src = 67 ∨ src = 68 ∨ src = 69 then
    s.pllLost.testBit (src - 66) || s.laneFault (src - 66) || decide (105 * 16 ≤ (s.reg (0x20030 + 4 * (src - 66))).toNat ∧ (s.reg (0x20030 + 4 * (src - 66))).toNat < 2 ^ 15)
  else if src < 128 then false
  else if src < 192 then s.evOr (0x80084 + 0x400 * (src - 128)) (0x80088 + 0x400 * (src - 128))
  else if src < 256 then s.evOr (0x42201C + 0x40 * (src - 192)) (0x422020 + 0x40 * (src - 192))
  else if src < 320 then s.evOr (0xA0020 + 0x200 * (src - 256)) (0xA0024 + 0x200 * (src - 256))
  else if src < 384 then s.evOr (fnKey (src - 320) 0x70008) (fnKey (src - 320) 0x7000C)
  else if src < 448 then s.evOr (0xB0054 + 0x400 * (src - 384)) (0xB0058 + 0x400 * (src - 384))
  else bit (s.reg (0xC0038 + 0x400 * (src - 448))) 3

/-- A level source whose line is 1 and which is not active becomes pending (R665). -/
def State.evcSample (s : State) (src : Nat) : State :=
  if s.evcLine src && !s.evcActive src && !s.evcEdge src then s.evcSetPend src else s

/-! ### Host interrupts (R576-R578) -/

def fn0 : Nat → HostFn := fun f =>
  { busMaster := false, d3hot := false, msixEn := false, fnMask := false, enabled := f == 0, pmeEn := false,
    pmeStatus := false, table := [], pba := [], dueStep := false, dueMbx := false, dueErr := false,
    stepLine := false, lastQ := 0, deficit := 0, cfg := [] }
def State.fn (s : State) (f : Nat) : HostFn := s.fns.get fn0 f
def State.setFn (s : State) (f : Nat) (x : HostFn) : State := { s with fns := s.fns.set fn0 f x }
/-- Whether the host interface is open to a function: from boot stage 8, and in recovery to the PF (R689, R690, R692). -/
def State.hostOpen (s : State) (f : Nat) : Bool := decide (8 ≤ s.regFld 0x2000 0 4) || (f == 0 && bit (s.reg 0x2000) 5)

/-- Whether a function decodes accesses to its BARs: open, enabled and in D0 (R585). -/
def State.decodes (s : State) (f : Nat) : Bool := s.hostOpen f && (s.fn f).enabled && !(s.fn f).d3hot

/-- MSI-X table words reset to a set Mask bit. -/
def msixWord0 (k : Nat) : Word := if k % 4 = 3 then 1 else 0
def HostFn.vecMask (x : HostFn) (v : Nat) : Bool := bit (x.table.get msixWord0 (4 * v + 3)) 0
def HostFn.pbaBit (x : HostFn) (v : Nat) : Bool := x.pba.get (fun _ => false) v
def HostFn.setPba (x : HostFn) (v : Nat) (b : Bool) : HostFn :=
  { x with pba := x.pba.set (fun _ => false) v b }

/-- The queue pairs of partition p: base and number (R566). -/
def State.qpBase (s : State) (p : Nat) : Nat := s.regFld (0x78008 + 0x20 * p) 0 9
def State.qpNum (s : State) (p : Nat) : Nat := s.regFld (0x78008 + 0x20 * p) 16 10
def qKey (q : Nat) : Nat := 0x50000 + 0x40 * q

/-- The vectors of a function's STEP, MBX and ERR sources; a VF uses 6 bits of each (R588). -/
def State.fnVec (s : State) (f which : Nat) : Nat :=
  let w := if f = 0 then 11 else 6
  if which = 0 then s.regFld (fnKey f 0x70000) 0 w
  else if which = 1 then s.regFld (fnKey f 0x70000) 12 w
  else s.regFld (fnKey f 0x70004) 0 w

/-- The queue pairs of function f whose CQ names vector v. -/
def State.vecCqs (s : State) (f v : Nat) : List Nat :=
  ((List.range (s.qpNum f)).map (s.qpBase f + ·)).filter fun q => decide (s.regFld (qKey q + 0x14) 4 11 = v)
/-- Those of them that are due; a CQ with IEN = 0 never is (R577). -/
def State.dueCqs (s : State) (f v : Nat) : List Nat :=
  (s.vecCqs f v).filter fun q => bit (s.reg (qKey q + 0x24)) 13 && bit (s.reg (qKey q + 0x14)) 15

/-- Whether any source of the vector is due. -/
def State.vecDue (s : State) (f v : Nat) : Bool :=
  let x := s.fn f
  (x.dueStep && decide (s.fnVec f 0 = v)) || (x.dueMbx && decide (s.fnVec f 1 = v)) ||
    (x.dueErr && decide (s.fnVec f 2 = v)) || !(s.dueCqs f v).isEmpty

/-- A counter of 48 bits with SAT (R671): low half, high half, and whether SAT changed from 0 to 1. -/
def ctrAdd (lo hi : Word) (d : Nat) : Word × Word × Bool :=
  if bit hi 31 then (lo, hi, false)
  else
    let n := lo.toNat + 2 ^ 32 * (hi.toNat % 2 ^ 16) + d
    if 2 ^ 48 ≤ n then (0xFFFFFFFF#32, 0x8000FFFF#32, true)
    else (BitVec.ofNat 32 n, BitVec.ofNat 32 (n / 2 ^ 32), false)

/-- A counter's SAT changed from 0 to 1: an edge of source 64, captured in SHP_SAT0 and SHP_SAT1 (R672). -/
def State.satEvent (s : State) (kind csrnum loc : Nat) : State :=
  let s := s.evcSetPend 64
  if bit (s.reg 0x1010) 31 then s
  else (s.setReg 0x1010 (BitVec.ofNat 32 (kind + csrnum * 2 ^ 16 + 2 ^ 31))).setReg 0x1014 (BitVec.ofNat 32 loc)

/-- Add to a 64-bit BAR0 counter (R671, R672). -/
def State.bump (s : State) (k d : Nat) : State :=
  let (lo, hi, sat) := ctrAdd (s.reg k) (s.reg (k + 4)) d
  let s := (s.setReg k lo).setReg (k + 4) hi
  if sat then s.satEvent 1 0 (k % 0x2000000) else s

/-- Add to a 48-bit CSR counter of a core (R86, R671). -/
def State.bumpCsr (s : State) (c n d : Nat) : State :=
  let k := s.core c
  let (lo, hi, sat) := ctrAdd (k.get n) (k.get (n + 1)) d
  let s := s.setCore c ((k.put n lo).put (n + 1) hi)
  if sat then s.satEvent 2 n (mkAddr 0 (coreRow c) (coreCol c)) else s

/-- Send the message of a vector if nothing stands in the way; a mask alone sets the PBA bit, as does D3hot, with a PME (R578, R586). The
message covers every source of the vector. -/
def State.sendVec (s : State) (f v : Nat) : State :=
  let x := s.fn f
  if x.d3hot then
    let s' := s.setFn f { x.setPba v true with pmeStatus := x.pmeStatus || x.pmeEn }
    if x.pmeEn && !x.pmeStatus then { s' with out := s'.out ++ [OutItem.pme f] } else s'
  else if !(x.msixEn && x.busMaster) then s
  else if x.fnMask || x.vecMask v then s.setFn f (x.setPba v true)
  else
    let qs := s.vecCqs f v
    let x := x.setPba v false
    let x := if s.fnVec f 0 = v then { x with dueStep := false } else x
    let x := if s.fnVec f 1 = v then { x with dueMbx := false } else x
    let x := if s.fnVec f 2 = v then { x with dueErr := false } else x
    let s := s.setFn f x
    let s := qs.foldl (fun s q => s.setReg (qKey q + 0x24) 0) s
    ({ s with out := s.out ++ [OutItem.msix f v] }).bump (fnKey f 0x70110) 1

/-- Send the message of a vector that is due. -/
def State.trySend (s : State) (f v : Nat) : State := if s.vecDue f v then s.sendVec f v else s

/-- Send the message of a vector that is due or whose PBA bit is set: when its mask is cleared, and on the return to D0 (R578, R587). -/
def State.trySendPba (s : State) (f v : Nat) : State :=
  if s.vecDue f v || (s.fn f).pbaBit v then s.sendVec f v else s

/-- Recompute the OR that drives the STEP source of partition p (R576). -/
def State.stepSource (s : State) (p : Nat) : State :=
  let line := s.evcLine (128 + p) || s.evcLine (192 + p) || s.evcLine (256 + p)
  let x := s.fn p
  let s := s.setFn p { x with stepLine := line, dueStep := x.dueStep || (line && !x.stepLine) }
  if line && !x.stepLine then s.trySend p (s.fnVec p 0) else s

/-- After event bits or enables of a source have changed: sample it, and the host's STEP source with it. -/
def State.evTouch (s : State) (src : Nat) : State :=
  let s := s.evcSample src
  if 128 ≤ src ∧ src < 320 then s.stepSource ((src - 128) % 64) else s

/-- Set bits of an event register and sample its source (R664, R665). -/
def State.evSet (s : State) (evtKey m src : Nat) : State := (s.orReg evtKey m).evTouch src

/-- Set a bit of HI_FN_EVT of a function; an enabled change makes its ERR source due (R576, R590). -/
def State.fnEvt (s : State) (f b : Nat) : State :=
  let old := bit (s.reg (fnKey f 0x70008)) b
  let en := bit (s.reg (fnKey f 0x7000C)) b
  let s := s.evSet (fnKey f 0x70008) (2 ^ b) (320 + f)
  if en && !old then (s.setFn f { s.fn f with dueErr := true }).trySend f (s.fnVec f 2) else s

/-! ### The error log (R695-R697) -/

/-- Bits [47:16] of the SCLK time base. -/
def State.time32 (s : State) : Nat := (s.sclk.toNat >>> 16) % 2 ^ 32

/-- An error as the log records it; SEQ and TIME are added by the log. -/
structure Err where
  level : Nat
  unit : Nat
  cause : Nat
  action : Nat
  part : Option Nat := none
  fatal : Bool := false
  loc : Nat := 0
  d1 : Nat := 0
  d2 : Nat := 0

/-- Make an entry; the oldest is overwritten; ELOG is set in the function that sees it (R697). -/
def State.log (s : State) (e : Err) : State :=
  let seq := (s.reg 0x200C).toNat + 1
  let slot := seq % 512
  let old := s.elog.get none0 slot
  let ent : LogEntry :=
    { seq := seq, time := s.time32, level := e.level, unit := e.unit, cause := e.cause, action := e.action,
      part := e.part.getD 0, pvalid := e.part.isSome, fatal := e.fatal, loc := e.loc, d1 := e.d1, d2 := e.d2 }
  let s := { s with elog := s.elog.set none0 slot (some ent),
                    elogOver := s.elogOver + (if old.isSome then 1 else 0) }
  (s.setReg 0x200C (BitVec.ofNat 32 seq)).fnEvt (e.part.getD 0) 1

/-- The eight words of an entry (R696). -/
def LogEntry.word (e : LogEntry) (w : Nat) : Nat :=
  match w with
  | 0 => e.seq % 2 ^ 32
  | 1 => e.time
  | 2 => e.level + e.unit * 2 ^ 8 + e.cause * 2 ^ 16 + e.action * 2 ^ 24
  | 3 => e.part + (if e.pvalid then 64 else 0) + (if e.fatal then 128 else 0)
  | 4 => e.loc
  | 5 => e.d1
  | 6 => e.d2 % 2 ^ 32
  | _ => e.d2 / 2 ^ 32 % 2 ^ 32

/-! ### Sites (R20, R38) -/

/-- Whether site k holds an M-tile, by variant (R20). -/
def Fuse.hasTile (f : Fuse) (k : Nat) : Bool :=
  match f.variant with
  | 0 => k ∈ [1, 2, 3, 5, 6, 7]
  | 1 => k ∈ [1, 3, 5, 7]
  | _ => k ∈ [1, 2, 3, 4, 5, 6, 7]
/-- The present M-tiles in ascending site order (R38). -/
def Fuse.tiles (f : Fuse) : List Nat := (List.range 8).filter f.hasTile
/-- The sites of the X-dies in index order (R20). -/
def Fuse.xdies (f : Fuse) : List Nat := (List.range 8).filter fun k => !f.hasTile k
/-- SHP_DEVICE_INFO (R45). -/
def Fuse.info (f : Fuse) : Word :=
  BitVec.ofNat 32 (f.variant + f.tiles.length * 2 ^ 4 + f.xdies.length * 2 ^ 8 + f.stepping * 2 ^ 12)
/-- SHP_SITE_MAP (R46). -/
def Fuse.siteMap (f : Fuse) : Word :=
  BitVec.ofNat 32 (((List.range 8).map fun k => (if f.hasTile k then 1 else 2) * 4 ^ k).sum)

/-! ### Partitions (R561-R563) -/

structure Rect where
  cr : Nat
  cc : Nat
  nr : Nat
  nc : Nat

/-- The rectangle of clusters of partition p (R562, R590). -/
def State.rect (s : State) (p : Nat) : Rect :=
  let w := s.reg (0x78000 + 0x20 * p)
  ⟨fld w 0 5, fld w 8 5, fld w 16 5, fld w 24 6⟩

/-- The partition that owns a cluster; partition 0 where none does. -/
def State.clusterPart (s : State) (cl : Nat) : Nat :=
  ((List.range 64).find? fun p =>
    let r := s.rect p
    decide (r.cr ≤ cl / 32) && decide (cl / 32 < r.cr + r.nr) && decide (r.cc ≤ cl % 32) &&
      decide (cl % 32 < r.cc + r.nc)).getD 0

def State.corePart (s : State) (c : Nat) : Nat := s.clusterPart (coreCluster c)

/-- The device core a partition-relative address names, if it is valid in the partition (R33, R562). -/
def State.toCore (s : State) (p a : Nat) : Option Nat :=
  let r := s.rect p
  if addrBad a ∨ 4 * r.nr ≤ addrRow a ∨ 4 * r.nc ≤ addrCol a then none
  else some ((addrRow a + 4 * r.cr) * 128 + addrCol a + 4 * r.cc)

/-- A core's partition-relative address with device id 0 (R85). -/
def State.relAddr (s : State) (c : Nat) : Nat :=
  let r := s.rect (s.corePart c)
  mkAddr 0 (coreRow c - 4 * r.cr) (coreCol c - 4 * r.cc)

/-- The cores of partition p's rectangle. -/
def State.partCores (s : State) (p : Nat) : List Nat :=
  let r := s.rect p
  (List.range (4 * r.nr)).flatMap fun i => (List.range (4 * r.nc)).map fun j =>
    (4 * r.cr + i) * 128 + 4 * r.cc + j

/-- Device tables that are not core-local: the active bank of a kind (R275, R280). Kinds: 0 the port tables, 1 the power-state
table, 64 + p the group table, 128 + p the curves of partition p, 2 the row table. -/
def State.devBank (s : State) (kind : Nat) : Nat := s.devAct.get nat0 kind
/-- Bank 1 of a device table is held beside bank 0. -/
def bankKey (b k : Nat) : Nat := k + b * 0x100000000

/-- The device's own id, FB_DEVID, banked with the port tables (R472, R492). -/
def State.devId (s : State) : Nat := s.regFld (bankKey (s.devBank 0) 0x104004) 0 16

/-- Whether a device id names this device (R32). -/
def State.isOwn (s : State) (d : Nat) : Bool := d == 0 || (d == s.devId && s.devId != 0)

/-- ST_STEP of a partition: 0 until the first step begins (R182). -/
def State.stepNo (s : State) (p : Nat) : Word := s.reg (0x80010 + 0x400 * p)

/-- ADDR of R182: the core's partition-relative address with the device's own id. -/
def State.randAddr (s : State) (c : Nat) : Word :=
  BitVec.ofNat 32 (s.relAddr c + s.devId * 65536)

end Sys2Proof.Machine
end

