-- ==== Sys2Proof/Machine/Mem.lean ====
section
/-!
DEFINITION. Scratchpad, instruction memory and device memory as bytes, with their error codes
(R52, R107-R110, R37-R39, R498-R506, R563).
-/

namespace Sys2Proof.Machine

/-! ### Scratchpad (R107-R110) -/

/-- The scratchpad's size in bytes. -/
def spadSize : Nat := 0x30000

/-- The failing words a byte range touches, as word numbers. -/
def errIn (m : Map Nat) (unit a n : Nat) : List (Nat × Nat) :=
  if n = 0 then [] else m.filter fun e => decide (a / unit ≤ e.1) && decide (e.1 ≤ (a + n - 1) / unit)

/-- A corrected scratchpad word: written back, counted in CC_SPAD_CE, its address kept (R109). -/
def State.spadFix (s : State) (c w : Nat) : State :=
  let s := s.modCore c fun k =>
    { (k.put 0x54 (BitVec.ofNat 32 (8 * w))) with spadErr := k.spadErr.set nat0 w 0 }
  s.bumpCsr c 0x50 1

/-- A detection of an uncorrectable scratchpad word: counted, its address kept, and logged (R110, R695). -/
def State.spadBad (s : State) (c w cause action : Nat) : State :=
  let s := s.modCore c fun k => k.put 0x142 (BitVec.ofNat 32 (8 * w))
  let s := s.bumpCsr c 0x143 1
  s.log { level := 0x11, unit := 2, cause := cause, action := action, part := some (s.corePart c),
          loc := mkAddr 0 (coreRow c) (coreCol c), d2 := 8 * w }

/-- Account for the failing words of an access and give the first uncorrectable one's address. -/
def State.spadScan (s : State) (c a n cause action : Nat) : State × Option Nat :=
  (errIn (s.core c).spadErr 8 a n).foldl (fun (acc : State × Option Nat) e =>
    if e.2 = 1 then (acc.1.spadFix c e.1, acc.2)
    else (acc.1.spadBad c e.1 cause action, acc.2.or (some (8 * e.1)))) (s, none)

/-- Read bytes of a core's scratchpad; the address of the first uncorrectable word, if the read met one. -/
def State.spadRead (s : State) (c a n cause action : Nat) : State × List Byte × Option Nat :=
  let (s, ue) := s.spadScan c a n cause action
  (s, (s.core c).spad.getN byte0 a n, ue)

/-- Bytes at their addresses, with those of the words in `bad` left out. -/
def writeSkip (m : Map Byte) (bad : List Nat) : Nat → List Byte → List Host.Cell
  | _, [] => m
  | a, b :: t =>
    let m' := writeSkip m bad (a + 1) t
    if a / 8 ∈ bad then m' else Map.set byte0 m' a b

/-- Write bytes to a core's scratchpad: a partly written uncorrectable word stays unwritten and keeps its error,
a wholly written word loses its error (R109). Gives the first word left unwritten. -/
def State.spadWrite (s : State) (c a : Nat) (d : List Byte) (cause action : Nat) : State × Option Nat :=
  let n := d.length
  let touched := errIn (s.core c).spadErr 8 a n
  if touched.isEmpty then
    (s.modCore c fun k => { k with spad := Map.setN byte0 k.spad a d }, none)
  else
    let whole : Nat → Bool := fun w => decide (a ≤ 8 * w) && decide (8 * w + 8 ≤ a + n)
    let bad := (touched.filter fun e => !whole e.1 && decide (e.2 ≠ 1)).map (·.1)
    let s := touched.foldl (fun s e =>
      if whole e.1 then s.modCore c fun k => { k with spadErr := k.spadErr.set nat0 e.1 0 }
      else if e.2 = 1 then s.spadFix c e.1
      else s.spadBad c e.1 cause action) s
    (s.modCore c fun k => { k with spad := writeSkip k.spad bad a d }, bad.head?.map (8 * ·))

/-- An engine's write, one request per line (R108): after a line that leaves a word unwritten it makes no further request (R110).
Gives the word left unwritten. -/
def State.engWriteAux (s : State) (c : Nat) : Nat → Nat → List Byte → State × Option Nat
  | 0, _, _ => (s, none)
  | fuel + 1, a, d =>
    if d.isEmpty then (s, none)
    else
      let n := 32 - a % 32
      match s.spadWrite c a (d.take n) 0xF1 2 with
      | (s, some w) => (s, some w)
      | (s, none) => State.engWriteAux s c fuel (a + n) (d.drop n)

def State.engWrite (s : State) (c a : Nat) (d : List Byte) : State × Option Nat := s.engWriteAux c (d.length / 32 + 2) a d

/-- A little-endian word of the scratchpad, without error accounting. -/
def Core.spadW (k : Core) (a n : Nat) : Nat := leNat (k.spad.getN byte0 a n)

/-- Whether `n` bytes at `a` lie in the scratchpad. -/
def inSpad (a n : Nat) : Bool := decide (a + n ≤ spadSize)

/-! ### Device memory (R37-R39, R498-R506, R563) -/

/-- A stretch of one tile's storage. -/
structure Chunk where
  tile : Nat
  off : Nat
  len : Nat
  deriving DecidableEq, Repr

/-- The byte of storage a partition address names: tile and tile-local offset (R563). -/
def State.xlate (s : State) (p a : Nat) : Option (Nat × Nat) :=
  let w := s.reg (0x78004 + 0x20 * p)
  let ob := 2 ^ 28 * fld w 0 9
  let os := 2 ^ 28 * fld w 16 9
  let t := s.fuse.tiles
  let n := t.length
  if a < n * os then
    let page := a / 4096
    some (t.getD (page % n) 0, ob + page / n * 4096 + a % 4096)
  else if 0x800000000000 ≤ a ∧ a < 0x808000000000 then
    let tile := (a - 0x800000000000) / 2 ^ 36
    let lo := a % 2 ^ 36
    if s.fuse.hasTile tile ∧ lo < os then some (tile, ob + lo) else none
  else none

/-- The stretches of `n` bytes from partition address `a`, cut at 4 KiB pages. -/
def State.chunksAux (s : State) (p : Nat) : Nat → Nat → Nat → Option (List Chunk)
  | 0, _, _ => some []
  | fuel + 1, a, n =>
    if n = 0 then some []
    else
      let here := min n (4096 - a % 4096)
      match s.xlate p a, State.chunksAux s p fuel (a + here) (n - here) with
      | some (t, o), some l => some (⟨t, o, here⟩ :: l)
      | _, _ => none

def State.chunks (s : State) (p a n : Nat) : Option (List Chunk) := s.chunksAux p (n / 4096 + 2) a n

/-- The offset of the first byte of `n` from `a` that is not mapped (R39, R118). -/
def State.firstHole (s : State) (p : Nat) : Nat → Nat → Nat → Nat → Nat
  | 0, _, _, o => o
  | fuel + 1, a, n, o =>
    if n = 0 ∨ (s.xlate p a).isNone then o
    else
      let here := min n (4096 - a % 4096)
      State.firstHole s p fuel (a + here) (n - here) (o + here)

/-- The offset of the first stretch of which `f` holds. -/
def firstChunk (f : Chunk → Bool) : List Chunk → Nat → Nat
  | [], o => o
  | c :: t, o => if f c then o else firstChunk f t (o + c.len)

/-- Who asks: an ordinary requester, the update engine of tile t, Comet writing a buddy, Comet recovery reading one (R500, R501). -/
inductive Who where
  | ordinary
  | updateEngine (t : Nat)
  | comet
  | recovery
  deriving DecidableEq, Repr

def mtKey (k : Nat) : Nat := 0x300000 + 0x20000 * k

/-- One region entry of a tile: base page, pages, kind, partition, valid (R499, R518). -/
structure Region where
  base : Nat
  pages : Nat
  kind : Nat
  part : Nat
  valid : Bool
  deriving DecidableEq, Repr

def State.region (s : State) (k r : Nat) : Region :=
  let b := mtKey k + 0x400 + 0x10 * r
  let w := s.reg (b + 8)
  ⟨s.regFld b 0 24, s.regFld (b + 4) 0 25, fld w 0 3, fld w 8 6, bit w 31⟩

/-- Whether an access to a stretch is refused by a region it touches (R500, R501). -/
def State.regionRefuses (s : State) (p : Nat) (who : Who) (write : Bool) (c : Chunk) : Bool :=
  (List.range 16).any fun r =>
    let g := s.region c.tile r
    let hit := g.valid && decide (g.base * 4096 < c.off + c.len) && decide (c.off < (g.base + g.pages) * 4096)
    let applying := s.regFld (0x80004 + 0x400 * g.part) 0 2 == 3
    let foreign := g.part != p && !(g.kind == 3 && ((write && who == .comet) || (!write && who == .recovery)))
    hit && (foreign || (g.kind == 2 && write && applying && who != .updateEngine c.tile) ||
      (g.kind == 3 && write && who != .comet))

/-- The result of a device-memory access; a fault or an uncorrectable line names the byte offset in the transfer. -/
inductive MemRes where
  | ok (data : List Byte)
  | fault (off : Nat)
  | ue (off : Nat)
  deriving DecidableEq, Repr

/-- Number of a byte of storage in `State.mem`. -/
def memIdx (t o : Nat) : Nat := t * 2 ^ 36 + o

/-- A corrected line: written back, counted, its address kept, the threshold event (R504, R507, R727). -/
def State.lineFix (s : State) (t line : Nat) : State :=
  let k := mtKey t
  let s := { s with memErr := s.memErr.set nat0 (t * 2 ^ 30 + line) 0 }
  let s := (s.setReg (k + 0x18) (BitVec.ofNat 32 line)).setReg (k + 0x1C) (BitVec.ofNat 32 (line / 2 ^ 32))
  let s := s.bump (k + 0x100) 1
  let th := s.regFld (k + 0x10) 0 24
  let ce := (s.reg (k + 0x100)).toNat + 2 ^ 32 * s.regFld (k + 0x104) 0 16
  if th != 0 && ce % th == 0 then
    (s.evSet (k + 0x28) 2 (20 + t)).log
      { level := 0x44, unit := 15, cause := 2, action := 0, loc := t, d1 := (s.reg (k + 0x100)).toNat, d2 := line }
  else s

/-- A detection of an uncorrectable line (R505, R506, R727); `unit` is the requester's UNIT code. -/
def State.lineBad (s : State) (t line part unit : Nat) : State :=
  let k := mtKey t
  let s := (s.setReg (k + 0x20) (BitVec.ofNat 32 line)).setReg (k + 0x24) (BitVec.ofNat 32 (line / 2 ^ 32))
  let s := (s.bump (k + 0x108) 1).evSet (k + 0x28) 1 (20 + t)
  s.log { level := 0x44, unit := 15, cause := 1, action := 0, part := some part, loc := t, d1 := unit, d2 := 64 * line }

/-- A request wakes a tile in self-refresh (R511). -/
def State.tileWake (s : State) (t : Nat) : State :=
  if s.regFld (mtKey t + 4) 1 2 = 2 then s.setRegFld (mtKey t + 4) 1 2 3 else s

/-- Lines a stretch touches, and those it covers whole. -/
def Chunk.lines (c : Chunk) : Nat := if c.len = 0 then 0 else (c.off + c.len - 1) / 64 - c.off / 64 + 1
def Chunk.wholeLines (c : Chunk) : Nat := (c.off + c.len) / 64 - (c.off + 63) / 64

/-- Account for the failing lines of one stretch; the offset in it of the first uncorrectable one. -/
def State.lineScan (s : State) (c : Chunk) (part unit : Nat) : State × Option Nat :=
  (errIn s.memErr 64 (memIdx c.tile c.off) c.len).foldl (fun (acc : State × Option Nat) e =>
    if e.2 = 1 then (acc.1.lineFix c.tile (e.1 % 2 ^ 30), acc.2)
    else (acc.1.lineBad c.tile (e.1 % 2 ^ 30) part unit, acc.2.or (some (64 * e.1 - memIdx c.tile c.off)))) (s, none)

/-- Refuse an access to device memory: counted at the first tile that refuses (R501). -/
def State.refuseAt (s : State) (l : List Chunk) : State :=
  match l with
  | [] => s
  | c :: _ => (s.bump (mtKey c.tile + 0x120) 1).evSet (mtKey c.tile + 0x28) 8 (20 + c.tile)

/-- Read the stretches in order; the offset of the first uncorrectable one. -/
def State.readChunks (s : State) (part unit : Nat) : Nat → List Chunk → State × List Byte × Option Nat
  | _, [] => (s, [], none)
  | o, c :: t =>
    let s := s.tileWake c.tile
    let s := s.bump (mtKey c.tile + 0x138) c.lines
    let (s, bad) := s.lineScan c part unit
    let here := s.mem.getN byte0 (memIdx c.tile c.off) c.len
    let (s, rest, ue) := State.readChunks s part unit (o + c.len) t
    (s, here ++ rest, (bad.map (o + ·)).or ue)

/-- Read `n` bytes at a partition address. -/
def State.dmRead (s : State) (p a n : Nat) (who : Who) (unit : Nat) : State × MemRes :=
  match s.chunks p a n with
  | none => (s, .fault (s.firstHole p (n / 4096 + 2) a n 0))
  | some l =>
    let refusing := l.filter (s.regionRefuses p who false)
    if refusing.isEmpty then
      let (s, d, ue) := s.readChunks p unit 0 l
      match ue with
      | none => (s, .ok d)
      | some o => (s, .ue o)
    else (s.refuseAt refusing, .fault (firstChunk (s.regionRefuses p who false) l 0))

/-- Bytes at their places, with those of the lines in `bad` left out. -/
def writeSkipLines (m : Map Byte) (bad : List Nat) : Nat → List Byte → List Host.Cell
  | _, [] => m
  | a, b :: t =>
    let m' := writeSkipLines m bad (a + 1) t
    if a / 64 ∈ bad then m' else Map.set byte0 m' a b

/-- Count the lines a write reads first, those it covers in part, and the lines it writes (R504, R515). -/
def State.countWrite (s : State) (c : Chunk) (lost : Nat) : State :=
  let s := if c.lines = c.wholeLines then s else s.bump (mtKey c.tile + 0x138) (c.lines - c.wholeLines)
  s.bump (mtKey c.tile + 0x140) (c.lines - lost)

/-- Write one stretch: a partly written uncorrectable line stays unwritten, and the first one's offset is given (R504). -/
def State.writeChunk (s : State) (c : Chunk) (d : List Byte) (part unit : Nat) : State × Option Nat :=
  let a := memIdx c.tile c.off
  let s := s.tileWake c.tile
  let touched := errIn s.memErr 64 a c.len
  if touched.isEmpty then ({ s.countWrite c 0 with mem := Map.setN byte0 s.mem a d }, none)
  else
    let whole : Nat → Bool := fun w => decide (a ≤ 64 * w) && decide (64 * w + 64 ≤ a + c.len)
    let bad := (touched.filter fun e => !whole e.1 && decide (e.2 ≠ 1)).map (·.1)
    let s := s.countWrite c bad.length
    let s := touched.foldl (fun s e =>
      if whole e.1 then { s with memErr := s.memErr.set nat0 e.1 0 }
      else if e.2 = 1 then s.lineFix c.tile (e.1 % 2 ^ 30)
      else s.lineBad c.tile (e.1 % 2 ^ 30) part unit) s
    ({ s with mem := writeSkipLines s.mem bad a d }, bad.head?.map (64 * · - a))

def State.writeChunks (s : State) (part unit : Nat) : Nat → List Chunk → List Byte → State × Option Nat
  | _, [], _ => (s, none)
  | o, c :: t, d =>
    let (s, bad) := s.writeChunk c (d.take c.len) part unit
    let (s, ue) := State.writeChunks s part unit (o + c.len) t (d.drop c.len)
    (s, (bad.map (o + ·)).or ue)

/-- Write bytes at a partition address; refused whole if any stretch is (R501). -/
def State.dmWrite (s : State) (p a : Nat) (d : List Byte) (who : Who) (unit : Nat) : State × MemRes :=
  match s.chunks p a d.length with
  | none => (s, .fault (s.firstHole p (d.length / 4096 + 2) a d.length 0))
  | some l =>
    let refusing := l.filter (s.regionRefuses p who true)
    if refusing.isEmpty then
      match s.writeChunks p unit 0 l d with
      | (s, none) => (s, .ok [])
      | (s, some o) => (s, .ue o)
    else (s.refuseAt refusing, .fault (firstChunk (s.regionRefuses p who true) l 0))

/-! ### Tile-local access of the base-die units -/

/-- The partition address of a byte of tile-local storage in the interleaved and in the tile-local view of partition p (R37, R38, R563). -/
def State.unxlate (s : State) (p t o : Nat) : List Nat :=
  let w := s.reg (0x78004 + 0x20 * p)
  let ob := 2 ^ 28 * fld w 0 9
  let os := 2 ^ 28 * fld w 16 9
  let ts := s.fuse.tiles
  match ts.findIdx? (· == t) with
  | none => []
  | some i =>
    if ob ≤ o ∧ o < ob + os then
      [((o - ob) / 4096 * ts.length + i) * 4096 + o % 4096, 0x800000000000 + t * 2 ^ 36 + (o - ob)]
    else []

/-- Read tile-local storage for a base-die unit of the tile, translated already. -/
def State.tileRead (s : State) (t o n part unit : Nat) : State × List Byte × Bool :=
  let (s, d, ue) := s.readChunks part unit 0 [⟨t, o, n⟩]
  (s, d, ue.isSome)

def State.tileWrite (s : State) (t o : Nat) (d : List Byte) (part unit : Nat) : State × Bool :=
  let (s, ue) := s.writeChunk ⟨t, o, d.length⟩ d part unit
  (s, ue.isSome)

end Sys2Proof.Machine
end

