-- ==== Sys2Proof/Machine/CoreBase.lean ====
section
/-!
DEFINITION. What every control-core command rests on: run states, retirement, traps and the return from one,
barriers, fencing and interrupts (R49-R53, R65, R80-R82, R88, R90-R97, R537-R542).
-/

namespace Sys2Proof.Machine

/-! ### Cluster and die power, as the cores see it (R647-R650, R675, R676, R699) -/

/-- The power state of a cluster: 0 to 3 for C0 to C3 (R675). -/
def State.clState (s : State) (cl : Nat) : Nat := s.regFld (0x20300 + 4 * (cl / 16)) (2 * (cl % 16)) 2
def State.setClState (s : State) (cl v : Nat) : State := s.setRegFld (0x20300 + 4 * (cl / 16)) (2 * (cl % 16)) 2 v
/-- The state of a C-die: 0 DR, 1 DI, 2 DS (R676). -/
def State.dieState (s : State) (d : Nat) : Nat := s.regFld 0x20000 (2 + 2 * d) 2
def State.setDieState (s : State) (d v : Nat) : State := s.setRegFld 0x20000 (2 + 2 * d) 2 v

/-- Whether the clock of a core's cluster runs: the cluster is in C0, its die's PLL is locked, and no fatal package error has
stopped the PLLs. -/
def State.clocked (s : State) (c : Nat) : Bool :=
  s.clState (coreCluster c) == 0 && !s.pllLost.testBit (coreDie c) && !bit (s.reg 0x2004) 0

/-! ### Run states and retirement -/

def Core.ie (k : Core) : Bool := bit (k.get 1) 4
def Core.tm (k : Core) : Bool := bit (k.get 1) 3
def Core.barw (k : Core) : Bool := bit (k.get 1) 5
def Core.bard (k : Core) : Bool := bit (k.get 1) 6
def Core.setStatusBit (k : Core) (i : Nat) (b : Bool) : Core := k.put 1 (setBit (k.get 1) i b)

/-- A 64-bit count held in two CSRs, advanced modulo 2^64 (R673). -/
def Core.addTime (k : Core) (n d : Nat) : Core :=
  let v := (k.get n).toNat + 2 ^ 32 * (k.get (n + 1)).toNat + d
  (k.put n (BitVec.ofNat 32 v)).put (n + 1) (BitVec.ofNat 32 (v / 2 ^ 32))

/-- An instruction retires: the PC moves, INSTRET counts, a single step ends in HALT, a wait ends (R53, R85, R88). -/
def Core.retire (k : Core) (pc : Word) : Core :=
  let k := { (k.addTime 0x24 1) with pc := pc, wait := none }
  if k.stepping then { (k.setRs 0) with stepping := false } else k.setRs 1

/-- An instruction goes on waiting (R53). -/
def Core.waitFor (k : Core) (w : Wait) : Core := { (k.setRs 2) with wait := some w }

/-! ### Traps (R90-R98) -/

/-- Trap entry in one step (R94); single stepping halts after it (R88). -/
def Core.enterTrap (k : Core) (code : Nat) (isInt : Bool) (tpc tval : Word) : Core :=
  let k := k.put 0x14 (setBit 0 4 k.ie)
  let k := k.put 0x12 (tpc &&& 0x7FFC#32)
  let k := k.put 0x11 (BitVec.ofNat 32 (code + (if isInt then 2 ^ 31 else 0)))
  let k := k.put 0x13 tval
  let k := (k.setStatusBit 4 false).setStatusBit 3 true
  let base : Word := k.get 0x10 &&& 0x7F80#32
  let pc : Word := if bit (k.get 0x10) 0 then base + BitVec.ofNat 32 (4 * code) else base
  let k := { k with pc := pc, wait := none }
  if k.stepping then { (k.setRs 0) with stepping := false } else k.setRs 1

/-- Return from a trap (R95). -/
def Core.leaveTrap (k : Core) : Core :=
  let k := { k with pc := k.get 0x12 }
  (k.setStatusBit 4 (bit (k.get 0x14) 4)).setStatusBit 3 false

/-! ### Barriers (R80, R82) -/

/-- A barrier releases for one participant that has arrived: its BAR completes, or BARD is set while it is away (R81). -/
def Core.barRelease (k : Core) : Core :=
  if !k.barw then k
  else
    let k := k.setStatusBit 5 false
    match k.wait with
    | some (.bar _) => if k.rs = 2 then k.retire (k.pc + 4) else k.setStatusBit 6 true
    | _ => k.setStatusBit 6 true

def State.releaseAll (s : State) (l : List Nat) : State := l.foldl (fun s c => s.modCore c Core.barRelease) s

/-- A phase whose participants have all arrived releases. -/
def Barrier.full (b : Barrier) : Bool := b.parts.all (· ∈ b.arrived)

/-- A phase goes on, or releases; one from which the last arrival was withdrawn ends as if it had not begun (DEDUCED: R80
begins a phase by its first arrival). -/
def State.barSettle (s : State) (die : Bool) (key : Nat) (b : Barrier) : State :=
  if b.full || b.arrived.isEmpty then
    let s := s.releaseAll b.arrived
    if die then { s with barD := s.barD.set none0 key none } else { s with barC := s.barC.set none0 key none }
  else if die then { s with barD := s.barD.set none0 key (some b) }
  else { s with barC := s.barC.set none0 key (some b) }

/-- A fenced core is withdrawn from every barrier (R82). -/
def Barrier.withdraw (b : Barrier) (c : Nat) : Barrier :=
  { b with parts := b.parts.filter (· ≠ c), arrived := b.arrived.filter (· ≠ c) }

def dieKey (s : State) (c : Nat) : Nat := coreDie c * 64 + s.corePart c

def State.barWithdraw (s : State) (c : Nat) : State :=
  let s := match s.barC.get none0 (coreCluster c) with
    | some b => s.barSettle false (coreCluster c) (b.withdraw c)
    | none => s
  match s.barD.get none0 (dieKey s c) with
  | some b => s.barSettle true (dieKey s c) (b.withdraw c)
  | none => s

/-! ### Datagrams the device makes itself -/

def State.send (s : State) (x : NetItem) : State := { s with net := s.net ++ [x] }

/-- A 16-byte datagram of four words with sequence number 0 and no send ticket (R244, R411, R542); `orig` is the core that makes it. -/
def State.sendEvent (s : State) (part src dst ch origin orig : Nat) (ws : List Nat) : State :=
  s.send (.msg { part := part, src := src, dst := dst, cls := 0, ch := ch, seq := 0, ticket := 0,
                 origin := origin, orig := orig, payload := ws.flatMap (leBytes 4) })

/-! ### Fencing (R82, R97, R537, R538, R542, R694) -/

def clKey (cl : Nat) : Nat := 0x800000 + 0x1000 * cl

/-- Whether a core is fenced (R155, R541). -/
def State.isFenced (s : State) (c : Nat) : Bool := bit (s.reg (clKey (coreCluster c) + 4 * coreIdx c)) 9

/-- The CAUSE field of a core in MU_CL_FCAUSE (R555). -/
def State.setFcause (s : State) (c cause : Nat) : State :=
  let i := coreIdx c
  s.setRegFld (clKey (coreCluster c) + 0x58 + 4 * (i / 8)) (4 * (i % 8)) 4 cause

def State.fcause (s : State) (c : Nat) : Nat :=
  let i := coreIdx c
  s.regFld (clKey (coreCluster c) + 0x58 + 4 * (i / 8)) (4 * (i % 8)) 4

/-- The fence or UNFENCE datagram of R542. -/
def State.fenceNotify (s : State) (c kind cause : Nat) : State :=
  let p := s.corePart c
  let b := 0xA0000 + 0x200 * p
  if bit (s.reg (b + 0x1C)) 31 then
    s.sendEvent p 0xFFFFFFFF (s.reg (b + 0x18)).toNat (s.regFld (b + 0x1C) 0 12) 4 noCore
      [kind + cause * 256, s.relAddr c, (s.stepNo p).toNat, 0]
  else s

/-- A record of an open context's end (R383, R386). -/
def endRec (nf rg : Bool) : RedRec :=
  { kind := 3, j := 0, s := 0, tag := 0, nf := nf, rg := rg, ck := false, mx := 0, count := 0, sum := 0, vals := [] }

/-- END records with NF for every open context; the contexts close (R386). -/
def State.closeContexts (s : State) (c : Nat) : State :=
  let p := s.corePart c
  let s := (s.core c).ctxs.foldl (fun s e =>
    match e.2 with
    | some x => s.send (.red { part := p, ch := x.ch, step := x.step, attempt := x.attempt, src := 0, core := c,
                               nf := true, rg := x.rg, ck := 0, stale := x.stale, recs := [endRec true x.rg] })
    | none => s) s
  s.modCore c fun k => { k with ctxs := [] }

/-- A fenced core stops: engines abandoned, sends and DMA discarded, timers and watchdog stopped (R538); its barrier arrival is
no longer kept (R81, R82; DEDUCED: BARW reads 0). -/
def Core.fenced (k : Core) : Core :=
  let stop : Eng → Eng := fun e => { e with queue := [], jobs := [], half := none, heldRec := none }
  let k := { k with wait := none, stepping := false, sendq := [], engs := k.engs.mapAll eng0 (fun _ e => stop e) }
  (k.setRs 4).setStatusBit 5 false

/-- An append to the repair record with object 0x7010.02 = 1; at most 64 entries (R693, R694). -/
def State.repairAppend (s : State) (e : List Byte) : State :=
  if s.obj 0x7010 2 = 1 then
    if s.repairRec.length < 64 then { s with repairRec := s.repairRec ++ [e] }
    else s.log { level := 0x44, unit := 0, cause := 4, action := 0 }
  else s

/-- Fence a core (R537, R538). -/
def State.fence (s : State) (c cause : Nat) : State :=
  let k := s.core c
  let code := k.cf 0x11 0 5
  let s := (s.orReg (clKey (coreCluster c) + 4 * coreIdx c) (2 ^ 9)).setFcause c cause
  let s := s.closeContexts c
  let s := s.modCore c Core.fenced
  let s := s.barWithdraw c
  let p := s.corePart c
  let s := s.log
    { level := if cause ≤ 3 then 0x12 else 0x42, unit := if code = 6 then 2 else 1, cause := code, action := 5,
      part := some p, loc := mkAddr 0 (coreRow c) (coreCol c), d1 := cause, d2 := (k.get 0x13).toNat }
  let s := s.evSet (0xA0020 + 0x200 * p) 8 (256 + p)
  let s := s.fenceNotify c 1 cause
  if cause = 1 ∨ cause = 2 ∨ cause = 5 then
    s.repairAppend ([2, BitVec.ofNat 8 (coreIdx c)] ++ leBytes 2 (coreCluster c) ++ [0, 0, 0, 0])
  else s

/-! ### Exceptions -/

/-- A synchronous exception: taken, or, inside a handler, a double trap that fences the core (R94, R97). -/
def State.exception (s : State) (c code : Nat) (tpc tval : Word) : State :=
  if (s.core c).tm then s.fence c 1 else s.modCore c fun k => k.enterTrap code false tpc tval

/-! ### Interrupts (R91, R93) -/

/-- CC_TPEND as it reads: latched bits, and the conditions that hold now (R91). -/
def Core.tpend (k : Core) : Word :=
  let w : Word := k.get 0x17 &&& 0x9E#32
  let w := setBit w 0 (!k.faults.isEmpty)
  let w := setBit w 5 (bit (k.get 0x30) 29)
  let mask := k.cf 0x18 0 8
  setBit w 6 ((List.range 8).any fun q => mask.testBit q && !(k.rxq q).recs.isEmpty)

/-- The lowest enabled pending interrupt that may be taken (R93). -/
def Core.irq (k : Core) : Option Nat :=
  if k.ie && !k.tm then
    (List.range 8).find? fun n => bit k.tpend n && bit (k.get 0x16) n
  else none

/-- CC_TVAL of an interrupt (R96). -/
def Core.irqVal (k : Core) (n : Nat) : Word :=
  if n = 0 then
    match k.faults with
    | (e, t) :: _ => BitVec.ofNat 32 (e + t * 65536)
    | [] => 0
  else 0

/-- Take the lowest enabled pending interrupt, between instructions or in WAIT (R76, R93, R94). -/
def Core.takeIrq (k : Core) : Core :=
  if k.rs = 1 ∨ k.rs = 2 then
    match k.irq with
    | some n => k.enterTrap (16 + n) true k.pc (k.irqVal n)
    | none => k
  else k

/-! ### The frame of an instruction -/

/-- How an instruction ends. -/
inductive IRes where
  /-- It retires and the PC becomes `pc`. -/
  | retire (s : State) (pc : Word)
  /-- It raises an exception with CC_TPC at itself. -/
  | exc (s : State) (code : Nat) (tval : Word)
  /-- It completes, then traps with CC_TPC at the next instruction (R65, R90). -/
  | excAfter (s : State) (code : Nat) (tval : Word)
  /-- It waits (R53). -/
  | wait (s : State) (w : Wait)
  /-- It retires and then has a further effect on its own core: a halt, a write of CC_CTL. -/
  | post (s : State) (pc : Word) (f : State → State)

/-- Finish an instruction of core c that stands at `pc`. -/
def State.finishInstr (s0 : State) (c : Nat) (r : IRes) : State :=
  let pc := (s0.core c).pc
  match r with
  | .retire s npc => s.modCore c fun k => k.retire npc
  | .exc s code tval => s.exception c code pc tval
  | .excAfter s code tval =>
    let s := s.modCore c fun k => { (k.addTime 0x24 1) with pc := pc + 4 }
    s.exception c code (pc + 4) tval
  | .wait s w => s.modCore c fun k => k.waitFor w
  | .post s npc f => f (s.modCore c fun k => k.retire npc)

/-- An instruction of a core: only in RUN; fetched inside instruction memory, whose word must be readable
(R50, R52, R53). A core that is not in RUN executes nothing (log entry 3). -/
def State.instr (s : State) (c : Nat) (body : Word → State → IRes) : State :=
  let k := s.core c
  if !isCore c || k.rs != 1 || !s.clocked c then s
  else if 0x6000 ≤ k.pc.toNat then s.exception c 2 k.pc k.pc
  else
    let w := k.pc.toNat / 4
    match k.imemErr.get nat0 w with
    | 0 => s.finishInstr c (body k.pc s)
    | 1 =>
      let s := s.modCore c fun k =>
        { (k.put 0x54 (BitVec.ofNat 32 (4 * w + 2 ^ 31))) with imemErr := k.imemErr.set nat0 w 0 }
      let s := s.bumpCsr c 0x52 1
      s.finishInstr c (body k.pc s)
    | _ =>
      let s := s.log { level := 0x11, unit := 1, cause := 3, action := 1, part := some (s.corePart c),
                       loc := mkAddr 0 (coreRow c) (coreCol c), d2 := 4 * w }
      s.exception c 3 k.pc k.pc

/-- Retire to the next instruction with a changed core. -/
def IRes.next (c : Nat) (pc : Word) (s : State) (f : Core → Core) : IRes := .retire (s.modCore c f) (pc + 4)

end Sys2Proof.Machine
end

