-- ==== Sys2Proof/Machine/CoreAlu.lean ====
section
/-!
DEFINITION. Integer instructions of the control core (spec/02 R56-R58). Reserved encodings raise ILLEGAL (R55).
-/

namespace Sys2Proof.Machine

def ILLEGAL : Nat := 1

/-- Sign extension of IMM16. -/
def sx16 (i : BitVec 16) : Word := i.signExtend 32
def zx16 (i : BitVec 16) : Word := i.setWidth 32

/-- Leading zeros, trailing zeros. -/
def clz (w : Word) : Nat := 32 - (if w = 0 then 0 else Nat.log2 w.toNat + 1)
def ctz (w : Word) : Nat := ((List.range 32).find? fun i => bit w i).getD 32

/-- The result of an ALU operation; `none` for a reserved FN (R56, R57). The flag says that RB must be 0. -/
def aluOp (fn : Nat) (a b : Word) : Option (Word × Bool) :=
  let x := sint a
  let y := sint b
  let sh := b.toNat % 32
  match fn with
  | 0x00 => some (a + b, false)
  | 0x01 => some (a - b, false)
  | 0x02 => some (a &&& b, false)
  | 0x03 => some (a ||| b, false)
  | 0x04 => some (a ^^^ b, false)
  | 0x05 => some (a <<< sh, false)
  | 0x06 => some (a >>> sh, false)
  | 0x07 => some (a.sshiftRight sh, false)
  | 0x08 => some (if x < y then 1 else 0, false)
  | 0x09 => some (if a.toNat < b.toNat then 1 else 0, false)
  | 0x0A => some (if y < x then b else a, false)
  | 0x0B => some (if x < y then b else a, false)
  | 0x0C => some (if b.toNat < a.toNat then b else a, false)
  | 0x0D => some (if a.toNat < b.toNat then b else a, false)
  | 0x10 => some (a * b, false)
  | 0x11 => some (wordOfInt (x * y / 2 ^ 32), false)
  | 0x12 => some (BitVec.ofNat 32 (a.toNat * b.toNat / 2 ^ 32), false)
  | 0x14 => some (if b = 0 then 0xFFFFFFFF#32 else wordOfInt (x.tdiv y), false)
  | 0x15 => some (if b = 0 then 0xFFFFFFFF#32 else BitVec.ofNat 32 (a.toNat / b.toNat), false)
  | 0x16 => some (if b = 0 then a else wordOfInt (x.tmod y), false)
  | 0x17 => some (if b = 0 then a else BitVec.ofNat 32 (a.toNat % b.toNat), false)
  | 0x18 => some (BitVec.ofNat 32 (clz a), true)
  | 0x19 => some (BitVec.ofNat 32 (ctz a), true)
  | 0x1A => some (BitVec.ofNat 32 (popcount 32 a.toNat), true)
  | _ => none

/-- Write a register and retire. -/
def IRes.put (c : Nat) (pc : Word) (s : State) (rd : Reg) (v : Word) : IRes := IRes.next c pc s fun k => k.setS rd v

def execAlu (c : Nat) (rd ra rb rc : Reg) (fn : BitVec 6) (s : State) : Host.Outcome State Fault Refusal :=
  .next (s.instr c fun pc s =>
    let k := s.core c
    match aluOp fn.toNat (k.s ra) (k.s rb) with
    | none => .exc s ILLEGAL 0
    | some (v, unary) => if rc ≠ 0 ∨ (unary ∧ rb ≠ 0) then .exc s ILLEGAL 0 else IRes.put c pc s rd v)

/-- An operation with an immediate; `ok` says that its required-zero fields hold 0 (R58). -/
def State.immInstr (s : State) (c : Nat) (rd ra : Reg) (ok : Bool) (f : Word → Word) : State :=
  s.instr c fun pc s => if ok then IRes.put c pc s rd (f ((s.core c).s ra)) else .exc s ILLEGAL 0

def execAddi (c : Nat) (rd ra : Reg) (imm : BitVec 16) (s : State) : Host.Outcome State Fault Refusal :=
  .next (s.immInstr c rd ra true fun a => a + sx16 imm)
def execAndi (c : Nat) (rd ra : Reg) (imm : BitVec 16) (s : State) : Host.Outcome State Fault Refusal :=
  .next (s.immInstr c rd ra true fun a => a &&& zx16 imm)
def execOri (c : Nat) (rd ra : Reg) (imm : BitVec 16) (s : State) : Host.Outcome State Fault Refusal :=
  .next (s.immInstr c rd ra true fun a => a ||| zx16 imm)
def execXori (c : Nat) (rd ra : Reg) (imm : BitVec 16) (s : State) : Host.Outcome State Fault Refusal :=
  .next (s.immInstr c rd ra true fun a => a ^^^ zx16 imm)
def execSlti (c : Nat) (rd ra : Reg) (imm : BitVec 16) (s : State) : Host.Outcome State Fault Refusal :=
  .next (s.immInstr c rd ra true fun a => if sint a < sint (sx16 imm) then 1 else 0)
def execSltiu (c : Nat) (rd ra : Reg) (imm : BitVec 16) (s : State) : Host.Outcome State Fault Refusal :=
  .next (s.immInstr c rd ra true fun a => if a.toNat < (sx16 imm).toNat then 1 else 0)
def execSlli (c : Nat) (rd ra : Reg) (imm : BitVec 16) (s : State) : Host.Outcome State Fault Refusal :=
  .next (s.immInstr c rd ra (decide (imm.toNat < 32)) fun a => a <<< imm.toNat)
def execSrli (c : Nat) (rd ra : Reg) (imm : BitVec 16) (s : State) : Host.Outcome State Fault Refusal :=
  .next (s.immInstr c rd ra (decide (imm.toNat < 32)) fun a => a >>> imm.toNat)
def execSrai (c : Nat) (rd ra : Reg) (imm : BitVec 16) (s : State) : Host.Outcome State Fault Refusal :=
  .next (s.immInstr c rd ra (decide (imm.toNat < 32)) fun a => a.sshiftRight imm.toNat)
def execLui (c : Nat) (rd ra : Reg) (imm : BitVec 16) (s : State) : Host.Outcome State Fault Refusal :=
  .next (s.immInstr c rd ra (decide (ra = 0)) fun _ => zx16 imm <<< 16)

end Sys2Proof.Machine
end

