-- ==== Sys2Proof/Machine/Float.lean ====
section
/-!
DEFINITION. Exact values, the rounding of an exact value into a format, and the binary32 and
binary64 operations (spec/02 R61-R65, spec/04 R156-R182). Every operation computes the exact result
and rounds once.
-/

namespace Sys2Proof.Machine

/-- An exact value: a NaN with the fraction bits after its quiet bit, an infinity, or ±m·2^e (R157, R170). -/
inductive Fv where
  | nan (neg : Bool) (signalling : Bool) (payload plen : Nat)
  | inf (neg : Bool)
  | fin (neg : Bool) (m : Nat) (e : Int)
  deriving DecidableEq, Repr

/-- A format descriptor entry (R156, R187). -/
structure Fmt where
  kind : Nat
  width : Nat
  ebits : Nat
  mbits : Nat
  bias : Nat
  block : Bool
  /-- 0 8-bit, 1 4-bit, 2 16-bit, 3 none. -/
  rate : Nat
  deriving DecidableEq, Repr

def fmt32 : Fmt := ⟨0, 32, 8, 23, 127, false, 3⟩
def fmt16 : Fmt := ⟨0, 16, 5, 10, 15, false, 2⟩
def fmtBf16 : Fmt := ⟨0, 16, 8, 7, 127, false, 2⟩
/-- W48 seen as one 48-bit code: sign, 8 exponent and 39 fraction bits (R165). -/
def fmtW48 : Fmt := ⟨5, 48, 8, 39, 127, false, 3⟩
/-- IEEE 754 binary64, in which the update engine sums (R359). -/
def fmt64 : Fmt := ⟨0, 64, 11, 52, 1023, false, 3⟩
def fmtInt32 : Fmt := ⟨3, 32, 0, 31, 0, false, 3⟩
def fmtE8M0 : Fmt := ⟨6, 8, 8, 0, 127, false, 3⟩

/-- The built-in formats by code, 0 to 14 (R156). -/
def builtinFmt : Nat → Option Fmt
  | 0 => some fmt32
  | 1 => some fmt16
  | 2 => some fmtBf16
  | 3 => some ⟨0, 8, 5, 2, 15, true, 0⟩
  | 4 => some ⟨0, 8, 4, 3, 7, true, 0⟩
  | 5 => some ⟨1, 8, 4, 3, 7, true, 0⟩
  | 6 => some ⟨2, 6, 3, 2, 3, true, 0⟩
  | 7 => some ⟨2, 6, 2, 3, 1, true, 0⟩
  | 8 => some ⟨2, 4, 2, 1, 1, true, 1⟩
  | 9 => some ⟨3, 8, 0, 7, 0, true, 0⟩
  | 10 => some ⟨3, 4, 0, 3, 0, true, 1⟩
  | 11 => some ⟨4, 4, 0, 0, 0, true, 1⟩
  | 12 => some fmtW48
  | 13 => some fmtInt32
  | 14 => some fmtE8M0
  | _ => none

/-- The sticky exception flags in the order of CC_FCSR.FLAGS (R89, R178): NV, DZ, OF, UF, NX, NP. -/
abbrev FFlags := BitVec 6
def flNV : FFlags := 1
def flDZ : FFlags := 2
def flOF : FFlags := 4
def flUF : FFlags := 8
def flNX : FFlags := 16
def flNP : FFlags := 32

/-- Rounding-mode codes (R61, R174): 0 RNE, 1 RTZ, 2 RDN, 3 RUP, 4 RMM, 5 SR. -/
abbrev RMode := Nat

/-- 2^n for a natural exponent given as an integer; 0 below zero is not used. -/
def pow2 (e : Int) : Nat := 2 ^ e.toNat

/-- Position of the leading 1 of `m`, the exponent of its leading bit (m > 0). -/
def lead (m : Nat) : Nat := Nat.log2 m

def Fv.isNan : Fv → Bool | .nan .. => true | _ => false
def Fv.isSig : Fv → Bool | .nan _ s _ _ => s | _ => false
def Fv.isInf : Fv → Bool | .inf _ => true | _ => false
def Fv.isZero : Fv → Bool | .fin _ 0 _ => true | _ => false
def Fv.neg : Fv → Bool | .nan n _ _ _ => n | .inf n => n | .fin n _ _ => n
def Fv.negate : Fv → Fv
  | .nan n s p l => .nan (!n) s p l
  | .inf n => .inf (!n)
  | .fin n m e => .fin (!n) m e
def Fv.abs : Fv → Fv
  | .nan _ s p l => .nan false s p l
  | .inf _ => .inf false
  | .fin _ m e => .fin false m e

/-- The finite value an integer names. -/
def Fv.ofInt (i : Int) : Fv := .fin (decide (i < 0)) i.natAbs 0
def Fv.zero : Fv := .fin false 0 0
def Fv.one : Fv := .fin false 1 0

/-- A finite value times 2^k. -/
def Fv.scale (k : Int) : Fv → Fv
  | .fin n m e => .fin n m (e + k)
  | v => v

/-- The code of a floating format read as a value (R157); `quietBit` formats distinguish signalling NaNs (R164). -/
def decodeFloat (f : Fmt) (code : Nat) : Fv :=
  let M := f.mbits
  let m := code % 2 ^ M
  let e := (code >>> M) % 2 ^ f.ebits
  let s := code.testBit (M + f.ebits)
  let k0 := f.kind = 0 ∨ f.kind = 5
  if k0 ∧ e = 2 ^ f.ebits - 1 then
    if m = 0 then .inf s
    else if f.kind = 5 then
      -- a W48 NaN is its binary32 word, the extension ignored (R165); an infinity word with an extension is read as a signalling NaN
      -- of payload 0 (DESIGN CHOICE, log entry 91: R165 names it neither infinity nor NaN)
      .nan s (!(m.testBit (M - 1))) ((m % 2 ^ (M - 1)) >>> 16) (M - 17)
    else
      let sig := decide (16 ≤ f.width) && !(m.testBit (M - 1))
      .nan s sig (m % 2 ^ (M - 1)) (M - 1)
  else if f.kind = 1 ∧ e = 2 ^ f.ebits - 1 ∧ m = 2 ^ M - 1 then .nan s false (m % 2 ^ (M - 1)) (M - 1)
  else if e = 0 then .fin s m (1 - (f.bias : Int) - M)
  else .fin s (2 ^ M + m) ((e : Int) - f.bias - M)

/-- The code of any format but CB4 read as a value (R156, R157, R166, R167). -/
def decodeFmt (f : Fmt) (code : Nat) : Fv :=
  if f.kind = 3 then .ofInt (sfld code 0 f.width)
  else if f.kind = 6 then
    if code % 256 = 255 then .nan false false 0 0 else .fin false 1 ((code % 256 : Nat) - 127)
  else decodeFloat f code

def f32 (w : Word) : Fv := decodeFloat fmt32 w.toNat

/-- Round m·2^e to a multiple of 2^q: the multiple and whether it is inexact. `r` is the random word of SR (R174, R181). -/
def roundAt (mode : RMode) (r : Word) (neg : Bool) (m : Nat) (e q : Int) : Nat × Bool :=
  if q ≤ e then (m * pow2 (e - q), false)
  else
    let sh := (q - e).toNat
    let n := m >>> sh
    let rem := m % 2 ^ sh
    let half := 2 ^ sh
    let up : Bool :=
      match mode with
      | 0 => decide (half < 2 * rem) || (decide (2 * rem = half) && n.testBit 0)
      | 1 => false
      | 2 => neg && decide (rem ≠ 0)
      | 3 => !neg && decide (rem ≠ 0)
      | 4 => decide (half ≤ 2 * rem)
      | _ => decide (2 ^ 16 ≤ (rem * 2 ^ 16) >>> sh + r.toNat % 2 ^ 16)
    (if up then n + 1 else n, decide (rem ≠ 0))

/-- The result of a rounding or conversion: the code, the flags, and whether the element makes its block a block NaN (R176). -/
structure Rnd where
  code : Nat
  fl : FFlags
  blockNan : Bool
  deriving DecidableEq, Repr

/-- The largest finite magnitude code of a floating format (R158, R175). -/
def maxCode (f : Fmt) : Nat :=
  if f.kind = 0 ∨ f.kind = 5 then ((2 ^ f.ebits - 1) <<< f.mbits) - 1
  else if f.kind = 1 then 2 ^ (f.ebits + f.mbits) - 2
  else 2 ^ (f.ebits + f.mbits) - 1

/-- The code with sign `neg` and magnitude code `c`. -/
def signed (f : Fmt) (neg : Bool) (c : Nat) : Nat :=
  if neg then c + 2 ^ (f.ebits + f.mbits) else c

/-- Whether a format has infinities. -/
def hasInf (f : Fmt) : Bool := decide (f.kind = 0) || decide (f.kind = 5)

/-- An overflow into a floating format (R175). -/
def overflowCode (f : Fmt) (mode : RMode) (ovf neg : Bool) : Nat :=
  let toMax : Bool :=
    if !hasInf f then true
    else if ovf then true
    else match mode with
      | 1 => true
      | 2 => !neg
      | 3 => neg
      | _ => false
  signed f neg (if toMax then maxCode f else (2 ^ f.ebits - 1) <<< f.mbits)

/-- A finite value rounded once into a floating format, with its flags (R173-R178, R181; R62 for tininess). -/
def roundFin (f : Fmt) (mode : RMode) (ovf : Bool) (r : Word) (neg : Bool) (m : Nat) (e : Int) : Rnd :=
  if m = 0 then ⟨signed f neg 0, 0, false⟩
  else
    let p : Int := (lead m : Int) + e
    let emin : Int := 1 - (f.bias : Int)
    let q : Int := max p emin - f.mbits
    let (n, inexact) := roundAt mode r neg m e q
    let c : Nat := (((q + f.mbits + f.bias).toNat) <<< f.mbits) + n - 2 ^ f.mbits
    if maxCode f < c then ⟨overflowCode f mode ovf neg, flOF ||| flNX, false⟩
    else
      let (n', _) := roundAt mode r neg m e (p - f.mbits)
      let tiny := decide (p < emin) && !(decide (n' = 2 ^ (f.mbits + 1)) && decide (p + 1 = emin))
      let fl := (if inexact then flNX else 0) ||| (if inexact && tiny then flUF else 0)
      ⟨signed f neg c, fl, false⟩

/-- A NaN carried into a floating format: sign kept, quiet, leading payload bits kept (R170). -/
def carryNan (f : Fmt) (neg : Bool) (payload plen : Nat) : Nat :=
  if f.kind = 1 then signed f neg (2 ^ (f.ebits + f.mbits) - 1)
  else
    let k := f.mbits - 1
    let p := if k ≤ plen then payload >>> (plen - k) else payload <<< (k - plen)
    -- W48 writes extension 0 (R165)
    let p := if f.kind = 5 then (p >>> 16) <<< 16 else p
    signed f neg (((2 ^ f.ebits - 1) <<< f.mbits) + 2 ^ (f.mbits - 1) + p)

/-- The canonical NaN of a format, sign 0 (R170). -/
def canonNan (f : Fmt) : Nat :=
  if f.kind = 1 then 2 ^ (f.ebits + f.mbits) - 1
  else ((2 ^ f.ebits - 1) <<< f.mbits) + 2 ^ (f.mbits - 1)

/-- Whether a format has a NaN code (R170, R176). -/
def hasNan (f : Fmt) : Bool :=
  decide (f.kind = 1) || (hasInf f && decide (f.mbits ≠ 0))

/-- The maximum magnitude an integer target takes (R175). -/
def intMax (f : Fmt) : Nat := 2 ^ (f.width - 1) - 1

/-- Two's complement code of a signed magnitude. -/
def intCode (f : Fmt) (neg : Bool) (n : Nat) : Nat :=
  if neg ∧ n ≠ 0 then 2 ^ f.width - n else n

/-- Conversion into an integer target (R167, R175, R176, R178). -/
def toIntFmt (f : Fmt) (mode : RMode) (r : Word) (v : Fv) : Rnd :=
  match v with
  | .nan .. => if f.width = 32 then ⟨0, flNV, false⟩ else ⟨0, if v.isSig then flNV else 0, true⟩
  | .inf neg =>
    if f.width = 32 then ⟨intCode f neg (intMax f), flNV, false⟩ else ⟨0, flNV ||| flNP, true⟩
  | .fin neg m e =>
    let (n, inexact) := roundAt mode r neg m e 0
    if intMax f < n then
      ⟨intCode f neg (intMax f), if f.width = 32 then flNV else flOF ||| flNX, false⟩
    else ⟨intCode f neg n, if inexact then flNX else 0, false⟩

/-- The magnitude of a finite difference |a - b| of two finite values, as m·2^e. -/
def distFin (n1 : Bool) (m1 : Nat) (e1 : Int) (n2 : Bool) (m2 : Nat) (e2 : Int) : Nat × Int :=
  let e := min e1 e2
  let a : Int := (if n1 then -1 else 1) * ((m1 * pow2 (e1 - e) : Nat) : Int)
  let b : Int := (if n2 then -1 else 1) * ((m2 * pow2 (e2 - e) : Nat) : Int)
  ((a - b).natAbs, e)

/-- Compare m1·2^e1 with m2·2^e2. -/
def cmpMag (m1 : Nat) (e1 : Int) (m2 : Nat) (e2 : Int) : Ordering :=
  let e := min e1 e2
  compare (m1 * pow2 (e1 - e)) (m2 * pow2 (e2 - e))

/-- The order of two finite or infinite values, with equal zeros (R172). -/
def Fv.cmp (a b : Fv) : Ordering :=
  match a, b with
  | .inf na, .inf nb => if na = nb then .eq else if na then .lt else .gt
  | .inf na, _ => if na then .lt else .gt
  | _, .inf nb => if nb then .gt else .lt
  | .fin na ma ea, .fin nb mb eb =>
    let e := min ea eb
    let x : Int := (if na then -1 else 1) * ((ma * pow2 (ea - e) : Nat) : Int)
    let y : Int := (if nb then -1 else 1) * ((mb * pow2 (eb - e) : Nat) : Int)
    compare x y
  | _, _ => .eq

/-- The order that places -0 below +0 (R63, R172). -/
def Fv.cmpZ (a b : Fv) : Ordering :=
  match Fv.cmp a b with
  | .eq => if a.neg = b.neg then .eq else if a.neg then .lt else .gt
  | o => o

/-- The nearest entry of a code table to a finite value: (code, distance, entry sign) folded over the
table; nearer wins, then the value's own sign, then the lower code (R177). -/
def cb4Pick (neg : Bool) (m : Nat) (e : Int) (tbl : List Nat) : Nat :=
  let step := fun (acc : Nat × Option (Nat × Nat × Int × Bool)) (x : Nat) =>
    let i := acc.1
    match decodeFloat fmtBf16 x with
    | .fin n1 m1 e1 =>
      let d := distFin n1 m1 e1 neg m e
      let same := n1 == neg
      match acc.2 with
      | none => (i + 1, some (i, d.1, d.2, same))
      | some (_, bd, be, bs) =>
        match cmpMag d.1 d.2 bd be with
        | .lt => (i + 1, some (i, d.1, d.2, same))
        | .eq => if same && !bs then (i + 1, some (i, d.1, d.2, same)) else (i + 1, acc.2)
        | .gt => (i + 1, acc.2)
    | _ => (i + 1, acc.2)
  match (tbl.foldl step (0, none)).2 with
  | some (c, _) => c
  | none => 0

/-- Conversion into CB4 (R176, R177, R178). -/
def toCb4 (tbl : List Nat) (v : Fv) : Rnd :=
  match v with
  | .nan .. => ⟨0, if v.isSig then flNV else 0, true⟩
  | .inf _ => ⟨0, flNV ||| flNP, true⟩
  | .fin neg m e =>
    let c := cb4Pick neg m e tbl
    let chosen := decodeFloat fmtBf16 (tbl.getD c 0)
    let vals := tbl.map (decodeFloat fmtBf16)
    let beyond := vals.all (fun x => Fv.cmp x v == .lt) || vals.all (fun x => Fv.cmp v x == .lt)
    let inexact := Fv.cmp chosen v != .eq
    ⟨c, (if beyond then flOF else 0) ||| (if inexact then flNX else 0), false⟩

/-- Conversion of an exact value into any format, rounded once (R173-R178). The table is CB4's. -/
def convert (f : Fmt) (tbl : List Nat) (mode : RMode) (ovf : Bool) (r : Word) (v : Fv) : Rnd :=
  if f.kind = 3 then toIntFmt f mode r v
  else if f.kind = 4 then toCb4 tbl v
  else
    match v with
    | .nan neg sig p l =>
      let fl := if sig then flNV else 0
      if hasNan f then ⟨carryNan f neg p l, fl, false⟩ else ⟨0, fl, true⟩
    | .inf neg =>
      if hasInf f then ⟨signed f neg ((2 ^ f.ebits - 1) <<< f.mbits), 0, false⟩
      else if f.kind = 1 then ⟨signed f neg (2 ^ (f.ebits + f.mbits) - 1), flNV ||| flNP, false⟩
      else ⟨0, flNV ||| flNP, true⟩
    | .fin neg m e => roundFin f mode ovf r neg m e

/-- A value rounded into a format with NaN and infinity codes, the result of arithmetic. -/
def roundTo (f : Fmt) (mode : RMode) (v : Fv) : Nat × FFlags :=
  let x := convert f [] mode false 0 v
  (x.code, x.fl)

/-- The first NaN of a list of operands, quieted (R62, R170). -/
def firstNan : List Fv → Option Fv
  | [] => none
  | .nan n _ p l :: _ => some (.nan n false p l)
  | _ :: t => firstNan t

/-- A signalling NaN among operands raises NV (R62). -/
def sigFlag (l : List Fv) : FFlags := if l.any Fv.isSig then flNV else 0

/-- An exact result, or a NaN that arises from operands that are not NaN (R62, R170). -/
inductive Ex where
  | val (v : Fv)
  | produced (fl : FFlags)
  | flagged (fl : FFlags) (v : Fv)
  deriving DecidableEq, Repr

/-- The exact sum of two values that are not NaN; `rdn` gives an exact zero its sign (R171, R62). -/
def exAdd (rdn : Bool) (a b : Fv) : Ex :=
  match a, b with
  | .inf na, .inf nb => if na = nb then .val (.inf na) else .produced flNV
  | .inf na, _ => .val (.inf na)
  | _, .inf nb => .val (.inf nb)
  | .fin na ma ea, .fin nb mb eb =>
    let e := min ea eb
    let x : Int := (if na then -1 else 1) * ((ma * pow2 (ea - e) : Nat) : Int)
    let y : Int := (if nb then -1 else 1) * ((mb * pow2 (eb - e) : Nat) : Int)
    let s := x + y
    if s = 0 then .val (.fin (if na = nb then na else rdn) 0 0)
    else .val (.fin (decide (s < 0)) s.natAbs e)
  | _, _ => .val a

/-- The exact product of two values that are not NaN. -/
def exMul (a b : Fv) : Ex :=
  match a, b with
  | .fin na ma ea, .fin nb mb eb => .val (.fin (na != nb) (ma * mb) (ea + eb))
  | _, _ => if a.isZero || b.isZero then .produced flNV else .val (.inf (a.neg != b.neg))

/-- A quotient of two finite nonzero magnitudes: enough bits for one rounding, with a sticky low bit. -/
def quotBits (m1 : Nat) (e1 : Int) (m2 : Nat) (e2 : Int) : Nat × Int :=
  let k := 140 + lead m2 - lead m1
  let q := (m1 <<< k) / m2
  let rem := (m1 <<< k) % m2
  (2 * q + (if rem = 0 then 0 else 1), e1 - e2 - k - 1)

/-- The quotient of two values that are not NaN. -/
def exDiv (a b : Fv) : Ex :=
  match a, b with
  | .inf _, .inf _ => .produced flNV
  | .inf na, _ => .val (.inf (na != b.neg))
  | _, .inf nb => .val (.fin (a.neg != nb) 0 0)
  | .fin na ma ea, .fin nb mb eb =>
    if mb = 0 then (if ma = 0 then .produced flNV else .flagged flDZ (.inf (na != nb)))
    else if ma = 0 then .val (.fin (na != nb) 0 0)
    else
      let (q, e) := quotBits ma ea mb eb
      .val (.fin (na != nb) q e)
  | _, _ => .val a

/-- The square root of a value that is not NaN, with a sticky low bit. -/
def exSqrt (a : Fv) : Ex :=
  match a with
  | .inf n => if n then .produced flNV else .val (.inf false)
  | .fin n m e =>
    if m = 0 then .val (.fin n 0 0)
    else if n then .produced flNV
    else
      let odd := e % 2 ≠ 0
      let m1 := if odd then 2 * m else m
      let e1 := if odd then e - 1 else e
      let big := m1 <<< 280
      let root := Nat.sqrt big
      .val (.fin false (2 * root + (if root * root = big then 0 else 1)) ((e1 - 280) / 2 - 1))
  | v => .val v

/-- An exact result rounded into a format with the flags of the operands and of the rounding (R65, R178). -/
def finish (f : Fmt) (mode : RMode) (ops : List Fv) (x : Ex) : Nat × FFlags :=
  match firstNan ops with
  | some v => ((convert f [] mode false 0 v).code, sigFlag ops)
  | none =>
    match x with
    | .produced fl => (canonNan f, fl ||| flNP)
    | .flagged fl v => ((roundTo f mode v).1, fl ||| (roundTo f mode v).2)
    | .val v => roundTo f mode v

def fAdd (f : Fmt) (mode : RMode) (a b : Fv) : Nat × FFlags :=
  finish f mode [a, b] (exAdd (decide (mode = 2)) a b)

def fMul (f : Fmt) (mode : RMode) (a b : Fv) : Nat × FFlags := finish f mode [a, b] (exMul a b)

def fDiv (f : Fmt) (mode : RMode) (a b : Fv) : Nat × FFlags := finish f mode [a, b] (exDiv a b)

def fSqrt (f : Fmt) (mode : RMode) (a : Fv) : Nat × FFlags := finish f mode [a] (exSqrt a)

/-- The exact value a × b + c of operands that are not NaN. -/
def exFma (rdn : Bool) (a b c : Fv) : Ex :=
  match exMul a b with
  | .val p => exAdd rdn p c
  | x => x

/-- Fused multiply-add with one rounding; 0 × ∞ raises NV also when the addend is a NaN (R62). -/
def fFma (f : Fmt) (mode : RMode) (a b c : Fv) : Nat × FFlags :=
  let (r, fl) := finish f mode [a, b, c] (exFma (decide (mode = 2)) a b c)
  let zi := (a.isZero && b.isInf) || (a.isInf && b.isZero)
  (r, if zi then fl ||| flNV else fl)

/-- Minimum and maximum: any NaN operand gives a NaN, -0 below +0 (R63, R172). -/
def fMinMax (f : Fmt) (isMax : Bool) (a b : Fv) : Nat × FFlags :=
  let less := Fv.cmpZ a b == .lt
  let pick := if isMax then (if less then b else a) else (if less then a else b)
  finish f 0 [a, b] (.val pick)

/-- minimumNumber and maximumNumber: one NaN operand gives the other operand (R63). -/
def fMinMaxN (f : Fmt) (isMax : Bool) (a b : Fv) : Nat × FFlags :=
  if a.isNan && !b.isNan then ((roundTo f 0 b).1, sigFlag [a])
  else if b.isNan && !a.isNan then ((roundTo f 0 a).1, sigFlag [b])
  else fMinMax f isMax a b

/-- FEQ, FLT and FLE as truth values with flags: which = 0, 1, 2 (R63). -/
def fCmp (which : Nat) (a b : Fv) : Bool × FFlags :=
  if a.isNan || b.isNan then
    (false, if which = 0 then sigFlag [a, b] else flNV)
  else
    let o := Fv.cmp a b
    ((match which with
      | 0 => o == .eq
      | 1 => o == .lt
      | _ => o != .gt), 0)

/-- The class mask of a binary32 pattern (R63). -/
def fClass (w : Word) : Nat :=
  let e := fld w 23 8
  let m := fld w 0 23
  let s := bit w 31
  if e = 255 ∧ m ≠ 0 then (if m.testBit 22 then 2 ^ 9 else 2 ^ 8)
  else if e = 255 then (if s then 2 ^ 0 else 2 ^ 7)
  else if e = 0 ∧ m = 0 then (if s then 2 ^ 3 else 2 ^ 4)
  else if e = 0 then (if s then 2 ^ 2 else 2 ^ 5)
  else (if s then 2 ^ 1 else 2 ^ 6)

/-- binary32 to a 32-bit integer: out of range and NaN raise NV alone (R64). -/
def fToInt (unsigned : Bool) (mode : RMode) (v : Fv) : Nat × FFlags :=
  let hi : Int := if unsigned then 2 ^ 32 - 1 else 2 ^ 31 - 1
  let lo : Int := if unsigned then 0 else -(2 ^ 31)
  let code : Int → Nat := fun i => (wordOfInt i).toNat
  match v with
  | .nan .. => (0, flNV)
  | .inf n => (code (if n then lo else hi), flNV)
  | .fin n m e =>
    let (k, inexact) := roundAt mode 0 n m e 0
    let i : Int := if n then -(k : Int) else k
    if hi < i then (code hi, flNV)
    else if i < lo then (code lo, flNV)
    else (code i, if inexact then flNX else 0)

/-- The mixing step of the random word (R182). -/
def mix (x : Word) : Word :=
  let x := x ^^^ (x >>> 16)
  let x := x * 0x85EBCA6B#32
  let x := x ^^^ (x >>> 13)
  let x := x * 0xC2B2AE35#32
  x ^^^ (x >>> 16)

/-- The random word for element `e` of a tile (R182). -/
def rand (seed addr step tile e : Word) : Word :=
  let h := mix (seed ^^^ 0x6A09E667#32)
  let h := mix (h ^^^ addr)
  let h := mix (h ^^^ step)
  let h := mix (h ^^^ tile)
  mix (h ^^^ e)

/-- A sum of values kept exactly, infinities and NaNs apart (dot products, accumulations). -/
def exSum (rdn : Bool) (init : Fv) (l : List Fv) : Ex :=
  l.foldl (fun acc v =>
    match acc with
    | .val a => exAdd rdn a v
    | x => x) (.val init)

end Sys2Proof.Machine
end

