-- ==== Sys2Proof/Machine/MessageUnit.lean ====
section
/-!
DEFINITION. The message unit of a core: semaphores, send with its credits, receive queues, grants, closes and
refusals, watermarks and the alias table (spec/03 R113-R130, R140-R142, R151-R155; spec/11 R410, R411).
-/

namespace Sys2Proof.Machine

/-! ### Semaphores (R113, R116, R117) -/

def Core.sem (k : Core) (n : Nat) : Nat := k.cf (0x100 + n) 0 8
def Core.setSem (k : Core) (n v : Nat) : Core := k.put (0x100 + n) (BitVec.ofNat 32 (v % 256))

/-- Increment a semaphore; at 255 it stays and its SP_SEMOVF bit is set (R116). -/
def Core.semInc (k : Core) (n : Nat) : Core × Bool :=
  if k.sem n = 255 then (k.orCsr (0x145 + n / 32) (2 ^ (n % 32)), true) else (k.setSem n (k.sem n + 1), false)

/-- Set a bit of MU_STAT; a change from 0 to 1 with its FIE bit set makes MU_FAULT pending (R130, R152). -/
def Core.muStat (k : Core) (b : Nat) : Core :=
  if bit (k.get 0x201) b then k
  else
    let k := k.orCsr 0x201 (2 ^ b)
    if bit (k.get 0x200) b then k.orCsr 0x17 4 else k

/-! ### Sequences -/

/-- The ticket after `t`: 1, 2, …, 0xFFFF, 1 (R69). -/
def nextTicket (t : Nat) : Nat := if t = 0xFFFF then 1 else t + 1

/-- A core address with the device's own id written as 0. -/
def State.normAddr (s : State) (a : Nat) : Nat := if s.isOwn (addrDev a) then a % 65536 else a

/-! ### Cluster power as the mesh sees it (R130, R648) -/

/-- The device is in P0: held actions end, and an end of P2 raises WAKE (R652, R658, R675). -/
def State.toP0 (s : State) : State :=
  let was := s.regFld 0x20000 0 2
  let s := { s.setRegFld 0x20000 0 2 0 with pwrHeld := 0, trans := s.trans.filter fun t => t.row != 13 }
  if was = 2 then s.evSet 0x20050 32 63 else s

/-- A die wakes from DS: counted, and the device leaves P1 or P2 (rows 9, 11 and 13 of R651); an entry to P2 completes first (R658). -/
def State.dieUp (s : State) (d : Nat) : State :=
  let s := { (s.setDieState d 1).bump 0x20418 1 with trans := s.trans.filter fun t => !((t.row == 8 || t.row == 9) && t.unit == d) }
  if s.trans.any fun t => t.row == 12 then { s with trans := s.trans.map fun t => if t.row == 12 then { t with wake := true } else t }
  else if s.regFld 0x20000 0 2 = 0 then s else s.toP0

/-- A packet that enters or crosses dies wakes every one of them that is in DS, at once (R27, R653, log entry 22). -/
def State.wakeDies (s : State) (l : List Nat) : State := l.foldl (fun s d => if s.dieState d = 2 then s.dieUp d else s) s

/-- The dies on a packet's path from die a to die b, the first included (R24, R135). -/
def State.wakeRoute (s : State) (a b : Nat) : State := s.wakeDies (a :: dieRoute a b)

/-- A memory access from die d of `n` bytes at a partition address: the dies on the way to each tile it reaches wake. -/
def State.memRoute (s : State) (d p a n : Nat) : State :=
  match s.chunks p a n with
  | none => s
  | some l => l.foldl (fun s c => s.wakeRoute d (siteDie c.tile)) s

/-- A packet wakes the cluster it is for, when it is in C1 or C2, and the die with it, at once (R130, rows 3, 4 and 7 of R651, log
entry 22). -/
def State.wakeFor (s : State) (cl : Nat) : State :=
  let d := clusterDie cl
  let s := if s.dieState d = 2 then s.dieUp d else s
  if s.clState cl = 1 ∨ s.clState cl = 2 then
    { (s.setClState cl 0).setDieState d 0 with trans := s.trans.filter fun t => !(decide (t.row < 5) && t.unit == cl) }
  else s

/-- The die a packet of this device starts from: that of the core that made it. -/
def srcDie (orig : Nat) : Option Nat := if isCore orig then some (coreDie orig) else none

/-- A packet from a die, or one whose way in is already awake, reaches core c: the dies on its path and the cluster wake. A cluster
in C3 takes no packet (R130, R653). -/
def State.reach (s : State) (src : Option Nat) (c : Nat) : Option State :=
  if s.clState (coreCluster c) = 3 then none
  else
    let s := match src with
      | some d => s.wakeRoute d (coreDie c)
      | none => s
    some (s.wakeFor (coreCluster c))

/-! ### Receive queues (R119-R122, R151) -/

def rqCsr (q i : Nat) : Nat := 0x210 + 8 * q + i
def Core.rqMode (k : Core) (q : Nat) : Nat := k.cf (rqCsr q 0) 0 2
def Core.rqDepth (k : Core) (q : Nat) : Nat := k.cf (rqCsr q 0) 8 6
def Core.rqBase (k : Core) (q : Nat) : Nat := (k.get (rqCsr q 1)).toNat
def Core.rqSize (k : Core) (q : Nat) : Nat := (k.get (rqCsr q 2)).toNat
def Core.rqChLo (k : Core) (q : Nat) : Nat := k.cf (rqCsr q 3) 0 12
def Core.rqChHi (k : Core) (q : Nat) : Nat := k.cf (rqCsr q 3) 16 12
def Core.rqSrc (k : Core) (q : Nat) : Nat := (k.get (rqCsr q 4)).toNat
def Core.rqHead (k : Core) (q : Nat) : Nat := (k.get (rqCsr q 5)).toNat
def Core.rqTail (k : Core) (q : Nat) : Nat := (k.get (rqCsr q 6)).toNat
def Core.setHead (k : Core) (q v : Nat) : Core := k.put (rqCsr q 5) (BitVec.ofNat 32 v)
def Core.setTail (k : Core) (q v : Nat) : Core := k.put (rqCsr q 6) (BitVec.ofNat 32 v)

/-- Bytes of the ring in use. -/
def Core.ringUsed (k : Core) (q : Nat) : Nat :=
  let size := k.rqSize q
  if size = 0 then 0 else (k.rqHead q + size - k.rqTail q) % size

/-- Free 32-byte units, one always left unused (R121); of a ROTATE queue, those of its free zones. -/
def Core.freeUnits (k : Core) (q : Nat) : Nat :=
  match k.rqMode q with
  | 0 => 0
  | 3 => (2 - (k.rxq q).zones.length) * (k.rqSize q / 64)
  | _ => (k.rqSize q - k.ringUsed q) / 32 - 1

/-- MU_RQq_STATE (R151). -/
def Core.rqState (k : Core) (q : Nat) : Word :=
  BitVec.ofNat 32 ((k.rxq q).recs.length % 64 + (k.rxq q).zones.length * 64 + k.freeUnits q * 65536)

/-- Occupancy (R410). -/
def Core.occupancy (k : Core) (q : Nat) : Nat :=
  match k.rqMode q with
  | 0 => 0
  | 3 => (k.rxq q).zones.length
  | _ => (k.rqSize q - 32) / 32 - k.freeUnits q

/-- Whether a SEND or the DMA descriptor that runs waits for credit (R412). -/
def Core.txStalled (k : Core) : Bool :=
  (k.rs == 2 && match k.wait with
    | some (.send _ _ _ _ _) => true
    | _ => false) ||
  match (k.eng 4).jobs with
  | j :: _ => decide (2 ≤ leAt j.desc.bytes 2 1 % 16) && j.fault == 0 && decide (j.sent < leAt j.desc.bytes 4 3)
  | [] => false

/-- Whether the core waits in WAITQ on a monitored queue (R413). -/
def Core.rxWaits (k : Core) : Bool :=
  k.rs == 2 && match k.wait with
    | some (.waitq _ mask) => (List.range 8).any fun q => mask.testBit q && bit (k.get (0x2A8 + q)) 31
    | _ => false

/-- MU_TXSTALL and MU_RXWAIT of a wait under way advance by free amounts, as the model follows no clock: whenever they are seen, and when
the wait ends (R412, R413, log entry 5). -/
def State.stallTick (s : State) (c : Nat) : State :=
  let k := s.core c
  if !s.clocked c then s
  else
    let s := if k.txStalled then
        let (w, s) := s.freeVal
        s.bumpCsr c 0x2B0 w.toNat
      else s
    if k.rxWaits then
      let (w, s) := s.freeVal
      s.bumpCsr c 0x2B2 w.toNat
    else s

/-- The watermark test after a change of occupancy, with its event (R410, R411). -/
def State.watermark (s : State) (c q : Nat) : State :=
  let k := s.core c
  let w := k.get (0x2A8 + q)
  let high := fld w 0 14
  let lo := min (fld w 16 14) (high - 1)
  let occ := k.occupancy q
  if high ≠ 0 ∧ bit w 30 ∧ high ≤ occ then
    let s := s.setCore c (k.put (0x2A8 + q) (setBit w 30 false))
    if bit (k.get 0x2A2) 31 then
      let s := s.stallTick c
      s.sendEvent (s.corePart c) (s.relAddr c) (k.get 0x2A1).toNat (k.cf 0x2A2 0 12) 2 c
        [k.cf 0x2A0 0 16 + q * 65536 + 2 ^ 24, (s.stepNo (s.corePart c)).toNat, occ, (s.csr c 0x2B0).toNat]
    else s
  else if !bit w 30 ∧ occ ≤ lo then s.setCore c (k.put (0x2A8 + q) (setBit w 30 true))
  else s

/-! ### Grants and closes the receiver sends (R124, R127, R128) -/

/-- The address a queue grants and closes under: the core's own, or the fenced core's it stands in for (R141). -/
def State.rqSelf (s : State) (c q : Nat) : Nat := ((s.core c).rxq q).standIn.getD (s.relAddr c)

def State.sendGrant (s : State) (c q units recs : Nat) (first : Bool) : State :=
  let k := s.core c
  let rot := k.rqMode q == 3
  s.send (.grant { part := s.corePart c, dst := k.rqSrc q, src := s.rqSelf c q, ch := k.rqChLo q, rot := rot,
                   first := first, units := units, recs := recs,
                   cap := if rot then k.rqSize q / 64 else (k.rqSize q - 32) / 32 })

def State.sendClose (s : State) (c q : Nat) : State :=
  let k := s.core c
  s.send (.close { part := s.corePart c, dst := k.rqSrc q, src := s.rqSelf c q, ch := k.rqChLo q,
                   rot := k.rqMode q == 3, refused := false, ticket := 0, origin := 0, orig := c })

/-- Send every ungranted amount of a STREAM queue. -/
def State.grantAll (s : State) (c q : Nat) : State :=
  let x := (s.core c).rxq q
  let s := s.sendGrant c q x.ungrU x.ungrR false
  s.modCore c fun k => k.setRxq q { k.rxq q with ungrU := 0, ungrR := 0 }

/-- Send a further grant when a threshold of R124 is met; `now` when the queue or its ring has just become empty. -/
def State.grantCheck (s : State) (c q : Nat) (now : Bool) : State :=
  let k := s.core c
  let x := k.rxq q
  let min1 := max 1 (k.cf 0x200 24 8)
  if k.rqMode q = 2 ∧ (0 < x.ungrU ∨ 0 < x.ungrR) ∧
      (min1 ≤ x.ungrU ∨ (0 < x.ungrR ∧ k.rqDepth q ≤ 2 * x.ungrR) ∨ now) then s.grantAll c q
  else s

/-! ### Placement (R121, R122, R127) -/

/-- Where a payload of `n` bytes goes in a ring, the HEAD after it and the TAIL it leaves; `none` where it does not fit. -/
def Core.ringPlace (k : Core) (q n : Nat) : Option (Nat × Nat × Nat) :=
  let base := k.rqBase q
  let size := k.rqSize q
  let l := (n + 31) / 32 * 32
  let head := k.rqHead q
  let tail := k.rqTail q
  let pass := decide (base + size < head + l)
  let (head, tail) := if pass && head == tail then (base, base) else (head, tail)
  let skip := if base + size < head + l then base + size - head else 0
  let used := if size = 0 then 0 else (head + size - tail) % size
  if used + skip + l + 32 ≤ size then
    let at' := if skip = 0 then head else base
    let h := if at' + l = base + size then base else at' + l
    some (at', h, tail)
  else none

/-- The receive record (R75); the WYN class of a rotate message is 8 (R462). The length field has 14 bits: of a rotate message of
16,384 bytes or more it holds the length modulo 2^14 (DESIGN CHOICE, log entry 86: R132 asks for the whole length, for which R75 has no
room). -/
def recvRecord (m : Msg) (len addr : Nat) : List Word :=
  [BitVec.ofNat 32 m.src, BitVec.ofNat 32 (len % 2 ^ 14 + m.ch * 2 ^ 16 + (if m.cls = 2 then 8 else m.cls) * 2 ^ 28),
   BitVec.ofNat 32 addr, BitVec.ofNat 32 (m.seq % 65536)]

/-- PUE in a record's words 0 to 3: R110 has it set, R75 gives it no place, so which of the bits R75 shows as 0 it is stands open
(log entry 29). -/
def pueBits : List Word := [0, Config.pueMask 1 &&& 0xC000#32, 0, Config.pueMask 3 &&& 0xFFFF0000#32]

/-- A record with PUE set where a word of its payload was left unwritten (R110). -/
def markPue (pue : Bool) (r : List Word) : List Word := if pue then List.zipWith (· ||| ·) r pueBits else r

/-- Queue a message's record, then signal the queue's semaphore (R122); `pue` says that a word was left unwritten (R110). -/
def State.putRecord (s : State) (c q : Nat) (m : Msg) (len addr : Nat) (pue : Bool) : State :=
  s.modCore c fun k =>
    let x := k.rxq q
    let k := k.setRxq q { x with recs := x.recs ++ [markPue pue (recvRecord m len addr)] }
    if bit (k.get (rqCsr q 0)) 22 then
      let (k, ovf) := k.semInc (k.cf (rqCsr q 0) 16 6)
      if ovf then k.muStat 8 else k
    else k

/-- The queue an arriving message goes to (R120). -/
def State.matchQueue (s : State) (c : Nat) (m : Msg) : Option Nat :=
  let k := s.core c
  (List.range 8).find? fun q =>
    if m.cls = 0 then k.rqMode q == 1 && decide (k.rqChLo q ≤ m.ch) && decide (m.ch ≤ k.rqChHi q)
    else k.rqMode q == m.cls + 1 && k.rqChLo q == m.ch && s.normAddr (k.rqSrc q) == s.normAddr m.src

/-- The redirect of a fenced core: target core and receive queue (R140). -/
def State.redirect (s : State) (c : Nat) : Option (Nat × Nat) :=
  let w := s.reg (clKey (coreCluster c) + 4 * coreIdx c)
  if bit w 8 then some (clusterCore (coreCluster c) (fld w 0 4), fld w 4 3) else none

/-- The core that serves requests to core `c`: its stand-in once the alias entry is valid (R140). -/
def State.servedBy (s : State) (c : Nat) : Nat := ((s.redirect c).map (·.1)).getD c

/-- The core that takes a packet for an address: every packet for a fenced core goes to its stand-in (R140). -/
def State.toUnit (s : State) (p a : Nat) : Option Nat := (s.toCore p a).map s.servedBy

/-- The core of this device that waits for word of a message it sent: none once it is fenced, since responses to its unfinished
work are discarded (R140). -/
def State.waiter (s : State) (orig : Nat) : Option Nat := if isCore orig && !s.isFenced orig then some orig else none

/-- A core no longer waits for the acceptance of a send (R78). -/
def Core.forgetSend (k : Core) (t : Nat) : Core :=
  { k with sacc := k.sacc.filter (· ≠ t), saccFar := k.saccFar.filter (· ≠ t) }

/-- The source is told that its message was accepted (R78, R132). -/
def State.accepted (s : State) (m : Msg) : State :=
  match s.waiter m.orig with
  | some c => s.modCore c fun k =>
      if m.origin = 0 then k.forgetSend m.ticket
      else if m.origin = 1 then
        let e := k.eng 4
        k.setEng 4 { e with jobs := e.jobs.map fun j =>
          if j.desc.ticket = m.ticket then { j with msgs := j.msgs - 1 } else j }
      else k
  | none => s

/-- A message that is not taken: RXREF is set and the refusal counted, but for events of the device itself, which R244, R326, R411 and
R542 leave out of the count; a datagram's source is told, a stream or rotate source gets a close (R120, R123, R130). -/
def State.refuseMsg (s : State) (c : Nat) (m : Msg) : State :=
  let s := if m.origin ≤ 1 || m.origin == 6 then s.bumpCsr c 0x206 1 else s
  let s := s.modCore c fun k => k.muStat 3
  if m.cls = 0 then
    s.send (.refusal { part := m.part, dst := m.src, src := m.dst, ch := m.ch, ticket := m.ticket, origin := m.origin, orig := m.orig })
  else
    s.send (.close { part := m.part, dst := m.src, src := m.dst, ch := m.ch, rot := m.cls == 2, refused := true,
                     ticket := m.ticket, origin := m.origin, orig := m.orig })

/-- A message that can be placed neither now nor refused by a rule: it stays at the node, the oldest of its kind (log entry 87). -/
def State.holdMsg (s : State) (m : Msg) : State := { s with net := .msg m :: s.net }

/-- Place a message in queue q of core c, by the queue's mode (R121-R123, R127). A ROTATE queue with no free record, or whose zone for
the message is filled, takes it later; a redirected message longer than a zone is refused (R122, R127, R140, log entry 87). -/
def State.placeIn (s : State) (c q : Nat) (m : Msg) : State :=
  let k := s.core c
  let n := m.payload.length
  match k.rqMode q with
  | 0 => s.refuseMsg c m
  | 3 =>
    let zone := m.seq % 2
    let addr := k.rqBase q + zone * (k.rqSize q / 2)
    if k.rqSize q / 2 < n then s.refuseMsg c m
    else if k.rqDepth q ≤ (k.rxq q).recs.length ∨ zone ∈ (k.rxq q).zones then s.holdMsg m
    else
      let (s, bad) := s.spadWrite c addr m.payload 0xF1 0
      let s := s.modCore c fun k => k.setRxq q { k.rxq q with zones := (k.rxq q).zones ++ [zone] }
      ((s.putRecord c q m n addr bad.isSome).watermark c q).accepted m
  | _ =>
    if k.rqDepth q ≤ (k.rxq q).recs.length then s.refuseMsg c m
    else
      match k.ringPlace q n with
      | none => s.refuseMsg c m
      | some (addr, head, tail) =>
        let (s, bad) := s.spadWrite c addr m.payload 0xF1 0
        let s := s.modCore c fun k => (k.setHead q head).setTail q tail
        ((s.putRecord c q m n addr bad.isSome).watermark c q).accepted m

/-- A message reaches its destination core (R120, R130, R140). -/
def State.deliver (s : State) (m : Msg) : State :=
  match s.toCore m.part m.dst with
  | none => s
  | some c =>
    match s.reach (srcDie m.orig) c with
    | none => s.refuseMsg c m
    | some s =>
      match s.redirect c with
      | some (t, q) => s.placeIn t q m
      | none =>
        match s.matchQueue c m with
        | some q => s.placeIn c q m
        | none => s.refuseMsg c m

/-! ### Sending (R72, R73, R126, R127, R129, R142) -/

/-- Units a stream payload of n units takes and the position after it (R126). -/
def TxEntry.charge (e : TxEntry) (n : Nat) : Nat × Nat :=
  if e.pos + n ≤ e.cap + 1 then (n, (e.pos + n) % (e.cap + 1))
  else if e.cred = e.cap then (n, n)
  else ((e.cap + 1 - e.pos) + n, n)

/-- The transmit entry for a destination and channel of a class. -/
def State.txFind (s : State) (c dst ch : Nat) (rot : Bool) : Option (Nat × TxEntry) :=
  (List.range 16).findSome? fun i =>
    match (s.core c).tx.get none0 i with
    | some e => if s.normAddr e.dst = s.normAddr dst ∧ e.ch = ch ∧ e.rot = rot then some (i, e) else none
    | none => none

def Core.setTx (k : Core) (i : Nat) (e : Option TxEntry) : Core := { k with tx := k.tx.set none0 i e }

/-- Under MU_SRCSEL the sender's address: its own, or the fenced core's; `none` where the selection is refused (R142). -/
def State.sourceAddr (s : State) (c : Nat) : Option Nat :=
  let w := (s.core c).get 0x202
  if bit w 4 then
    let cl := coreCluster c
    let a := s.reg (clKey cl + 4 * fld w 0 4)
    if bit a 8 && decide (fld a 0 4 = coreIdx c) then some (s.relAddr (clusterCore cl (fld w 0 4))) else none
  else some (s.relAddr c)

/-- The outcome of a send against its limits. -/
inductive SendTry where
  | go (item : SendItem) (tx : Option (Nat × TxEntry))
  | discard (stat : Nat)
  | short

/-- Judge a send of `len` bytes: SRCSEL, BCAST, NOSTREAM, TOOBIG, then credit (R126, R127, R129, R142). -/
def State.trySendMsg (s : State) (c addr len dst cls ch : Nat) : SendTry :=
  match s.sourceAddr c with
  | none => .discard 6
  | some src =>
    let item : SendItem := { ticket := (s.core c).sendNext, live := true, addr := addr, len := len, dst := dst,
                             src := src, cls := cls, ch := ch, units := 0, posBefore := 0 }
    if cls = 0 then .go item none
    else if addrDev dst = 0xFFFF then .discard 9
    else
      match s.txFind c dst ch (cls == 2) with
      | none => .discard 0
      | some (i, e) =>
        let n := (len + 31) / 32
        if e.cap < n then .discard 1
        else if cls = 2 then
          if e.cred = 0 then .short
          else .go { item with units := 1 } (some (i, { e with cred := e.cred - 1 }))
        else
          let (u, p) := e.charge n
          if e.cred < u ∨ e.recs = 0 then .short
          else .go { item with units := u, posBefore := e.pos }
            (some (i, { e with cred := e.cred - u, recs := e.recs - 1, pos := p }))

/-- CC_SENT passes every discarded send at the head of the queue (R73). -/
def Core.drainSends (k : Core) : Core :=
  let rec go : List SendItem → Core → Core
    | [], k => { k with sendq := [] }
    | x :: t, k =>
      if x.live then { k with sendq := x :: t } else go t (k.put 0x4E (BitVec.ofNat 32 x.ticket))
  go k.sendq k

/-- A send takes its ticket and joins the queue; a discarded one counts as accepted (R73, R78). -/
def Core.pushSend (k : Core) (item : SendItem) : Core :=
  let k := { k with sendNext := nextTicket k.sendNext, sendq := k.sendq ++ [item],
                    sacc := if item.live then k.sacc ++ [item.ticket] else k.sacc }
  k.drainSends

/-- Carry out a SEND; `none` when credit is short (R126). -/
def State.doSend (s : State) (c addr len dst cls ch : Nat) : Option State :=
  match s.trySendMsg c addr len dst cls ch with
  | .short => none
  | .discard b =>
    some (s.modCore c fun k =>
      (k.muStat b).pushSend { ticket := k.sendNext, live := false, addr := addr, len := len, dst := dst, src := 0,
                              cls := cls, ch := ch, units := 0, posBefore := 0 })
  | .go item tx =>
    some (s.modCore c fun k =>
      let k := match tx with | some (i, e) => k.setTx i (some e) | none => k
      k.pushSend item)

/-- The message unit reads the oldest payload and sends the message (R73, R110, R126). -/
def State.payloadRead (s : State) (c : Nat) : State :=
  match (s.core c).sendq with
  | [] => s
  | x :: rest =>
    let (s, data, ue) := s.spadRead c x.addr x.len 0xF1 0
    let ent := if x.cls = 0 then none else s.txFind c x.dst x.ch (x.cls == 2)
    let done : Core → Core := fun k => (({ k with sendq := rest }).put 0x4E (BitVec.ofNat 32 x.ticket)).drainSends
    let forget : Core → Core := fun k => k.forgetSend x.ticket
    match ue, ent with
    | some _, some (i, e) =>
      let later := rest.any fun y => y.cls == x.cls && y.ch == x.ch && y.dst == x.dst
      let e' := { e with cred := e.cred + x.units, recs := if x.cls = 1 then e.recs + 1 else e.recs,
                         pos := if later then e.pos else x.posBefore }
      s.modCore c fun k => done (forget ((k.muStat 7).setTx i (some e')))
    | some _, none => s.modCore c fun k => done (forget (k.muStat 7))
    | none, some (i, e) =>
      let m : Msg := { part := s.corePart c, src := x.src, dst := x.dst, cls := x.cls, ch := x.ch, seq := e.seq,
                       ticket := x.ticket, origin := 0, orig := c, payload := data }
      let s := s.modCore c fun k => done (k.setTx i (some { e with seq := (e.seq + 1) % 65536 }))
      s.send (.msg m)
    | none, none =>
      if x.cls = 0 then
        let m : Msg := { part := s.corePart c, src := x.src, dst := x.dst, cls := 0, ch := x.ch, seq := x.ticket,
                         ticket := x.ticket, origin := 0, orig := c, payload := data }
        (s.modCore c done).send (.msg m)
      else s.modCore c fun k => done (forget (k.muStat 0))

/-! ### What arrives at a source (R120, R123-R126, R128) -/

/-- A refusal of a datagram arrives at its source (R123); events keep their own record (R244, R326, R411, R542, R604). A fenced core's
work is unfinished for good: its refusals are discarded (R140). -/
def State.refusalAt (s : State) (r : Refused) : State :=
  match r.origin with
  | 4 => s.bump (0xA0118 + 0x200 * r.part) 1
  | 5 => s.bump (0x80150 + 0x400 * r.part) 1
  | 6 => (s.bump (0xB0340 + 0x400 * r.part) 1).evSet (0xB0054 + 0x400 * r.part) 4 (384 + r.part)
  | o =>
    match s.waiter r.orig with
    | none => s
    | some c =>
      match s.reach none c with
      | none => s
      | some s =>
        match o with
        | 2 => s.modCore c fun k => k.orCsr 0x2A2 (2 ^ 30)
        | 3 => s.modCore c fun k => k.orCsr 0x8B2 4
        | _ =>
          let s := s.bumpCsr c 0x204 1
          s.modCore c fun k => ((k.forgetSend r.ticket).put 0x203 (BitVec.ofNat 32 (r.ticket % 65536))).muStat 2

/-- The die of the core behind an address, for an address of this device. -/
def State.addrDie (s : State) (p a : Nat) : Option Nat := if s.isOwn (addrDev a) then (s.toCore p a).map coreDie else none

/-- A grant reaches core c, awake (R125). A refused first grant is reported at the receiver, where that is a core of this device: the
spec names no packet that carries the refusal to another one (log entry 35). -/
def State.grantPut (s : State) (c : Nat) (g : Grant) : State :=
  let k := s.core c
  let hit := (List.range 16).findSome? fun i =>
    match k.tx.get none0 i with
    | some e => if s.normAddr e.dst = s.normAddr g.src ∧ e.ch = g.ch then some (i, e) else none
    | none => none
  let fresh : TxEntry := { dst := g.src, ch := g.ch, rot := g.rot, seq := 0, cred := g.units, cap := g.cap,
                           recs := g.recs, pos := 0 }
  match hit, g.first with
  | some (i, _), true => s.setCore c (k.setTx i (some fresh))
  | some (i, e), false =>
    s.setCore c (k.setTx i (some { e with cred := e.cred + g.units, recs := e.recs + g.recs }))
  | none, false => s
  | none, true =>
    match (List.range 16).find? fun i => (k.tx.get none0 i).isNone with
    | some i => s.setCore c (k.setTx i (some fresh))
    | none =>
      if s.isOwn (addrDev g.src) then
        match s.toUnit g.part g.src with
        | some r => s.modCore r fun k => k.muStat 4
        | none => s
      else s

/-- A grant arrives at its source, which wakes for it; one for a core in C3 is refused with nothing placed (R125, R130). -/
def State.grantAt (s : State) (g : Grant) : State :=
  match s.toUnit g.part g.dst with
  | none => s
  | some c =>
    match s.reach (s.addrDie g.part g.src) c with
    | none => s
    | some s => s.grantPut c g

/-- A waiting SEND whose entry has gone is discarded with NOSTREAM: it takes its ticket and retires (R73, R128). -/
def State.dropWaitingSend (s : State) (c dst ch : Nat) (rot : Bool) : State :=
  let k := s.core c
  match k.wait with
  | some (.send rd ra _ rc fn) =>
    if k.rs = 2 ∧ s.normAddr (k.s ra).toNat = s.normAddr dst ∧ fld (k.s rc) 16 12 = ch ∧ (fn % 4 == 2) = rot then
      (s.stallTick c).modCore c fun k =>
        let t := k.sendNext
        let k := (k.muStat 0).pushSend { ticket := t, live := false, addr := 0, len := 0, dst := dst, src := 0,
                                         cls := fn % 4, ch := ch, units := 0, posBefore := 0 }
        (k.setS rd (BitVec.ofNat 32 t)).retire (k.pc + 4)
    else s
  | _ => s

/-- A DMA descriptor that waits for an entry which has gone, or whose message was refused, ends with NOSTREAM (R130, R133; log entry 14). -/
def State.dropDma (s : State) (c : Nat) (x : Close) : State :=
  (if (s.core c).txStalled then s.stallTick c else s).modCore c fun k =>
    let e := k.eng 4
    match e.jobs with
    | j :: t =>
      let d := j.desc.bytes
      let kind := leAt d 2 1 % 16
      if 2 ≤ kind ∧ j.fault = 0 ∧ j.sent < leAt d 4 3 ∧ s.normAddr (leAt d 12 4) = s.normAddr x.src ∧
          leAt d 24 2 % 4096 = x.ch ∧ (leAt d 2 1 / 16 % 4 == 2) = x.rot then
        k.setEng 4 { e with jobs := { j with fault := 4, stage := 3 } :: t }
      else k
    | [] => k

/-- A close reaches core c, awake: its entry goes, and with it what waits for the entry (R120, R128, R130). -/
def State.closePut (s : State) (c : Nat) (x : Close) : State :=
  let s := match s.txFind c x.src x.ch x.rot with
    | some (i, _) => s.modCore c fun k => k.setTx i none
    | none => s
  let s := if x.refused then s.modCore c fun k =>
      let k := k.muStat 0
      if x.origin = 0 ∧ x.orig = c then k.forgetSend x.ticket else k
    else s
  (s.dropWaitingSend c x.src x.ch x.rot).dropDma c x

/-- A close arrives at the source of a stream or rotate channel, which wakes for it (R120, R128, R130). -/
def State.closeAt (s : State) (x : Close) : State :=
  match s.toUnit x.part x.dst with
  | none => s
  | some c =>
    match s.reach (s.addrDie x.part x.src) c with
    | none => s
    | some s => s.closePut c x

/-! ### Software frees space (R121, R124, R127) -/

/-- A write to MU_RQq_TAIL. -/
def State.tailWrite (s : State) (c q v : Nat) : State :=
  let k := s.core c
  match k.rqMode q with
  | 0 => s
  | 3 =>
    match (k.rxq q).zones with
    | [] => s
    | _ :: t =>
      let s := s.setCore c (k.setRxq q { k.rxq q with zones := t })
      (s.sendGrant c q 1 0 false).watermark c q
  | _ =>
    let base := k.rqBase q
    let size := k.rqSize q
    let bad := v < base ∨ base + size < v ∨ (v - base) % 32 ≠ 0
    let v' := if v = base + size then base else v
    let freed := if size = 0 then 0 else (v' + size - k.rqTail q) % size
    if bad ∨ k.ringUsed q < freed then s.setCore c (k.muStat 5)
    else
      let k := (k.setTail q v').setRxq q { k.rxq q with ungrU := (k.rxq q).ungrU + freed / 32 }
      let empty := k.rqHead q = v'
      ((s.setCore c k).grantCheck c q (empty && decide (0 < (k.rxq q).ungrU))).watermark c q

/-- RECV has removed a record: it counts toward a grant (R124). -/
def State.recordFreed (s : State) (c q : Nat) : State :=
  let k := s.core c
  if k.rqMode q = 2 then
    let x := k.rxq q
    let s := s.setCore c (k.setRxq q { x with ungrR := x.ungrR + 1 })
    s.grantCheck c q x.recs.isEmpty
  else s

/-! ### Queue configuration (R128) -/

/-- Whether an enabling write fails (R128). -/
def State.enableBad (s : State) (c q mode depth : Nat) : Bool :=
  let k := s.core c
  let base := k.rqBase q
  let size := k.rqSize q
  let others := (List.range 8).filter fun r => r ≠ q ∧ k.rqMode r ≠ 0
  let src := k.rqSrc q
  !inSpad base size || base % 32 != 0 || size % 64 != 0 || decide (size < 64) ||
    depth == 0 || decide (32 < depth) ||
    decide (128 < depth + (others.map k.rqDepth).sum) ||
    (mode == 1 && decide (k.rqChHi q < k.rqChLo q)) ||
    (decide (2 ≤ mode) && (addrBad src ||
      others.any fun r => decide (2 ≤ k.rqMode r) && s.normAddr (k.rqSrc r) == s.normAddr src &&
        k.rqChLo r == k.rqChLo q))

/-- The fenced core whose valid alias entry names queue q of core c (R141). -/
def State.standsFor (s : State) (c q : Nat) : Option Nat :=
  let cl := coreCluster c
  ((List.range 16).find? fun i =>
    let w := s.reg (clKey cl + 4 * i)
    bit w 8 && fld w 0 4 == coreIdx c && fld w 4 3 == q).map fun i => s.relAddr (clusterCore cl i)

/-- A write to MU_RQq_CFG (R128, R154). -/
def State.rqCfgWrite (s : State) (c q : Nat) (v : Word) : State :=
  let k := s.core c
  let old := k.get (rqCsr q 0)
  let mode := k.rqMode q
  let mode' := fld v 0 2
  let semBits := fld v 16 7
  let keep := setFld old 16 7 semBits
  if mode = 0 ∧ mode' = 0 then s.setCore c (k.put (rqCsr q 0) (setFld keep 8 6 (fld v 8 6)))
  else if mode = 0 then
    let depth := fld v 8 6
    if s.enableBad c q mode' depth then
      s.setCore c ((k.put (rqCsr q 0) (setFld keep 8 6 depth)).muStat 5)
    else
      let k := k.put (rqCsr q 0) (setFld (setFld keep 8 6 depth) 0 2 mode')
      let k := (k.setHead q (k.rqBase q)).setTail q (k.rqBase q)
      let k := k.setRxq q { Rxq.reset with standIn := s.standsFor c q }
      let s := s.setCore c k
      if mode' = 2 then s.sendGrant c q ((k.rqSize q - 32) / 32) depth true
      else if mode' = 3 then s.sendGrant c q 2 0 true
      else s
  else if mode' = 0 then
    let s := if 2 ≤ mode then s.sendClose c q else s
    (s.modCore c fun k => k.put (rqCsr q 0) (setFld keep 0 2 0)).watermark c q
  else if mode' ≠ mode then s.setCore c (k.muStat 5)
  else s.setCore c (k.put (rqCsr q 0) keep)

/-- Before a cluster enters C3, its STREAM and ROTATE queues send closes (R130). -/
def State.closeStreams (s : State) (c : Nat) : State :=
  (List.range 8).foldl (fun s q =>
    if 2 ≤ (s.core c).rqMode q then s.rqCfgWrite c q (setFld ((s.core c).get (rqCsr q 0)) 0 2 0) else s) s

/-! ### The alias table (R140-R142, R155) -/

/-- Whether a write of VALID = 1 is refused (R141). -/
def State.aliasBad (s : State) (cl i : Nat) (v : Word) : Bool :=
  let t := fld v 0 4
  bit v 8 && (!s.isFenced (clusterCore cl i) || t == i || s.isFenced (clusterCore cl t) ||
    bit (s.reg (clKey cl + 4 * t)) 8)

/-- A write to MU_CL_ALIASi. -/
def State.setAlias (s : State) (cl i : Nat) (v : Word) : State :=
  let k := clKey cl + 4 * i
  let old := s.reg k
  let old := if bit v 10 then setBit old 10 false else old
  if s.aliasBad cl i v then s.setReg k (setBit old 10 true)
  else s.setReg k ((old &&& ~~~0x17F#32) ||| (v &&& 0x17F#32))

/-- The words of MU_TXCRe_DEST, _CH, _CRED and _REC (R151). -/
def Core.txWord (k : Core) (e i : Nat) : Word :=
  match k.tx.get none0 e with
  | none => 0
  | some x =>
    match i with
    | 0 => BitVec.ofNat 32 x.dst
    | 1 => BitVec.ofNat 32 (x.ch + (if x.rot then 2 ^ 12 else 0) + 2 ^ 15 + x.seq * 2 ^ 16)
    | 2 => BitVec.ofNat 32 (x.cred % 65536 + x.cap * 65536)
    | _ => BitVec.ofNat 32 (x.recs % 64)

end Sys2Proof.Machine
end

