-- ==== Sys2Proof/Machine/Tables.lean ====
section
/-!
DEFINITION. The core-local tables: the places of their words, their VALID bits, shadow and swap (R156-R163, R228-R232,
R236, R241, R265, R269, R275-R279).
-/

namespace Sys2Proof.Machine

/-! ### Places

A banked word `j` of bank b lies at b × 0x100000 + j: function tables 2(64t + i) and + 1, FT_CFG 0x800 + t, FT_X0 0x808 + t,
FT_LO 0x810 + t, FT_HI 0x818 + t; element programs 0x1000 + i, VE_EPn 0x1200 + n; rescale table k 0x2000 + 512k + i;
scale configurations 0x3000 + 4e + w; headroom 0x3800 + j; code tables 0x4000 + 8t + w; user slots 0x4100 + u.
Unbanked: history RAM 0x200000 + i; state of scale entry e 0x210000 + 32e + f; vector registers 0x220000 + 32r + lane;
masks 0x220800 + m. -/

def bkt (b j : Nat) : Nat := b * 0x100000 + j
def histKey (i : Nat) : Nat := 0x200000 + i
def vregKey (r lane : Nat) : Nat := 0x220000 + 32 * r + lane
def vmaskKey (m : Nat) : Nat := 0x220800 + m

/-- Reset contents of the tables: rescale entries 1.0, TGAP 1, ANY 1, everything else 0 (R241, R247, R249, R252, R253, R269). -/
def tabReset (k : Nat) : Word :=
  let j := k % 0x100000
  if k < 0x200000 ∧ 0x2000 ≤ j ∧ j < 0x2800 then 0x3F800000#32
  else if k < 0x200000 ∧ 0x3000 ≤ j ∧ j < 0x3100 ∧ j % 4 = 2 then 0x10000#32
  else if 0x210000 ≤ k ∧ k < 0x210800 ∧ k % 32 = 1 then 1
  else 0

def Core.t (k : Core) (i : Nat) : Word := k.tab.get tabReset i
def Core.setT (k : Core) (i : Nat) (v : Word) : Core := { k with tab := k.tab.set tabReset i v }

/-- The active bank of a kind (R275). -/
def Core.bank (k : Core) (kind : Nat) : Nat := if k.act.testBit kind then 1 else 0
/-- A word of the bank that `banks` names as active for a kind. -/
def Core.bt (k : Core) (banks kind j : Nat) : Word := k.t (bkt (if banks.testBit kind then 1 else 0) j)

/-- The words of a kind: first word and number (R279). -/
def kindRange : Nat → Nat × Nat
  | 0 => (0, 0x820)
  | 1 => (0x1000, 0x208)
  | 2 => (0x2000, 512)
  | 3 => (0x2200, 512)
  | 4 => (0x2400, 512)
  | 5 => (0x2600, 512)
  | 6 => (0x3000, 256)
  | 7 => (0x3800, 16)
  | 8 => (0x4000, 64)
  | _ => (0x4100, 4)

/-! ### VALID bits -/

/-- A bf16 or binary32 pattern with an exponent of all ones. -/
def nonFin32 (w : Word) : Bool := fld w 23 8 == 255
def nonFin16 (x : Nat) : Bool := nfld x 7 8 == 255

/-- FT_CFGt.VALID (R269). -/
def Core.ftValid (k : Core) (b t : Nat) : Bool :=
  let w := k.t (bkt b (0x800 + t))
  let e := sfld w.toNat 8 6
  fld w 0 2 == 1 && decide (-24 ≤ e) && decide (e ≤ 24) && fld w 14 2 != 3 && fld w 16 2 != 3 &&
    !nonFin32 (k.t (bkt b (0x808 + t)))

/-- What an element-program opcode reads: the number of lane operands, and whether its destination, or its operands, are masks;
`none` for a reserved opcode (R264). 4 operands stands for FT and FTD, 5 for VI form. -/
def vopShape : Nat → Option (Nat × Bool × Bool)
  | 0x01 => some (2, false, false) | 0x02 => some (2, false, false) | 0x03 => some (2, false, false)
  | 0x04 => some (3, false, false) | 0x05 => some (3, false, false) | 0x06 => some (2, false, false)
  | 0x07 => some (1, false, false) | 0x08 => some (2, false, false) | 0x09 => some (2, false, false)
  | 0x0A => some (2, false, false) | 0x0B => some (2, false, false) | 0x0C => some (1, false, false)
  | 0x0D => some (1, false, false) | 0x0E => some (2, false, false) | 0x0F => some (1, false, false)
  | 0x10 => some (1, false, false) | 0x11 => some (1, false, false) | 0x12 => some (2, false, false)
  | 0x13 => some (1, false, false) | 0x14 => some (1, false, false) | 0x15 => some (1, false, false)
  | 0x16 => some (1, false, false) | 0x17 => some (4, false, false) | 0x18 => some (4, false, false)
  | 0x20 => some (2, false, false) | 0x21 => some (2, false, false) | 0x22 => some (2, false, false)
  | 0x23 => some (2, false, false) | 0x24 => some (2, false, false) | 0x25 => some (2, false, false)
  | 0x26 => some (2, false, false) | 0x27 => some (2, false, false) | 0x28 => some (2, false, false)
  | 0x29 => some (2, false, false) | 0x2A => some (2, false, false) | 0x2B => some (1, false, false)
  | 0x2C => some (5, false, false) | 0x2D => some (5, false, false) | 0x2E => some (5, false, false)
  | 0x30 => some (2, true, false) | 0x31 => some (2, true, false) | 0x32 => some (2, true, false)
  | 0x33 => some (2, true, false) | 0x34 => some (2, true, false) | 0x35 => some (2, true, false)
  | 0x36 => some (2, true, false)
  | 0x38 => some (2, true, true) | 0x39 => some (2, true, true) | 0x3A => some (2, true, true)
  | 0x3B => some (1, true, true)
  | _ => none

/-- Whether an element-program word is legal (R263-R265). -/
def vopLegal (w : Word) : Bool :=
  let opc := fld w 26 6
  let d := fld w 21 5
  let a := fld w 16 5
  let b := fld w 11 5
  let c := fld w 6 5
  let bs := fld w 0 2
  match vopShape opc with
  | none => false
  | some (5, _, _) =>
    if opc = 0x2C then decide (a ≤ 2) && fld w 0 16 == 0 else a == 0
  | some (n, dm, am) =>
    let lanes := if n = 4 then 1 else if am then 0 else n
    (!dm || decide (d < 8)) &&
      (!am || (decide (a < 8) && decide (b < 8))) &&
      (decide (2 ≤ n) || b == 0) && (n != 4 || decide (b < 4)) && (n == 3 || c == 0) &&
      (bs == 0 || decide (bs ≤ lanes)) &&
      (bs != 1 || decide (a < 8)) && (bs != 2 || decide (b < 8)) && (bs != 3 || decide (c < 8))

/-- VE_EPn.VALID (R265). -/
def Core.epValid (k : Core) (b n : Nat) : Bool :=
  let w := k.t (bkt b (0x1200 + n))
  let st := fld w 0 9
  let len := fld w 10 7
  decide (1 ≤ len) && decide (len ≤ 64) && decide (st + len ≤ 512) &&
    (List.range len).all fun i => vopLegal (k.t (bkt b (0x1000 + st + i)))

/-- The entries of a CB4 code table of a bank (R161). -/
def Core.cbTable (k : Core) (b t : Nat) : List Nat :=
  (List.range 8).flatMap fun w => let x := k.t (bkt b (0x4000 + 8 * t + w)); [fld x 0 16, fld x 16 16]
def Core.cbValid (k : Core) (b t : Nat) : Bool := (k.cbTable b t).all fun x => !nonFin16 x

/-- Whether a user-slot entry is legal (R162). -/
def ufValid (w : Word) : Bool :=
  let e := fld w 9 4
  let m := fld w 13 6
  decide (fld w 0 3 ≤ 2) && decide (2 ≤ e) && decide (e ≤ 5) && decide (m ≤ 5) &&
    fld w 3 6 == 1 + e + m && decide (4 ≤ fld w 3 6) && decide (fld w 3 6 ≤ 8) &&
    decide (fld w 19 8 ≤ 31) && bit w 27 && bit w 28
/-- A user-slot word with RATE and VALID computed (R162, R187). -/
def ufWord (w : Word) : Word :=
  let w := w &&& 0x1FFFFFFF#32
  setBit (setFld w 29 2 (if fld w 3 6 = 4 then 1 else 0)) 31 (ufValid w)
def ufFmt (w : Word) : Fmt :=
  ⟨fld w 0 3, fld w 3 6, fld w 9 4, fld w 13 6, fld w 19 8, true, if fld w 3 6 = 4 then 1 else 0⟩

/-- One scale-table configuration (R228, R248). -/
structure SeCfg where
  mode : Nat
  gran : Nat
  h : Nat
  hr : Nat
  lag : Nat
  freeze : Bool
  cstat : Bool
  rollsrc : Nat
  fmt : Nat
  hbase : Nat
  slots : Nat
  ini : Nat
  floor : Nat
  tgap : Nat
  satfrac : Nat
  deriving DecidableEq, Repr

def Core.seCfg (k : Core) (b e : Nat) : SeCfg :=
  let c := k.t (bkt b (0x3000 + 4 * e))
  let a := k.t (bkt b (0x3001 + 4 * e))
  let y := k.t (bkt b (0x3002 + 4 * e))
  { mode := fld c 0 2, gran := fld c 2 2, h := fld c 4 4 + 1, hr := fld c 8 4, lag := fld c 12 1,
    freeze := bit c 13, cstat := bit c 14, rollsrc := fld c 15 1, fmt := fld c 16 8,
    hbase := fld a 0 12, slots := fld a 16 8, ini := fld y 0 8, floor := fld y 8 8, tgap := fld y 16 8,
    satfrac := fld (k.t (bkt b (0x3003 + 4 * e))) 0 16 }

/-- Slot size in words (R229). -/
def SeCfg.w (x : SeCfg) : Nat := 3 + x.h + (if x.cstat then 2 else 0)

/-- QZ_SE_CFG.VALID (R229). -/
def SeCfg.valid (x : SeCfg) : Bool :=
  let f := x.fmt % 32
  (x.mode == 1 || x.mode == 2) && decide (x.gran ≤ 2) && decide (1 ≤ x.slots) &&
    decide (x.slots ≤ (if x.gran = 0 then 1 else if x.gran = 1 then 16 else 128)) &&
    ((decide (3 ≤ f) && decide (f ≤ 11)) || (decide (16 ≤ f) && decide (f ≤ 19))) &&
    (decide (x.fmt < 32) || f == 11) && decide (x.ini ≤ 254) && decide (x.floor ≤ 254) &&
    decide (x.hbase + x.slots * x.w ≤ 4096)

/-! ### Formats as a descriptor names them (R159-R163) -/

/-- The format and code table a selector names under the banks a descriptor started with; `none` where R160 refuses it. -/
def Core.fmtSel (k : Core) (banks sel : Nat) : Option (Fmt × List Nat) :=
  let c := sel % 32
  let cbt := sel / 32 % 8
  if cbt ≠ 0 ∧ c ≠ 11 then none
  else if c = 12 ∨ c = 14 then none
  else if c = 11 then
    let b := if banks.testBit 8 then 1 else 0
    if k.cbValid b cbt then (builtinFmt 11).map (·, k.cbTable b cbt) else none
  else if 16 ≤ c ∧ c ≤ 19 then
    let w := k.bt banks 9 (0x4100 + (c - 16))
    if ufValid w then some (ufFmt w, []) else none
  else (builtinFmt c).map (·, [])

/-- Whether RND is allowed for a target (R174). -/
def rndOk (f : Fmt) (rnd : Nat) : Bool := decide (rnd ≤ 5) && (f.kind != 4 || rnd == 0)

/-- QZ_FMTc: the active entry of a format code (R187). -/
def Core.fmtWord (k : Core) (c : Nat) : Word :=
  if 16 ≤ c ∧ c ≤ 19 then ufWord (k.bt k.act 9 (0x4100 + (c - 16)))
  else match builtinFmt c with
  | some f => BitVec.ofNat 32 (f.kind + f.width * 2 ^ 3 + f.ebits * 2 ^ 9 + f.mbits * 2 ^ 13 + f.bias * 2 ^ 19 +
      (if f.block then 2 ^ 27 else 0) + (if c = 14 then 0 else 2 ^ 28) + f.rate * 2 ^ 29 + 2 ^ 31)
  | none => 0

/-! ### Busy banks and swaps (R275-R279) -/

/-- The shadow bank of a kind is busy while a descriptor that started with it active has not ended (R278). -/
def Core.busy (k : Core) (kind : Nat) : Bool :=
  [0, 1, 2].any fun e => (k.eng e).jobs.any fun j => j.banks.testBit kind != k.act.testBit kind

def Core.werr (k : Core) : Core := k.orCsr 0x621 (2 ^ 16)

/-- A write of a table word: of the active bank ignored, of a busy shadow bank ignored with WERR (R275, R278). -/
def Core.tabWrite (k : Core) (kind b j : Nat) (v : Word) : Core :=
  if b = k.bank kind then k
  else if k.busy kind then k.werr
  else k.setT (bkt b j) v

/-! ### State of a scale entry (R231-R249) -/

/-- Places in the state of entry e: 0 TAGNEXT, 1 ANY and SATEV, 2 READY, 3 SSE, 4 SSQ, 5 CNT, 7 SATC, 9 LSSE, 10 LSSQ,
11 LCNT, 13 LSAT, 15 DEGEN, 17 NONFIN, 19 CLAMP, 21 the model's count of re-initialisations. -/
def seKey (e f : Nat) : Nat := 0x210000 + 32 * e + f
def Core.seS (k : Core) (e f : Nat) : Word := k.t (seKey e f)
def Core.setSe (k : Core) (e f : Nat) (v : Word) : Core := k.setT (seKey e f) v

/-- Set places of an entry's state to 0. -/
def Core.clearSe (k : Core) (e : Nat) (l : List Nat) : Core := l.foldl (fun k f => k.setSe e f 0) k

/-- The layout fields of a configuration (R232). -/
def Core.seLayout (k : Core) (b e : Nat) : Word × Word :=
  (k.t (bkt b (0x3000 + 4 * e)) &&& 0x00FF40FF#32, k.t (bkt b (0x3001 + 4 * e)) &&& 0x00FF0FFF#32)

/-- Re-initialise entry e under its new configuration (R232). -/
def Core.seReinit (k : Core) (x : SeCfg) (e : Nat) : Core :=
  let k := k.clearSe e [3, 4, 5, 6, 7, 8, 9, 10, 11, 12, 13, 14]
  let k := k.setSe e 1 (setBit (k.seS e 1) 0 true)
  let k := k.setSe e 21 (k.seS e 21 + 1)
  if x.valid then
    (List.range x.slots).foldl (fun k i =>
      let a := histKey (x.hbase + i * x.w)
      let k := ((k.setT a (BitVec.ofNat 32 (x.ini + x.ini * 256))).setT (a + 1) 0).setT (a + 2) 0
      if x.cstat then (k.setT (a + 3 + x.h) 0).setT (a + 4 + x.h) 0 else k) k
  else k

/-- After SE has swapped: every entry whose layout changed, or that has become valid, is re-initialised (R232). -/
def Core.seSwapped (k : Core) : Core :=
  let new := k.bank 6
  let old := 1 - new
  (List.range 64).foldl (fun k e =>
    let x := k.seCfg new e
    if k.seLayout new e ≠ k.seLayout old e ∨ (x.valid && !(k.seCfg old e).valid) then k.seReinit x e else k) k

/-- A swap of the named kinds together (R276, R277). -/
def Core.swap (k : Core) (kinds : Nat) : Core :=
  let k := { k with act := k.act ^^^ (kinds % 1024) }
  if kinds.testBit 6 then k.seSwapped else k

/-- A copy of the active banks of the named kinds into their shadows (R278). -/
def Core.swapCopy (k : Core) (kinds : Nat) : Core :=
  (bitsOf 10 kinds).foldl (fun k kind =>
    if k.busy kind then k.werr
    else
      let a := k.bank kind
      let (lo, n) := kindRange kind
      let src := (k.tab.filter fun e => decide (bkt a lo ≤ e.1) && decide (e.1 < bkt a (lo + n))).map
        fun e => (e.1 % 0x100000, e.2)
      let cleared := { k with tab := k.tab.clearRange (bkt (1 - a) lo) n }
      src.foldl (fun k e => k.setT (bkt (1 - a) e.1) e.2) cleared) k

/-! ### Contributions and scales (R230, R233-R238) -/

/-- A word that should be a non-negative magnitude: a NaN or a negative word counts as +0 (R231). -/
def magWord (w : Word) : Nat := if 0x7F800000 < w.toNat then 0 else w.toNat

/-- The slot of the block that holds element (m, n) of an output with N columns (R230). -/
def SeCfg.slot (x : SeCfg) (cols m n : Nat) : Nat :=
  match x.gran with
  | 0 => 0
  | 1 => n / 32
  | _ => (m * cols + n) / 32

def SeCfg.slotKey (x : SeCfg) (i : Nat) : Nat := histKey (x.hbase + i * x.w)

/-- The largest finite value a format holds (R158, R234); `none` where it cannot be formed. -/
def Core.fmtMax (k : Core) (banks sel : Nat) : Option Fv :=
  match k.fmtSel banks sel with
  | none => none
  | some (f, tbl) =>
    if f.kind = 3 then some (.fin false (intMax f) 0)
    else if f.kind = 4 then
      some ((tbl.map fun x => (decodeFloat fmtBf16 x).abs).foldl
        (fun a v => if Fv.cmp a v == .lt then v else a) Fv.zero)
    else some (decodeFloat f (maxCode f))

/-- The least k with q ≤ T · 2^k, of two finite values above 0 (R234). -/
def scaleExp (q T : Fv) : Int :=
  match q, T with
  | .fin _ mq eq, .fin _ mt et =>
    let k0 : Int := ((lead mq : Int) + eq) - ((lead mt : Int) + et)
    if Fv.cmp q (T.scale k0) != .gt then k0 else k0 + 1
  | _, _ => 0

/-- The scale byte of history maximum q with COUNT > 0, and which counter it raises: 15 DEGEN, 19 CLAMP, 0 none (R234, R235). -/
def Core.formScale (k : Core) (x : SeCfg) (q : Nat) : Nat × Nat :=
  if q = 0 then (x.floor, 15)
  else if q = 0x7F800000 then (254, 19)
  else
    let hw := fld (k.bt k.act 7 (0x3800 + x.hr)) 0 16
    let T := if hw ≠ 0 then some (decodeFloat fmtBf16 hw) else k.fmtMax k.act x.fmt
    match T with
    | none => (x.ini, 19)
    | some T =>
      if T.isZero then (254, 19)
      else
        let s := 127 + scaleExp (decodeFloat fmt32 q) T
        if s < 0 then (0, 19) else if 254 < s then (254, 19) else (s.toNat, 0)

/-- A counter of a scale entry's state (R86, R671); its CSR number is `csr`. -/
def State.seBump (s : State) (c e f csr d : Nat) : State :=
  if d = 0 then s
  else
    let k := s.core c
    let (lo, hi, sat) := ctrAdd (k.seS e f) (k.seS e (f + 1)) d
    let s := s.setCore c ((k.setSe e f lo).setSe e (f + 1) hi)
    if sat then s.satEvent 2 csr (mkAddr 0 (coreRow c) (coreCol c)) else s

/-- CSR number of a state counter (R247). -/
def seCsr : Nat → Nat
  | 5 => 0x85A
  | 7 => 0x85C
  | 15 => 0x864
  | 17 => 0x866
  | _ => 0x868

/-- Word 0 of a slot with its COUNT and HEAD in range and its other bits 0 (R231). -/
def SeCfg.word0 (x : SeCfg) (w : Word) : Word :=
  setFld (setFld (w &&& 0xFFFF#32) 16 5 (min (fld w 16 5) x.h)) 24 4 (fld w 24 4 % x.h)

/-- One slot's part of a roll (R238). -/
def State.rollSlot (s : State) (c e : Nat) (x : SeCfg) (t : Nat) (commit : Bool) (i : Nat) : State :=
  let k := s.core c
  let a := x.slotKey i
  let p := t % 2
  let w0 := x.word0 (k.t a)
  if commit && x.mode == 1 then
    let dst := (t + 1 + x.lag) % 2
    if x.freeze then
      let w0 := setFld w0 (8 * dst) 8 (fld w0 (8 * ((t + x.lag) % 2)) 8)
      s.setCore c ((k.setT a w0).setT (a + 1 + p) 0)
    else
      let count := fld w0 16 5
      let head := fld w0 24 4
      let k := k.setT (a + 3 + head) (BitVec.ofNat 32 (magWord (k.t (a + 1 + p))))
      let count := min (count + 1) x.h
      let q := ((List.range count).map fun r => magWord (k.t (a + 3 + r))).foldl max 0
      let (sc, ctr) := k.formScale x q
      let w0 := setFld (setFld (setFld w0 16 5 count) 24 4 ((head + 1) % x.h)) (8 * dst) 8 sc
      let s := s.setCore c ((k.setT a w0).setT (a + 1 + p) 0)
      if ctr = 0 then s else s.seBump c e ctr (seCsr ctr) 1
  else s.setCore c (k.setT (a + 1 + p) 0)

/-- The roll of one entry for step t (R238, R243). -/
def State.rollEntry (s : State) (c : Nat) (t : Word) (commit : Bool) (e : Nat) : State :=
  let x := (s.core c).seCfg ((s.core c).bank 6) e
  let s := (List.range x.slots).foldl (fun s i => s.rollSlot c e x t.toNat commit i) s
  s.modCore c fun k =>
    let k := if commit then
        let k := (k.setSe e 2 (t + 1 + BitVec.ofNat 32 x.lag)).setSe e 1 (setBit (k.seS e 1) 0 false)
        [(3, 9), (4, 10), (5, 11), (6, 12), (7, 13), (8, 14)].foldl (fun k p => k.setSe e p.2 (k.seS e p.1)) k
      else k
    let k := k.clearSe e [3, 4, 5, 6, 7, 8]
    k.setSe e 1 (setBit (k.seS e 1) 1 false)

/-- A roll of a core for step t: every valid entry whose ROLLSRC is `src` (R238, R239). Waiting start-ups are judged again by the caller. -/
def State.rollCore (s : State) (c : Nat) (t : Word) (commit : Bool) (src : Nat) : State :=
  (List.range 64).foldl (fun s e =>
    let x := (s.core c).seCfg ((s.core c).bank 6) e
    if x.valid && x.rollsrc == src then s.rollEntry c t commit e else s) s

/-- What start-up finds for a block-scaled output under entry `sct` (R227, R230, R237): 0 it may start, 1 it waits for a roll,
2 fault PARAM. -/
def Core.seStart (k : Core) (banks sct sel rows cols : Nat) (u : Word) : Nat :=
  if 64 ≤ sct then 2
  else
    let x := k.seCfg (if banks.testBit 6 then 1 else 0) sct
    let fit := match x.gran with
      | 0 => true
      | 1 => decide (cols / 32 ≤ x.slots)
      | _ => decide (rows * cols / 32 ≤ x.slots)
    if !x.valid || !fit || sel != x.fmt then 2
    else if x.mode = 2 ∨ bit (k.seS sct 1) 0 then 0
    else
      let d := (u - k.seS sct 2).toInt
      if 0 < d then 1 else if d < -1 then 2 else 0

/-- The scale bytes of all slots for step u, read once at start (R237). -/
def Core.seScales (k : Core) (banks sct : Nat) (u : Word) : List Nat :=
  let x := k.seCfg (if banks.testBit 6 then 1 else 0) sct
  (List.range x.slots).map fun i =>
    if x.mode = 2 then x.ini else fld (k.t (x.slotKey i)) (8 * (u.toNat % 2)) 8

/-- The output tag, and TAGNEXT moved on (R245). -/
def Core.takeTag (k : Core) (banks sct nblk : Nat) : Nat × Core :=
  let x := k.seCfg (if banks.testBit 6 then 1 else 0) sct
  let t := fld (k.seS sct 0) 0 8
  (t, k.setSe sct 0 (BitVec.ofNat 32 ((t + nblk + x.tgap) % 256)))

/-- binary32 operations of the statistics, RNE, flags dropped (R242). -/
def add32 (a b : Word) : Word := BitVec.ofNat 32 (fAdd fmt32 0 (f32 a) (f32 b)).1
def mul32 (a b : Word) : Word := BitVec.ofNat 32 (fMul fmt32 0 (f32 a) (f32 b)).1

/-- Statistics of one converted element: y as it entered the conversion, v as stored (R242). -/
def Core.seStat (k : Core) (x : SeCfg) (e : Nat) (slotKey : Nat) (y : Word) (v : Fv) : Core :=
  let d : Word := BitVec.ofNat 32 (finish fmt32 0 [v, (f32 y)] (exAdd false v (f32 y).negate)).1
  let sq := mul32 d d
  let k := k.setSe e 3 (add32 (k.seS e 3) sq)
  let k := k.setSe e 4 (add32 (k.seS e 4) (mul32 y y))
  if x.cstat then
    let a := slotKey + 3 + x.h
    let k := k.setT a (add32 (k.t a) sq)
    if k.t (a + 1) = 0xFFFFFFFF#32 then k else k.setT (a + 1) (k.t (a + 1) + 1)
  else k

/-- The saturation test of R244 after a drain, with its event. -/
def State.saturationEvent (s : State) (c banks e : Nat) (u : Word) : State :=
  let k := s.core c
  let x := k.seCfg (if banks.testBit 6 then 1 else 0) e
  let n48 := fun f => (k.seS e f).toNat + 2 ^ 32 * fld (k.seS e (f + 1)) 0 16
  if x.satfrac ≠ 0 ∧ !bit (k.seS e 1) 1 ∧ x.satfrac * n48 5 < n48 7 * 65536 then
    let s := s.setCore c (k.setSe e 1 (setBit (k.seS e 1) 1 true))
    let ev := k.get 0x8B1
    if bit ev 31 then
      s.sendEvent (s.corePart c) (s.relAddr c) (k.get 0x8B0).toNat (fld ev 0 12) 3 c
        [e + 256, u.toNat, (k.seS e 7).toNat, (k.seS e 5).toNat]
    else s
  else s

/-! ### Converting a block (R166, R168, R173, R176, R242) -/

/-- A stored element read as a value, its block scale applied (R166). A NaN of a block with scale byte 0xFF has payload 0 (DESIGN CHOICE,
log entry 92: R166 gives its sign alone). -/
def expand (f : Fmt) (tbl : List Nat) (scale code : Nat) : Fv :=
  if f.block && scale == 255 then
    .nan (f.kind != 4 && code.testBit (f.width - 1)) false 0 0
  else
    let v := if f.kind = 4 then decodeFloat fmtBf16 (tbl.getD (code % 16) 0) else decodeFmt f code
    if f.block then v.scale ((scale : Int) - 127) else v

/-- A block as it is stored: codes of the elements that are stored, the scale byte, and the flags each raised. -/
structure Blk where
  codes : List (Option Nat)
  scale : Nat
  fls : List FFlags

/-- Convert the stored elements of a block (`none`: left out) under scale byte `scale`; `y` is a value with its random word. -/
def convBlock (f : Fmt) (tbl : List Nat) (mode : Nat) (ovf : Bool) (scale : Nat) (ys : List (Option (Fv × Word))) : Blk :=
  if f.block && scale == 255 then ⟨ys.map (·.map fun _ => 0), 255, ys.map fun _ => 0⟩
  else
    let rs := ys.map (·.map fun y => convert f tbl mode ovf y.2 (if f.block then y.1.scale (127 - (scale : Int)) else y.1))
    if f.block && rs.any fun r => (r.map (·.blockNan)).getD false then
      ⟨ys.map fun _ => some 0, 255, rs.map fun r => match r with
        | some x => if x.blockNan then x.fl else 0
        | none => 0⟩
    else ⟨rs.map (·.map (·.code)), scale, rs.map fun r => (r.map (·.fl)).getD 0⟩

/-- The row pitch of L elements of a code width (R193). -/
def rowPitch (width l : Nat) : Nat := (l * width / 8 + 31) / 32 * 32

/-- The size of an operand or output area (R193, R194). -/
def areaSize (f : Fmt) (rows l : Nat) : Nat :=
  rows * rowPitch f.width l + (if f.block then 64 + (rows * l / 32 + 31) / 32 * 32 else 0)

/-- Code i of a row held as a number (R168). -/
def codeAt (row width i : Nat) : Nat := nfld row (width * i) width

/-- The bytes of a row's codes with some replaced: `old` is the row as a number. -/
def putCodes (width : Nat) : Nat → Nat → List (Option Nat) → Nat
  | old, _, [] => old
  | old, i, none :: t => putCodes width old (i + 1) t
  | old, i, some c :: t =>
    let old := old - (nfld old (width * i) width) <<< (width * i) + (c % 2 ^ width) <<< (width * i)
    putCodes width old (i + 1) t

/-! ### First-NaN record (R183-R185) -/

/-- Capture the first-NaN record, if it is empty and the source is enabled; an engine's capture makes NAN_ENG pending and
may stop the engine (R183, R184). -/
def Core.captureNan (k : Core) (src cause mb daddr iaddr tag ticket row col : Nat) : Core :=
  if bit (k.get 0x60) 3 || !bit (k.get 0x800) src then k
  else
    let k := k.put 0x60 (BitVec.ofNat 32 (src + 8 + cause * 16 + mb % 65536 * 65536))
    let k := k.put 0x61 (BitVec.ofNat 32 (daddr % 2 ^ 18 + iaddr / 4 % 2 ^ 13 * 2 ^ 18))
    let k := k.put 0x62 (BitVec.ofNat 32 (tag % 65536 + ticket * 65536))
    let k := k.put 0x63 (BitVec.ofNat 32 (row % 65536 + col * 65536))
    if src < 4 then
      let k := k.orCsr 0x17 2
      if bit (k.get 0x800) 8 then k.setEng src { k.eng src with stopped := true } else k
    else k

/-- Clear the record and re-arm capture; a stopped engine may start again (R184, R185). -/
def Core.clearNan (k : Core) : Core :=
  let k := ((k.put 0x60 0).put 0x61 0).put 0x62 0
  let k := k.put 0x63 0
  { k with engs := k.engs.mapAll eng0 (fun _ e => { e with stopped := false }) }

end Sys2Proof.Machine
end

