-- ==== Sys2Proof/Machine/Engines.lean ====
section
/-!
DEFINITION. What the five engines of a core share: taking a descriptor from the queue, ending it with its signal, record and
done register, and the record of a fault (R68-R71, R114-R118, R184, R214-R216, R282).
-/

namespace Sys2Proof.Machine

/-- A job right after its start. -/
def Job.fresh (d : Desc) (step : Word) (banks : Nat) : Job :=
  { desc := d, stage := 0, fault := 0, detail := 0, step := step, banks := banks, rollWait := false, tag := 0,
    scales := [], gen := 0, drop := false, acc := [], todo := [], out := [], got := [], msgs := 0, sent := 0, blocks := 0,
    begun := false, ending := none }

/-- The sync field (R114). -/
def Desc.sync (d : Desc) : Nat := leAt d.bytes 0 2
def Desc.wsem (d : Desc) : Option Nat := if d.sync.testBit 6 then some (d.sync % 64) else none
def Desc.ssem (d : Desc) : Option Nat := if d.sync.testBit 14 then some (d.sync / 256 % 64) else none

/-- Byte i of a descriptor. -/
def byteAt (b : List Byte) (i : Nat) : Nat := (b.getD i 0).toNat

/-- The offset of the first byte with a bit set that must be 0. -/
def firstNonzero (mask : Nat → Nat) (b : List Byte) : Option Nat :=
  (List.range 32).find? fun i => byteAt b i &&& mask i != 0

/-- Whether engine e can start a descriptor: FE and GE hold one in start-up and three past the queue (R214), VE one in start-up and one
running (R281), the Retriever and DMA one. -/
def Eng.startFree (x : Eng) (e : Nat) : Bool :=
  !x.jobs.any (fun j => j.stage == 0) && decide (x.jobs.length < if e ≤ 1 then 3 else if e = 2 then 2 else 1)

/-- The semaphore the head of the queue waits for, when nothing else keeps it from starting (R115, R147). -/
def Core.waitsFor (k : Core) (e : Nat) : Option Nat :=
  let x := k.eng e
  match x.queue with
  | [] => none
  | d :: _ =>
    if !x.startFree e then none
    else match d.wsem with
      | some n => if k.sem n = 0 then some n else none
      | none => none

/-- The descriptor at the head of engine e's queue, and the state with it taken and its WSEM decremented; `none` while it may not
start: the cluster's clock is gated, the core is fenced, the engine is stopped or holds a record, or COUNT(WSEM) is 0
(R70, R115, R184, R214, R538, R648). -/
def State.takeDesc (s : State) (c e : Nat) : Option (Desc × State) :=
  if !isCore c || !s.clocked c || s.isFenced c then none
  else
    let k := s.core c
    let x := k.eng e
    match x.queue with
    | [] => none
    | d :: t =>
      if x.stopped || x.heldRec.isSome then none
      else
        let k' := k.setEng e { x with queue := t }
        match d.wsem with
        | none => some (d, s.setCore c k')
        | some n => if k.sem n = 0 then none else some (d, s.setCore c (k'.setSem n (k.sem n - 1)))

/-- Queue a completion record, or hold it while the queue is full (R67, R70); a queued fault record makes ENG_FAULT pending (R91). -/
def Core.postRec (k : Core) (e : Nat) (r : List Word) : Core :=
  let x := k.eng e
  if x.comp.length < 8 then
    let k := k.setEng e { x with comp := x.comp ++ [r] }
    let w0 := r.getD 0 0
    if fld w0 24 8 = 0 then k else { k with faults := k.faults ++ [(e, fld w0 0 16)] }
  else k.setEng e { x with heldRec := some r }

/-- A completion record (R70). -/
def compRecord (ticket e status addr detail : Nat) : List Word :=
  [BitVec.ofNat 32 (ticket % 65536 + e * 2 ^ 16 + status * 2 ^ 24), BitVec.ofNat 32 addr, BitVec.ofNat 32 detail, 0]

/-- The CSR of an engine's completed-descriptor counter and last-fault register; the Retriever and DMA have none (R224, R285). -/
def engDescCsr : Nat → Option Nat
  | 0 => some 0x406
  | 1 => some 0x506
  | 2 => some 0x606
  | _ => none

/-- The signal of SSEM at the end of a descriptor without a fault; a count that overflows makes it a fault SEM_OVF (R116, R118). -/
def Core.signalEnd (k : Core) (j : Job) (fault detail : Nat) : Core × Nat × Nat :=
  match j.desc.ssem with
  | some n =>
    if fault = 0 then
      let (k, ovf) := k.semInc n
      if ovf then (k, 0xF0, n) else (k, 0, 0)
    else (k, fault, detail)
  | none => (k, fault, detail)

/-- The fault code a job ends with, its signal included. -/
def Core.endFault (k : Core) (j : Job) (fault : Nat) : Nat := (k.signalEnd j fault 0).2.1

/-- The oldest job of engine e ends: SSEM is signalled, the record posted or held for room, CC_DONE updated, the engine's counters moved
on, in that order (R69, R70, R116). -/
def State.endDesc (s : State) (c e : Nat) (j : Job) (fault detail : Nat) : State :=
  let k := s.core c
  let (k, fault, detail) := k.signalEnd j fault detail
  let k := if j.desc.recd || fault != 0 then
      k.postRec e (compRecord j.desc.ticket e fault j.desc.addr (if fault = 0 then 0 else detail)) else k
  let k := k.put (0x48 + e) (BitVec.ofNat 32 j.desc.ticket)
  let k := k.setEng e { k.eng e with jobs := (k.eng e).jobs.drop 1 }
  match engDescCsr e with
  | some n =>
    -- cycles lost to bank arbitration: a free amount (R224, R285, log entry 5)
    let (lost, s) := (s.setCore c k).freeVal
    let s := (s.bumpCsr c n 1).bumpCsr c (n + 2) lost.toNat
    if fault = 0 then s
    else s.modCore c fun k => k.put (n + 4) (BitVec.ofNat 32 (fault % 256 + j.desc.ticket * 65536))
  | none => s.setCore c k

/-- Change a job of an engine by its ticket. -/
def Core.modJob (k : Core) (e ticket : Nat) (f : Job → Job) : Core :=
  let x := k.eng e
  k.setEng e { x with jobs := x.jobs.map fun j => if j.desc.ticket = ticket then f j else j }

/-- A job of engine e whose descriptor is `d`, with what its start fixes: the step number, the active banks, and how often the scale entry
it names had been re-initialised (R214, R232, R276). -/
def State.startJob (s : State) (c : Nat) (d : Desc) (sct : Nat) : Job :=
  let k := s.core c
  { Job.fresh d (s.stepNo (s.corePart c)) k.act with gen := (k.seS sct 21).toNat }

/-- A start-up or run found a fault: the job has ended and waits to complete. -/
def Job.failed (j : Job) (code detail : Nat) : Job := { j with fault := code, detail := detail, stage := 3, rollWait := false }

/-- The first area that passes the scratchpad's end, as the fault detail of SPAD_RANGE (R118, R219). -/
def rangeFault (areas : List (Nat × Nat)) : Option Nat :=
  (areas.find? fun a => !inSpad a.1 a.2).map fun a => max a.1 spadSize

/-- A block-scaled operand whose headers are checked: its number in the fault detail, its area and its format selector. -/
structure HdrArea where
  which : Nat
  base : Nat
  rows : Nat
  len : Nat
  width : Nat
  sel : Nat
  deriving DecidableEq, Repr

/-- Read the data and scale headers of each operand; an uncorrectable word ends the reading (R194, R220). -/
def State.readHeaders (s : State) (c : Nat) : List HdrArea → State × List (List Byte × List Byte) × Option Nat
  | [] => (s, [], none)
  | h :: t =>
    let (s, dh, ue1) := s.spadRead c h.base 32 0xF1 2
    match ue1 with
    | some a => (s, [], some a)
    | none =>
      let (s, sh, ue2) := s.spadRead c (h.base + 32 + h.rows * rowPitch h.width h.len) 32 0xF1 2
      match ue2 with
      | some a => (s, [], some a)
      | none =>
        let (s, l, ue) := State.readHeaders s c t
        (s, (dh, sh) :: l, ue)

/-- The SCALE_SKEW detail of one operand's headers (R195, R196, R218). -/
def HdrArea.skew (h : HdrArea) (dh sh : List Byte) : Option Nat :=
  let nb := h.rows * h.len / 32
  let dt := byteAt dh 0
  let st := byteAt sh 0
  let bad := fun (x : List Byte) => leAt x 2 2 != 0 || byteAt x 7 != 0 || leAt x 8 24 != 0
  let kind := if dt ≠ st then 1
    else if leAt dh 4 3 ≠ nb ∨ leAt sh 4 3 ≠ nb then 2
    else if byteAt dh 1 ≠ h.sel ∨ byteAt sh 1 ≠ 14 then 3
    else if bad dh || bad sh then 4 else 0
  if kind = 0 then none else some (h.which + kind * 16 + dt * 2 ^ 8 + st * 2 ^ 16)

/-- Check the headers of the block-scaled operands: first that all can be read (code 0xF1), then that each pair agrees (code 0, the
detail being that of SCALE_SKEW) (R219, R284). -/
def State.checkHeaders (s : State) (c : Nat) (l : List HdrArea) : State × Option (Nat × Nat) :=
  match s.readHeaders c l with
  | (s, _, some a) => (s, some (0xF1, a))
  | (s, hs, none) => (s, ((l.zip hs).findSome? fun p => p.1.skew p.2.1 p.2.2).map fun d => (0, d))

/-- A packed row of codes as bytes. -/
def packCodes (width : Nat) : List Nat → Nat
  | [] => 0
  | c :: t => c % 2 ^ width + (packCodes width t) <<< width

/-- Both headers of a block-scaled output (R208). -/
def headerBytes (tag fsel nblk : Nat) : List Byte :=
  [BitVec.ofNat 8 tag, BitVec.ofNat 8 fsel, 0, 0] ++ leBytes 4 nblk ++ List.replicate 24 0

/-- The rows of an operand as the bytes of the scratchpad hold them, each row expanded to exact values (R193, R194, R198). -/
def Core.operandRows (k : Core) (f : Fmt) (tbl : List Nat) (base rows l : Nat) : List (List Fv) :=
  let pitch := rowPitch f.width l
  let data := if f.block then base + 32 else base
  let sc := data + rows * pitch + 32
  (List.range rows).map fun r =>
    let row := k.spadW (data + r * pitch) pitch
    (List.range l).map fun i =>
      let scale := if f.block then (k.spad.get byte0 (sc + (r * l + i) / 32)).toNat else 127
      expand f tbl scale (codeAt row f.width i)

/-- The areas an operand read touches: its data rows and its scale bytes, without the headers. -/
def operandAreas (f : Fmt) (base rows l : Nat) : List (Nat × Nat) :=
  let pitch := rowPitch f.width l
  if f.block then [(base + 32, rows * pitch), (base + 64 + rows * pitch, rows * l / 32)]
  else [(base, rows * pitch)]

/-- Account for reads of several areas; the first uncorrectable word (R109, R110). -/
def State.scanAreas (s : State) (c : Nat) (areas : List (Nat × Nat)) : State × Option Nat :=
  areas.foldl (fun (acc : State × Option Nat) a =>
    let (s, ue) := acc.1.spadScan c a.1 a.2 0xF1 2
    (s, acc.2.or ue)) (s, none)

/-- Perform writes in order, line by line, until one leaves a word unwritten (R108, R110). -/
def State.writeAll (s : State) (c : Nat) : List (Nat × List Byte) → State × Option Nat
  | [] => (s, none)
  | (a, d) :: t =>
    match s.engWrite c a d with
    | (s, some bad) => (s, some bad)
    | (s, none) => State.writeAll s c t

/-- The word a list of writes would leave unwritten: uncorrectable, and written in part, or holding a byte of `kept`, of which some bits
keep their contents (R109, R110). -/
def Core.writesFail (k : Core) (writes : List (Nat × List Byte)) (kept : List Nat) : Option Nat :=
  (writes.findSome? fun p =>
    ((errIn k.spadErr 8 p.1 p.2.length).find? fun e =>
      !(decide (p.1 ≤ 8 * e.1) && decide (8 * e.1 + 8 ≤ p.1 + p.2.length)) && decide (e.2 ≠ 1)).map fun e => 8 * e.1).or
  (kept.findSome? fun a => ((errIn k.spadErr 8 a 1).find? fun e => decide (e.2 ≠ 1)).map fun e => 8 * e.1)

/-- Perform all of a list of writes, or none where one would leave a word unwritten (R284). -/
def State.writeWhole (s : State) (c : Nat) (writes : List (Nat × List Byte)) (kept : List Nat) : State × Option Nat :=
  match (s.core c).writesFail writes kept with
  | some a => (s.spadBad c (a / 8) 0xF1 2, some a)
  | none => s.writeAll c writes

/-- Which scale entry a job uses, with the configuration of its bank. -/
def Core.jobSe (k : Core) (j : Job) (sct : Nat) : SeCfg := k.seCfg (if j.banks.testBit 6 then 1 else 0) sct

/-- The maximum a block contributes (R233), and its statistics (R242), for a block of values `ys` (binary32, `none` where an
element is left out) converted to `blk`, at output element (m, n). -/
def State.blockUse (s : State) (c : Nat) (j : Job) (sct cols m n : Nat) (f : Fmt) (tbl : List Nat)
    (ys : List (Option Word)) (blk : Blk) : State :=
  let k := s.core c
  if (k.seS sct 21).toNat ≠ j.gen then s
  else
    let x := k.jobSe j sct
    let key := x.slotKey (x.slot cols m n)
    let mags := ys.filterMap (·.map fun y => y.toNat % 2 ^ 31)
    let top := mags.foldl max 0
    let s :=
      if mags.isEmpty then s
      else if 0x7F800000 ≤ top then s.seBump c sct 17 0x866 1
      else
        let a := key + 1 + j.step.toNat % 2
        s.setCore c (k.setT a (BitVec.ofNat 32 (max (magWord (k.t a)) top)))
    if blk.scale = 255 then s
    else
      let els := (ys.zip (blk.codes.zip blk.fls)).filterMap fun p =>
        match p.1, p.2.1 with
        | some y, some code => if nonFin32 y then none else some (y, code, p.2.2)
        | _, _ => none
      let s := s.modCore c fun k => els.foldl (fun k p =>
        k.seStat x sct key p.1 (expand f tbl blk.scale p.2.1)) k
      let s := s.seBump c sct 5 0x85A els.length
      s.seBump c sct 7 0x85C (els.filter fun p => p.2.2 &&& flOF ≠ 0).length

end Sys2Proof.Machine
end

