-- ==== Sys2Proof/Machine/VersionRec.lean ====
section
/-!
DEFINITION. Weight-version records: their lines and ports, takes and drops, expiry, the sweep and BREAK, and device memory as a
requester reaches it with the records in it (spec/08 R297-R308).
-/

namespace Sys2Proof.Machine

/-- A step-controller register of partition p (R327). -/
def stKey (p o : Nat) : Nat := 0x80000 + 0x400 * p + o

/-- Line 0 of a record (R298); the pair fields are of slot 0 and slot 1. -/
structure VRec where
  ver : Nat × Nat
  ctrl : Nat
  last : Nat
  rd : Nat × Nat
  ls : Nat × Nat
  t : Nat × Nat
  deriving DecidableEq, Repr

def pick (x : Nat × Nat) (k : Nat) : Nat := if k = 0 then x.1 else x.2
def putAt (x : Nat × Nat) (k v : Nat) : Nat × Nat := if k = 0 then (v, x.2) else (x.1, v)

def VRec.parse (b : List Byte) : VRec :=
  { ver := (leAt b 0 4, leAt b 4 4), ctrl := leAt b 8 1, last := leAt b 12 4, rd := (leAt b 16 2, leAt b 18 2),
    ls := (leAt b 20 2, leAt b 22 2), t := (leAt b 24 4, leAt b 28 4) }

def VRec.bytes (r : VRec) : List Byte :=
  leBytes 4 r.ver.1 ++ leBytes 4 r.ver.2 ++ leBytes 1 r.ctrl ++ [0, 0, 0] ++ leBytes 4 r.last ++ leBytes 2 r.rd.1 ++
    leBytes 2 r.rd.2 ++ leBytes 2 r.ls.1 ++ leBytes 2 r.ls.2 ++ leBytes 4 r.t.1 ++ leBytes 4 r.t.2

def VRec.valid (r : VRec) : Bool := r.ctrl.testBit 0
def VRec.two (r : VRec) : Bool := r.ctrl.testBit 1
def VRec.cur (r : VRec) : Nat := r.ctrl / 4 % 2
def VRec.prev (r : VRec) : Bool := r.ctrl.testBit 3
def VRec.exp (r : VRec) (k : Nat) : Bool := r.ctrl.testBit (4 + k)
def VRec.pub (r : VRec) : Bool := r.ctrl.testBit 6
/-- A bit of CTRL set or cleared. -/
def VRec.setCtrl (r : VRec) (i : Nat) (b : Bool) : VRec :=
  { r with ctrl := if r.ctrl.testBit i == b then r.ctrl else if b then r.ctrl + 2 ^ i else r.ctrl - 2 ^ i }
def VRec.holds (r : VRec) (k : Nat) : Bool := decide (0 < pick r.rd k) || decide (0 < pick r.ls k)
def VRec.idle (r : VRec) : Bool := !r.holds 0 && !r.holds 1 && !r.pub
/-- The slot that holds version v (R298, R302); the current slot first. -/
def VRec.slotOf (r : VRec) (v : Nat) : Option Nat :=
  if pick r.ver r.cur = v then some r.cur
  else if r.prev && pick r.ver (1 - r.cur) == v then some (1 - r.cur)
  else none

def State.vrBase (s : State) (p : Nat) : Nat := (s.reg (stKey p 0x60)).toNat + 2 ^ 32 * s.regFld (stKey p 0x64) 0 16
def State.vrNum (s : State) (p : Nat) : Nat := s.regFld (stKey p 0x68) 0 17

/-- The record of partition p at a device-memory address. -/
def State.recAt (s : State) (p a : Nat) : Option Nat :=
  let b := s.vrBase p
  if b ≤ a ∧ a < b + 128 * s.vrNum p then some ((a - b) / 128) else none

/-- Where record i lies: tile and tile-local offset. -/
def State.recPlace (s : State) (p i : Nat) : Option (Nat × Nat) := s.xlate p (s.vrBase p + 128 * i)

/-- Line `l` of a record read by its M-tile; unit code 9 of R695 asks. Whether it is uncorrectable. -/
def State.recLine (s : State) (p i l : Nat) : State × List Byte × Bool :=
  match s.recPlace p i with
  | none => (s, List.replicate 32 0, true)
  | some (t, o) => s.tileRead t (o + 32 * l) 32 p 9

def State.recStore (s : State) (p i : Nat) (r : VRec) : State :=
  match s.recPlace p i with
  | none => s
  | some (t, o) => (s.tileWrite t o r.bytes p 9).1

/-- The first line of record i for an operation of a base-die unit: refused where a region refuses an access to the record (R501), or
uncorrectable. -/
def State.recOpen (s : State) (p i : Nat) (who : Who) (write : Bool) : State × List Byte × Bool :=
  match s.recPlace p i with
  | none => (s, List.replicate 32 0, true)
  | some (t, o) =>
    let c : Chunk := ⟨t, o, 64⟩
    if s.regionRefuses p who write c then (s.refuseAt [c], List.replicate 32 0, true) else s.recLine p i 0

/-- HALTED with a reason bit, and the HALT event (R305, R322, R332). -/
def State.stHalt (s : State) (p reason : Nat) : State :=
  (s.orReg (stKey p 4) (2 ^ 5 + 2 ^ reason)).evSet (stKey p 0x84) (2 ^ 6) (128 + p)

/-- Capture of an expiry (cause 1) or a refused drop (cause 2) (R331). -/
def State.vrCapture (s : State) (p i slot kind cause ver last : Nat) : State :=
  if bit (s.reg (stKey p 0x70)) 31 then s
  else
    let s := s.setReg (stKey p 0x70)
      (BitVec.ofNat 32 (i % 2 ^ 17 + slot * 2 ^ 17 + kind * 2 ^ 18 + cause * 2 ^ 20 + 2 ^ 31))
    let s := (s.setReg (stKey p 0x74) (BitVec.ofNat 32 ver)).setReg (stKey p 0x78) (BitVec.ofNat 32 last)
    s.setReg (stKey p 0x7C) (BitVec.ofNat 32 s.time32)

/-- Whether a slot with holds has stood unchanged for ST_LEASE_TMO (R305). -/
def State.slotDue (s : State) (p : Nat) (r : VRec) (k : Nat) : Bool :=
  let tmo := s.regFld (stKey p 0x6C) 0 16
  tmo != 0 && r.holds k && !r.exp k && decide (tmo ≤ (s.time32 + 2 ^ 32 - pick r.t k) % 2 ^ 32)

/-- One slot expires, if it is due (R305). -/
def State.expireSlot (s : State) (p i : Nat) (r : VRec) (k : Nat) : State × VRec :=
  if s.slotDue p r k then
    let kind := (if 0 < pick r.ls k then 1 else 0) + (if 0 < pick r.rd k then 2 else 0)
    let s := s.bump (stKey p 0x148) 1
    let s := s.vrCapture p i k kind 1 (pick r.ver k) r.last
    let s := s.evSet (stKey p 0x84) (2 ^ 4) (128 + p)
    (s.stHalt p 6, r.setCtrl (4 + k) true)
  else (s, r)

/-- The expiry test of both slots. -/
def State.expire (s : State) (p i : Nat) (r : VRec) : State × VRec :=
  let (s, r) := s.expireSlot p i r 0
  s.expireSlot p i r 1

/-- A grant line (R300). -/
def grantLine (status ver slot count : Nat) (loc : List Byte) : List Byte :=
  leBytes 4 ver ++ leBytes 1 status ++ leBytes 1 slot ++ leBytes 2 count ++ loc ++ List.replicate 16 0

def noGrant (status : Nat) : List Byte := grantLine status 0 0 0 (List.replicate 8 0)

/-- A take on the current version (R301): `reader` says which port, `taker` is its core address with device id. -/
def State.recTake (s : State) (p i : Nat) (reader : Bool) (taker : Nat) : State × MemRes :=
  let (s, l0, ue) := s.recLine p i 0
  if ue then (s, .ue 0)
  else
    let (s, r) := s.expire p i (VRec.parse l0)
    let k := r.cur
    let n := pick (if reader then r.rd else r.ls) k
    let stop : Nat → State × MemRes := fun st => (s.recStore p i r, .ok (noGrant st))
    if !r.valid then stop 2
    else if !r.two && r.pub then stop 3
    else if n = 0xFFFF then stop 1
    else
      let (s, l1, ue) := s.recLine p i 1
      if ue then (s.recStore p i r, .ue 0)
      else
        let r := if reader then { r with rd := putAt r.rd k (n + 1) } else { r with ls := putAt r.ls k (n + 1) }
        let r := { r with t := putAt r.t k s.time32, last := taker % 2 ^ 32 }
        (s.recStore p i r, .ok (grantLine 0 (pick r.ver k) k (n + 1) (sliceB l1 (8 * k) 8)))

/-- A drop of version v (R302). -/
def State.recDrop (s : State) (p i : Nat) (reader : Bool) (v : Nat) : State × MemRes :=
  let (s, l0, ue) := s.recLine p i 0
  if ue then (s, .ue 0)
  else
    let (s, r) := s.expire p i (VRec.parse l0)
    let kind := if reader then 2 else 1
    let refuse : Nat → State := fun slot =>
      let s := s.bump (stKey p 0x140) 1
      let s := s.vrCapture p i slot kind 2 v r.last
      (s.evSet (stKey p 0x84) (2 ^ 5) (128 + p)).recStore p i r
    match r.slotOf v with
    | none => (refuse 0, .ok [])
    | some k =>
      let n := pick (if reader then r.rd else r.ls) k
      if n = 0 then (refuse k, .ok [])
      else
        let r := if reader then { r with rd := putAt r.rd k (n - 1) } else { r with ls := putAt r.ls k (n - 1) }
        let r := { r with t := putAt r.t k s.time32 }
        let r := if r.holds k then r else r.setCtrl (4 + k) false
        (s.recStore p i r, .ok [])

/-- A write to lines 0 and 1 of a record, only while it is idle (R299); a region that refuses it does so first (R501). -/
def State.recWrite (s : State) (p i a : Nat) (d : List Byte) (who : Who) (unit : Nat) : State × MemRes :=
  if ((s.chunks p a d.length).getD []).any (s.regionRefuses p who true) then s.dmWrite p a d who unit
  else
  let (s, l0, ue) := s.recLine p i 0
  if ue then (s, .ue 0)
  else if (VRec.parse l0).idle then s.dmWrite p a d who unit
  else (s, .fault 0)

/-- The records a byte range touches, with what it touches of each: whether lines 0 and 1, whether lines 2 and 3. -/
def State.recsIn (s : State) (p a n : Nat) : List Nat :=
  let b := s.vrBase p
  let e := b + 128 * s.vrNum p
  if n = 0 ∨ e ≤ a ∨ a + n ≤ b then []
  else
    let lo := (max a b - b) / 128
    let hi := (min (a + n) e - 1 - b) / 128
    (List.range (hi + 1 - lo)).map (lo + ·)

/-- Whether a range touches the ports of a record. -/
def State.touchesPort (s : State) (p a n i : Nat) : Bool :=
  let r := s.vrBase p + 128 * i
  decide (r + 0x40 < a + n) && decide (a < r + 0x80)

/-- Regions refuse a whole access before a record sees it (R500, R501). -/
def State.regionsRefuse (s : State) (p a n : Nat) (who : Who) (write : Bool) : Option State :=
  match s.chunks p a n with
  | none => some s
  | some l =>
    let refusing := l.filter (s.regionRefuses p who write)
    if refusing.isEmpty then none else some (s.refuseAt refusing)

/-! ### The release page of a feed channel (R485) -/

def fdKey (c o : Nat) : Nat := 0xC0000 + 0x400 * c + o
def feed0 : Nat → FdCh := fun _ => FdCh.reset
def State.feed (s : State) (c : Nat) : FdCh := s.feeds.get feed0 c
def State.setFeed (s : State) (c : Nat) (x : FdCh) : State := { s with feeds := s.feeds.set feed0 c x }
def State.fdPart (s : State) (c : Nat) : Nat := s.regFld (fdKey c 0) 8 6
def State.fdOn (s : State) (c : Nat) : Bool := bit (s.reg (fdKey c 0)) 0

/-- The enabled channel of partition p whose release page a range touches, and the range's offset in it where it lies inside. -/
def State.pageAt (s : State) (p a n : Nat) : Option (Nat × Option Nat) :=
  (List.range 64).findSome? fun c =>
    let rp := s.reg64 (fdKey c 0x28) % 2 ^ 48 / 4096 * 4096
    if s.fdOn c ∧ s.fdPart c = p ∧ rp < a + n ∧ a < rp + 4096 then
      some (c, if rp ≤ a ∧ a + n ≤ rp + 4096 then some (a - rp) else none)
    else none

/-- Software returns n slots of entry e; a release that would go below zero is ignored. -/
def State.slotRelease (s : State) (c e n : Nat) : State :=
  let x := s.feed c
  let u := x.used.get nat0 e
  if n = 0 ∨ 256 < n ∨ u < n then s.bump (fdKey c 0x130) 1
  else s.setFeed c { x with used := x.used.set nat0 e (u - n) }

/-! ### The command port of the serving unit (R595) -/

def svKey (p o : Nat) : Nat := 0xB0000 + 0x400 * p + o

/-- Whether a range touches the command port of partition p, and whether it is a command's 16 bytes (R595). DESIGN CHOICE (log entry 74):
SV_CPORT at its reset value 0 with SV_CTL.EN = 0 names no page. -/
def State.cportAt (s : State) (p a n : Nat) : Option Bool :=
  let c := s.reg64 (svKey p 0x30) % 2 ^ 48 / 4096 * 4096
  if (bit (s.reg (svKey p 0)) 0 ∨ c ≠ 0) ∧ c < a + n ∧ a < c + 4096 then some (a == c && n == 16) else none

def State.cportPush (s : State) (p dev : Nat) (d : List Byte) : State :=
  { s with svq := s.svq ++ [⟨p, dev, false, (List.range 4).map fun i => leAt d (4 * i) 4⟩] }

/-- Device memory as a requester reads it (R299, R485, R595). `taker` is the core address a take is recorded under; a requester that may not
use ports gives none. -/
def State.memRd (s : State) (p a n : Nat) (who : Who) (unit : Nat) (taker : Option Nat) : State × MemRes :=
  match (s.recsIn p a n).find? (s.touchesPort p a n) with
  | none =>
    match s.pageAt p a n with
    | none => if (s.cportAt p a n).isSome then (s, .fault 0) else s.dmRead p a n who unit
    | some (c, off) =>
      match s.regionsRefuse p a n who false, off, taker with
      | some s, _, _ => (s, .fault 0)
      | none, some o, some _ =>
        if n = 4 ∧ o % 4 = 0 ∧ o / 4 < (s.feed c).table.length then (s, .ok (leBytes 4 ((s.feed c).used.get nat0 (o / 4))))
        else (s, .fault 0)
      | none, _, _ => (s, .fault 0)
  | some i =>
    let off := a - (s.vrBase p + 128 * i)
    match s.regionsRefuse p a n who false, taker with
    | some s, _ => (s, .fault 0)
    | none, none => (s, .fault 0)
    | none, some tk =>
      if n = 32 ∧ off = 0x40 then s.recTake p i false tk
      else if n = 32 ∧ off = 0x60 then s.recTake p i true tk
      else (s, .fault 0)

/-- Device memory as a requester writes it (R299); `ports` says whether it may use the ports. -/
def State.memWr (s : State) (p a : Nat) (d : List Byte) (who : Who) (unit : Nat) (ports : Bool) : State × MemRes :=
  let n := d.length
  match s.recsIn p a n with
  | [] =>
    match s.pageAt p a n with
    | none =>
      match s.cportAt p a n with
      | none => s.dmWrite p a d who unit
      | some exact =>
        match s.regionsRefuse p a n who true with
        | some s => (s, .fault 0)
        | none => if exact && unit == 3 then (s.cportPush p 0 d, .ok []) else (s, .fault 0)
    | some (c, off) =>
      match s.regionsRefuse p a n who true, off with
      | some s, _ => (s, .fault 0)
      | none, some o =>
        if ports && n == 4 && o % 4 == 0 && decide (o / 4 < (s.feed c).table.length) then (s.slotRelease c (o / 4) (leNat d), .ok [])
        else (s, .fault 0)
      | none, none => (s, .fault 0)
  | l =>
    match l.find? (s.touchesPort p a n) with
    | some i =>
      let off := a - (s.vrBase p + 128 * i)
      match s.regionsRefuse p a n who true with
      | some s => (s, .fault 0)
      | none =>
        if ports && n == 4 && off == 0x40 then s.recDrop p i false (leNat d)
        else if ports && n == 4 && off == 0x60 then s.recDrop p i true (leNat d)
        else (s, .fault 0)
    | none =>
      match l with
      | [i] => s.recWrite p i a d who unit
      | _ => (s, .fault 0)

/-! ### Expiry, sweep and BREAK as commands (R305, R306) -/

/-- An operation of the sweep on record i: the expiry test, and BREAK's clearing of expired slots. -/
def State.sweepRec (s : State) (p i : Nat) : State :=
  let (s, l0, ue) := s.recOpen p i .ordinary false
  if ue then s
  else
    let (s, r) := s.expire p i (VRec.parse l0)
    let breaking := bit (s.reg (stKey p 4)) 8
    let clr : Nat → VRec → VRec := fun k r =>
      if breaking && r.exp k then { r with rd := putAt r.rd k 0, ls := putAt r.ls k 0 }.setCtrl (4 + k) false else r
    s.recStore p i (clr 1 (clr 0 r))

/-- A visit of the sweep; BREAKING ends once every record has been visited since BREAK. -/
def State.sweepVisit (s : State) (p i : Nat) : State :=
  let s := if i < s.vrNum p then s.sweepRec p i else s
  if bit (s.reg (stKey p 4)) 8 then
    let seen := s.swept.get (fun _ => []) p
    let seen := if i < s.vrNum p ∧ i ∉ seen then seen ++ [i] else seen
    if s.vrNum p ≤ seen.length then
      { s.clrReg (stKey p 4) (2 ^ 8) with swept := s.swept.set (fun _ => []) p [] }
    else { s with swept := s.swept.set (fun _ => []) p seen }
  else s

def execReaderTake (p i taker : Nat) (s : State) : Host.Outcome State Fault Refusal :=
  .next (s.memRd p (s.vrBase p + 128 * i + 0x60) 32 .ordinary 5 (some taker)).1

def execLeaseTake (p i taker : Nat) (s : State) : Host.Outcome State Fault Refusal :=
  .next (s.memRd p (s.vrBase p + 128 * i + 0x40) 32 .ordinary 5 (some taker)).1

def execReaderDrop (p i : Nat) (ver : Word) (s : State) : Host.Outcome State Fault Refusal :=
  .next (s.memWr p (s.vrBase p + 128 * i + 0x60) (leBytes 4 ver.toNat) .ordinary 5 true).1

def execLeaseDrop (p i : Nat) (ver : Word) (s : State) : Host.Outcome State Fault Refusal :=
  .next (s.memWr p (s.vrBase p + 128 * i + 0x40) (leBytes 4 ver.toNat) .ordinary 5 true).1

def execRecordLineWrite (p i off : Nat) (data : List Byte) (s : State) : Host.Outcome State Fault Refusal :=
  .next (if off + data.length ≤ 0x40 then
    (s.memWr p (s.vrBase p + 128 * i + off) data .ordinary 5 true).1 else s)

/-- Expiry found outside an operation of a holder: the test of one record. -/
def execLeaseExpiry (p i : Nat) (s : State) : Host.Outcome State Fault Refusal :=
  .next (if i < s.vrNum p then
      let (s, l0, ue) := s.recOpen p i .ordinary false
      if ue then s
      else
        let (s, r) := s.expire p i (VRec.parse l0)
        s.recStore p i r
    else s)

def execSweepVisit (p i : Nat) (s : State) : Host.Outcome State Fault Refusal := .next (s.sweepVisit p i)

end Sys2Proof.Machine
end

