-- ==== Sys2Proof/Machine/Dma.lean ====
section
/-!
DEFINITION. Message-unit DMA, engine 4, and the responses the Retriever and DMA wait for (spec/03 R131-R133, R146).
One descriptor runs at a time. Local work is done when the descriptor starts; what another device or core must answer is listed.
-/

namespace Sys2Proof.Machine

/-- The fields of a DMA descriptor (R131). -/
structure DmaDesc where
  kind : Nat
  cls : Nat
  len : Nat
  spad : Nat
  dest : Nat
  mem : Nat
  ch : Nat

def dmaDesc (b : List Byte) : DmaDesc :=
  { kind := byteAt b 2 % 16, cls := byteAt b 2 / 16 % 4, len := leAt b 4 3, spad := leAt b 8 4, dest := leAt b 12 4,
    mem := leAt b 16 6, ch := leAt b 24 2 % 4096 }

/-- The bits of each byte that must be 0 (R114, R131); a field the kind leaves at 0 counts among them. -/
def dmaZero (kind i : Nat) : Nat :=
  if i = 0 ∨ i = 1 then 0x80
  else if i = 2 then 0xC0
  else if i = 3 ∨ i = 7 ∨ i = 22 ∨ i = 23 ∨ 26 ≤ i then 0xFF
  else if i = 25 then (if kind < 2 then 0xFF else 0xF0)
  else if i = 24 then (if kind < 2 then 0xFF else 0)
  else if kind < 2 ∧ (i = 12 ∨ i = 13) then 0xFF
  else if kind = 2 ∧ 16 ≤ i then 0xFF
  else if kind = 3 ∧ 8 ≤ i ∧ i < 12 then 0xFF
  else 0

/-- A core address a core may send to (R33, R72). -/
def State.addrOk (s : State) (p a : Nat) : Bool :=
  if s.isOwn (addrDev a) then (s.toCore p a).isSome else !addrBad a

/-- The address a take is recorded under: the core's, with its device id (R298). -/
def State.taker (s : State) (c : Nat) : Nat := s.devId * 65536 + s.relAddr c

/-- The check of a descriptor at the head of the queue: fault code, 0 none (R133). -/
def State.dmaCheck (s : State) (c : Nat) (b : List Byte) : Nat × Nat :=
  let d := dmaDesc b
  if (firstNonzero (dmaZero d.kind) b).isSome then (6, 0)
  else if 3 < d.kind ∨ (d.kind < 2 ∧ d.cls ≠ 0) ∨ (2 ≤ d.kind ∧ d.cls ≠ 1 ∧ d.cls ≠ 2) then (1, 0)
  else if d.spad % 4 ≠ 0 ∨ d.mem % 4 ≠ 0 ∨ d.len % 4 ≠ 0 then (3, 0)
  else if d.len < 4 ∨ (d.kind ≤ 2 ∧ !inSpad d.spad d.len) then (2, 0)
  else if d.kind < 2 then (0, 0)
  else if !s.addrOk (s.corePart c) d.dest then (0xF4, d.dest)
  else if (s.sourceAddr c).isNone then (7, 0)
  else
    match s.txFind c d.dest d.ch (d.cls == 2) with
    | none => (4, 0)
    | some (_, e) =>
      if (if d.cls = 2 then e.cap * 32 < d.len else e.cap < (min d.len 8192 + 31) / 32) then (5, 0) else (0, 0)

/-- Set the job of engine e that runs. -/
def Core.setJob (k : Core) (e : Nat) (j : Job) : Core := k.setEng e { k.eng e with jobs := [j] }

/-- Pieces of at most `m` bytes of a transfer of `n` bytes: offset and length. -/
def pieces (m n : Nat) : List (Nat × Nat) :=
  (List.range ((n + m - 1) / m)).map fun i => (i * m, min m (n - i * m))

/-- The requests of a transfer with another device's memory (R132, R466). -/
def State.dmaRequests (s : State) (c : Nat) (d : DmaDesc) (ticket : Nat) (data : List Byte) : List Rq :=
  let m := if d.kind = 0 then 8192 else 8176
  (pieces m d.len).map fun q =>
    { part := s.corePart c, src := s.relAddr c, eng := 4, ticket := ticket, pos := q.1, dst := d.dest / 65536 * 65536,
      space := 1, op := if d.kind = 0 then 0 else 1, addr := d.mem + q.1, len := q.2,
      data := if d.kind = 0 then [] else sliceB data q.1 q.2, land := d.spad + q.1 }

/-- Issue requests of a job while fewer than `m` are in flight. -/
def State.issueReqs (s : State) (c e m : Nat) : State :=
  match ((s.core c).eng e).jobs with
  | j :: _ =>
    let n := m - j.out.length
    let now := j.todo.take n
    let s := s.modCore c fun k => k.setJob e { j with todo := j.todo.drop n, out := j.out ++ now }
    let s := now.foldl (fun s r => s.send (.req r)) s
    if e = 3 then s.bumpCsr c 0x302 now.length else s
  | [] => s

/-- Send messages of a transfer of kind 2 or 3 while credit lasts; `fuel` bounds their number (R126, R132). -/
def State.dmaPush (s : State) (c : Nat) : Nat → State
  | 0 => s
  | fuel + 1 =>
    match ((s.core c).eng 4).jobs with
    | [] => s
    | j :: _ =>
      let d := dmaDesc j.desc.bytes
      if d.kind < 2 ∨ j.fault ≠ 0 ∨ d.len ≤ j.sent then s
      else
        let fail : State → Nat → Nat → State := fun s code det => s.modCore c fun k => k.setJob 4 (j.failed code det)
        let n := if d.cls = 2 then d.len else min 8192 (d.len - j.sent)
        match s.txFind c d.dest d.ch (d.cls == 2), s.sourceAddr c with
        | none, _ => fail s 4 0
        | some _, none => fail (s.modCore c fun k => k.muStat 6) 7 0
        | some (i, e), some src =>
          let u := if d.cls = 2 then (1, e.pos) else e.charge ((n + 31) / 32)
          if e.cred < u.1 ∨ (d.cls = 1 ∧ e.recs = 0) then s
          else
            let (s, data, bad) :=
              if d.kind = 2 then
                let (s, x, ue) := s.spadRead c (d.spad + j.sent) n 0xF1 2
                (s, x, ue.map fun a => (0xF1, a))
              else
                match (s.memRoute (coreDie c) (s.corePart c) (d.mem + j.sent) n).memRd (s.corePart c) (d.mem + j.sent) n .ordinary 3 none with
                | (s, .ok x) => (s, x, none)
                | (s, .fault o) => (s, [], some (0xF3, j.sent + o))
                | (s, .ue o) => (s, [], some (0xF3, j.sent + o))
            match bad with
            | some (code, det) => fail s code det
            | none =>
              let e' := { e with cred := e.cred - u.1, recs := if d.cls = 1 then e.recs - 1 else e.recs, pos := u.2,
                                 seq := (e.seq + 1) % 65536 }
              let m : Msg := { part := s.corePart c, src := src, dst := d.dest, cls := d.cls, ch := d.ch, seq := e.seq,
                               ticket := j.desc.ticket, origin := 1, orig := c, payload := data }
              let s := s.modCore c fun k => (k.setTx i (some e')).setJob 4
                { j with sent := j.sent + n, msgs := j.msgs + 1 }
              State.dmaPush (s.send (.msg m)) c fuel

/-- Messages a descriptor can have. -/
def dmaFuel : Nat := 2 ^ 11 + 1

/-- A transfer goes on: its messages are sent while credit lasts (R132). -/
def State.dmaGo (s : State) (c : Nat) : State := s.dmaPush c dmaFuel

/-- The transfer goes on after credit has arrived; its wait has ended (R132, R412). -/
def State.dmaResume (s : State) (c : Nat) : State := (s.stallTick c).dmaGo c

/-- A transfer between scratchpad and device memory starts (R132). -/
def State.dmaMove (s : State) (c : Nat) (j : Job) (d : DmaDesc) : State :=
  let p := s.corePart c
  let put : State → Job → State := fun s j => s.modCore c fun k => k.setJob 4 j
  let remote := !s.isOwn (d.dest / 65536)
  if d.kind = 0 then
    if remote then (put s { j with todo := s.dmaRequests c d j.desc.ticket [] }).issueReqs c 4 (2 ^ 12)
    else
      match (s.memRoute (coreDie c) p d.mem d.len).memRd p d.mem d.len .ordinary 3 (some (s.taker c)) with
      | (s, .ok data) =>
        match s.spadWrite c d.spad data 0xF1 2 with
        | (s, none) => put s { j with stage := 3 }
        | (s, some a) => put s (j.failed 0xF1 a)
      | (s, .fault o) => put s (j.failed 0xF3 o)
      | (s, .ue o) => put s (j.failed 0xF3 o)
  else
    match s.spadRead c d.spad d.len 0xF1 2 with
    | (s, _, some a) => put s (j.failed 0xF1 a)
    | (s, data, none) =>
      if remote then (put s { j with todo := s.dmaRequests c d j.desc.ticket data }).issueReqs c 4 (2 ^ 12)
      else
        match (s.memRoute (coreDie c) p d.mem d.len).memWr p d.mem data .ordinary 3 true with
        | (s, .ok _) => put s { j with stage := 3 }
        | (s, .fault o) => put s (j.failed 0xF3 o)
        | (s, .ue o) => put s (j.failed 0xF3 o)

/-- The descriptor at the head of the DMA queue starts, if it is of the kind the command names; a kind no command names is
taken by any (log entry 8). -/
def State.dmaStart (s : State) (c kind : Nat) : State :=
  let x := (s.core c).eng 4
  let hk := match x.queue with
    | d :: _ => (dmaDesc d.bytes).kind
    | [] => 16
  if !x.jobs.isEmpty || (hk != kind && !(decide (4 ≤ hk) && decide (hk < 16))) then s
  else
    match s.takeDesc c 4 with
    | none => s
    | some (d, s) =>
      let j := { Job.fresh d (s.stepNo (s.corePart c)) 0 with stage := 1 }
      let (code, det) := s.dmaCheck c d.bytes
      let s := if code = 7 then s.modCore c fun k => k.muStat 6 else s
      if code ≠ 0 then s.modCore c fun k => k.setJob 4 (j.failed code det)
      else if kind < 2 then s.dmaMove c j (dmaDesc d.bytes)
      else (s.modCore c fun k => k.setJob 4 j).dmaGo c

def execMemToSpad (c : Nat) (s : State) : Host.Outcome State Fault Refusal := .next (s.dmaStart c 0)
def execSpadToMem (c : Nat) (s : State) : Host.Outcome State Fault Refusal := .next (s.dmaStart c 1)
def execSpadToCore (c : Nat) (s : State) : Host.Outcome State Fault Refusal := .next (s.dmaStart c 2)
def execMemToCore (c : Nat) (s : State) : Host.Outcome State Fault Refusal := .next (s.dmaStart c 3)

/-- Whether the running job of engine 3 or 4 has nothing left to wait for. -/
def Job.finished (j : Job) : Bool :=
  j.fault != 0 || (j.todo.isEmpty && j.out.isEmpty && j.msgs == 0 &&
    (j.stage == 3 || (decide (2 ≤ (dmaDesc j.desc.bytes).kind) && decide ((dmaDesc j.desc.bytes).len ≤ j.sent))))

/-- The DMA descriptor completes once its data is written, acknowledged or placed (R132). -/
def execDmaComplete (c : Nat) (s : State) : Host.Outcome State Fault Refusal :=
  .next (match ((s.core c).eng 4).jobs with
    | j :: _ => if j.finished then s.endDesc c 4 j j.fault j.detail else s
    | [] => s)

/-! ### Responses (R118, R133, R146) -/

/-- The request a response answers, in the job that waits for it. -/
def Job.request (j : Job) (pos : Nat) : Option Rq := j.out.find? fun r => r.pos == pos

/-- An answer to a bucket stream's READ of the owner's exponents: kept with its seal (R376). `pos` is area × 2^32 + byte offset. -/
def State.sealAnswer (s : State) (ch pos : Nat) (err : Bool) (data : List Byte) : State :=
  { s with seals := s.seals.map fun x =>
      if x.ch = ch ∧ x.area = pos / 2 ^ 32 then { x with exps := x.exps ++ [(pos % 2 ^ 32, if err then [] else data)] } else x }

/-- A response arrives at its engine: the data lands, or the descriptor ends with REMOTE; one nobody waits for is discarded
(R118, R140). `finish` is what the engine does once nothing is outstanding. -/
def State.response (s : State) (r : Rsp) (finish : State → Nat → State) : State :=
  if r.eng = 5 then s.sealAnswer r.ticket r.pos r.err r.data
  else
  match s.toCore r.part r.dst with
  | none => s
  | some c =>
    match s.reach none c with
    | none => s
    | some s =>
    match ((s.core c).eng r.eng).jobs with
    | [] => s
    | j :: _ =>
      match j.request r.pos with
      | none => s
      | some q =>
        if j.desc.ticket ≠ r.ticket ∨ j.fault ≠ 0 ∨ s.isFenced c then s
        else
          let j := { j with out := j.out.filter fun x => x.pos ≠ r.pos }
          let put : State → Job → State := fun s j => s.modCore c fun k => k.setJob r.eng j
          if r.err then put s (j.failed 0xF5 r.pos)
          else
            let seg := r.eng == 3 && byteAt j.desc.bytes 2 % 16 == 3
            let (s, bad) :=
              if q.op = 0 && !seg then
                if r.eng = 3 then s.engWrite c q.land r.data else s.spadWrite c q.land r.data 0xF1 2
              else (s, none)
            let j := if q.op = 0 && seg then { j with got := j.got ++ [(r.pos, r.data)] } else j
            match bad with
            | some a => put s (j.failed 0xF1 a)
            | none =>
              if j.todo.isEmpty && j.out.isEmpty then finish (put s { j with stage := 3 }) c
              else (put s j).issueReqs c r.eng (if r.eng = 3 then (s.core c).cf 0x300 0 7 else 2 ^ 12)

/-- A wait of longer than MU_CTL.TMO: the descriptor ends with REMOTE at the oldest request or message outstanding (R133, R152). -/
def State.respTimeout (s : State) (c e : Nat) : State :=
  let k := s.core c
  match (k.eng e).jobs with
  | [] => s
  | j :: _ =>
    if k.cf 0x200 16 8 = 0 ∨ j.fault ≠ 0 then s
    else
      match j.out with
      | q :: _ => s.modCore c fun k => k.setJob e (j.failed 0xF5 q.pos)
      | [] =>
        if j.msgs = 0 then s
        else
          let d := dmaDesc j.desc.bytes
          let at' := if d.cls = 2 then 0 else ((j.sent + 8191) / 8192 - j.msgs) * 8192
          s.modCore c fun k => k.setJob e (j.failed 0xF5 at')

def execResponseTimeout (c : Nat) (eng : Bool) (s : State) : Host.Outcome State Fault Refusal :=
  .next (s.respTimeout c (if eng then 4 else 3))

end Sys2Proof.Machine
end

