-- ==== Sys2Proof/Machine/CoreMsg.lean ====
section
/-!
DEFINITION. SEND, RECV, WAITQ, POLLQ and ISSUE, and what resumes them (spec/02 R67-R77).
-/

namespace Sys2Proof.Machine

/-! ### SEND (R72, R73, R126) -/

/-- The CC_TVAL of a SEND_FAULT, in the order R72 lists its causes; `none` where there is no fault (R96). -/
def State.sendFault (s : State) (c : Nat) (a b w : Word) : Option Word :=
  let len := fld w 0 14
  if !s.addrOk (s.corePart c) a.toNat && addrDev a.toNat != 0xFFFF then some 1
  else if addrDev a.toNat = 0xFFFF ∧ addrBad a.toNat then some 1
  else if len = 0 ∨ 8192 < len then some 2
  else if fld w 14 2 ≠ 0 ∨ fld w 28 4 ≠ 0 then some 3
  else if b.toNat % 4 ≠ 0 then some 4
  else if !inSpad b.toNat len then some 5
  else none

/-- Try a send that has no fault: it takes its ticket, or credit is short. -/
def State.sendNow (s : State) (c : Nat) (rd ra rb rc : Reg) (fn : Nat) : Option State :=
  let k := s.core c
  let w := k.s rc
  let t := k.sendNext
  (s.doSend c (k.s rb).toNat (fld w 0 14) (k.s ra).toNat (fn % 4) (fld w 16 12)).map fun s =>
    s.modCore c fun k => k.setS rd (BitVec.ofNat 32 t)

def execSend (c : Nat) (rd ra rb rc : Reg) (fn : BitVec 6) (s : State) : Host.Outcome State Fault Refusal :=
  .next (s.instr c fun pc s =>
    let k := s.core c
    if fn.toNat % 4 = 3 ∨ 8 ≤ fn.toNat then .exc s ILLEGAL 0
    else
      match s.sendFault c (k.s ra) (k.s rb) (k.s rc) with
      | some v => .exc s 0xC v
      | none =>
        match s.sendNow c rd ra rb rc fn.toNat with
        | some s => .retire s (pc + 4)
        | none => if fn.toNat.testBit 2 then IRes.put c pc s rd 0 else .wait s (.send rd ra rb rc fn.toNat))

/-- A SEND that waited for credit goes on (R126). -/
def execSendResume (c : Nat) (s : State) : Host.Outcome State Fault Refusal :=
  let k := s.core c
  .next (match k.wait with
    | some (.send rd ra rb rc fn) =>
      if k.rs = 2 then
        match (s.stallTick c).sendNow c rd ra rb rc fn with
        | some s => s.modCore c fun k => k.retire (k.pc + 4)
        | none => s
      else s
    | _ => s)

/-! ### RECV (R67, R74) -/

/-- The records a queue number names: receive queues 0 to 7, completion queues 8 to 12. -/
def Core.queueRecs (k : Core) (q : Nat) : List (List Word) :=
  if q < 8 then (k.rxq q).recs else (k.eng (q - 8)).comp

/-- Remove the oldest record of a queue. A completion queue takes in a held record; the last fault record's removal ends ENG_FAULT
(R70, R91). -/
def State.popRec (s : State) (c q : Nat) : State :=
  let k := s.core c
  if q < 8 then
    let x := k.rxq q
    (s.setCore c (k.setRxq q { x with recs := x.recs.drop 1 })).recordFreed c q
  else
    let e := q - 8
    let x := k.eng e
    let w0 := (x.comp.getD 0 []).getD 0 0
    let k := { k.setEng e { x with comp := x.comp.drop 1, heldRec := none } with
               faults := if fld w0 24 8 = 0 then k.faults else k.faults.erase (e, fld w0 0 16) }
    s.setCore c (match x.heldRec with
      | some r => k.postRec e r
      | none => k)

/-- RD takes 1 and the number of records left, a held record that moves in with this RECV not counted (DESIGN CHOICE, log entry 88: R74
does not say whether the count is taken before or after it moves in). -/
def execRecv (c : Nat) (rd ra rb rc : Reg) (fn : BitVec 6) (s : State) : Host.Outcome State Fault Refusal :=
  .next (s.instr c fun pc s =>
    let k := s.core c
    let q := fld (k.s ra) 0 4
    let a := k.s rb
    if rc ≠ 0 ∨ fn ≠ 0 ∨ 12 < q then .exc s ILLEGAL 0
    else if a.toNat % 16 ≠ 0 ∨ !inSpad a.toNat 16 then .exc s 5 a
    else
      match k.queueRecs q with
      | [] => IRes.put c pc s rd 0
      | r :: t =>
        let s := s.popRec c q
        let (s, _) := s.spadWrite c a.toNat (r.flatMap fun w => leBytes 4 w.toNat) 6 0
        IRes.put c pc s rd (BitVec.ofNat 32 (1 + t.length)))

/-! ### POLLQ and WAITQ (R76) -/

/-- The mask of selected queues that are not empty. -/
def Core.ready (k : Core) (mask : Nat) : Word :=
  BitVec.ofNat 32 ((List.range 13).map fun q => if mask.testBit q && !(k.queueRecs q).isEmpty then 2 ^ q else 0).sum

def execPollq (c : Nat) (rd ra rb rc : Reg) (fn : BitVec 6) (s : State) : Host.Outcome State Fault Refusal :=
  .next (s.instr c fun pc s =>
    if rb ≠ 0 ∨ rc ≠ 0 ∨ fn ≠ 0 then .exc s ILLEGAL 0
    else IRes.put c pc s rd ((s.core c).ready (fld ((s.core c).s ra) 0 13)))

def execWaitq (c : Nat) (rd ra rb rc : Reg) (fn : BitVec 6) (s : State) : Host.Outcome State Fault Refusal :=
  .next (s.instr c fun pc s =>
    let mask := fld ((s.core c).s ra) 0 13
    let m := (s.core c).ready mask
    if rb ≠ 0 ∨ rc ≠ 0 ∨ fn ≠ 0 then .exc s ILLEGAL 0
    else if m ≠ 0 then IRes.put c pc s rd m
    else .wait s (.waitq rd mask))

/-- A WAITQ ends when a selected queue has become non-empty. -/
def execWaitqWake (c : Nat) (s : State) : Host.Outcome State Fault Refusal :=
  let k := s.core c
  .next (match k.wait with
    | some (.waitq rd mask) =>
      if k.rs = 2 ∧ k.ready mask ≠ 0 then (s.stallTick c).modCore c fun k => (k.setS rd (k.ready mask)).retire (k.pc + 4) else s
    | _ => s)

/-! ### ISSUE (R68, R69, R71) -/

/-- Copy the descriptor at `a` into a queue with room. -/
def State.enqueue (s : State) (c e a : Nat) (recd : Bool) (bytes : List Byte) (rd : Reg) (pc : Word) : State :=
  s.modCore c fun k =>
    let x := k.eng e
    let d : Desc :=
      { ticket := x.next, addr := a, recd := recd, bytes := bytes,
        bcast := if e = 2 then (List.range 8).map fun i => k.s (BitVec.ofNat 5 (24 + i)) else [],
        mb := k.cf 0x802 0 16, iaddr := pc.toNat }
    (k.setEng e { x with queue := x.queue ++ [d], next := nextTicket x.next }).setS rd (BitVec.ofNat 32 x.next)

/-- ISSUE from a valid address: an uncorrectable descriptor traps as a load does (R110, log entry 13). -/
def State.issueNow (s : State) (c : Nat) (rd ra : Reg) (fn : Nat) (pc : Word) : IRes :=
  let a := (s.core c).s ra
  match s.spadRead c a.toNat 32 6 1 with
  | (s, _, some _) => .exc s 6 a
  | (s, d, none) => .retire (s.enqueue c (fn % 8) a.toNat (fn.testBit 4) d rd pc) (pc + 4)

def execIssue (c : Nat) (rd ra rb rc : Reg) (fn : BitVec 6) (s : State) : Host.Outcome State Fault Refusal :=
  .next (s.instr c fun pc s =>
    let k := s.core c
    let a := k.s ra
    let e := fn.toNat % 8
    if rb ≠ 0 ∨ rc ≠ 0 ∨ 5 ≤ e ∨ 32 ≤ fn.toNat then .exc s ILLEGAL 0
    else if a.toNat % 32 ≠ 0 ∨ !inSpad a.toNat 32 then .exc s 0xB a
    else if 8 ≤ (k.eng e).queue.length then
      if fn.toNat.testBit 3 then IRes.put c pc s rd 0 else .wait s (.issue rd ra fn.toNat)
    else s.issueNow c rd ra fn.toNat pc)

/-- An ISSUE that waited for room goes on. -/
def execIssueResume (c : Nat) (s : State) : Host.Outcome State Fault Refusal :=
  let k := s.core c
  .next (match k.wait with
    | some (.issue rd ra fn) =>
      if k.rs = 2 ∧ (k.eng (fn % 8)).queue.length < 8 then s.finishInstr c (s.issueNow c rd ra fn k.pc) else s
    | _ => s)

end Sys2Proof.Machine
end

