-- ==== Sys2Proof/Machine/Matrix.lean ====
section
/-!
DEFINITION. The forward and gradient matrix engines (spec/05) with the core's side of the hand-off to a reduction channel
(R211-R213, R373, R382-R386).
-/

namespace Sys2Proof.Machine

/-! ### The descriptor (R201) -/

structure MDesc where
  op : Nat
  chain : Nat
  ta : Bool
  tb : Bool
  mask : Nat
  reden : Bool
  ben : Bool
  cen : Bool
  rsen : Bool
  rtab : Nat
  m : Nat
  n : Nat
  k : Nat
  ocv : Nat
  fa : Nat
  fb : Nat
  tag : Nat
  seed : Word
  aAt : Nat
  bAt : Nat
  cAt : Nat
  mkAt : Nat
  biAt : Nat
  rch : Nat
  sct : Nat
  clo : Nat
  chi : Nat
  deriving DecidableEq, Repr

def mdesc (b : List Byte) : MDesc :=
  let b2 := byteAt b 2
  let b3 := byteAt b 3
  let w1 := leAt b 4 4
  { op := b2 % 4, chain := b2 / 4 % 4, ta := b2.testBit 4, tb := b2.testBit 5, mask := b2 / 64,
    reden := b3.testBit 0, ben := b3.testBit 1, cen := b3.testBit 2, rsen := b3.testBit 3, rtab := b3 / 16 % 4,
    m := 8 * (nfld w1 0 6 + 1), n := 8 * (nfld w1 6 6 + 1), k := 32 * (nfld w1 12 8 + 1), ocv := nfld w1 20 12,
    fa := byteAt b 8, fb := byteAt b 9, tag := leAt b 10 2, seed := BitVec.ofNat 32 (leAt b 12 4),
    aAt := 32 * leAt b 16 2, bAt := 32 * leAt b 18 2, cAt := 32 * leAt b 20 2, mkAt := 32 * leAt b 22 2,
    biAt := 32 * leAt b 24 2, rch := byteAt b 26, sct := byteAt b 27, clo := leAt b 28 2, chi := leAt b 30 2 }

/-- Bits of each descriptor byte that must be 0 (R114, R201). -/
def mdescMask (d : MDesc) (i : Nat) : Nat :=
  let w := fun b : Bool => if b then 0xFF else 0
  match i with
  | 0 => 0x80
  | 1 => 0x80
  | 3 => if d.rsen then 0xC0 else 0xF0
  | 17 => 0xE0
  | 19 => 0xE0
  | 20 => w d.reden
  | 21 => w d.reden ||| 0xE0
  | 22 => w (d.mask == 0)
  | 23 => w (d.mask == 0) ||| 0xE0
  | 24 => w (!d.ben)
  | 25 => w (!d.ben) ||| 0xE0
  | 26 => w (!d.reden)
  | 27 => w (d.ocv % 32 ∈ [0, 1, 2, 12, 13, 14])
  | 28 => w (!d.cen)
  | 29 => w (!d.cen)
  | 30 => w (!d.cen)
  | 31 => w (!d.cen)
  | _ => 0

/-- Rows and innermost length of an operand as it is stored (R193). -/
def MDesc.shapeA (d : MDesc) : Nat × Nat := if d.ta then (d.k, d.m) else (d.m, d.k)
def MDesc.shapeB (d : MDesc) : Nat × Nat := if d.tb then (d.n, d.k) else (d.k, d.n)

/-- Bytes of the mask (R210). -/
def MDesc.maskBytes (d : MDesc) : Nat :=
  if d.mask = 1 then (d.m + 7) / 8 else (d.m / 32 * (d.n / 32) + 7) / 8

/-- Whether output element (m, n) is computed, `bits` being the mask as a number (R210). -/
def MDesc.inc (d : MDesc) (bits m n : Nat) : Bool :=
  match d.mask with
  | 0 => true
  | 1 => bits.testBit m
  | _ => bits.testBit (m / 32 * (d.n / 32) + n / 32)

/-- Elements of an accumulator half (R204). -/
def halfSize (e : Nat) : Nat := if e = 0 then 2048 else 4096

/-! ### Halves (R204, R205) -/

/-- The half that will be held once the descriptors past the queue have gone on: its M and N. -/
def Eng.hold (x : Eng) : Option (Nat × Nat) :=
  match (x.jobs.filter fun j => decide (j.stage ≤ 1)).getLast? with
  | some j =>
    let d := mdesc j.desc.bytes
    if j.drop then none else if d.chain = 1 ∨ d.chain = 2 then some (d.m, d.n) else none
  | none => x.half.map fun h => (h.m, h.n)

/-- Discard the held half, or the one the descriptor in compute would leave held (R205). -/
def Eng.discard (x : Eng) : Eng :=
  if x.jobs.any (fun j => j.stage == 1) then
    { x with jobs := x.jobs.map fun j => if j.stage = 1 then { j with drop := true } else j }
  else { x with half := none }

/-! ### The reduction interface of the core (R382-R386) -/

/-- The open context a REDEN descriptor of step u uses, with its place (R384). -/
def Core.redCtx (k : Core) (d : MDesc) (u : Word) : Option (Nat × RdCtx) :=
  (List.range 16).findSome? fun i =>
    match k.ctxs.get none0 i with
    | some x =>
      let t := (d.tag + 65536 - x.tag0) % 65536
      let b := d.m * d.n / 32
      let j0 := x.cbase + t * x.tblk
      if x.ch = d.rch ∧ x.step = u.toNat ∧ t < x.ntile ∧ b ≤ x.tblk ∧ x.ebase ≤ j0 ∧ j0 + b ≤ x.ebase + x.nexp
      then some (i, x) else none
    | none => none

/-- Packets of a core's context that the combiner has not yet added (R385). -/
def State.redPending (s : State) (c ch : Nat) : Nat :=
  (s.net.filter fun x => match x with
    | .red p => p.src == 0 && p.core == c && p.ch == ch && !(p.recs.any fun r => r.kind == 3)
    | _ => false).length

/-- The magnitude byte of a set of binary32 words (R371). -/
def magByte (l : List Word) : Nat :=
  let mags := l.filterMap fun w => if nonFin32 w ∨ w.toNat % 2 ^ 31 = 0 then none else some (f32 w)
  mags.foldl (fun acc v => match v with
    | .fin _ m e =>
      let ex : Int := if m = 2 ^ lead m then (lead m : Int) + e else (lead m : Int) + e + 1
      max acc (min (max (ex + 127) 1) 254).toNat
    | _ => acc) 0

/-- One element into block fixed point: q, NF, RG (R373). -/
def toFixed (s : Nat) (r x : Word) : Int × Bool × Bool :=
  match f32 x with
  | .fin neg m e =>
    let (n, _) := roundAt 5 r neg m e ((s : Int) - 127)
    let top := 2 ^ 31 - 1
    if top < n then ((if neg then -(top : Int) else top), false, true)
    else ((if neg then -(n : Int) else n), false, false)
  | _ => (0, true, false)

/-- A D32 record of block j (R373, R379, R381). -/
def fixedRec (seed addr step ch : Word) (j s tag : Nat) (xs : List Word) : RedRec × Nat :=
  let qs : List (Int × Bool × Bool) := (List.range xs.length).map fun i =>
    toFixed s (rand seed addr step ch (BitVec.ofNat 32 (j * 32 + i))) (xs.getD i 0)
  let vals : List Int := qs.map fun q => q.1
  ({ kind := 0, j := j, s := s, tag := tag, nf := qs.any fun q => q.2.1, rg := qs.any fun q => q.2.2, ck := false,
     mx := magByte xs, count := 1, sum := (vals.sum % 2 ^ 64).toNat, vals := vals }, (qs.filter fun q => q.2.2).length)

/-! ### Start-up (R214, R219) -/

/-- Checks of the descriptor's fields up to the roll: ZERO, OP, FORMAT, SHAPE, CHAIN, PARAM (R218, R219); no code and no wait when they
pass. INFER is read at the start alone, not again at a roll (R202). DESIGN CHOICE (log entry 93): the SHAPE detail of M × N above the
half and of a block mask is 2, as of the output. -/
def State.mChecks (s : State) (c e : Nat) (hold : Option (Nat × Nat)) (j : Job) : Option (Nat × Nat) × Bool :=
  let k := s.core c
  let b := j.desc.bytes
  let d := mdesc b
  let bad := fun code detail => (some (code, detail), false)
  let sel := d.ocv % 256
  let rnd := d.ocv / 256 % 8
  match firstNonzero (mdescMask d) b with
  | some i => bad 8 i
  | none =>
    if d.op = 3 ∨ d.mask = 3 ∨ (e = 0 ∧ d.op ≠ 0) ∨ (e = 1 ∧ d.op = 0 ∧ !j.rollWait ∧ !bit (k.get 0x500) 0) then
      bad 1 (d.op + (if d.mask = 3 then 256 else 0))
    else
      match k.fmtSel j.banks d.fa, k.fmtSel j.banks d.fb, k.fmtSel j.banks sel with
      | none, _, _ => bad 2 (d.fa * 256)
      | some (fa, _), fbo, fco =>
        if fa.rate = 3 then bad 2 (d.fa * 256)
        else match fbo with
        | none => bad 2 (1 + d.fb * 256)
        | some (fb, _) =>
          if fb.rate = 3 then bad 2 (1 + d.fb * 256)
          else match fco with
          | none => bad 2 (2 + sel * 256)
          | some (fc, _) =>
            if !rndOk fc rnd || (fc.kind == 4 && d.op != 0) || (d.reden && d.ocv != 0) then bad 2 (2 + sel * 256)
            else if halfSize e < d.m * d.n then bad 3 2
            else if fa.block ∧ d.shapeA.2 % 32 ≠ 0 then bad 3 0
            else if fb.block ∧ d.shapeB.2 % 32 ≠ 0 then bad 3 1
            else if (fc.block ∨ d.reden) ∧ d.n % 32 ≠ 0 then bad 3 2
            else if d.mask = 2 ∧ (d.m % 32 ≠ 0 ∨ d.n % 32 ≠ 0) then bad 3 2
            else
              let chainBad := match hold with
                | some h => decide (d.chain < 2) || h != (d.m, d.n)
                | none => decide (2 ≤ d.chain)
              if chainBad then bad 4 (match hold with
                | some h => h.1 + h.2 * 65536
                | none => 0)
              else
                let lo := decodeFloat fmtBf16 d.clo
                let hi := decodeFloat fmtBf16 d.chi
                if d.cen && (lo.isNan || hi.isNan || Fv.cmpZ hi lo == .lt) then bad 6 1
                else if fc.block then
                  match k.seStart j.banks d.sct sel d.m d.n j.step with
                  | 0 => (none, false)
                  | 1 => (none, true)
                  | _ => bad 6 2
                else (none, false)

/-- The areas of a descriptor, in the order they are checked (R219). -/
def MDesc.areas (d : MDesc) (fa fb fc : Fmt) : List (Nat × Nat) :=
  [(d.aAt, areaSize fa d.shapeA.1 d.shapeA.2), (d.bAt, areaSize fb d.shapeB.1 d.shapeB.2)] ++
    (if d.reden then [] else [(d.cAt, areaSize fc d.m d.n)]) ++
    (if d.mask = 0 then [] else [(d.mkAt, d.maskBytes)]) ++
    (if d.ben then [(d.biAt, 4 * d.n)] else [])

/-- The formats of A, B and the output under a job's banks. -/
def Core.mFmts (k : Core) (banks : Nat) (d : MDesc) : (Fmt × List Nat) × (Fmt × List Nat) × (Fmt × List Nat) :=
  let get := fun sel => (k.fmtSel banks sel).getD (fmt32, [])
  (get d.fa, get d.fb, get (d.ocv % 256))

/-- Headers of both operands (R196). -/
def State.mHeaders (s : State) (c : Nat) (d : MDesc) (fa fb : Fmt) : State × Option (Nat × Nat) :=
  s.checkHeaders c
    ((if fa.block then [⟨0, d.aAt, d.shapeA.1, d.shapeA.2, fa.width, d.fa⟩] else []) ++
      (if fb.block then [⟨1, d.bAt, d.shapeB.1, d.shapeB.2, fb.width, d.fb⟩] else []))

/-- Start-up of a job: its outcome as the changed job. `hold` is what stands held before it. A job that waits for a roll is judged
again, whole, at the roll (R237). DESIGN CHOICE (log entry 94): a descriptor that will hold its half takes an output tag too, as every
descriptor past its checks does under R245. -/
def State.mStartup (s : State) (c e : Nat) (hold : Option (Nat × Nat)) (j : Job) : State × Job :=
  let d := mdesc j.desc.bytes
  match s.mChecks c e hold j with
  | (some (code, detail), _) => (s, j.failed code detail)
  | (none, true) => (s, { j with rollWait := true })
  | (none, false) =>
    let k := s.core c
    let ((fa, _), (fb, _), (fc, _)) := k.mFmts j.banks d
    match rangeFault (d.areas fa fb fc) with
    | some a => (s, j.failed 0xF2 a)
    | none =>
      if d.reden && (k.redCtx d j.step).isNone then (s, j.failed 7 d.rch)
      else
        match s.mHeaders c d fa fb with
        | (s, some (0, detail)) => (s, j.failed 5 detail)
        | (s, some (code, detail)) => (s, j.failed code detail)
        | (s, none) =>
          let j := { j with rollWait := false }
          if fc.block then
            let k := s.core c
            let sc := k.seScales j.banks d.sct j.step
            let (tag, k) := k.takeTag j.banks d.sct (d.m * d.n / 32)
            (s.setCore c k, { j with scales := sc, tag := tag })
          else (s, j)

/-- Put a judged start-up job among the engine's jobs; a failed continuation, or a CHAIN fault, discards the held half (R205). -/
def Core.mPlace (k : Core) (e : Nat) (j : Job) : Core :=
  let x := k.eng e
  let x := if j.fault ≠ 0 ∧ (2 ≤ (mdesc j.desc.bytes).chain ∨ j.fault = 4) then x.discard else x
  k.setEng e { x with jobs := x.jobs ++ [j] }

/-- A start-up that has passed enters compute when no descriptor is in compute; a continuation whose half has gone ends with
CHAIN (R205, R214, R216). -/
def Core.mAdvance (k : Core) (e : Nat) : Core :=
  let x := k.eng e
  if x.jobs.any (fun j => j.stage == 1) then k
  else k.setEng e { x with jobs := x.jobs.map fun j =>
    if j.stage = 0 ∧ !j.rollWait then
      let d := mdesc j.desc.bytes
      let ok := match x.half with
        | some h => h.m == d.m && h.n == d.n
        | none => false
      if 2 ≤ d.chain ∧ !ok then j.failed 4 0 else { j with stage := 1 }
    else j }

/-- A matrix command: the head of the queue starts if its OP is `op` and the engine can take it (R214). -/
def State.mStart (s : State) (c e op : Nat) : State :=
  let x := (s.core c).eng e
  if !x.startFree e then s
  else
    match s.takeDesc c e with
    | none => s
    | some (d, s') =>
      let m := mdesc d.bytes
      let o := m.op
      if o ≠ op ∧ o ≠ 3 then s
      else
        let k := s'.core c
        let (s'', j) := s'.mStartup c e (k.eng e).hold (s'.startJob c d m.sct)
        s''.modCore c fun k => (k.mPlace e j).mAdvance e

/-- The jobs of an engine that wait for a roll are judged again (R237). -/
def State.mRollAgain (s : State) (c e : Nat) : State :=
  let x := (s.core c).eng e
  match x.jobs.find? (·.rollWait) with
  | none => s
  | some j =>
    let rest := x.jobs.filter fun i => i.desc.ticket ≠ j.desc.ticket
    let s := s.modCore c fun k => k.setEng e { x with jobs := rest }
    let (s, j) := s.mStartup c e ((s.core c).eng e).hold j
    s.modCore c fun k => (k.mPlace e j).mAdvance e

/-! ### Compute (R198-R200, R221) -/

/-- One k-step: the exact product added to the accumulator with one rounding (R199). -/
def macStep (acc : Word) (a b : Fv) : Word × FFlags :=
  let (p, f1) : Fv × FFlags :=
    match firstNan [a, b] with
    | some v => (v, sigFlag [a, b])
    | none =>
      match exMul a b with
      | .val v => (v, 0)
      | .flagged fl v => (v, fl)
      | .produced fl => (.nan false false 0 22, fl ||| flNP)
  let (code, f2) := finish fmt32 0 [f32 acc, p] (exAdd false (f32 acc) p)
  (BitVec.ofNat 32 code, f1 ||| f2)

/-- An element's accumulation from k-step `i` on: the accumulator, its flags, and the first k-step that produced a NaN. -/
def macElem (acc : Word) (as bs : List Fv) : Word × FFlags × Option Nat :=
  let r := (as.zip bs).foldl (fun (st : Word × FFlags × Option Nat × Nat) ab =>
    let (w, f) := macStep st.1 ab.1 ab.2
    (w, st.2.1 ||| f, if f &&& flNP ≠ 0 then st.2.2.1.or (some st.2.2.2) else st.2.2.1, st.2.2.2 + 1))
    (acc, 0, none, 0)
  (r.1, r.2.1, r.2.2.1)

/-- The columns of a list of rows. -/
def column (rows : List (List Fv)) (i : Nat) : List Fv := rows.map fun r => r.getD i Fv.zero

/-- The accumulators after a descriptor's compute, the flags, the element whose NaN comes first in the walk (R200), and how many
elements took part. -/
def MDesc.product (d : MDesc) (e : Nat) (bits : Nat) (start : List Word) (A B : List (List Fv)) :
    List Word × FFlags × Option (Nat × Nat) × Nat :=
  let arow := fun m => if d.ta then column A m else A.getD m []
  let bcol := fun n => if d.tb then B.getD n [] else column B n
  let rows := if e = 0 then 8 else 16
  let els := (List.range d.m).flatMap fun m => (List.range d.n).map fun n =>
    let acc := start.getD (m * d.n + n) 0x80000000#32
    if d.inc bits m n then
      let (w, f, p) := macElem acc (arow m) (bcol n)
      (w, f, p.map fun i => ((m / rows * (d.n / 8) + n / 8, i), (m, n)), true)
    else (acc, 0, none, false)
  let first := els.foldl (fun (best : Option ((Nat × Nat) × (Nat × Nat))) x =>
    match best, x.2.2.1 with
    | none, p => p
    | b, none => b
    | some b, some p => if p.1.1 < b.1.1 ∨ (p.1.1 = b.1.1 ∧ p.1.2 < b.1.2) then some p else some b) none
  (els.map (·.1), els.foldl (fun f x => f ||| x.2.1) 0, first.map (·.2), (els.filter (·.2.2.2)).length)

/-- Compute cycles T (R191, R221). -/
def MDesc.cycles (d : MDesc) (e bits : Nat) (fa fb : Fmt) : Nat :=
  let rows := if e = 0 then 8 else 16
  let subs := (List.range ((d.m + rows - 1) / rows)).flatMap fun i => (List.range (d.n / 8)).map fun j => (i, j)
  let live := subs.filter fun p => (List.range rows).any fun r =>
    decide (p.1 * rows + r < d.m) && (List.range 8).any fun q => d.inc bits (p.1 * rows + r) (8 * p.2 + q)
  let n := live.length * d.k
  if fa.rate = 2 ∨ fb.rate = 2 then 2 * n else if fa.rate = 0 ∨ fb.rate = 0 then n else n / 2

/-- Sticky flags of FE, GE and the Retriever (R179). -/
def Core.cflags (k : Core) (f : FFlags) : Core := k.orCsr 0x801 f.toNat

/-- Capture for a job of FE or GE (R183, R200, R206). -/
def Core.mCapture (k : Core) (e : Nat) (j : Job) (cause m n : Nat) : Core :=
  k.captureNan e cause j.desc.mb j.desc.addr j.desc.iaddr (mdesc j.desc.bytes).tag j.desc.ticket m n

/-- Place of the remainder of the MAC counter, which counts in units of 1,024 (R224). -/
def macRemKey (e : Nat) : Nat := 0x230000 + e

/-- The job in compute ends with a fault: nothing is written, the half is discarded (R220). -/
def Core.mComputeFault (k : Core) (e : Nat) (j : Job) (code detail : Nat) : Core :=
  let x := k.eng e
  k.setEng e { x with half := none,
                      jobs := x.jobs.map fun i => if i.desc.ticket = j.desc.ticket then j.failed code detail else i }

/-- The last k-step of the descriptor in compute: its accumulators are formed, and its half passes to drain or is held (R204, R215). -/
def State.mComputeEnd (s : State) (c e : Nat) : State :=
  let x := (s.core c).eng e
  match x.jobs.find? (·.stage == 1) with
  | none => s
  | some j =>
    let d := mdesc j.desc.bytes
    let holds := d.chain == 1 || d.chain == 2
    if !holds && x.jobs.any (fun i => i.stage == 2) then s
    else
      let ((fa, ta), (fb, tb), _) := (s.core c).mFmts j.banks d
      let mareas := if d.mask = 0 then [] else [(d.mkAt, d.maskBytes)]
      let (s, ue) := s.scanAreas c (mareas ++ operandAreas fa d.aAt d.shapeA.1 d.shapeA.2 ++
        operandAreas fb d.bAt d.shapeB.1 d.shapeB.2)
      let k := s.core c
      let bits := if d.mask = 0 then 0 else k.spadW d.mkAt d.maskBytes
      let s := s.bumpCsr c (0x402 + 256 * e) (d.cycles e bits fa fb)
      match ue with
      | some a => s.modCore c fun k => (k.mComputeFault e j 0xF1 a).mAdvance e
      | none =>
        let start := if 2 ≤ d.chain then (x.half.map (·.acc)).getD [] else []
        let (acc, fl, nan, cnt) := d.product e bits start
          (k.operandRows fa ta d.aAt d.shapeA.1 d.shapeA.2) (k.operandRows fb tb d.bAt d.shapeB.1 d.shapeB.2)
        let total := (k.t (macRemKey e)).toNat + cnt * d.k
        let s := (s.modCore c fun k => k.setT (macRemKey e) (BitVec.ofNat 32 (total % 1024))).bumpCsr c
          (0x404 + 256 * e) (total / 1024)
        s.modCore c fun k =>
          let k := k.cflags fl
          let k := match nan with
            | some (m, n) => k.mCapture e j 1 m n
            | none => k
          let x := k.eng e
          let half := if holds && !j.drop then some { m := d.m, n := d.n, acc := acc } else none
          let j' := { j with acc := if holds then [] else acc, stage := if holds then 3 else 2, drop := false }
          let k := k.setEng e { x with half := half,
                                       jobs := x.jobs.map fun i => if i.desc.ticket = j.desc.ticket then j' else i }
          k.mAdvance e

/-! ### The output path (R206-R210) -/

/-- An accumulator through rescale, bias and clip: y, its flags, and whether rescale or bias produced a NaN. -/
def Core.outPath (k : Core) (banks : Nat) (d : MDesc) (n : Nat) (acc : Word) : Word × FFlags × Bool :=
  let a := f32 acc
  let r := f32 (k.bt banks (2 + d.rtab) (0x2000 + 512 * d.rtab + n))
  let b := f32 (BitVec.ofNat 32 (k.spadW (d.biAt + 4 * n) 4))
  let (y, f1) : Nat × FFlags :=
    if d.rsen && d.ben then fFma fmt32 0 a r b
    else if d.rsen then fMul fmt32 0 a r
    else if d.ben then fAdd fmt32 0 a b
    else (acc.toNat, 0)
  let (y, f2) : Nat × FFlags :=
    if d.cen then
      let (y1, g1) := fMinMax fmt32 true (decodeFloat fmt32 y) (decodeFloat fmtBf16 d.clo)
      let (y2, g2) := fMinMax fmt32 false (decodeFloat fmt32 y1) (decodeFloat fmtBf16 d.chi)
      (y2, g1 ||| g2)
    else (y, 0)
  (BitVec.ofNat 32 y, f1 ||| f2, f1 &&& flNP ≠ 0)

/-- The values of one run of an output row, with flags and captures accounted for. -/
def State.outRun (s : State) (c e : Nat) (j : Job) (m n0 cnt : Nat) : State × List Word :=
  let d := mdesc j.desc.bytes
  let k := s.core c
  let ys := (List.range cnt).map fun i => k.outPath j.banks d (n0 + i) (j.acc.getD (m * d.n + n0 + i) 0)
  let s := s.modCore c fun k =>
    let k := k.cflags (ys.foldl (fun f y => f ||| y.2.1) 0)
    match (List.range cnt).find? fun i => (ys.map (·.2.2)).getD i false with
    | some i => k.mCapture e j 1 m (n0 + i)
    | none => k
  (s, ys.map (·.1))

/-- Convert and write one run of an output row; the word an uncorrectable error keeps unwritten ends the drain (R110, R206-R209).
DESIGN CHOICE (log entry 95): of one run, the rescale and bias NaNs (CAUSE 1) are captured before the conversion's (CAUSE 2). -/
def State.drainRun (s : State) (c e : Nat) (j : Job) (m n0 : Nat) : State × Option Nat :=
  let d := mdesc j.desc.bytes
  let (_, _, (f, tbl)) := (s.core c).mFmts j.banks d
  let cnt := min 32 (d.n - n0)
  let (s, ys) := s.outRun c e j m n0 cnt
  let x := (s.core c).jobSe j d.sct
  let scale := if f.block then j.scales.getD (x.slot d.n m n0) 127 else 127
  let mode := if d.op ≠ 0 then 5 else d.ocv / 256 % 8
  let rnd := fun i => rand d.seed (s.randAddr c) j.step (BitVec.ofNat 32 d.tag) (BitVec.ofNat 32 (m * 65536 + n0 + i))
  let blk := convBlock f tbl mode (d.ocv.testBit 11) scale
    ((List.range cnt).map fun i => some (f32 (ys.getD i 0), rnd i))
  let s := s.modCore c fun k =>
    let k := k.cflags (blk.fls.foldl (fun f y => f ||| y) 0)
    match (List.range cnt).find? fun i => (blk.fls.getD i 0) &&& flNP ≠ 0 with
    | some i => k.mCapture e j 2 m (n0 + i)
    | none => k
  let s := if f.block then s.blockUse c j d.sct d.n m n0 f tbl (ys.map some) blk else s
  let pitch := rowPitch f.width d.n
  let data := if f.block then d.cAt + 32 else d.cAt
  let bytes := leBytes (f.width * cnt / 8) (packCodes f.width (blk.codes.map (·.getD 0)))
  let writes := [(data + m * pitch + n0 * f.width / 8, bytes)] ++
    (if f.block then [(data + d.m * pitch + 32 + (m * d.n + n0) / 32, [BitVec.ofNat 8 blk.scale])] else [])
  s.writeAll c writes

/-- Drain one row: the bias is read first, then each run the mask includes (R209, R220). -/
def State.drainRow (s : State) (c e : Nat) (j : Job) (bits m : Nat) : State × Option Nat :=
  let d := mdesc j.desc.bytes
  let runs := ((List.range ((d.n + 31) / 32)).map (32 * ·)).filter fun n0 => d.inc bits m n0
  if runs.isEmpty then (s, none)
  else
    let (s, ue) := if d.ben then s.spadScan c d.biAt (4 * d.n) 0xF1 2 else (s, none)
    match ue with
    | some a => (s, some a)
    | none => runs.foldl (fun (acc : State × Option Nat) n0 =>
        match acc.2 with
        | some a => (acc.1, some a)
        | none => acc.1.drainRun c e j m n0) (s, none)

/-- The whole drain into the scratchpad: the rows in order, then both headers (R208, R209). -/
def State.drain (s : State) (c e : Nat) (j : Job) : State × Option Nat :=
  let d := mdesc j.desc.bytes
  let k := s.core c
  let (_, _, (f, _)) := k.mFmts j.banks d
  let bits := if d.mask = 0 then 0 else k.spadW d.mkAt d.maskBytes
  let pitch := rowPitch f.width d.n
  let nb := d.m * d.n / 32
  let heads := if f.block then
      [(d.cAt, headerBytes j.tag (d.ocv % 256) nb), (d.cAt + 32 + d.m * pitch, headerBytes j.tag 14 nb)] else []
  let r := (List.range d.m).foldl (fun (acc : State × Option Nat) m =>
    match acc.2 with
    | some a => (acc.1, some a)
    | none => acc.1.drainRow c e j bits m) (s, none)
  match r.2 with
  | some a => (r.1, some a)
  | none => r.1.writeAll c heads

/-! ### Hand-off (R211-R213, R385) -/

/-- The blocks a hand-off sends, in order: row, first column, block index (R211). -/
def MDesc.blocksOf (d : MDesc) (bits : Nat) : List (Nat × Nat × Nat) :=
  (List.range d.m).flatMap fun m => (List.range (d.n / 32)).filterMap fun b =>
    if d.inc bits m (32 * b) then some (m, 32 * b, (m * d.n + 32 * b) / 32) else none

/-- Whether the core's other matrix engine has begun a hand-off to the same channel (R212). -/
def Core.otherHandoff (k : Core) (e rch : Nat) : Bool :=
  (k.eng (1 - e)).jobs.any fun j =>
    let d := mdesc j.desc.bytes
    j.stage == 2 && d.reden && d.rch == rch && j.begun

/-- The drain of a hand-off begins, unless the other engine's has begun on the same channel: it then waits for that one's end (R212). -/
def Core.beginHandoff (k : Core) (e : Nat) : Core :=
  match (k.eng e).jobs.find? (·.stage == 2) with
  | none => k
  | some j =>
    let d := mdesc j.desc.bytes
    if !d.reden || k.otherHandoff e d.rch then k else k.modJob e j.desc.ticket fun j => { j with begun := true }

/-- Set a context's sticky flags. -/
def Core.ctxFlags (k : Core) (i : Nat) (nf rg : Bool) : Core :=
  { k with ctxs := k.ctxs.upd none0 i (·.map fun x => { x with nf := x.nf || nf, rg := x.rg || rg }) }

/-- The records of up to 16 further blocks, stopping at an exponent entry whose tag is wrong (R385) or a bias that cannot be read. -/
def State.packBlocks (s : State) (c e : Nat) (j : Job) (x : RdCtx) :
    List (Nat × Nat × Nat) → State × List RedRec × Option (Nat × Nat)
  | [] => (s, [], none)
  | (m, n0, i) :: t =>
    let d := mdesc j.desc.bytes
    let (s, ue) := if d.ben then s.spadScan c d.biAt (4 * d.n) 0xF1 2 else (s, none)
    match ue with
    | some a => (s, [], some (0xF1, a))
    | none =>
      let jj := x.cbase + (d.tag + 65536 - x.tag0) % 65536 * x.tblk + i
      let (s, ent, ue2) := s.spadRead c (32 * x.eln + 2 * (jj - x.ebase)) 2 0xF1 2
      match ue2 with
      | some a => (s, [], some (0xF1, a))
      | none =>
        let want := (x.step + jj) % 256
        if byteAt ent 1 ≠ want then (s, [], some (5, 2 + 16 + want * 256 + byteAt ent 1 * 65536))
        else
          let (s, ys) := s.outRun c e j m n0 32
          let (r, nsat) := fixedRec (BitVec.ofNat 32 x.seed) (s.randAddr c) (BitVec.ofNat 32 x.step) (BitVec.ofNat 32 x.ch)
            jj (byteAt ent 0) want ys
          let s := if nsat = 0 then s else s.bump 0x90118 nsat
          let (s, rs, err) := State.packBlocks s c e j x t
          (s, r :: rs, err)

/-- Send one packet of a hand-off, if the interface has room; `false` when nothing more can be sent now. -/
def State.handoffPacket (s : State) (c e : Nat) : State × Bool :=
  let s := s.modCore c fun k => k.beginHandoff e
  let k := s.core c
  match (k.eng e).jobs.find? (·.stage == 2) with
  | none => (s, false)
  | some j =>
    let d := mdesc j.desc.bytes
    if !d.reden || j.fault != 0 || !j.begun then (s, false)
    else
      match k.redCtx d j.step with
      | none => (s, false)
      | some (i, x) =>
        let bits := if d.mask = 0 then 0 else k.spadW d.mkAt d.maskBytes
        let left := (d.blocksOf bits).drop j.blocks
        if left.isEmpty || decide (8 ≤ s.redPending c x.ch) then (s, false)
        else
          let (s, recs, err) := s.packBlocks c e j x (left.take 16)
          let nf := x.nf || recs.any (·.nf)
          let rg := x.rg || recs.any (·.rg)
          let s := if recs.isEmpty then s
            else (s.send (.red { part := s.corePart c, ch := x.ch, step := x.step, attempt := x.attempt, src := 0,
                                 core := c, nf := nf, rg := rg, ck := (recs.map (·.sum)).sum % 2 ^ 64,
                                 stale := x.stale, recs := recs })).bumpCsr c 0x2C4 recs.length
          let s := s.modCore c fun k =>
            let k := k.modJob e j.desc.ticket fun j =>
              { j with blocks := j.blocks + recs.length,
                       fault := (err.map (·.1)).getD 0, detail := (err.map (·.2)).getD 0 }
            let late := err.isSome && (decide (0 < j.blocks + recs.length) || (err.map (·.1)) == some 5)
            k.ctxFlags i (nf || late) rg
          (s, err.isNone)

/-- Send packets while the interface accepts them. -/
def State.handoff (s : State) (c e : Nat) : Nat → State
  | 0 => s
  | n + 1 =>
    match s.handoffPacket c e with
    | (s, true) => State.handoff s c e n
    | (s, false) => s

/-- Whether a hand-off has nothing left to send. -/
def Core.handoffDone (k : Core) (j : Job) : Bool :=
  let d := mdesc j.desc.bytes
  let bits := if d.mask = 0 then 0 else k.spadW d.mkAt d.maskBytes
  j.fault != 0 || decide ((d.blocksOf bits).length ≤ j.blocks)

/-! ### Completion (R215, R216) -/

/-- A continuation that ends with SEM_OVF discards the half it left held, unless a later descriptor has drained it or holds another
(R205). DESIGN CHOICE (log entry 96): a continuation already in compute goes on with the sums it took, and an EXTEND then leaves no half. -/
def Core.dropHalf (k : Core) (e : Nat) (j : Job) (fault : Nat) : Core :=
  let x := k.eng e
  let same := x.jobs.all fun i =>
    decide (i.fault ≠ 0) || i.stage == 0 || (decide (2 ≤ (mdesc i.desc.bytes).chain) && i.stage != 2)
  if fault ≠ 0 ∧ (mdesc j.desc.bytes).chain = 2 ∧ same then k.setEng e x.discard else k

/-- A hand-off that ends with a fault after its first block was sent sets NF on its context (R213). -/
def Core.faultContext (k : Core) (j : Job) (fault : Nat) : Core :=
  match k.redCtx (mdesc j.desc.bytes) j.step with
  | some (i, _) => if fault ≠ 0 ∧ 0 < j.blocks then k.ctxFlags i true false else k
  | none => k

/-- The oldest job of a matrix engine ends, and the consequences of a SEM_OVF found at its signal follow (R205, R213). -/
def State.mEnd (s : State) (c e : Nat) (j : Job) (fault detail : Nat) : State :=
  let last := (s.core c).endFault j fault
  let reden := (mdesc j.desc.bytes).reden
  (s.endDesc c e j fault detail).modCore c fun k =>
    let k := if fault = 0 then k.dropHalf e j last else k
    if reden then k.faultContext j last else k

/-- The oldest descriptor past the queue completes, if it has got that far. -/
def State.mComplete (s : State) (c e : Nat) : State :=
  let k := s.core c
  let x := k.eng e
  if x.heldRec.isSome then s
  else
    match x.jobs with
    | [] => s
    | j :: _ =>
      let d := mdesc j.desc.bytes
      if j.stage = 3 then s.mEnd c e j j.fault j.detail
      else if j.stage = 2 then
        if d.reden then
          let s := s.handoff c e 9
          match ((s.core c).eng e).jobs with
          | j :: _ =>
            if (s.core c).handoffDone j then s.mEnd c e j j.fault j.detail else s
          | [] => s
        else
          match s.drain c e j with
          | (s, some a) => s.mEnd c e j 0xF1 a
          | (s, none) =>
            let (_, _, (f, _)) := (s.core c).mFmts j.banks d
            let s := if f.block then s.saturationEvent c j.banks d.sct j.step else s
            s.mEnd c e j 0 0
      else s

/-! ### The commands -/

def engOf (ge : Bool) : Nat := if ge then 1 else 0

/-- FWD (R202, R214): the head of the queue starts. -/
def execFwd (core : Nat) (ge : Bool) (s : State) : Host.Outcome State Fault Refusal := .next (s.mStart core (engOf ge) 0)

/-- DGRAD (R202, R214). -/
def execDgrad (core : Nat) (ge : Bool) (s : State) : Host.Outcome State Fault Refusal := .next (s.mStart core (engOf ge) 1)

/-- WGRAD (R202, R214). -/
def execWgrad (core : Nat) (ge : Bool) (s : State) : Host.Outcome State Fault Refusal := .next (s.mStart core (engOf ge) 2)

/-- MATRIX_COMPUTE_END (R204, R215); a hand-off begins at once where credit allows (R211). -/
def execMatrixComputeEnd (core : Nat) (ge : Bool) (s : State) : Host.Outcome State Fault Refusal :=
  .next ((s.mComputeEnd core (engOf ge)).handoff core (engOf ge) 9)

/-- MATRIX_DESCRIPTOR_COMPLETE (R215, R216). -/
def execMatrixDescriptorComplete (core : Nat) (ge : Bool) (s : State) : Host.Outcome State Fault Refusal :=
  .next (s.mComplete core (engOf ge))

/-- HANDOFF_CREDIT (R385): a drain that waited for reduction credit goes on. -/
def execHandoffCredit (core : Nat) (ge : Bool) (s : State) : Host.Outcome State Fault Refusal :=
  .next (s.handoff core (engOf ge) 9)

/-- A write of 1 to HOLDREL discards a held half while no descriptor computes (R205). -/
def State.holdrel (s : State) (c e : Nat) : State :=
  s.modCore c fun k =>
    let x := k.eng e
    if x.jobs.any (fun j => j.stage == 1) then k else k.setEng e { x with half := none }

/-- HOLDREL (R205). -/
def execHoldrel (core : Nat) (ge : Bool) (s : State) : Host.Outcome State Fault Refusal :=
  .next (if isCore core then s.holdrel core (engOf ge) else s)

end Sys2Proof.Machine
end

