-- ==== Sys2Proof/Machine/Retriever.lean ====
section
/-!
DEFINITION. The Retriever, engine 3: gathers, scatters, segment reductions, hash tables and sorted sets, and the service of
remote requests by a message unit (spec/03 R143-R150, R110, R130, R140).
-/

namespace Sys2Proof.Machine

/-- The fields of a Retriever descriptor (R143). -/
structure RvDesc where
  op : Nat
  space : Nat
  e : Nat
  dtype : Nat
  skip : Bool
  count : Nat
  idx : Nat
  data : Nat
  base : Nat
  stride : Nat
  aux : Nat

def rvDesc (b : List Byte) : RvDesc :=
  let x := byteAt b 3
  { op := byteAt b 2 % 16, space := byteAt b 2 / 16 % 4, e := 4 * 2 ^ (x % 8), dtype := x / 8 % 4, skip := x.testBit 5,
    count := leAt b 4 3, idx := leAt b 8 4, data := leAt b 12 4, base := leAt b 16 8, stride := leAt b 24 4,
    aux := leAt b 28 4 }

/-- The bits of each byte that must be 0 (R143, R144). -/
def rvZero (d : RvDesc) (i : Nat) : Nat :=
  if i = 0 ∨ i = 1 then 0x80
  else if i = 2 ∨ i = 3 then 0xC0
  else if i = 7 then 0xFF
  else if 20 ≤ i ∧ i < 24 ∧ d.space = 0 then 0xFF
  else if 22 ≤ i ∧ i < 24 ∧ d.space = 2 then 0xFF
  else if d.op = 3 ∧ 28 ≤ i then (if i = 28 then 0xFC else 0xFF)
  else if (d.op = 4 ∨ d.op = 5) ∧ 28 ≤ i then (if i = 28 then 0xE0 else if i = 29 then 0 else 0xFF)
  else if (d.op = 6 ∨ d.op = 7) ∧ i = 31 then 0xFF
  else 0

/-- The check of a descriptor: ZERO, BAD_OP, PARAM; the order is the model's (R150, log entry 15). -/
def rvCheck (b : List Byte) : Nat :=
  let d := rvDesc b
  if (firstNonzero (rvZero d) b).isSome then 5
  else if 8 ≤ d.op ∨ d.space = 3 ∨ d.dtype = 3 ∨ (4 ≤ d.op ∧ d.space ≠ 0) ∨ (d.op = 3 ∧ d.aux = 3) then 1
  else if d.dtype = 2 ∧ d.e = 4 then 4
  else if d.op < 4 then if d.stride % 4 ≠ 0 then 4 else 0
  else if d.op < 6 ∧ (d.aux % 32 = 0 ∨ 14 < d.aux % 32) then 4
  else 0

/-! ### Arithmetic of lanes (R147) -/

def laneSize (dtype : Nat) : Nat := if dtype = 2 then 8 else 4

/-- The sum, maximum or minimum of two lanes, and its flags. -/
def laneOp2 (dtype fn a b : Nat) : Nat × FFlags :=
  let w := 8 * laneSize dtype
  if dtype = 0 then
    let x := f32 (BitVec.ofNat 32 a)
    let y := f32 (BitVec.ofNat 32 b)
    if fn = 0 then fAdd fmt32 0 x y else fMinMax fmt32 (fn == 1) x y
  else if fn = 0 then ((a + b) % 2 ^ w, 0)
  else
    let x := sfld a 0 w
    let y := sfld b 0 w
    (if fn = 1 then (if x < y then b else a) else (if y < x then b else a), 0)

/-- What an empty segment yields (R147). -/
def laneUnit (dtype fn : Nat) : Nat :=
  let w := 8 * laneSize dtype
  if fn = 0 then 0
  else if dtype = 0 then (if fn = 1 then 0xFF800000 else 0x7F800000)
  else if fn = 1 then 2 ^ (w - 1) else 2 ^ (w - 1) - 1

/-- Two rows combined lane by lane, and the flags raised. -/
def lanesOp (dtype fn : Nat) (a b : List Byte) : List Byte × FFlags :=
  let n := laneSize dtype
  let rs := (List.range (a.length / n)).map fun i => laneOp2 dtype fn (leAt a (n * i) n) (leAt b (n * i) n)
  (rs.flatMap fun r => leBytes n r.1, rs.foldl (fun f r => f ||| r.2) 0)

/-- A row of lanes of one value. -/
def laneRow (dtype e v : Nat) : List Byte := (List.range (e / laneSize dtype)).flatMap fun _ => leBytes (laneSize dtype) v

/-- What a reduction of at least one row starts from: the sum from 0, in fp32 −0 (R171), a maximum or minimum from what an empty segment
yields, which no lane changes. -/
def laneStart (dtype fn : Nat) : Nat := if fn = 0 ∧ dtype = 0 then 0x80000000 else laneUnit dtype fn

/-- A segment's rows, in ascending order (R147, R171). -/
def segReduce (dtype fn e : Nat) (rows : List (List Byte)) : List Byte × FFlags :=
  if rows.isEmpty then (laneRow dtype e (laneUnit dtype fn), 0)
  else rows.foldl (fun acc x => let y := lanesOp dtype fn acc.1 x; (y.1, acc.2 ||| y.2)) (laneRow dtype e (laneStart dtype fn), 0)

/-! ### A run, step by step; a run with a fault does nothing more -/

structure RvRun where
  s : State
  j : Job

def RvRun.bad (x : RvRun) : Bool := x.j.fault != 0
def RvRun.fail (x : RvRun) (code det : Nat) : RvRun := if x.bad then x else { x with j := x.j.failed code det }

/-- Read local scratchpad, its address checked (R145). -/
def RvRun.rd (x : RvRun) (c a n : Nat) : RvRun × List Byte :=
  if x.bad then (x, [])
  else if !inSpad a n then (x.fail 0xF2 (max a spadSize), [])
  else
    match x.s.spadRead c a n 0xF1 2 with
    | (s, d, none) => ({ x with s := s }, d)
    | (s, _, some w) => ({ x with s := s }.fail 0xF1 w, [])

def RvRun.rdW (x : RvRun) (c a : Nat) : RvRun × Nat := let (x, d) := x.rd c a 4; (x, leNat d)

/-- Write local scratchpad, line by line (R108, R110). -/
def RvRun.wr (x : RvRun) (c a : Nat) (d : List Byte) : RvRun :=
  if x.bad then x
  else if !inSpad a d.length then x.fail 0xF2 (max a spadSize)
  else
    match x.s.engWrite c a d with
    | (s, none) => { x with s := s }
    | (s, some w) => { x with s := s }.fail 0xF1 w

/-- Device memory of this device, position i of the transfer (R118, R145); each access is a request (R151). -/
def RvRun.mem (x : RvRun) (c i a : Nat) (n : Nat) (d : Option (List Byte)) : RvRun × List Byte :=
  if x.bad then (x, [])
  else
    let p := x.s.corePart c
    let s := (x.s.bumpCsr c 0x302 1).memRoute (coreDie c) p a n
    let (s, r) := match d with
      | none => s.memRd p a n .ordinary 4 (some (s.taker c))
      | some d => s.memWr p a d .ordinary 4 true
    match r with
    | .ok d => ({ x with s := s }, d)
    | .fault _ => ({ x with s := s }.fail 0xF3 i, [])
    | .ue _ => ({ x with s := s }.fail 0xF3 i, [])

/-- List a request to a remote core's scratchpad (R146). -/
def RvRun.ask (x : RvRun) (c pos core addr op n : Nat) (d : List Byte) (land : Nat) : RvRun :=
  if x.bad then x
  else if (x.s.toCore (x.s.corePart c) core).isNone ∨ !x.s.isOwn (addrDev core) then x.fail 0xF4 core
  else if !inSpad addr n then x.fail 0xF2 (max addr spadSize)
  else
    let r : Rq := { part := x.s.corePart c, src := x.s.relAddr c, eng := 3, ticket := x.j.desc.ticket, pos := pos,
                    dst := core, space := 0, op := op, addr := addr, len := n, data := d, land := land }
    { x with j := { x.j with todo := x.j.todo ++ [r] } }

/-- fp32 arithmetic of the Retriever itself: its flags, and the capture of a NaN it produced at element i (R179, R183). -/
def RvRun.arith (x : RvRun) (c i : Nat) (f : FFlags) : RvRun :=
  if x.bad then x
  else
    let d := x.j.desc
    { x with s := x.s.modCore c fun k =>
        let k := k.orCsr 0x801 f.toNat
        if f &&& flNP = 0 then k else k.captureNan 3 1 d.mb d.addr d.iaddr 0 d.ticket (i / 65536) i }

/-- The address of row j. -/
def RvDesc.row (d : RvDesc) (j : Nat) : Nat := (if d.space = 1 then d.base / 2 ^ 32 else d.base) + j * d.stride
def RvDesc.rcore (d : RvDesc) : Nat := d.base % 2 ^ 32
def RvDesc.addOp (d : RvDesc) : Nat := 2 + d.dtype

/-- One index of a GATHER, SCATTER or SCATTER_ADD (R144, R145). -/
def RvRun.index (x : RvRun) (c : Nat) (d : RvDesc) (i : Nat) : RvRun :=
  if x.bad then x
  else
    let (x, j) := x.rdW c (d.idx + 4 * i)
    let at' := d.data + i * d.e
    if x.bad then x
    else if d.aux ≠ 0 ∧ d.aux ≤ j then
      if !d.skip then x.fail 2 i
      else if d.op = 0 then x.wr c at' (List.replicate d.e 0) else x
    else
      let row := d.row j
      if d.op = 0 then
        match d.space with
        | 0 => let (x, v) := x.rd c row d.e; x.wr c at' v
        | 1 => if inSpad at' d.e then x.ask c i d.rcore row 0 d.e [] at' else x.fail 0xF2 (max at' spadSize)
        | _ =>
          if inSpad at' d.e then let (x, v) := x.mem c i row d.e none; x.wr c at' v
          else x.fail 0xF2 (max at' spadSize)
      else
        let (x, v) := x.rd c at' d.e
        match d.space with
        | 0 =>
          if d.op = 1 then x.wr c row v
          else
            let (x, old) := x.rd c row d.e
            let r := lanesOp d.dtype 0 old v
            (x.arith c i r.2).wr c row r.1
        | 1 => x.ask c i d.rcore row (if d.op = 1 then 1 else d.addOp) d.e v 0
        | _ =>
          if d.op = 1 then (x.mem c i row d.e (some v)).1
          else
            let (x, old) := x.mem c i row d.e none
            let r := lanesOp d.dtype 0 old v
            ((x.arith c i r.2).mem c i row d.e (some r.1)).1

/-- One row of a segment; rows of a remote core are asked for under consecutive positions. -/
def RvRun.segRow (x : RvRun) (c : Nat) (d : RvDesc) (j : Nat) : RvRun × List Byte :=
  match d.space with
  | 0 => x.rd c (d.row j) d.e
  | 1 => (x.ask c j d.rcore (d.row j) 0 d.e [] 0, [])
  | _ => x.mem c j (d.row j) d.e none

/-- One segment of a SEG_REDUCE (R144, R147). With remote rows the sum is formed when they have arrived. -/
def RvRun.segment (x : RvRun) (c : Nat) (d : RvDesc) (i : Nat) : RvRun :=
  if x.bad then x
  else
    let (x, lo) := x.rdW c (d.idx + 4 * i)
    let (x, hi) := x.rdW c (d.idx + 4 * (i + 1))
    if x.bad then x
    else if hi < lo then x.fail 3 (i + 1)
    else
      -- rows past the scratchpad's end are never reached, so that a stretch of them need not be listed
      let n := if d.space = 0 ∧ d.stride ≠ 0 then min (hi - lo) (spadSize + 1) else hi - lo
      let (x, rows) := (List.range n).foldl (fun (acc : RvRun × List (List Byte)) r =>
        if acc.1.bad then acc
        else let (x, v) := acc.1.segRow c d (lo + r); (x, acc.2 ++ [v])) (x, [])
      let r := segReduce d.dtype d.aux d.e rows
      if d.space = 1 then x else (x.arith c i r.2).wr c (d.data + i * d.e) r.1

/-- The segments of a SEG_REDUCE whose remote rows have all arrived; a segment of which a row is missing was not asked for, since a fault
came first, and ends the work (R145). -/
def RvRun.segFinish (x : RvRun) (c : Nat) (d : RvDesc) : RvRun :=
  ((List.range d.count).foldl (fun (acc : RvRun × Bool) i =>
    if acc.1.bad || acc.2 then acc
    else
      let (x, lo) := acc.1.rdW c (d.idx + 4 * i)
      let (x, hi) := x.rdW c (d.idx + 4 * (i + 1))
      let found := (List.range (hi - lo)).map fun r => (x.j.got.find? fun q => q.1 == lo + r).map (·.2)
      if hi < lo ∨ found.any Option.isNone then (x, true)
      else
        let r := segReduce d.dtype d.aux d.e (found.map (·.getD []))
        ((x.arith c i r.2).wr c (d.data + i * d.e) r.1, false)) (x, false)).1

/-! ### Hash tables (R148) -/

def hashOf (k tbits : Nat) : Nat := ((k * 0x9E3779B1) % 2 ^ 32) >>> (32 - tbits)

/-- Seek key k from slot h: the slot where it was found, or the empty slot met, or neither. -/
def RvRun.seek (c base tbits k h : Nat) : Nat → Nat → RvRun → RvRun × Option (Nat × Bool)
  | 0, _, x => (x, none)
  | fuel + 1, j, x =>
    let slot := (h + j) % 2 ^ tbits
    let (x, key) := x.rdW c (base + 8 * slot)
    if x.bad then (x, none)
    else if key = 0xFFFFFFFF then (x, some (slot, false))
    else if key = k then (x, some (slot, true))
    else RvRun.seek c base tbits k h fuel (j + 1) x

/-- One key of a HASH_PROBE or HASH_INSERT; counts the keys not found and the inserts that failed. -/
def RvRun.hash (x : RvRun) (c : Nat) (d : RvDesc) (miss i : Nat) : RvRun × Nat :=
  if x.bad then (x, miss)
  else
    let tb := d.aux % 32
    let mp := d.aux / 256 % 256
    let lim := if mp = 0 then 2 ^ tb else min mp (2 ^ tb)
    let out := d.data + 4 * i
    let none' := fun (x : RvRun) => (x.wr c out (leBytes 4 0xFFFFFFFF), miss + 1)
    let (x, k) := x.rdW c (d.idx + (if d.op = 4 then 4 else 8) * i)
    if x.bad then (x, miss)
    else if k = 0xFFFFFFFF then none' x
    else
      let (x, hit) := x.seek c d.base tb k (hashOf k tb) lim 0
      if x.bad then (x, miss)
      else match hit, d.op with
        | some (slot, true), 4 => let (x, v) := x.rdW c (d.base + 8 * slot + 4); (x.wr c out (leBytes 4 v), miss)
        | some (slot, true), _ => (x.wr c out (leBytes 4 slot), miss)
        | some (slot, false), 5 =>
          let (x, v) := x.rd c (d.idx + 8 * i + 4) 4
          ((x.wr c (d.base + 8 * slot) (leBytes 4 k ++ v)).wr c out (leBytes 4 slot), miss)
        | _, _ => none' x

/-! ### Sorted sets (R149) -/

/-- A list of `n` entries, and the position of its first violation of strict order: the index of the entry that does not exceed the one
before it (DESIGN CHOICE, log entry 89: R150 says Position and not which of the two entries it is; the same holds of offsets). -/
def RvRun.setList (x : RvRun) (c a n : Nat) : RvRun × List Nat × Option Nat :=
  let (x, b) := if n = 0 then (x, []) else x.rd c a (4 * n)
  let l := (List.range (b.length / 4)).map fun i => leAt b (4 * i) 4
  (x, l, ((List.range (l.length - 1)).find? fun i => decide (l.getD (i + 1) 0 ≤ l.getD i 0)).map (· + 1))

/-- The merge of two ascending lists: both of them, or what they share. -/
def mergeSets (union : Bool) : Nat → List Nat → List Nat → List Nat
  | 0, _, _ => []
  | _ + 1, [], b => if union then b else []
  | _ + 1, a, [] => if union then a else []
  | fuel + 1, a :: ta, b :: tb =>
    if a = b then a :: mergeSets union fuel ta tb
    else if a < b then
      let r := mergeSets union fuel ta (b :: tb)
      if union then a :: r else r
    else
      let r := mergeSets union fuel (a :: ta) tb
      if union then b :: r else r

/-- Bytes a free value fills. -/
def freeBytes : Nat → State → State × List Byte
  | 0, s => (s, [])
  | n + 1, s =>
    let (w, s) := s.freeVal
    let (s, t) := freeBytes n s
    (s, leBytes 4 w.toNat ++ t)

def rangesMeet (a n b m : Nat) : Bool := decide (0 < n) && decide (0 < m) && decide (a < b + m) && decide (b < a + n)

/-- SET_ISECT and SET_UNION; an output area that overlaps an input gets free values (R149). -/
def RvRun.sets (x : RvRun) (c : Nat) (d : RvDesc) : RvRun × Nat :=
  let nb := d.aux % 2 ^ 24
  let (x, la, va) := x.setList c d.idx d.count
  let (x, lb, vb) := x.setList c d.base nb
  if x.bad then (x, 0)
  else match va, vb with
    | some p, _ => (x.fail 3 p, 0)
    | none, some p => (x.fail 3 (p + 2 ^ 31), 0)
    | none, none =>
      let out := mergeSets (d.op == 7) (la.length + lb.length) la lb
      let n := out.length
      let meet := rangesMeet d.data (4 * n) d.idx (4 * la.length) || rangesMeet d.data (4 * n) d.base (4 * lb.length)
      let (s, bytes) := if meet then freeBytes n x.s else (x.s, out.flatMap (leBytes 4))
      let x := { x with s := s }
      (if n = 0 then x else x.wr c d.data bytes, n)

/-! ### The commands -/

/-- Run a checked descriptor. -/
def RvRun.go (x : RvRun) (c : Nat) (d : RvDesc) : RvRun :=
  if d.op < 3 then
    let n := min d.count (spadSize + 1)
    (List.range n).foldl (fun x i => x.index c d i) x
  else if d.op = 3 then (List.range (min d.count (spadSize + 1))).foldl (fun x i => x.segment c d i) x
  else if d.op < 6 then
    let (x, miss) := (List.range (min d.count (spadSize + 1))).foldl
      (fun (acc : RvRun × Nat) i => acc.1.hash c d acc.2 i) (x, 0)
    x.wr c d.stride (leBytes 4 miss)
  else
    let (x, n) := x.sets c d
    x.wr c d.stride (leBytes 4 n)

/-- A fault met after remote requests: they are made all the same, and the descriptor ends with the fault once they are answered (R145:
nothing from the failing index onward is done). -/
def RvRun.defer (x : RvRun) : RvRun :=
  if x.bad && !x.j.todo.isEmpty then
    { x with j := { x.j with fault := 0, detail := 0, stage := 1, ending := some (x.j.fault, x.j.detail) } }
  else x

/-- What is left to do once nothing is outstanding: remote segments are reduced, and a deferred fault ends the descriptor. -/
def RvRun.close (x : RvRun) (c : Nat) (d : RvDesc) : RvRun :=
  let x := if d.op = 3 ∧ d.space = 1 ∧ !x.bad then x.segFinish c d else x
  match x.j.ending with
  | some (code, det) => x.fail code det
  | none => x

/-- The head of the Retriever's queue starts, if its OP is the one the command names; a reserved OP is taken by any (log entry 8). -/
def State.rvStart (s : State) (c op : Nat) : State :=
  let x := (s.core c).eng 3
  let hop := match x.queue with
    | d :: _ => (rvDesc d.bytes).op
    | [] => 16
  if !x.jobs.isEmpty || (hop != op && !(decide (8 ≤ hop) && decide (hop < 16))) then s
  else
    match s.takeDesc c 3 with
    | none => s
    | some (d, s) =>
      let j := { Job.fresh d (s.stepNo (s.corePart c)) 0 with stage := 1 }
      let code := rvCheck d.bytes
      let put : State → Job → State := fun s j => s.modCore c fun k => k.setJob 3 j
      if code ≠ 0 then put s (j.failed code 0)
      else
        let x := (RvRun.go ⟨s, j⟩ c (rvDesc d.bytes)).defer
        let x := if x.j.todo.isEmpty then x.close c (rvDesc d.bytes) else x
        if x.bad || x.j.todo.isEmpty then put x.s { x.j with stage := 3, todo := [] }
        else (put x.s x.j).issueReqs c 3 (max 1 ((x.s.core c).cf 0x300 0 7))

def execGather (c : Nat) (s : State) : Host.Outcome State Fault Refusal := .next (s.rvStart c 0)
def execScatter (c : Nat) (s : State) : Host.Outcome State Fault Refusal := .next (s.rvStart c 1)
def execScatterAdd (c : Nat) (s : State) : Host.Outcome State Fault Refusal := .next (s.rvStart c 2)
def execSegReduce (c : Nat) (s : State) : Host.Outcome State Fault Refusal := .next (s.rvStart c 3)
def execHashProbe (c : Nat) (s : State) : Host.Outcome State Fault Refusal := .next (s.rvStart c 4)
def execHashInsert (c : Nat) (s : State) : Host.Outcome State Fault Refusal := .next (s.rvStart c 5)
def execSetIsect (c : Nat) (s : State) : Host.Outcome State Fault Refusal := .next (s.rvStart c 6)
def execSetUnion (c : Nat) (s : State) : Host.Outcome State Fault Refusal := .next (s.rvStart c 7)

/-- Whether the Retriever's job has nothing left to wait for. -/
def Job.rvDone (j : Job) : Bool := j.fault != 0 || (j.stage == 3 && j.todo.isEmpty && j.out.isEmpty)

def execRetrieverComplete (c : Nat) (s : State) : Host.Outcome State Fault Refusal :=
  .next (match ((s.core c).eng 3).jobs with
    | j :: _ => if j.rvDone then s.endDesc c 3 j j.fault j.detail else s
    | [] => s)

/-- What the engine does once its last response has come (R145, R147). -/
def State.rvFinish (s : State) (c : Nat) : State :=
  match ((s.core c).eng 3).jobs with
  | j :: _ =>
    let x := RvRun.close ⟨s, j⟩ c (rvDesc j.desc.bytes)
    x.s.modCore c fun k => k.setJob 3 x.j
  | [] => s

/-- A response in flight arrives. -/
def execResponseArrival (r : Rsp) (s : State) : Host.Outcome State Fault Refusal :=
  .next (if NetItem.rsp r ∈ s.net then
      ({ s with net := s.net.erase (.rsp r) }).response r (fun s c => if r.eng = 3 then s.rvFinish c else s)
    else s)

/-! ### Service of a remote request by the target's message unit (R110, R112, R130, R140, R146) -/

/-- The response to a request. -/
def Rq.answer (r : Rq) (err : Bool) (d : List Byte) : NetItem :=
  .rsp { part := r.part, dst := r.src, eng := r.eng, ticket := r.ticket, pos := r.pos, err := err, data := d }

def State.serve (s : State) (r : Rq) : State :=
  match s.toCore r.part r.dst with
  | none => s.send (r.answer true [])
  | some t0 =>
    match s.reach (s.addrDie r.part r.src) t0 with
    | none => s.send (r.answer true [])
    | some s =>
      let t := s.servedBy t0
      let write : State → List Byte → State := fun s d =>
        match s.spadWrite t r.addr d 0xF1 0 with
        | (s, bad) => s.send (r.answer bad.isSome [])
      if r.op = 1 then write s r.data
      else
        match s.spadRead t r.addr r.len 0xF1 0 with
        | (s, _, some _) => s.send (r.answer true [])
        | (s, d, none) => if r.op = 0 then s.send (r.answer false d) else write s (lanesOp (r.op - 2) 0 d r.data).1

/-- The oldest request of its source to its target is served; requests of one source to one target keep their order (R146). -/
def execRemoteSpadRequest (r : Rq) (s : State) : Host.Outcome State Fault Refusal :=
  let first := s.net.find? fun x => match x with
    | .req q => q.space == 0 && q.part == r.part && q.src == r.src && q.dst == r.dst
    | _ => false
  .next (if r.space = 0 ∧ first = some (.req r) then ({ s with net := s.net.erase (.req r) }).serve r else s)

end Sys2Proof.Machine
end

