-- ==== Sys2Proof/Machine/RunCtl.lean ====
section
/-!
DEFINITION. Control of a core's run state: RUN, STEP, LOAD and its end, HINT, UNRECOV, timers and the watchdog
(spec/02 R53, R88, R91, R97, R99-R105).
-/

namespace Sys2Proof.Machine

/-- Whether an engine holds a descriptor or a send is outstanding (R105). -/
def Core.outstanding (k : Core) : Bool :=
  (List.range 5).any (fun e => !(k.eng e).queue.isEmpty || !(k.eng e).jobs.isEmpty) || !k.sendq.isEmpty || !k.sacc.isEmpty

/-- The enabled down-counters: timers 0 and 1, and the watchdog, one bit each (R99-R102). -/
def Core.counting (k : Core) : Nat := k.cf 0x28 0 1 + 2 * k.cf 0x2C 0 1 + 4 * k.cf 0x30 31 1

/-- A write of CC_CTL; `rs` is the run state when the write was made (R88, R97, R104, R105). The CSRs of a fenced core are frozen (R538). -/
def State.ctlWrite (s : State) (c rs : Nat) (v : Word) : State :=
  if rs = 4 then s
  else
  let s := s.modCore c fun k =>
    let k := k.put 2 (setBit (k.get 2) 3 (bit v 3))
    if bit v 4 then k.orCsr 0x17 0x80 else k
  let setRun : Bool → Core → Core := fun b k => k.put 2 (setBit (k.get 2) 0 b)
  let start : Core → Core := fun k => { k with ticked := k.ticked ||| k.counting }
  let s :=
    if rs = 0 then
      if bit v 2 then
        s.modCore c fun k =>
          let k := setRun false k
          if k.outstanding then k.putFld 1 8 4 7 else k.setRs 3
      else if bit v 1 then s.modCore c fun k => { start ((setRun false k).setRs 1) with stepping := true }
      else s.modCore c fun k => if bit v 0 then start ((setRun true k).setRs 1) else setRun false k
    else
      (if bit v 0 then s else s.stallTick c).modCore c fun k =>
        let k := setRun (bit v 0) k
        if !bit v 0 && (rs == 1 || rs == 2) then { k.setRs 0 with wait := none, stepping := false } else k
  if bit v 5 then s.fence c 2 else s

/-- CC_CTL's GO bit, kept by a command that writes one other bit. -/
def Core.go (k : Core) : Nat := k.cf 2 3 1

def State.ctlCmd (s : State) (c bits : Nat) : State :=
  if isCore c then s.ctlWrite c (s.core c).rs (BitVec.ofNat 32 (bits + 8 * (s.core c).go)) else s

def execRun (c : Nat) (s : State) : Host.Outcome State Fault Refusal := .next (s.ctlCmd c 1)
def execRunClear (c : Nat) (s : State) : Host.Outcome State Fault Refusal := .next (s.ctlCmd c 0)
def execStep (c : Nat) (s : State) : Host.Outcome State Fault Refusal := .next (s.ctlCmd c (2 + (s.core c).cf 2 0 1))
def execLoad (c : Nat) (s : State) : Host.Outcome State Fault Refusal := .next (s.ctlCmd c (4 + (s.core c).cf 2 0 1))
def execHint (c : Nat) (s : State) : Host.Outcome State Fault Refusal := .next (s.ctlCmd c (16 + (s.core c).cf 2 0 1))
def execUnrecov (c : Nat) (s : State) : Host.Outcome State Fault Refusal := .next (s.ctlCmd c (32 + (s.core c).cf 2 0 1))

/-! ### The end of a load (R103-R105) -/

/-- A checked image header. -/
structure Image where
  entry : Nat
  ilen : Nat
  slen : Nat
  sbase : Nat
  crc : Nat

/-- The header of an image, or its LOADERR (R103, R105). -/
def imageHeader (h : List Byte) : Except Nat Image :=
  let x : Image := { entry := leAt h 8 4, ilen := leAt h 12 4, slen := leAt h 16 4, sbase := leAt h 20 4, crc := leAt h 24 4 }
  if leAt h 0 4 ≠ 0x3149434B then .error 1
  else if leAt h 4 2 ≠ 1 ∨ leAt h 6 2 ≠ 0 ∨ leAt h 28 4 ≠ 0 then .error 2
  else if x.ilen % 4 ≠ 0 ∨ x.ilen < 4 ∨ 24576 < x.ilen ∨ x.entry % 4 ≠ 0 ∨ x.ilen ≤ x.entry ∨ 196608 < x.slen ∨
      x.sbase % 32 ≠ 0 ∨ spadSize < x.sbase + x.slen then .error 3
  else .ok x

/-- Write instruction memory from address a; fresh check bits (R52). -/
def Core.imemWrite (k : Core) (a : Nat) (d : List Byte) : Core :=
  { k with imem := Map.setN byte0 k.imem a d,
           imemErr := k.imemErr.filter fun e => decide (4 * e.1 + 4 ≤ a) || decide (a + d.length ≤ 4 * e.1) }

/-- A failed load: instruction memory and the target range hold undefined values; the core halts (R105). -/
def State.loadFailed (s : State) (c code : Nat) (x : Option Image) : State :=
  let r := freeBytes 6144 s
  let s := r.1.modCore c fun k => k.imemWrite 0 r.2
  let s := match x with
    | some x =>
      let r := freeBytes ((x.slen + 3) / 4) s
      (r.1.spadWrite c x.sbase (r.2.take x.slen) 0xF1 0).1
    | none => s
  s.modCore c fun k => (k.putFld 1 8 4 code).setRs 0

/-- The end of a load: the image is read, checked and written (R104, R105). Where several checks of R105 fail, the one made first is
reported: the alignment of the image (5), reading its header (5, 6), the header's fields in table order, reading the rest (5, 6), the
CRC (DESIGN CHOICE, log entry 31: R105 gives no order). -/
def State.loadDone (s : State) (c : Nat) : State :=
  let k := s.core c
  let p := s.corePart c
  let a := (k.get 5).toNat + 2 ^ 32 * k.cf 6 0 16
  if k.rs ≠ 3 then s
  else if a % 32 ≠ 0 then s.loadFailed c 5 none
  else
    match (s.memRoute (coreDie c) p a 32).memRd p a 32 .ordinary 3 none with
    | (s, .fault _) => s.loadFailed c 5 none
    | (s, .ue _) => s.loadFailed c 6 none
    | (s, .ok h) =>
      match imageHeader h with
      | .error e => s.loadFailed c e none
      | .ok x =>
        match (s.memRoute (coreDie c) p (a + 32) (x.ilen + x.slen)).memRd p (a + 32) (x.ilen + x.slen) .ordinary 3 none with
        | (s, .fault _) => s.loadFailed c 5 (some x)
        | (s, .ue _) => s.loadFailed c 6 (some x)
        | (s, .ok b) =>
          if crc32 b ≠ x.crc then s.loadFailed c 4 (some x)
          else
            let s := s.modCore c fun k => k.imemWrite 0 (b.take x.ilen)
            let (s, _) := s.spadWrite c x.sbase (b.drop x.ilen) 0xF1 0
            s.modCore c fun k =>
              let k := { k with pc := BitVec.ofNat 32 x.entry, regs := [] }.putFld 1 8 4 0
              if k.go = 1 then { k.setRs 1 with ticked := k.ticked ||| k.counting } else k.setRs 0

def execLoadDone (c : Nat) (s : State) : Host.Outcome State Fault Refusal :=
  .next (if isCore c then s.loadDone c else s)

/-! ### Timers and the watchdog (R99-R102) -/

/-- The expiry of a timer, its step from 1 to 0 (R99, R100). An ECLK timer does not tick while its cluster's clock is gated or its PLL has lost lock;
the expiry of an SCLK timer wakes the cluster from C1 and C2. -/
def State.timerExpiry (s : State) (c n : Nat) : State :=
  let k := s.core c
  let b := 0x28 + 4 * n
  let ticks := if k.cf b 2 1 = 1 then decide (s.clState (coreCluster c) < 3) else s.clocked c
  if k.cf b 0 1 = 1 ∧ k.get (b + 1) ≠ 0 ∧ (k.rs = 1 ∨ k.rs = 2) ∧ ticks then
    let s := s.wakeFor (coreCluster c)
    s.modCore c fun k =>
      let k := if bit (k.get 0x17) (3 + n) then k.orCsr b 8 else k
      let k := k.orCsr 0x17 (2 ^ (3 + n))
      if k.cf b 1 1 = 1 then k.put (b + 1) (k.get (b + 2)) else (k.put (b + 1) 0).clrCsr b 1
  else s

def execTimerExpiry (c : Nat) (timer : Bool) (s : State) : Host.Outcome State Fault Refusal :=
  .next (if isCore c then s.timerExpiry c (if timer then 1 else 0) else s)

/-- The units of a watchdog stage; 0 acts as 1 (R101). -/
def Core.wdogTimeout (k : Core) : Word := BitVec.ofNat 32 (max 1 (k.cf 0x30 0 24))

/-- An expiry of the watchdog: the first warns, the second fences (R101). -/
def State.wdogExpiry (s : State) (c : Nat) : State :=
  let k := s.core c
  if !bit (k.get 0x30) 31 || !(k.rs == 1 || k.rs == 2) then s
  else if bit (k.get 0x30) 29 then s.fence c 3
  else s.setCore c ((k.orCsr 0x30 (2 ^ 29)).put 0x31 k.wdogTimeout)

def execWdogExpiry (c : Nat) (s : State) : Host.Outcome State Fault Refusal :=
  .next (if isCore c then s.wdogExpiry c else s)

/-- Whether the core is where its timers tick (R99, R101). -/
def Core.ticking (k : Core) : Bool := k.rs == 1 || k.rs == 2

/-- A down-counter or its enable has been written: whether it counts from now on; a count that was stopped and has not been seen since
stays open. -/
def Core.retick (k : Core) (n : Nat) : Core :=
  let b := if n < 0x2C then 0 else if n < 0x30 then 1 else 2
  let on := k.ticking && k.counting.testBit b
  let written := n % 4 = 1
  { k with ticked := if on then k.ticked ||| 2 ^ b else if written then k.ticked &&& (7 - 2 ^ b) else k.ticked }

/-- A write of CC_WDOG_KICK (R101); a fenced core's registers are frozen (R538). -/
def Core.wdogKick (k : Core) (v : Word) : Core :=
  if v = 0xA5 then ((k.clrCsr 0x30 (2 ^ 29)).put 0x31 k.wdogTimeout).retick 0x31 else k.orCsr 0x30 (2 ^ 30)

def execWdogKick (c : Nat) (v : Word) (s : State) : Host.Outcome State Fault Refusal :=
  .next (if isCore c && (s.core c).rs != 4 then s.modCore c fun k => k.wdogKick v else s)

/-- A write of 1 to CC_NANREC0.VALID (R185). -/
def execNanrecClear (c : Nat) (s : State) : Host.Outcome State Fault Refusal :=
  .next (if isCore c && (s.core c).rs != 4 then s.modCore c Core.clearNan else s)

end Sys2Proof.Machine
end

