-- ==== Sys2Proof/Machine/Vector.lean ====
section
/-!
DEFINITION. The vector engine: its descriptor, element programs, function tables, reductions and the bitonic step (spec/07).
-/

namespace Sys2Proof.Machine

/-! ### The descriptor (R255, R256) -/

structure VDesc where
  op : Nat
  prog : Nat
  grad : Bool
  red : Nat
  /-- Shapes of X, Y, Z. -/
  shp : List Nat
  pen : Bool
  qen : Bool
  rows : Nat
  cols : Nat
  fsel : List Nat
  ocp : Nat
  ocq : Nat
  tag : Nat
  seed : Word
  /-- Byte addresses of X, Y, Z, P, Q. -/
  at' : List Nat
  sct : Nat
  key : Nat
  desc : Bool
  deriving DecidableEq, Repr

def vdesc (b : List Byte) : VDesc :=
  let b2 := byteAt b 2
  let b3 := byteAt b 3
  let w1 := leAt b 4 4
  let oc := leAt b 11 3
  { op := b2 % 4, prog := b2 / 4 % 8, grad := b2.testBit 5, red := b2 / 64,
    shp := [b3 % 4, b3 / 4 % 4, b3 / 16 % 4], pen := b3.testBit 6, qen := b3.testBit 7,
    rows := nfld w1 0 12 + 1, cols := nfld w1 12 13 + 1, fsel := [byteAt b 8, byteAt b 9, byteAt b 10],
    ocp := oc % 4096, ocq := oc / 4096, tag := leAt b 14 2, seed := BitVec.ofNat 32 (leAt b 16 4),
    at' := (List.range 5).map fun i => 32 * leAt b (20 + 2 * i) 2, sct := byteAt b 30,
    key := byteAt b 31 % 4, desc := (byteAt b 31).testBit 2 }

def VDesc.shape (d : VDesc) (i : Nat) : Nat := d.shp.getD i 0
def VDesc.sel (d : VDesc) (i : Nat) : Nat := d.fsel.getD i 0
def VDesc.addr (d : VDesc) (i : Nat) : Nat := d.at'.getD i 0
/-- Whether stream or output i (X, Y, Z, P, Q) is used. -/
def VDesc.uses (d : VDesc) (i : Nat) : Bool :=
  if i < 3 then d.shape i != 0 else if i = 3 then d.pen else d.qen

/-- Bits of each descriptor byte that must be 0 (R114, R255). -/
def vdescMask (d : VDesc) (i : Nat) : Nat :=
  let w := fun (b : Bool) (m : Nat) => if b then m else 0
  if i < 2 then 0x80
  else if i = 2 then w (decide (2 ≤ d.op)) 0x1C
  else if i = 7 then 0xFE
  else if 8 ≤ i ∧ i < 11 then w (!d.uses (i - 8)) 0xFF
  else if i = 11 then w (!d.pen) 0xFF
  else if i = 12 then w (!d.pen) 0x0F ||| w (!d.qen) 0xF0
  else if i = 13 then w (!d.qen) 0xFF
  else if 20 ≤ i ∧ i < 30 then w (!d.uses ((i - 20) / 2)) 0xFF ||| w (i % 2 == 1) 0xE0
  else if i = 30 then w (!d.pen || d.ocp % 32 ∈ [0, 1, 2, 12, 13, 14]) 0xFF
  else if i = 31 then if 2 ≤ d.op then 0xF8 else 0xFF
  else 0

/-! ### Start-up (R257, R258, R274, R284) -/

/-- A format that moves raw 32-bit patterns (R257). -/
def rawFmt (sel : Nat) : Bool := sel % 32 == 0 || sel % 32 == 13

/-- Words of a resident program under a job's banks (R265). -/
def Core.progWords (k : Core) (banks n : Nat) : List Word :=
  let w := k.bt banks 1 (0x1200 + n)
  (List.range (fld w 10 7)).map fun i => k.bt banks 1 (0x1000 + fld w 0 9 + i)

/-- The table slot an FT or FTD names. -/
def ftSlot (w : Word) : Option Nat :=
  if fld w 26 6 = 0x17 then some (fld w 11 2) else if fld w 26 6 = 0x18 then some (4 + fld w 11 2) else none

/-- A FORMAT fault among streams and outputs (R160, R257, R274), as its detail. -/
def Core.vFormat (k : Core) (banks : Nat) (d : VDesc) : Option Nat :=
  let inBad := fun i =>
    if !d.uses i then false
    else match k.fmtSel banks (d.sel i) with
    | none => true
    | some (f, _) => (decide (1 < d.shape i) && f.block) || (decide (2 ≤ d.op) && !rawFmt (d.sel i))
  let outBad := fun i conv other =>
    if !d.uses i then false
    else match k.fmtSel banks (conv % 256) with
    | none => true
    | some (f, _) => !rndOk f (conv / 256 % 8) || (rawFmt conv && decide (256 ≤ conv)) || (f.kind == 4 && d.grad) ||
        (i == 4 && f.block) || (decide (2 ≤ d.op) && conv != other)
  if inBad 0 then some (d.sel 0 * 256)
  else if inBad 1 then some (1 + d.sel 1 * 256)
  else if inBad 2 then some (2 + d.sel 2 * 256)
  else if outBad 3 d.ocp (d.sel 0) then some (3 + d.ocp % 256 * 256)
  else if outBad 4 d.ocq (d.sel 1) then some (4 + d.ocq % 256 * 256)
  else none

def Core.vFmt (k : Core) (banks sel : Nat) : Fmt × List Nat := (k.fmtSel banks sel).getD (fmt32, [])

/-- An OP fault (R259, R274, R283). -/
def VDesc.opBad (d : VDesc) : Bool :=
  if 2 ≤ d.op then
    d.shape 0 != 1 || decide (1 < d.shape 1) || d.shape 2 != 0 || d.qen != (d.shape 1 == 1) || !d.pen || d.grad ||
      d.red != 0 || d.sct != 0 || d.key == 3
  else (d.red != 0 && d.op != 1) || (d.op == 1 && !d.qen)

/-- A SHAPE fault, as its detail. -/
def Core.vShape (k : Core) (banks : Nat) (d : VDesc) : Option Nat :=
  if d.cols % 32 = 0 then none
  else if 2 ≤ d.op then some 0
  else
    (List.range 4).find? fun i =>
      d.uses i && (if i < 3 then d.shape i == 1 && (k.vFmt banks (d.sel i)).1.block
        else (k.vFmt banks (d.ocp % 256)).1.block)

/-- Checks up to the roll (R284): a fault, or whether it waits. -/
def State.vChecks (s : State) (c : Nat) (j : Job) : Option (Nat × Nat) × Bool :=
  let k := s.core c
  let b := j.desc.bytes
  let d := vdesc b
  let bad := fun code detail => (some (code, detail), false)
  match firstNonzero (vdescMask d) b with
  | some i => bad 8 i
  | none =>
    if d.opBad then bad 1 d.op
    else match k.vFormat j.banks d with
    | some x => bad 2 x
    | none =>
      match k.vShape j.banks d with
      | some x => bad 3 x
      | none =>
        let eb := if j.banks.testBit 1 then 1 else 0
        let fb := if j.banks.testBit 0 then 1 else 0
        if d.op < 2 ∧ !k.epValid eb d.prog then bad 4 d.prog
        else
          let slots := if d.op < 2 then (k.progWords j.banks d.prog).filterMap ftSlot else []
          match slots.find? fun t => !k.ftValid fb t with
          | some t => bad 5 t
          | none =>
            if d.pen ∧ (k.vFmt j.banks (d.ocp % 256)).1.block then
              match k.seStart j.banks d.sct (d.ocp % 256) d.rows d.cols j.step with
              | 0 => (none, false)
              | 1 => (none, true)
              | _ => bad 7 2
            else (none, false)

/-- The size of a stream or output (R193, R194, R256). -/
def VDesc.size (d : VDesc) (f : Fmt) (shape : Nat) : Nat :=
  if shape = 1 then areaSize f d.rows d.cols
  else if shape = 2 then d.cols * f.width / 8 else d.rows * f.width / 8

def Core.vAreas (k : Core) (banks : Nat) (d : VDesc) : List (Nat × Nat) :=
  ((List.range 3).filter d.uses).map (fun i => (d.addr i, d.size (k.vFmt banks (d.sel i)).1 (d.shape i))) ++
    (if d.pen then [(d.addr 3, d.size (k.vFmt banks (d.ocp % 256)).1 1)] else []) ++
    (if d.qen then [(d.addr 4, d.size (k.vFmt banks (d.ocq % 256)).1 (if d.op = 1 then 3 else 1))] else [])

/-- Headers of the block-scaled full-shape inputs (R258). -/
def State.vHeaders (s : State) (c : Nat) (j : Job) : State × Option (Nat × Nat) :=
  let d := vdesc j.desc.bytes
  s.checkHeaders c ((List.range 3).filterMap fun i =>
    let f := ((s.core c).vFmt j.banks (d.sel i)).1
    if d.shape i = 1 ∧ f.block then some ⟨i, d.addr i, d.rows, d.cols, f.width, d.sel i⟩ else none)

def State.vStartup (s : State) (c : Nat) (j : Job) : State × Job :=
  let d := vdesc j.desc.bytes
  match s.vChecks c j with
  | (some (code, detail), _) => (s, j.failed code detail)
  | (none, true) => (s, { j with rollWait := true })
  | (none, false) =>
    let k := s.core c
    match rangeFault (k.vAreas j.banks d) with
    | some a => (s, j.failed 0xF2 a)
    | none =>
      match s.vHeaders c j with
      | (s, some (0, detail)) => (s, j.failed 6 detail)
      | (s, some (code, detail)) => (s, j.failed code detail)
      | (s, none) =>
        let j := { j with rollWait := false }
        if d.pen ∧ ((s.core c).vFmt j.banks (d.ocp % 256)).1.block then
          let k := s.core c
          let sc := k.seScales j.banks d.sct j.step
          let (tag, k) := k.takeTag j.banks d.sct (d.rows * d.cols / 32)
          (s.setCore c k, { j with scales := sc, tag := tag })
        else (s, j)

/-- A start-up that has passed begins to run when nothing runs (R281). -/
def Core.vAdvance (k : Core) : Core :=
  let x := k.eng 2
  if x.jobs.any (fun j => j.stage == 1) then k
  else k.setEng 2 { x with jobs := x.jobs.map fun j => if j.stage = 0 ∧ !j.rollWait then { j with stage := 1 } else j }

/-- A VE command: the head of the queue starts if its OP is `op` and the engine can take it (R281). -/
def State.vStart (s : State) (c op : Nat) : State :=
  let x := (s.core c).eng 2
  if !x.startFree 2 then s
  else
    match s.takeDesc c 2 with
    | none => s
    | some (d, s') =>
      if (vdesc d.bytes).op ≠ op then s
      else
        let (s'', j) := s'.vStartup c (s'.startJob c d (vdesc d.bytes).sct)
        s''.modCore c fun k =>
          let x := k.eng 2
          (k.setEng 2 { x with jobs := x.jobs ++ [j] }).vAdvance

/-- The job that waits for a roll is judged again (R237). -/
def State.vRollAgain (s : State) (c : Nat) : State :=
  let x := (s.core c).eng 2
  match x.jobs.find? (·.rollWait) with
  | none => s
  | some j =>
    let (s, j') := s.vStartup c j
    s.modCore c fun k => (k.modJob 2 j.desc.ticket fun _ => j').vAdvance

/-! ### Lane arithmetic (R264, R266) -/

/-- The negative of an operand; a NaN operand keeps its sign, as it is carried (R62, R170). -/
def Fv.neg1 (v : Fv) : Fv := if v.isNan then v else v.negate

def w32 (r : Nat × FFlags) : Word × FFlags := (BitVec.ofNat 32 r.1, r.2)

/-- A value rounded to an integral value; zeros, infinities and NaNs pass through, quieted, and nothing is inexact (R266). -/
def integral (mode : Nat) (a : Word) : Word × FFlags :=
  match f32 a with
  | .fin n m e => (BitVec.ofNat 32 (roundTo fmt32 0 (.fin n (roundAt mode 0 n m e 0).1 0)).1, 0)
  | v => w32 (finish fmt32 0 [v] (.val v))

/-- a × 2^b; beyond ±1000 the result no longer depends on b (R266's bound of 2^30 lies beyond). -/
def fscale (a b : Word) : Word × FFlags :=
  w32 (finish fmt32 0 [f32 a] (.val ((f32 a).scale (max (-1000) (min 1000 (sint b))))))

def getExp (a : Word) : Word × FFlags :=
  match f32 a with
  | .fin _ m e => if m = 0 then (0xFF800000#32, flDZ) else (BitVec.ofNat 32 (roundTo fmt32 0 (Fv.ofInt ((lead m : Int) + e))).1, 0)
  | .inf _ => (0x7F800000#32, 0)
  | v => w32 (finish fmt32 0 [v] (.val v))

def getMan (a : Word) : Word × FFlags :=
  match f32 a with
  | .fin n m _ => if m = 0 then (a, 0) else (BitVec.ofNat 32 (roundTo fmt32 0 (.fin n m (-(lead m : Int)))).1, 0)
  | .inf _ => (BitVec.ofNat 32 (canonNan fmt32), flNV ||| flNP)
  | v => w32 (finish fmt32 0 [v] (.val v))

def boolW (b : Bool) : Word := if b then 1 else 0

/-- A lane operation but FT and FTD; comparisons answer 1 or 0 (R264). -/
def laneOp (opc : Nat) (a b c : Word) : Word × FFlags :=
  let x := f32 a
  let y := f32 b
  let z := f32 c
  let cmp := fun which => let r := fCmp which x y; (boolW r.1, r.2)
  match opc with
  | 0x01 => w32 (fAdd fmt32 0 x y)
  | 0x02 => w32 (fAdd fmt32 0 x y.neg1)
  | 0x03 => w32 (fMul fmt32 0 x y)
  | 0x04 => w32 (fFma fmt32 0 x y z)
  | 0x05 => w32 (fFma fmt32 0 x.neg1 y z)
  | 0x06 => w32 (fDiv fmt32 0 x y)
  | 0x07 => w32 (fSqrt fmt32 0 x)
  | 0x08 => w32 (fMinMax fmt32 false x y)
  | 0x09 => w32 (fMinMax fmt32 true x y)
  | 0x0A => w32 (fMinMaxN fmt32 false x y)
  | 0x0B => w32 (fMinMaxN fmt32 true x y)
  | 0x0C => (a &&& 0x7FFFFFFF#32, 0)
  | 0x0D => (a ^^^ 0x80000000#32, 0)
  | 0x0E => ((a &&& 0x7FFFFFFF#32) ||| (b &&& 0x80000000#32), 0)
  | 0x0F => (BitVec.ofNat 32 (fClass a), 0)
  | 0x10 => integral 2 a
  | 0x11 => integral 0 a
  | 0x12 => fscale a b
  | 0x13 => getExp a
  | 0x14 => getMan a
  | 0x15 => w32 (roundTo fmt32 0 (Fv.ofInt (sint a)))
  | 0x16 => w32 (fToInt false 1 x)
  | 0x20 => (a + b, 0)
  | 0x21 => (a - b, 0)
  | 0x22 => (a * b, 0)
  | 0x23 => (a &&& b, 0)
  | 0x24 => (a ||| b, 0)
  | 0x25 => (a ^^^ b, 0)
  | 0x26 => (a <<< (b.toNat % 32), 0)
  | 0x27 => (a >>> (b.toNat % 32), 0)
  | 0x28 => (a.sshiftRight (b.toNat % 32), 0)
  | 0x29 => (if sint b < sint a then b else a, 0)
  | 0x2A => (if sint a < sint b then b else a, 0)
  | 0x2B => (a, 0)
  | 0x30 => cmp 0
  | 0x31 => cmp 1
  | 0x32 => cmp 2
  | 0x33 => (boolW (x.isNan || y.isNan), sigFlag [x, y])
  | 0x34 => (boolW (a == b), 0)
  | 0x35 => (boolW (decide (sint a < sint b)), 0)
  | 0x36 => (boolW (decide (a.toNat < b.toNat)), 0)
  | _ => (0, 0)

/-- The quadratic of segment jj of slot t at u (R270). -/
def Core.ftPoly (k : Core) (banks t jj : Nat) (u : Fv) : Word × FFlags :=
  let c0 := f32 (k.bt banks 0 (2 * (64 * t + jj)))
  let c12 := k.bt banks 0 (2 * (64 * t + jj) + 1)
  let c1 := decodeFloat fmtBf16 (fld c12 0 16)
  let c2 := decodeFloat fmtBf16 (fld c12 16 16)
  let (y1, g1) := fFma fmt32 0 u c2 c1
  let (y2, g2) := fFma fmt32 0 u (decodeFloat fmt32 y1) c0
  (BitVec.ofNat 32 y2, g1 ||| g2)

/-- A function or derivative table at x; a NaN x is carried, quieted, and raises nothing (R270). -/
def Core.ftEval (k : Core) (banks t : Nat) (x : Word) : Word × FFlags :=
  if (f32 x).isNan then (BitVec.ofNat 32 (finish fmt32 0 [f32 x] (.val (f32 x))).1, 0)
  else
    let cfg := k.bt banks 0 (0x800 + t)
    let nseg := fld cfg 2 6 + 1
    let s1 := (fAdd fmt32 0 (f32 x) (f32 (k.bt banks 0 (0x808 + t))).neg1).1
    let s := (roundTo fmt32 0 ((decodeFloat fmt32 s1).scale (-(sfld cfg.toNat 8 6)))).1
    let sv := decodeFloat fmt32 s
    let j : Int := match sv with
      | .fin n m e => let q := (roundAt 2 0 n m e 0).1; if n then -(q : Int) else q
      | v => if v.neg then -1 else nseg
    let edge := fun mode jj uu kk =>
      match mode with
      | 0 => (kk, (0 : FFlags))
      | 1 => (x, 0)
      | _ => k.ftPoly banks t jj uu
    if j < 0 then edge (fld cfg 14 2) 0 sv (k.bt banks 0 (0x810 + t))
    else if (nseg : Int) ≤ j then
      let uu := (fAdd fmt32 0 sv (Fv.ofInt (-((nseg : Int) - 1)))).1
      edge (fld cfg 16 2) (nseg - 1) (decodeFloat fmt32 uu) (k.bt banks 0 (0x818 + t))
    else
      let u := (fAdd fmt32 0 sv (Fv.ofInt (-j))).1
      k.ftPoly banks t j.toNat (decodeFloat fmt32 u)

/-! ### Running a program on one vector (R261-R264) -/

def Core.vreg (k : Core) (r lane : Nat) : Word := k.t (vregKey r lane)
def Core.vmask (k : Core) (m : Nat) : Word := k.t (vmaskKey m)
def Core.setVreg (k : Core) (r lane : Nat) (v : Word) : Core := k.setT (vregKey r lane) v
/-- A write of a mask register; m0 never goes beyond the tail mask (R262). -/
def Core.setVmask (k : Core) (tail : Word) (m : Nat) (v : Word) : Core :=
  k.setT (vmaskKey m) (if m = 0 then v &&& tail else v)

/-- The tail mask of vector g (R261). -/
def tailMask (cols g : Nat) : Word := BitVec.ofNat 32 (2 ^ min 32 (cols - 32 * g) - 1)

/-- The capture of VE at element index i (R267). -/
def Core.vCapture (k : Core) (j : Job) (cause i : Nat) : Core :=
  k.captureNan 2 cause j.desc.mb j.desc.addr j.desc.iaddr (vdesc j.desc.bytes).tag j.desc.ticket
    (i / 65536 % 65536) (i % 65536)

/-- VE_FLAGS (R267). -/
def Core.vFlags (k : Core) (f : FFlags) : Core := k.orCsr 0x601 f.toNat

/-- One element-program instruction over all 32 lanes at vector (r, g). -/
def Core.vinstr (k : Core) (j : Job) (r g cols : Nat) (w : Word) : Core :=
  let opc := fld w 26 6
  let d := fld w 21 5
  let a := fld w 16 5
  let b := fld w 11 5
  let c := fld w 6 5
  let bs := fld w 0 2
  let tail := tailMask cols g
  let m0 := k.vmask 0
  let vi := opc == 0x2C || opc == 0x2D || opc == 0x2E
  let pm := k.vmask (fld w 3 3)
  let act := if vi then m0 else m0 &&& (if bit w 2 then ~~~pm else pm)
  if 0x38 ≤ opc then
    let x := k.vmask (a % 8)
    let y := k.vmask (b % 8)
    let res := match opc with
      | 0x38 => x &&& y
      | 0x39 => x ||| y
      | 0x3A => x ^^^ y
      | _ => ~~~x
    let old := k.vmask (d % 8)
    k.setVmask tail (d % 8) ((old &&& ~~~act) ||| (res &&& act))
  else
    let val := fun lane : Nat =>
      let opnd := fun which f => if bs = which then j.desc.bcast.getD (f % 8) 0 else k.vreg f lane
      let col := 32 * g + lane
      if opc = 0x2C then
        ((match a with
          | 0 => BitVec.ofNat 32 col
          | 1 => BitVec.ofNat 32 r
          | _ => BitVec.ofNat 32 (r * cols + col)), (0 : FFlags))
      else if opc = 0x2D then ((BitVec.ofNat 16 (fld w 0 16)).signExtend 32, 0)
      else if opc = 0x2E then (BitVec.ofNat 32 (fld w 0 16 * 65536), 0)
      else
        match ftSlot w with
        | some t => k.ftEval j.banks t (opnd 1 a)
        | none => laneOp opc (opnd 1 a) (opnd 2 b) (opnd 3 c)
    let lanes := (List.range 32).filter fun l => bit act l
    let res := lanes.map fun l => (l, val l)
    let k := k.vFlags (res.foldl (fun f x => f ||| x.2.2) 0)
    let k := match res.find? fun x => x.2.2 &&& flNP ≠ 0 with
      | some x => k.vCapture j 1 (r * cols + 32 * g + x.1)
      | none => k
    if 0x30 ≤ opc then
      let old := k.vmask (d % 8)
      k.setVmask tail (d % 8) (res.foldl (fun m x => setBit m x.1 (x.2.1 ≠ 0)) old)
    else res.foldl (fun k x => k.setVreg d x.1 x.2.1) k

/-! ### Loads and stores of a vector (R256-R258, R261) -/

/-- The bytes a stream's vector lies in, and those of its scale byte. -/
def VDesc.loadAreas (d : VDesc) (f : Fmt) (i r g : Nat) : List (Nat × Nat) :=
  let cnt := min 32 (d.cols - 32 * g)
  let w := f.width
  match d.shape i with
  | 1 =>
    let data := d.addr i + (if f.block then 32 else 0)
    let pitch := rowPitch w d.cols
    [(data + r * pitch + 4 * g * w, (cnt * w + 7) / 8)] ++
      (if f.block then [(data + d.rows * pitch + 32 + r * (d.cols / 32) + g, 1)] else [])
  | 2 => [(d.addr i + 4 * g * w, cnt * w / 8)]
  | _ => [(d.addr i + r * w / 8, w / 8)]

/-- Load one stream's vector into its register (R257). -/
def Core.vLoad (k : Core) (j : Job) (i r g : Nat) : Core :=
  let d := vdesc j.desc.bytes
  let (f, tbl) := k.vFmt j.banks (d.sel i)
  let cnt := min 32 (d.cols - 32 * g)
  match d.loadAreas f i r g with
  | [] => k
  | (a, n) :: more =>
    let row := k.spadW a n
    let scale := match more with
      | (sa, _) :: _ => (k.spad.get byte0 sa).toNat
      | [] => 127
    let vals := (List.range cnt).map fun l =>
      let code := codeAt row f.width (if d.shape i = 3 then 0 else l)
      if rawFmt (d.sel i) then (BitVec.ofNat 32 code, (0 : FFlags))
      else
        let x := convert fmt32 [] 0 false 0 (expand f tbl scale code)
        (BitVec.ofNat 32 x.code, x.fl)
    let k := k.vFlags (vals.foldl (fun x v => x ||| v.2) 0)
    (List.range cnt).foldl (fun k l => k.setVreg i l (vals.getD l (0, 0)).1) k

/-- Stretches of consecutive bytes among bytes that may be left out. -/
def segments : Nat → List (Option Byte) → List (Nat × List Byte)
  | _, [] => []
  | a, none :: t => segments (a + 1) t
  | a, some b :: t =>
    match segments (a + 1) t with
    | (x, l) :: more => if x = a + 1 then (a, b :: l) :: more else (a, [b]) :: (x, l) :: more
    | [] => [(a, [b])]

/-- Convert stored lanes of register v into output `which` (0 P, 1 Q) and give its writes, with the bytes of which some
bits keep their contents (R257, R258, R268). -/
def State.vStore (s : State) (c : Nat) (j : Job) (which r g : Nat) (vals : List (Option Word)) :
    State × List (Nat × List Byte) × List Nat :=
  let d := vdesc j.desc.bytes
  let conv := if which = 0 then d.ocp else d.ocq
  let (f, tbl) := (s.core c).vFmt j.banks (conv % 256)
  if vals.all (·.isNone) then (s, [], [])
  else
    let x := (s.core c).jobSe j d.sct
    let scale := if f.block then j.scales.getD (x.slot d.cols r (32 * g)) 127 else 127
    let mode := if d.grad then 5 else conv / 256 % 8
    let rnd := fun l => rand d.seed (s.randAddr c) j.step (BitVec.ofNat 32 d.tag)
      (BitVec.ofNat 32 (r * 65536 + 32 * g + l + (if which = 0 then 0 else 0x80000000)))
    let blk : Blk :=
      if rawFmt conv then ⟨vals.map (·.map (·.toNat)), 127, vals.map fun _ => 0⟩
      else convBlock f tbl mode (conv.testBit 11) scale
        ((List.range vals.length).map fun l => (vals.getD l none).map fun v => (f32 v, rnd l))
    let s := s.modCore c fun k =>
      let k := k.vFlags (blk.fls.foldl (fun f y => f ||| y) 0)
      match (List.range vals.length).find? fun l => (blk.fls.getD l 0) &&& flNP ≠ 0 with
      | some l => k.vCapture j 2 (r * d.cols + (if which = 1 ∧ d.op = 1 then 0 else 32 * g + l))
      | none => k
    let s := if f.block then s.blockUse c j d.sct d.cols r (32 * g) f tbl vals blk else s
    let w := f.width
    let pitch := rowPitch w d.cols
    let data := d.addr (3 + which) + (if f.block then 32 else 0)
    let at' := if which = 1 ∧ d.op = 1 then data + r * w / 8 else data + r * pitch + 4 * g * w
    let n := vals.length * w / 8
    let old := (s.core c).spadW at' n
    let bytes := leBytes n (putCodes w old 0 blk.codes)
    let stored := fun i => (List.range vals.length).filter fun l =>
      decide (w * l < 8 * i + 8) && decide (8 * i < w * l + w)
    let isLive := fun l => (blk.codes.getD l none).isSome
    let live := (List.range n).map fun i => if (stored i).any isLive then some (bytes.getD i 0) else none
    let kept := (List.range n).filter fun i => (stored i).any isLive && !(stored i).all isLive
    (s, segments at' live ++
      (if f.block then [(data + d.rows * pitch + 32 + r * (d.cols / 32) + g, [BitVec.ofNat 8 blk.scale])] else []),
      kept.map (at' + ·))

/-- The lanes of register v that m0 stores. -/
def Core.storedLanes (k : Core) (v cnt : Nat) : List (Option Word) :=
  (List.range cnt).map fun l => if bit (k.vmask 0) l then some (k.vreg v l) else none

/-! ### Reductions (R260) -/

/-- One addend into the running reduction of a row. -/
def redStep (red : Nat) (acc : Option Word) (x : Word) : Option Word × FFlags :=
  match red with
  | 0 => let r := fAdd fmt32 0 (f32 (acc.getD 0x80000000#32)) (f32 x); (some (BitVec.ofNat 32 r.1), r.2)
  | 1 => let r := fMinMax fmt32 true (f32 (acc.getD 0xFF800000#32)) (f32 x); (some (BitVec.ofNat 32 r.1), r.2)
  | 2 => let r := fMinMax fmt32 false (f32 (acc.getD 0x7F800000#32)) (f32 x); (some (BitVec.ofNat 32 r.1), r.2)
  | _ => (some (acc.getD 0 + x), 0)

/-- The result of a row without stored lanes. -/
def redEmpty : Nat → Word
  | 1 => 0xFF800000#32
  | 2 => 0x7F800000#32
  | _ => 0

/-! ### Running a descriptor -/

/-- What a run has come to: the state, the row's reduction, and the first word that could not be read or written. -/
structure VRun where
  s : State
  acc : Option Word
  ue : Option Nat

/-- One vector of MAP or REDUCE (R261); where one of its words cannot be written, nothing of it is (R284). -/
def VRun.vector (x : VRun) (c : Nat) (j : Job) (words : List Word) (r g : Nat) : VRun :=
  if x.ue.isSome then x
  else
    let d := vdesc j.desc.bytes
    let ins := (List.range 3).filter d.uses
    let areas := ins.flatMap fun i => d.loadAreas ((x.s.core c).vFmt j.banks (d.sel i)).1 i r g
    let (s, ue) := x.s.scanAreas c areas
    match ue with
    | some a => { x with s := s, ue := some a }
    | none =>
      let cnt := min 32 (d.cols - 32 * g)
      let s := s.modCore c fun k =>
        let k := k.setT (vmaskKey 0) (tailMask d.cols g)
        let k := ins.foldl (fun k i => k.vLoad j i r g) k
        words.foldl (fun k w => k.vinstr j r g d.cols w) k
      let k := s.core c
      let pv := k.storedLanes 4 cnt
      let qv := k.storedLanes 5 cnt
      let (s, wp, kp) := if d.pen then s.vStore c j 0 r g pv else (s, [], [])
      let (s, wq, kq) := if d.qen && d.op == 0 then s.vStore c j 1 r g qv else (s, [], [])
      let (s, ue) := s.writeWhole c (wp ++ wq) (kp ++ kq)
      let s := if ue.isSome then s
        else s.bumpCsr c 0x604 (if d.pen then (pv.filter (·.isSome)).length else if d.qen then 0 else cnt)
      if d.op = 1 ∧ ue.isNone then
        let (acc, fl) := qv.foldl (fun (st : Option Word × FFlags) v =>
          match v with
          | some v => let r := redStep d.red st.1 v; (r.1, st.2 ||| r.2)
          | none => st) (x.acc, 0)
        let s := s.modCore c fun k =>
          let k := k.vFlags fl
          if fl &&& flNP ≠ 0 then k.vCapture j 1 (r * d.cols) else k
        { s := s, acc := acc, ue := none }
      else { x with s := s, ue := ue }

/-- One row, with the result of REDUCE at its end. -/
def VRun.row (x : VRun) (c : Nat) (j : Job) (words : List Word) (r : Nat) : VRun :=
  let d := vdesc j.desc.bytes
  let x := (List.range ((d.cols + 31) / 32)).foldl (fun x g => VRun.vector x c j words r g) { x with acc := none }
  if d.op = 1 ∧ x.ue.isNone then
    let (s, w, kept) := x.s.vStore c j 1 r 0 [some (x.acc.getD (redEmpty d.red))]
    let (s, ue) := s.writeWhole c w kept
    { x with s := s, ue := ue }
  else x

/-- A key as a number in the order of KEY (R272). -/
def keyOrder (key : Nat) (w : Word) : Nat :=
  match key with
  | 0 => w.toNat
  | 1 => (w ^^^ 0x80000000#32).toNat
  | _ => if bit w 31 then (~~~w).toNat else (w ^^^ 0x80000000#32).toNat

/-- One stage of compare-exchanges at distance d (R272). -/
def bitStage (key : Nat) (asc : Nat → Bool) (d : Nat) (l : List (Word × Word)) : List (Word × Word) :=
  (List.range 32).map fun p =>
    let i := if p &&& d = 0 then p else p - d
    let a := l.getD i (0, 0)
    let b := l.getD (i + d) (0, 0)
    let swap := if asc i then decide (keyOrder key b.1 < keyOrder key a.1)
      else decide (keyOrder key a.1 < keyOrder key b.1)
    if (p = i) = (swap = true) then b else a

/-- The network of MERGE (R272). -/
def bitMerge (key : Nat) (l : List (Word × Word)) : List (Word × Word) :=
  [16, 8, 4, 2, 1].foldl (fun l d => bitStage key (fun _ => true) d l) l

/-- The network of SORT (R272). -/
def bitSort (key : Nat) (l : List (Word × Word)) : List (Word × Word) :=
  [(2, [1]), (4, [2, 1]), (8, [4, 2, 1]), (16, [8, 4, 2, 1]), (32, [16, 8, 4, 2, 1])].foldl (fun l p =>
    p.2.foldl (fun l d => bitStage key (fun i => i &&& p.1 == 0) d l) l) l

/-- One block of SORT or MERGE (R274). -/
def VRun.block (x : VRun) (c : Nat) (j : Job) (r g : Nat) : VRun :=
  if x.ue.isSome then x
  else
    let d := vdesc j.desc.bytes
    let off := r * (4 * d.cols) + 128 * g
    let areas := [(d.addr 0 + off, 128)] ++ (if d.qen then [(d.addr 1 + off, 128)] else [])
    let (s, ue) := x.s.scanAreas c areas
    match ue with
    | some a => { x with s := s, ue := some a }
    | none =>
      let k := s.core c
      let word := fun i l => BitVec.ofNat 32 (k.spadW (d.addr i + off + 4 * l) 4)
      let l := (List.range 32).map fun i => (word 0 i, if d.qen then word 1 i else (0 : Word))
      let l := if d.op = 2 then bitSort d.key l else bitMerge d.key l
      let l := if d.desc then l.reverse else l
      let bytes := fun (ws : List Word) => ws.flatMap fun w => leBytes 4 w.toNat
      let (s, ue) := s.writeAll c ([(d.addr 3 + off, bytes (l.map (·.1)))] ++
        (if d.qen then [(d.addr 4 + off, bytes (l.map (·.2)))] else []))
      { x with s := if ue.isSome then s else s.bumpCsr c 0x604 32, ue := ue }

/-- Instruction cycles of a program (R281). -/
def progCycles (l : List Word) : Nat :=
  (l.map fun w => match fld w 26 6 with
    | 0x06 => 4
    | 0x07 => 4
    | 0x17 => 2
    | 0x18 => 2
    | _ => 1).sum

/-- Lines from byte a, n bytes. -/
def linesOf (a n : Nat) : Nat := if n = 0 then 0 else (a + n - 1) / 32 - a / 32 + 1

/-- Cycles a descriptor runs, without contention (R281). -/
def Core.vCycles (k : Core) (j : Job) : Nat :=
  let d := vdesc j.desc.bytes
  let groups := (d.cols + 31) / 32
  if 2 ≤ d.op then
    d.rows * groups * (if d.qen then 16 else 8) + (if d.op = 2 then 15 else 5)
  else
    let pc := progCycles (k.progWords j.banks d.prog)
    let outLines := fun i conv g =>
      if d.uses i ∧ ¬(i = 4 ∧ d.op = 1) then
        let f := (k.vFmt j.banks (conv % 256)).1
        linesOf (4 * g * f.width) ((min 32 (d.cols - 32 * g) * f.width + 7) / 8) + (if f.block then 1 else 0)
      else 0
    let per := (List.range groups).map fun g =>
      let ins := ((List.range 3).filter d.uses).flatMap fun i => d.loadAreas (k.vFmt j.banks (d.sel i)).1 i 0 g
      max pc ((ins.map fun a => linesOf a.1 a.2).sum + outLines 3 d.ocp g + outLines 4 d.ocq g)
    d.rows * (per.sum + (if d.op = 1 then 2 else 0))

/-- Run a descriptor whole; both headers of a block-scaled P follow its blocks (R208, R258). -/
def State.vRun (s : State) (c : Nat) (j : Job) : State × Option Nat :=
  let d := vdesc j.desc.bytes
  let k := s.core c
  let s := s.bumpCsr c 0x602 (k.vCycles j)
  if 2 ≤ d.op then
    let x := (List.range d.rows).foldl (fun (x : VRun) r =>
      (List.range (d.cols / 32)).foldl (fun x g => VRun.block x c j r g) x) { s := s, acc := none, ue := none }
    (x.s, x.ue)
  else
    let f := (k.vFmt j.banks (d.ocp % 256)).1
    let nb := d.rows * d.cols / 32
    let words := k.progWords j.banks d.prog
    let x := (List.range d.rows).foldl (fun x r => VRun.row x c j words r) { s := s, acc := none, ue := none }
    if x.ue.isNone && d.pen && f.block then
      x.s.writeAll c [(d.addr 3, headerBytes j.tag (d.ocp % 256) nb),
        (d.addr 3 + 32 + d.rows * rowPitch f.width d.cols, headerBytes j.tag 14 nb)]
    else (x.s, x.ue)

/-- The oldest VE descriptor completes (R281, R282). -/
def State.vComplete (s : State) (c : Nat) : State :=
  let x := (s.core c).eng 2
  if x.heldRec.isSome then s
  else
    match x.jobs with
    | [] => s
    | j :: _ =>
      if j.stage = 3 then (s.endDesc c 2 j j.fault j.detail).modCore c Core.vAdvance
      else if j.stage = 1 then
        match s.vRun c j with
        | (s, some a) => (s.endDesc c 2 j 0xF1 a).modCore c Core.vAdvance
        | (s, none) =>
          let d := vdesc j.desc.bytes
          let s := if d.pen && ((s.core c).vFmt j.banks (d.ocp % 256)).1.block then
            s.saturationEvent c j.banks d.sct j.step else s
          (s.endDesc c 2 j 0 0).modCore c Core.vAdvance
      else s

/-! ### The commands -/

/-- MAP (R259, R261). -/
def execMap (core : Nat) (s : State) : Host.Outcome State Fault Refusal := .next (s.vStart core 0)

/-- REDUCE (R259, R260). -/
def execReduce (core : Nat) (s : State) : Host.Outcome State Fault Refusal := .next (s.vStart core 1)

/-- SORT (R272, R274). -/
def execSort (core : Nat) (s : State) : Host.Outcome State Fault Refusal := .next (s.vStart core 2)

/-- MERGE (R272, R274). -/
def execMerge (core : Nat) (s : State) : Host.Outcome State Fault Refusal := .next (s.vStart core 3)

/-- VE_DESCRIPTOR_COMPLETE (R281). -/
def execVeDescriptorComplete (core : Nat) (s : State) : Host.Outcome State Fault Refusal := .next (s.vComplete core)

end Sys2Proof.Machine
end

