-- ==== Sys2Proof/Machine/CsrAccess.lean ====
section
/-!
DEFINITION. Reads and writes of the core-local CSRs, by the core and through a core-access window alike, with every side effect
the spec gives them (spec/02 R83-R89, spec/03 R151-R154, spec/04 R186-R189, spec/05 R224-R226, spec/06 R240, R247-R252,
spec/07 R275-R287, spec/10 R382-R386, R403, R404, spec/11 R414-R416), and the table commands of spec/06 and spec/07.
-/

namespace Sys2Proof.Machine

/-! ### The reduction interface's contexts (R382-R386) -/

def Core.rdErr (k : Core) (cause i : Nat) : Core :=
  k.put 0x2C3 (setFld (setFld (setBit (k.get 0x2C3) 16 true) 17 3 cause) 20 4 i)

/-- A context entry, if it keeps R382. -/
def parseCtx (b : List Byte) : Option RdCtx :=
  let x : RdCtx :=
    { ch := leAt b 0 1, eln := leAt b 2 2, ebase := leAt b 4 3, nexp := leAt b 8 3, tag0 := leAt b 12 2, ntile := leAt b 14 2,
      tblk := leAt b 16 3, cbase := leAt b 20 3, seed := leAt b 24 4, step := 0, attempt := 0, nf := false, rg := false,
      stale := false }
  if byteAt b 1 ≠ 0 ∨ 0x2000 ≤ x.eln ∨ byteAt b 7 ≠ 0 ∨ byteAt b 11 ≠ 0 ∨ byteAt b 19 ≠ 0 ∨ byteAt b 23 ≠ 0 ∨
      leAt b 28 4 ≠ 0 ∨ x.nexp = 0 ∨ x.ntile = 0 ∨ x.tblk = 0 ∨ !inSpad (32 * x.eln) (2 * x.nexp) then none
  else some x

/-- A channel's register (R398). -/
def rdKey (ch o : Nat) : Nat := 0x91000 + 0x80 * ch + o

/-- A write of MU_RD_OPEN (R383). -/
def State.rdOpen (s : State) (c i : Nat) : State :=
  let k := s.core c
  let p := s.corePart c
  let err : State → Nat → State := fun s n => s.modCore c fun k => k.rdErr n i
  if k.cf 0x2C0 16 5 ≤ i then err s 1
  else if (k.ctxs.get none0 i).isSome then err s 2
  else
    let (s, b, ue) := s.spadRead c (32 * k.cf 0x2C0 0 13 + 32 * i) 32 0xF1 0
    match (if ue.isNone && inSpad (32 * k.cf 0x2C0 0 13 + 32 * i) 32 then parseCtx b else none) with
    | none => err s 3
    | some x =>
      if !(bit (s.reg (rdKey x.ch 0)) 0) || bit (s.reg (rdKey x.ch 0)) 1 then err s 3
      else if s.regFld (stKey p 4) 0 2 = 0 ∧ s.regFld (stKey p 4) 2 3 = 0 then err s 4
      else if k.ctxs.any fun e => match e.2 with
          | some y => y.ch == x.ch
          | none => false then err s 5
      else
        let att := if s.regFld (stKey p 4) 2 3 = 0 then s.regFld (stKey p 0x24) 0 8 else 0
        let x := { x with step := (s.stepNo p).toNat, attempt := att }
        s.modCore c fun k => { k with ctxs := k.ctxs.set none0 i (some x) }

/-- A write of MU_RD_CLOSE (R383). -/
def State.rdClose (s : State) (c i : Nat) : State :=
  match (s.core c).ctxs.get none0 i with
  | none => s.modCore c fun k => k.rdErr 2 i
  | some x =>
    let s := s.send (.red { part := s.corePart c, ch := x.ch, step := x.step, attempt := x.attempt, src := 0, core := c,
                            nf := x.nf, rg := x.rg, ck := 0, stale := x.stale, recs := [endRec x.nf x.rg] })
    s.modCore c fun k => { k with ctxs := k.ctxs.set none0 i none }

/-! ### Status words -/

/-- Whether a drain waits for reduction credit or for the other engine's hand-off (R212, R226). -/
def State.waitRed (s : State) (c e : Nat) : Bool :=
  let k := s.core c
  match (k.eng e).jobs.find? (·.stage == 2) with
  | none => false
  | some j =>
    let d := mdesc j.desc.bytes
    d.reden && j.fault == 0 && !k.handoffDone j &&
      ((!j.begun && k.otherHandoff e d.rch) || match k.redCtx d j.step with
        | none => true
        | some (_, x) => decide (8 ≤ s.redPending c x.ch))

/-- FE_STAT, GE_STAT and the like parts of VE_STAT (R226, R286). -/
def State.engStat (s : State) (c e : Nat) : Word :=
  let k := s.core c
  let x := k.eng e
  let has := fun n => x.jobs.any fun j => j.stage == n
  let f := fun (b : Bool) n => if b then 2 ^ n else 0
  if e = 2 then
    BitVec.ofNat 32 (x.queue.length + f (has 0) 4 + f (has 1 || has 2) 5 + f (k.waitsFor e).isSome 6 + f x.heldRec.isSome 8 +
      f x.stopped 9) ||| (k.get 0x600 &&& 0x400#32)
  else
    BitVec.ofNat 32 (x.queue.length + f (has 0) 4 + f (has 1) 5 + f (has 2) 6 + f x.half.isSome 7 +
      f (k.waitsFor e).isSome 8 + f (s.waitRed c e) 9 + f x.heldRec.isSome 10 + f x.stopped 11)

/-- One byte of SP_WAIT0 and SP_WAIT1 (R115, R151). -/
def Core.waitByte (k : Core) (e : Nat) : Nat :=
  match k.waitsFor e with
  | some n => 64 + n
  | none => 0

/-- RV_STAT (R151). -/
def Core.rvStat (k : Core) : Word :=
  let n := (((k.eng 3).jobs.map fun j => j.out.length).sum) % 128
  BitVec.ofNat 32 (n + if (k.eng 3).jobs.isEmpty then 0 else 128)

/-- The bank a selector names: 0 the shadow, 1 the active one (R285, R247). -/
def Core.selBank (k : Core) (kind : Nat) (active : Bool) : Nat := if active then k.bank kind else 1 - k.bank kind

/-- Bits of QZ_QSTAT that show a wait for a roll (R252). -/
def Core.waitRoll (k : Core) : Nat :=
  ((List.range 3).map fun e => if (k.eng e).jobs.any (·.rollWait) then 2 ^ (8 + e) else 0).sum

/-- Whether VE registers may be accessed (R285). -/
def Core.veIdle (k : Core) : Bool := (k.eng 2).jobs.all fun j => j.stage == 3

/-! ### The table word a CSR names -/

/-- The kind, bank and word of a banked table CSR. -/
def Core.tableWord (k : Core) (n : Nat) : Option (Nat × Nat × Nat) :=
  let ep := k.selBank 1 (bit (k.get 0x618) 9)
  let ft := k.selBank 0 (bit (k.get 0x700) 9)
  let se := k.selBank 6 (bit (k.get 0x850) 6)
  if 0x610 ≤ n ∧ n < 0x618 then some (1, ep, 0x1200 + (n - 0x610))
  else if n = 0x619 then some (1, ep, 0x1000 + k.cf 0x618 0 9)
  else if n = 0x701 ∨ n = 0x702 then some (0, ft, 2 * k.cf 0x700 0 9 + (n - 0x701))
  else if 0x708 ≤ n ∧ n < 0x728 then some (0, ft, 0x800 + (n - 0x708))
  else if 0x830 ≤ n ∧ n < 0x834 then some (9, 1 - k.bank 9, 0x4100 + (n - 0x830))
  else if 0x848 ≤ n ∧ n < 0x850 then
    some (8, k.selBank 8 (bit (k.get 0x840) 3), 0x4000 + 8 * k.cf 0x840 0 3 + (n - 0x848))
  else if 0x851 ≤ n ∧ n < 0x855 then some (6, se, 0x3000 + 4 * k.cf 0x850 0 6 + (n - 0x851))
  else if 0x870 ≤ n ∧ n < 0x880 then some (7, 1 - k.bank 7, 0x3800 + (n - 0x870))
  else if 0x880 ≤ n ∧ n < 0x890 then some (7, k.bank 7, 0x3800 + (n - 0x880))
  else if n = 0x891 then
    let t := k.cf 0x890 0 2
    some (2 + t, k.selBank (2 + t) (bit (k.get 0x890) 2), 0x2000 + 512 * t + k.cf 0x890 4 9)
  else none

/-- AINC: the index of a selector advances after an access (R250, R285, R247). -/
def Core.autoInc (k : Core) (n : Nat) : Core :=
  let go : Nat → Nat → Nat → Nat → Core := fun sel ainc lo len =>
    if bit (k.get sel) ainc then k.put sel (setFld (k.get sel) lo len (k.cf sel lo len + 1)) else k
  if n = 0x619 then go 0x618 10 0 9
  else if n = 0x702 then go 0x700 10 0 9
  else if n = 0x891 then go 0x890 3 4 9
  else if n = 0x899 then go 0x898 12 0 12
  else k

/-! ### Reads (R83, R86) -/

/-- What a CSR reads as, without the side effects of a read. -/
def State.csrPeek (s : State) (c n : Nat) : Word :=
  let k := s.core c
  let v := k.get n
  if n = 0 then BitVec.ofNat 32 (s.relAddr c)
  else if n = 2 then (v &&& 9#32) ||| (if bit (k.get 0x17) 7 then 0x10#32 else 0)
  else if n = 3 then k.pc &&& 0x7FFC#32
  else if n = 0x17 then k.tpend
  else if n = 0x22 then s.sclk.setWidth 32
  else if n = 0x23 then (s.sclk >>> 32).setWidth 32
  else if n = 0x147 then
    BitVec.ofNat 32 (k.waitByte 0 + k.waitByte 1 * 2 ^ 8 + k.waitByte 2 * 2 ^ 16 + k.waitByte 3 * 2 ^ 24)
  else if n = 0x148 then BitVec.ofNat 32 (k.waitByte 4)
  else if 0x210 ≤ n ∧ n < 0x250 ∧ n % 8 = 7 then k.rqState ((n - 0x210) / 8)
  else if 0x260 ≤ n ∧ n < 0x2A0 then k.txWord ((n - 0x260) / 4) (n % 4)
  else if n = 0x2C3 then
    (v &&& 0xFFFF0000#32) |||
      BitVec.ofNat 32 ((List.range 16).map fun i => if (k.ctxs.get none0 i).isSome then 2 ^ i else 0).sum
  else if n = 0x301 then k.rvStat
  else if n = 0x401 then s.engStat c 0
  else if n = 0x501 then s.engStat c 1
  else if n = 0x600 then s.engStat c 2
  else if 0x610 ≤ n ∧ n < 0x618 then
    let b := k.selBank 1 (bit (k.get 0x618) 9)
    setBit (k.t (bkt b (0x1200 + (n - 0x610)))) 31 (k.epValid b (n - 0x610))
  else if n = 0x621 then
    (v &&& 0x10000#32) ||| BitVec.ofNat 32 ((List.range 10).map fun i => if k.busy i then 2 ^ i else 0).sum
  else if n = 0x629 then
    if !k.veIdle then 0
    else if bit (k.get 0x628) 10 then k.vmask (k.cf 0x628 0 3)
    else k.vreg (k.cf 0x628 0 5) (k.cf 0x628 5 5)
  else if 0x708 ≤ n ∧ n < 0x710 then
    let b := k.selBank 0 (bit (k.get 0x700) 9)
    setBit (k.t (bkt b (0x800 + (n - 0x708)))) 31 (k.ftValid b (n - 0x708))
  else if 0x810 ≤ n ∧ n < 0x830 then k.fmtWord (n - 0x810)
  else if 0x830 ≤ n ∧ n < 0x834 then ufWord (k.t (bkt (1 - k.bank 9) (0x4100 + (n - 0x830))))
  else if n = 0x841 then
    BitVec.ofNat 32 ((List.range 8).map fun t =>
      (if k.cbValid (k.bank 8) t then 2 ^ t else 0) + (if k.cbValid (1 - k.bank 8) t then 2 ^ (t + 8) else 0)).sum
  else if n = 0x851 then
    let b := k.selBank 6 (bit (k.get 0x850) 6)
    setBit (k.t (bkt b (0x3000 + 4 * k.cf 0x850 0 6))) 31 (k.seCfg b (k.cf 0x850 0 6)).valid
  else if 0x855 ≤ n ∧ n < 0x86A then k.seS (k.cf 0x850 0 6) (n - 0x855)
  else if n = 0x899 then k.t (histKey (k.cf 0x898 0 12))
  else if n = 0x8B2 then (v &&& 7#32) ||| BitVec.ofNat 32 k.waitRoll
  else match k.tableWord n with
    | some (_, b, j) => k.t (bkt b j)
    | none => v

/-- The high halves whose read latches the low half (R86). -/
def csrHiHalf (n : Nat) : Bool :=
  n ∈ [0x21, 0x23, 0x25, 0x51, 0x53, 0x144, 0x205, 0x207, 0x2B1, 0x2B3, 0x2C5, 0x303, 0x403, 0x405, 0x407, 0x409, 0x503,
    0x505, 0x507, 0x509, 0x603, 0x605, 0x607, 0x609, 0x85B, 0x85D, 0x861, 0x863, 0x865, 0x867, 0x869]

/-- The bit of `Core.ticked` that stands for a down-counter. -/
def tickBit (n : Nat) : Option Nat := if n = 0x29 then some 0 else if n = 0x2D then some 1 else if n = 0x31 then some 2 else none

/-- Counts of cycles or time, which the model does not follow: CC_CYCLE, and a down-counter that may have counted since it was last seen
(log entry 5). -/
def Core.timed (k : Core) (n : Nat) : Bool :=
  n == 0x20 || n == 0x21 || match tickBit n with
    | some b => k.ticked.testBit b && k.get n != 0
    | none => false

/-- Time has passed for a count: CC_CYCLE has risen by a free amount, a down-counter has fallen to a free value that is not yet 0, and
stays there once it no longer ticks. -/
def Core.pass (k : Core) (n : Nat) (w : Word) : Core :=
  match tickBit n with
  | some b =>
    { k.put n (BitVec.ofNat 32 (1 + w.toNat % (k.get n).toNat)) with
        ticked := if k.ticking && k.counting.testBit b then k.ticked else k.ticked &&& (7 - 2 ^ b) }
  | none => k.addTime 0x20 w.toNat

/-- The value of a CSR, with time brought up to date where it counts time. -/
def State.csrValue (s : State) (c n : Nat) : State × Word :=
  let s := if (s.core c).timed n then
      let (w, s) := s.freeVal
      s.modCore c fun k => k.pass n w
    else if 0x2B0 ≤ n ∧ n < 0x2B4 then s.stallTick c else s
  (s, s.csrPeek c n)

/-- A read of a CSR that has a register, with its side effects (R83, R86, R285). -/
def State.csrRead (s : State) (c n : Nat) : State × Word :=
  match findCsr n with
  | none => (s, 0)
  | some r =>
    match (s.core c).latch.get none0 n with
    | some v => (s.modCore c fun k => { k with latch := k.latch.set none0 n none }, v)
    | none =>
      let (s, v) := s.csrValue c n
      let v := readCode r v
      let s := if csrHiHalf n then
          let lo := s.csrPeek c (n - 1)
          s.modCore c fun k => { k with latch := k.latch.set none0 (n - 1) (some lo) }
        else s
      let s := s.modCore c fun k =>
        let k := k.autoInc n
        if n = 0x629 ∧ !k.veIdle then k.orCsr 0x600 0x400 else k
      (s, v)

/-! ### Writes -/

/-- Whether a bf16 headroom entry is +0 or positive, finite and normal (R236). -/
def hrOk (x : Nat) : Bool := x == 0 || (decide (0x80 ≤ x) && decide (x < 0x7F80))

/-- A σ that R240 accepts. -/
def sigmaOk (w : Word) : Bool := decide (0x00800000 ≤ w.toNat) && decide (w.toNat < 0x7F800000)

/-- A write of QZ_LS_CTL with GO (R240, R251); the address of an uncorrectable word, if it met one. -/
def State.lsGo (s : State) (c : Nat) (v : Word) : State × Option Nat :=
  let a := 32 * fld v 0 13
  let n := if bit v 16 then 1 else 512
  let bad : State → Nat → State × Option Nat := fun s i =>
    (s.modCore c fun k => (k.orCsr 0x8B2 2).put 0x8A2 (BitVec.ofNat 32 i), none)
  if !inSpad a (4 * n) then bad s ((spadSize - a) / 4)
  else
    let (s, b, ue) := s.spadRead c a (4 * n) 6 1
    match ue with
    | some w => (s, some w)
    | none =>
      let sg : List Word := (List.range n).map fun i => BitVec.ofNat 32 (leAt b (4 * i) 4)
      match (List.range n).find? fun i => !sigmaOk (sg.getD i 0) with
      | some i => bad s i
      | none =>
        let k := s.core c
        let t := fld v 13 2
        let m := f32 (k.get 0x8A1)
        let op : Word → Nat × FFlags := fun w => if bit v 15 then fDiv fmt32 0 m (f32 w) else fMul fmt32 0 m (f32 w)
        let one := op (sg.getD 0 0)
        let rs := (List.range 512).map fun i => if n = 1 then one else op (sg.getD i 0)
        let k := rs.foldl (fun k r => k.orCsr 0x801 r.2.toNat) k
        let k := (List.range 512).foldl (fun k i =>
          k.tabWrite (2 + t) (1 - k.bank (2 + t)) (0x2000 + 512 * t + i) (BitVec.ofNat 32 (rs.getD i (0, 0)).1)) k
        (s.setCore c k, none)

/-- Start-ups that wait for a roll are judged again (R237). -/
def State.rollAgain (s : State) (c : Nat) : State := ((s.mRollAgain c 0).mRollAgain c 1).vRollAgain c

/-- A software roll (R238, R239); both bits act as SKIP. -/
def State.qzRoll (s : State) (c : Nat) (v : Word) : State :=
  if bit v 0 || bit v 1 then (s.rollCore c ((s.core c).get 0x8A8) (!bit v 1) 1).rollAgain c else s

/-- A write of VE_SWAP (R276-R279). -/
def Core.veSwapWrite (k : Core) (v : Word) : Core :=
  if bit v 31 then k.swapCopy (fld v 0 10) else k.swap (fld v 0 10)

/-- Writes whose effect is more than the access codes give; `none` where the codes say all. -/
def State.csrHook (s : State) (c n : Nat) (v : Word) (r : RegDesc) : Option State :=
  let k := s.core c
  let plain := writeCode r (k.get n) v
  let keep : Core → Option State := fun k => some (s.setCore c k)
  if n = 2 then some (s.ctlWrite c k.rs v)
  else if n = 3 then keep (if k.rs = 0 then { k with pc := v &&& 0x7FFC#32 } else k)
  else if n = 0x29 ∨ n = 0x2D ∨ n = 0x28 ∨ n = 0x2C ∨ n = 0x30 then keep ((k.put n plain).retick n)
  else if n = 4 then keep (k.put 4 (if fld v 8 3 < 5 then plain else setFld plain 8 3 (k.cf 4 8 3)))
  else if n = 0x32 then keep (k.wdogKick v)
  else if n = 0x40 ∨ n = 0x41 then keep (if k.barw || k.bard then k else k.put n plain)
  else if n = 0x60 then keep (if bit v 3 then k.clearNan else k)
  else if n = 0x140 then keep (k.semInc (fld v 0 6)).1
  else if 0x210 ≤ n ∧ n < 0x250 then
    let q := (n - 0x210) / 8
    if n % 8 = 0 then some (s.rqCfgWrite c q v)
    else if n % 8 = 6 then some (s.tailWrite c q v.toNat)
    else keep (if k.rqMode q = 0 then k.put n plain else k)
  else if 0x2A8 ≤ n ∧ n < 0x2B0 then keep (k.put n (setBit plain 30 true))
  else if n = 0x2C0 then keep (if k.ctxs.isEmpty then k.put n plain else k.rdErr 6 0)
  else if n = 0x2C1 then some (s.rdOpen c (fld v 0 4))
  else if n = 0x2C2 then some (s.rdClose c (fld v 0 4))
  else if n = 0x300 then keep (if 1 ≤ fld v 0 7 ∧ fld v 0 7 ≤ 64 then k.put n plain else k)
  else if n = 0x400 ∨ n = 0x500 then
    let s := s.setCore c (k.put n plain)
    some (if bit v 1 then s.holdrel c ((n - 0x400) / 0x100) else s)
  else if n = 0x620 then keep (k.veSwapWrite v)
  else if n = 0x629 then
    keep (if !k.veIdle then k.orCsr 0x600 0x400
      else if bit (k.get 0x628) 10 then k.setT (vmaskKey (k.cf 0x628 0 3)) v
      else k.setVreg (k.cf 0x628 0 5) (k.cf 0x628 5 5) v)
  else if 0x810 ≤ n ∧ n < 0x830 then keep k
  else if csrHiHalf n ∧ r.w1c.testBit 31 then
    -- writing 1 to SAT clears SAT and COUNT together (R671)
    let e := k.cf 0x850 0 6
    if !bit v 31 then some s
    else if 0x855 ≤ n ∧ n < 0x86A then keep ((k.setSe e (n - 0x855) 0).setSe e (n - 0x856) 0)
    else keep ((k.put n 0).put (n - 1) 0)
  else if 0x855 ≤ n ∧ n < 0x86A then
    let e := k.cf 0x850 0 6
    keep (k.setSe e (n - 0x855) (writeCode r (k.seS e (n - 0x855)) v))
  else if 0x870 ≤ n ∧ n < 0x880 then
    keep (if hrOk (fld v 0 16) then k.tabWrite 7 (1 - k.bank 7) (0x3800 + (n - 0x870)) (BitVec.ofNat 32 (fld v 0 16))
      else k.orCsr 0x8B2 1)
  else if n = 0x899 then keep ((k.setT (histKey (k.cf 0x898 0 12)) v).autoInc n)
  else if n = 0x8A9 then some (s.qzRoll c v)
  else match k.tableWord n with
    | some (kind, b, j) => keep ((k.tabWrite kind b j (writeCode r (k.t (bkt b j)) v)).autoInc n)
    | none => none

/-- A write of a CSR that has a register; the address of an uncorrectable scratchpad word it met (R251). -/
def State.csrWrite (s : State) (c n : Nat) (v : Word) : State × Option Nat :=
  match findCsr n with
  | none => (s, none)
  | some r =>
    if n = 0x8A0 then
      let s := s.modCore c fun k => k.put n (writeCode r (k.get n) v)
      if bit v 31 then s.lsGo c v else (s, none)
    else
      match s.csrHook c n v r with
      | some s => (s, none)
      | none => (s.modCore c fun k => k.put n (writeCode r (k.get n) v), none)

/-! ### The table and message-unit commands: writes of the registers they name -/

/-- A command that is a CSR write by the core or by the host; an uncorrectable word traps a running core (R251). -/
def State.csrCmd (s : State) (c n : Nat) (v : Word) : State :=
  if isCore c then
    match s.csrWrite c n v with
    | (s, none) => s
    | (s, some a) => if (s.core c).rs = 1 then s.exception c 6 (s.core c).pc (BitVec.ofNat 32 a) else s
  else s

def execRqTailWrite (c : Nat) (q : BitVec 3) (v : Word) (s : State) : Host.Outcome State Fault Refusal :=
  .next (s.csrCmd c (rqCsr q.toNat 6) v)

/-- A write that enables a queue (R128); one that would not enable it has no effect here. -/
def execRqEnable (c : Nat) (q : BitVec 3) (cfg : Word) (s : State) : Host.Outcome State Fault Refusal :=
  .next (if fld cfg 0 2 = 0 then s else s.csrCmd c (rqCsr q.toNat 0) cfg)

def execRqDisable (c : Nat) (q : BitVec 3) (s : State) : Host.Outcome State Fault Refusal :=
  .next (s.csrCmd c (rqCsr q.toNat 0) (setFld ((s.core c).get (rqCsr q.toNat 0)) 0 2 0))

def execRqWmWrite (c : Nat) (q : BitVec 3) (v : Word) (s : State) : Host.Outcome State Fault Refusal :=
  .next (s.csrCmd c (0x2A8 + q.toNat) v)

def execSemWrite (c : Nat) (n : BitVec 6) (v : Word) (s : State) : Host.Outcome State Fault Refusal :=
  .next (s.csrCmd c (0x100 + n.toNat) v)

def execSemSignal (c : Nat) (v : Word) (s : State) : Host.Outcome State Fault Refusal := .next (s.csrCmd c 0x140 v)

def execVeSwap (c : Nat) (kinds : BitVec 10) (s : State) : Host.Outcome State Fault Refusal :=
  .next (s.csrCmd c 0x620 (kinds.setWidth 32))

def execVeSwapCopy (c : Nat) (kinds : BitVec 10) (s : State) : Host.Outcome State Fault Refusal :=
  .next (s.csrCmd c 0x620 (setBit (kinds.setWidth 32) 31 true))

/-- An access of VE_VR_DATA; what a read returns goes to whoever asked. -/
def execVeVrData (c : Nat) (write : Bool) (v : Word) (s : State) : Host.Outcome State Fault Refusal :=
  .next (if write then s.csrCmd c 0x629 v else if isCore c then (s.csrRead c 0x629).1 else s)

/-- The data registers of the tables: element programs, function tables, code tables, rescale tables, history RAM. -/
def isTableData (n : Nat) : Bool :=
  n == 0x619 || n == 0x701 || n == 0x702 || n == 0x891 || n == 0x899 || (decide (0x848 ≤ n) && decide (n < 0x850))

def execTableDataAccess (c : Nat) (num : BitVec 12) (write : Bool) (v : Word) (s : State) :
    Host.Outcome State Fault Refusal :=
  .next (if isTableData num.toNat then
      if write then s.csrCmd c num.toNat v else if isCore c then (s.csrRead c num.toNat).1 else s
    else s)

def execQzFmtshWrite (c : Nat) (slot : BitVec 2) (v : Word) (s : State) : Host.Outcome State Fault Refusal :=
  .next (s.csrCmd c (0x830 + slot.toNat) v)

def execQzSeCfgWrite (c : Nat) (word : BitVec 2) (v : Word) (s : State) : Host.Outcome State Fault Refusal :=
  .next (s.csrCmd c (0x851 + word.toNat) v)

def execQzHrshWrite (c : Nat) (entry : BitVec 4) (v : Word) (s : State) : Host.Outcome State Fault Refusal :=
  .next (s.csrCmd c (0x870 + entry.toNat) v)

def execQzLsGo (c : Nat) (v : Word) (s : State) : Host.Outcome State Fault Refusal :=
  .next (s.csrCmd c 0x8A0 (setBit v 31 true))

def execQzRollCommit (c : Nat) (s : State) : Host.Outcome State Fault Refusal := .next (s.csrCmd c 0x8A9 1)
def execQzRollSkip (c : Nat) (s : State) : Host.Outcome State Fault Refusal := .next (s.csrCmd c 0x8A9 2)

end Sys2Proof.Machine
end

