-- ==== Sys2Proof/Machine/CoreSys.lean ====
section
/-!
DEFINITION. Fences, barriers, CSR instructions, the SYS instructions and interrupts (spec/02 R78-R83, R91-R97).
-/

namespace Sys2Proof.Machine

/-! ### FENCE (R78) -/

/-- Whether an engine has completed every descriptor issued to it. -/
def Core.engDone (k : Core) (e : Nat) : Bool := (k.eng e).queue.isEmpty && (k.eng e).jobs.isEmpty

def Core.fenceDone (k : Core) (mask : Nat) : Bool :=
  (!mask.testBit 0 || k.sendq.isEmpty) && (!mask.testBit 1 || (k.sacc.isEmpty && k.saccFar.isEmpty)) &&
    (!mask.testBit 2 || (List.range 4).all k.engDone) && (!mask.testBit 3 || k.engDone 4)

/-- A fence that has waited ends by its command, which says that the other devices have accepted what was sent to them: no packet of the
spec tells this device of it (R78, log entry 61). -/
def Core.farAccepted (k : Core) (mask : Nat) : Core := if mask.testBit 1 then { k with saccFar := [] } else k

def execFence (c : Nat) (rd ra : Reg) (imm : BitVec 16) (s : State) : Host.Outcome State Fault Refusal :=
  .next (s.instr c fun pc s =>
    if rd ≠ 0 ∨ ra ≠ 0 ∨ 16 ≤ imm.toNat then .exc s ILLEGAL 0
    else if (s.core c).fenceDone imm.toNat then .retire s (pc + 4)
    else .wait s (.fence imm.toNat))

/-! ### BAR (R79-R82) -/

/-- The participants of a phase that core c's arrival would begin; fenced cores are withdrawn (R80, R82). -/
def State.barParts (s : State) (c : Nat) (die : Bool) : List Nat :=
  let l := if die then
      (s.partCores (s.corePart c)).filter fun x => coreDie x == coreDie c && bit ((s.core x).get 0x41) 0
    else
      let m := (s.core c).cf 0x40 0 16
      ((List.range 16).filter m.testBit).map (clusterCore (coreCluster c))
  l.filter fun x => !s.isFenced x

/-- An arrival: its barrier with core c added, or the CC_TVAL of a BAR_FAULT (R80, R96). An arrival whose mask differs and which is no
participant either reports 2, the mask (DESIGN CHOICE, log entry 90: R80 gives no order). -/
def State.arrive (s : State) (c : Nat) (die : Bool) : Except Nat Barrier :=
  let cur := if die then s.barD.get none0 (dieKey s c) else s.barC.get none0 (coreCluster c)
  let m := (s.core c).cf 0x40 0 16
  match cur with
  | some b =>
    if !die ∧ b.mask ≠ m then .error 2
    else if c ∉ b.parts then .error 1
    else .ok { b with arrived := b.arrived ++ [c] }
  | none =>
    let parts := s.barParts c die
    if c ∈ parts then .ok ⟨m, parts, [c]⟩ else .error 1

/-- The part of BAR after its fence: the core arrives and waits. -/
def State.barArrive (s : State) (c : Nat) (imm : Nat) : IRes :=
  let die := imm.testBit 0
  match s.arrive c die with
  | .error v => .exc s 0xA (BitVec.ofNat 32 v)
  | .ok b =>
    let s := if die then { s with barD := s.barD.set none0 (dieKey s c) (some b) }
      else { s with barC := s.barC.set none0 (coreCluster c) (some b) }
    .wait (s.modCore c fun k => k.setStatusBit 5 true) (.bar imm)

/-- A phase whose last participant has just arrived releases. -/
def State.barPoke (s : State) (c imm : Nat) : State :=
  if imm.testBit 0 then
    match s.barD.get none0 (dieKey s c) with
    | some b => s.barSettle true (dieKey s c) b
    | none => s
  else
    match s.barC.get none0 (coreCluster c) with
    | some b => s.barSettle false (coreCluster c) b
    | none => s

def execBar (c : Nat) (rd ra : Reg) (imm : BitVec 16) (s : State) : Host.Outcome State Fault Refusal :=
  .next ((s.instr c fun pc s =>
    let k := s.core c
    if rd ≠ 0 ∨ ra ≠ 0 ∨ imm.toNat / 2 % 2 ^ 11 ≠ 0 then .exc s ILLEGAL 0
    else if k.bard then .retire (s.modCore c fun k => k.setStatusBit 6 false) (pc + 4)
    else if k.barw then .wait s (.bar imm.toNat)
    else if k.fenceDone (imm.toNat / 2 ^ 12) then s.barArrive c imm.toNat
    else .wait s (.bar imm.toNat)).barPoke c imm.toNat)

/-- A fence that was waited for is complete: FENCE retires, BAR arrives. -/
def execFenceComplete (c : Nat) (s : State) : Host.Outcome State Fault Refusal :=
  let k := s.core c
  .next (match k.wait with
    | some (.fence mask) =>
      if k.rs = 2 ∧ (k.farAccepted mask).fenceDone mask then s.modCore c fun k => (k.farAccepted mask).retire (k.pc + 4) else s
    | some (.bar imm) =>
      if k.rs = 2 ∧ !k.barw ∧ (k.farAccepted (imm / 2 ^ 12)).fenceDone (imm / 2 ^ 12) then
        let s := s.modCore c fun k => k.farAccepted (imm / 2 ^ 12)
        (s.finishInstr c (s.barArrive c imm)).barPoke c imm
      else s
    | _ => s)

/-! ### CSR (R83) -/

/-- How a CSR instruction combines the CSR and its operand: 0 RW, 1 RS, 2 RC. -/
def csrCombine (how : Nat) (old v : Word) : Word := if how = 0 then v else if how = 1 then old ||| v else old &&& ~~~v

/-- A CSR instruction: `opnd` is its operand and `writes` whether it writes. -/
def State.csrInstr (s : State) (c how : Nat) (rd : Reg) (num : BitVec 12) (opnd : State → Word) (writes : Bool) : State :=
  s.instr c fun pc s =>
    let n := num.toNat
    match findCsr n with
    | none => .exc s ILLEGAL 0
    | some r =>
      let v := opnd s
      let (s, old) :=
        if rd = 0 then
          let (s, x) := s.csrValue c n
          (s, readCode r x)
        else s.csrRead c n
      if !writes then IRes.put c pc s rd old
      else if n = 2 then
        let rs := (s.core c).rs
        .post (s.modCore c fun k => k.setS rd old) (pc + 4) fun s => s.ctlWrite c rs (csrCombine how old v)
      else
        match s.csrWrite c n (csrCombine how old v) with
        | (s, some a) => .exc s 6 (BitVec.ofNat 32 a)
        | (s, none) => IRes.put c pc s rd old

def execCsrrw (c : Nat) (rd ra : Reg) (num : BitVec 12) (s : State) : Host.Outcome State Fault Refusal :=
  .next (s.csrInstr c 0 rd num (fun s => (s.core c).s ra) true)
def execCsrrs (c : Nat) (rd ra : Reg) (num : BitVec 12) (s : State) : Host.Outcome State Fault Refusal :=
  .next (s.csrInstr c 1 rd num (fun s => (s.core c).s ra) (decide (ra ≠ 0)))
def execCsrrc (c : Nat) (rd ra : Reg) (num : BitVec 12) (s : State) : Host.Outcome State Fault Refusal :=
  .next (s.csrInstr c 2 rd num (fun s => (s.core c).s ra) (decide (ra ≠ 0)))
def execCsrrwi (c : Nat) (rd : Reg) (uimm : BitVec 5) (num : BitVec 12) (s : State) : Host.Outcome State Fault Refusal :=
  .next (s.csrInstr c 0 rd num (fun _ => uimm.setWidth 32) true)
def execCsrrsi (c : Nat) (rd : Reg) (uimm : BitVec 5) (num : BitVec 12) (s : State) : Host.Outcome State Fault Refusal :=
  .next (s.csrInstr c 1 rd num (fun _ => uimm.setWidth 32) (decide (uimm ≠ 0)))
def execCsrrci (c : Nat) (rd : Reg) (uimm : BitVec 5) (num : BitVec 12) (s : State) : Host.Outcome State Fault Refusal :=
  .next (s.csrInstr c 2 rd num (fun _ => uimm.setWidth 32) (decide (uimm ≠ 0)))

/-! ### SYS (R92) -/

/-- The required zeros of a SYS instruction with selector `sel`; [15:8] is free for TRAP alone. -/
def sysOk (sel : Nat) (rd ra : Reg) (imm : BitVec 16) : Bool :=
  rd == 0 && ra == 0 && imm.toNat % 256 == sel && (sel == 0 || decide (imm.toNat < 256))

def execTrap (c : Nat) (rd ra : Reg) (imm : BitVec 16) (s : State) : Host.Outcome State Fault Refusal :=
  .next (s.instr c fun _ s =>
    if sysOk 0 rd ra imm then .excAfter s 7 (BitVec.ofNat 32 (imm.toNat / 256)) else .exc s ILLEGAL 0)

def execBrk (c : Nat) (rd ra : Reg) (imm : BitVec 16) (s : State) : Host.Outcome State Fault Refusal :=
  .next (s.instr c fun _ s => if sysOk 1 rd ra imm then .exc s 8 0 else .exc s ILLEGAL 0)

/-- Return from a trap; ILLEGAL outside a handler (R90, R95). -/
def execTret (c : Nat) (rd ra : Reg) (imm : BitVec 16) (s : State) : Host.Outcome State Fault Refusal :=
  .next (s.instr c fun _ s =>
    if sysOk 2 rd ra imm && (s.core c).tm then .retire (s.modCore c Core.leaveTrap) ((s.core c).get 0x12)
    else .exc s ILLEGAL 0)

def execHalt (c : Nat) (rd ra : Reg) (imm : BitVec 16) (s : State) : Host.Outcome State Fault Refusal :=
  .next (s.instr c fun pc s =>
    if sysOk 3 rd ra imm then .post s (pc + 4) fun s => s.modCore c fun k => { k.setRs 0 with stepping := false }
    else .exc s ILLEGAL 0)

/-- The lowest enabled pending interrupt is taken (R93, R94). -/
def execInterrupt (c : Nat) (s : State) : Host.Outcome State Fault Refusal :=
  .next (if isCore c then (s.stallTick c).modCore c Core.takeIrq else s)

end Sys2Proof.Machine
end

