-- ==== Sys2Proof/Machine/CoreEvents.lean ====
section
/-!
DEFINITION. What reaches a core from outside it: messages, refusals, grants, closes, window accesses and alias writes
(spec/01 R42-R44, spec/02 R106, spec/03 R119-R130, R140-R142).
-/

namespace Sys2Proof.Machine

/-- Whether the payload read next meets an uncorrectable word, so that its credit is returned (R110). -/
def State.payloadBad (s : State) (c : Nat) : Bool :=
  match (s.core c).sendq with
  | [] => false
  | x :: _ => (s.spadRead c x.addr x.len 0xF1 0).2.2.isSome

/-- The message unit reads the oldest SEND payload; returned credit lets a waiting DMA transfer go on (R73, R110, R132). -/
def execSendPayloadRead (c : Nat) (s : State) : Host.Outcome State Fault Refusal :=
  .next (if isCore c && s.clocked c then
      if s.payloadBad c then (s.payloadRead c).dmaResume c else s.payloadRead c
    else s)

/-- Whether an item for a core of this device is the oldest of its kind between its two ends, so that order is kept (R129). -/
def State.firstMsg (s : State) (m : Msg) : Bool :=
  (s.net.find? fun x => match x with
    | .msg y => y.part == m.part && y.src == m.src && y.dst == m.dst && y.cls == m.cls && y.ch == m.ch
    | _ => false) == some (.msg m)

/-- A message in flight arrives at its destination core (R119-R123, R127). A broadcast datagram is for every device (R129, R470). -/
def execMessageArrival (m : Msg) (s : State) : Host.Outcome State Fault Refusal :=
  .next (if s.firstMsg m && s.isOwn (addrDev m.dst) then { s with net := s.net.erase (.msg m) }.deliver m else s)

/-- A refusal arrives at the source of a datagram (R123), or at the unit that made it under the address no core has (R325, R542). -/
def execRefusal (r : Refused) (s : State) : Host.Outcome State Fault Refusal :=
  .next (if NetItem.refusal r ∈ s.net ∧ (s.isOwn (addrDev r.dst) ∨ r.dst = 0xFFFFFFFF) then
      { s with net := s.net.erase (.refusal r) }.refusalAt r else s)

/-- A grant arrives at a source core; a DMA transfer that waited for credit goes on (R125, R132). -/
def execGrant (g : Grant) (s : State) : Host.Outcome State Fault Refusal :=
  .next (if NetItem.grant g ∈ s.net ∧ s.isOwn (addrDev g.dst) then
      let s := { s with net := s.net.erase (.grant g) }.grantAt g
      match s.toUnit g.part g.dst with
      | some c => if s.clState (coreCluster c) = 3 then s else s.dmaResume c
      | none => s
    else s)

/-- A close arrives at a source core (R120, R128, R130). -/
def execStreamClose (x : Close) (s : State) : Host.Outcome State Fault Refusal :=
  .next (if NetItem.close x ∈ s.net ∧ s.isOwn (addrDev x.dst) then
      { s with net := s.net.erase (.close x) }.closeAt x else s)

/-! ### Core-access windows (R42-R44, R106, R110, R140) -/

def selKey (f n : Nat) : Nat := fnKey f (0x7F000 + 4 * n)

/-- An access that leads to no register, or has the wrong size: recorded in the error log (R16, R41, R727). -/
def State.badAccess (s : State) (f off size : Nat) (write : Bool) (cause : Nat) : State :=
  s.log { level := 0x44, unit := 17, cause := cause, action := 7, part := if cause = 3 then none else some f, loc := f,
          d1 := off, d2 := size % 16 + if write then 16 else 0 }

/-- The core a window selects, if it may be reached (R33, R43, R44). -/
def State.winCore (s : State) (f n : Nat) : Option Nat :=
  let w := s.reg (selKey f n)
  let a := fld w 0 7 + fld w 8 7 * 256
  if !bit w 31 then none
  else
    match s.toCore f a with
    | some c => if 2 ≤ s.clState (coreCluster c) then none else some c
    | none => none

/-- An access to 4 bytes of a core at a window offset, with the value a read returns; `none` where it is refused (R42, R106, R110). An
uncorrectable word is met by scratchpad accesses and by a write of QZ_LS_CTL (R251), whose other effects stay; a read of an instruction
word with an uncorrectable error is refused (DESIGN CHOICE, log entry 39: R106 does not say what it returns). -/
def State.winAccess (s : State) (c off : Nat) (write : Bool) (v : Word) : Option (State × Word × Bool) :=
  let k := s.core c
  let done : State → Option (State × Word × Bool) := fun s => some (s, 0, false)
  if off < 0x4000 then
    let n := off / 4
    if k.rs = 4 ∧ n < 0x100 ∧ write then done s
    else if write then
      let r := s.csrWrite c n v
      some (r.1, 0, r.2.isSome)
    else
      let r := s.csrRead c n
      some (r.1, r.2, false)
  else if k.rs = 4 then none
  else if off < 0x10000 then
    let a := off - 0x8000
    if write then
      if k.rs = 0 ∨ k.rs = 3 then done (s.setCore c (k.imemWrite a (leBytes 4 v.toNat))) else none
    else if 2 ≤ k.imemErr.get nat0 (a / 4) then none
    else some (s, BitVec.ofNat 32 (leNat (k.imem.getN byte0 a 4)), false)
  else
    let a := off - 0x10000
    if write then
      let r := s.spadWrite c a (leBytes 4 v.toNat) 6 7
      some (r.1, 0, r.2.isSome)
    else
      let (s, d, ue) := s.spadRead c a 4 6 7
      some (s, if ue.isSome then 0 else BitVec.ofNat 32 (leNat d), ue.isSome)

/-- One 32-bit access through window n of function f; a read that is refused returns 0. -/
def State.winOne (s : State) (f n off : Nat) (write : Bool) (v : Word) : State × Word :=
  let err : State → State := fun s => s.orReg (selKey f n) (2 ^ 30)
  let mapped := (decide (off < 0x4000) && (findCsr (off / 4)).isSome) || (decide (0x8000 ≤ off) && decide (off < 0xE000)) ||
    decide (0x10000 ≤ off)
  if !mapped then (s.badAccess f (0x1000000 + n * 0x40000 + off) 4 write 2, 0)
  else
    match s.winCore f n with
    | none => (err s, 0)
    | some c0 =>
      let s := (s.wakeRoute (siteDie 0) (coreDie c0)).wakeFor (coreCluster c0)
      let c := s.servedBy c0
      match s.winAccess c off write v with
      | none => (err s, 0)
      | some (s, w, bad) => (if bad then err s else s, w)

/-- A read of a BAR by function f is answered. -/
def State.answer (s : State) (f : Nat) (write : Bool) (data : List Byte) : State :=
  if write then s else { s with out := s.out ++ [OutItem.completion f data false] }

/-- An aligned access of 4 or 8 bytes, 8 as two of 4, the lower first; any other size is refused (R16). -/
def State.access (s : State) (f off : Nat) (write : Bool) (size : Nat) (v : DWord)
    (one : State → Nat → Word → State × Word) : State :=
  if size = 4 ∧ off % 4 = 0 then
    let (s, a) := one s off (v.setWidth 32)
    s.answer f write (leBytes 4 a.toNat)
  else if size = 8 ∧ off % 8 = 0 then
    let (s, a) := one s off (v.setWidth 32)
    let (s, b) := one s (off + 4) ((v >>> 32).setWidth 32)
    s.answer f write (leBytes 4 a.toNat ++ leBytes 4 b.toNat)
  else (s.badAccess f off size write 1).answer f write (List.replicate size 0)

/-- An access of the host through a core-access window. -/
def execCoreWindowAccess (f : BitVec 6) (win : BitVec 4) (off : BitVec 18) (write : Bool) (size : Nat) (v : DWord) (s : State) :
    Host.Outcome State Fault Refusal :=
  .next (if s.decodes f.toNat then
      s.access f.toNat (0x1000000 + win.toNat * 0x40000 + off.toNat) write size v fun s o w =>
        s.winOne f.toNat win.toNat (o % 0x40000) write w
    else s)

/-- A write of MU_CL_ALIASi (R141). -/
def execAliasWrite (cl : Nat) (idx : BitVec 4) (v : Word) (s : State) : Host.Outcome State Fault Refusal :=
  .next (if cl < 640 then s.setAlias cl idx.toNat v else s)

end Sys2Proof.Machine
end

