-- ==== Sys2Proof/Machine/CoreFp.lean ====
section
/-!
DEFINITION. Scalar binary32 instructions of the control core (spec/02 R61-R65).
-/

namespace Sys2Proof.Machine

/-- Whether an FP operation rounds, and whether it takes RB; `none` for a reserved FN (R61). -/
def fpShape (fn : Nat) : Option (Bool × Bool) :=
  if fn ≤ 3 then some (true, true)
  else if fn = 4 then some (true, false)
  else if fn ≤ 0x0B then some (false, true)
  else if fn ≤ 0x0E then some (false, false)
  else if fn = 0x0F then some (false, true)
  else if fn ≤ 0x13 then some (true, false)
  else none

/-- The result of an FP operation (R61-R64). -/
def fpOp (fn : Nat) (mode : RMode) (a b : Word) : Word × FFlags :=
  let x := f32 a
  let y := f32 b
  let cmp := fun which => let r := fCmp which x y; (boolW r.1, r.2)
  match fn with
  | 0x00 => w32 (fAdd fmt32 mode x y)
  | 0x01 => w32 (fAdd fmt32 mode x y.neg1)
  | 0x02 => w32 (fMul fmt32 mode x y)
  | 0x03 => w32 (fDiv fmt32 mode x y)
  | 0x04 => w32 (fSqrt fmt32 mode x)
  | 0x05 => w32 (fMinMax fmt32 false x y)
  | 0x06 => w32 (fMinMax fmt32 true x y)
  | 0x07 => w32 (fMinMaxN fmt32 false x y)
  | 0x08 => w32 (fMinMaxN fmt32 true x y)
  | 0x09 => cmp 0
  | 0x0A => cmp 1
  | 0x0B => cmp 2
  | 0x0C => (BitVec.ofNat 32 (fClass a), 0)
  | 0x0D => (a ^^^ 0x80000000#32, 0)
  | 0x0E => (a &&& 0x7FFFFFFF#32, 0)
  | 0x0F => ((a &&& 0x7FFFFFFF#32) ||| (b &&& 0x80000000#32), 0)
  | 0x10 => w32 (roundTo fmt32 mode (Fv.ofInt (sint a)))
  | 0x11 => w32 (roundTo fmt32 mode (Fv.ofInt a.toNat))
  | 0x12 => w32 (fToInt false mode x)
  | _ => w32 (fToInt true mode x)

/-- The rounding mode of a code: 7 takes CC_FCSR.RM, 5 and 6 are ILLEGAL (R61). -/
def Core.rmode (k : Core) (code : Nat) : Option RMode :=
  if code = 7 then some (k.cf 4 8 3) else if code ≤ 4 then some code else none

/-- Write an fp32 result with its flags; a first NaN produced by the core traps after completion (R65, R183). -/
def State.fpResult (s : State) (c : Nat) (pc : Word) (rd : Reg) (r : Word × FFlags) : IRes :=
  let k := (s.core c).setS rd r.1
  let k := k.orCsr 4 r.2.toNat
  if r.2 &&& flNP ≠ 0 ∧ !bit (k.get 0x60) 3 ∧ bit (k.get 0x800) 4 then
    .excAfter (s.setCore c (k.captureNan 4 1 (k.cf 0x802 0 16) 0 pc.toNat 0 0 0 0)) 9 pc
  else .retire (s.setCore c k) (pc + 4)

def execFp (c : Nat) (rd ra rb rc : Reg) (fn : BitVec 6) (s : State) : Host.Outcome State Fault Refusal :=
  .next (s.instr c fun pc s =>
    let k := s.core c
    match fpShape fn.toNat with
    | none => .exc s ILLEGAL 0
    | some (rounds, two) =>
      if 8 ≤ rc.toNat ∨ (!two ∧ rb ≠ 0) then .exc s ILLEGAL 0
      else
        match (if rounds then k.rmode rc.toNat else some 0) with
        | none => .exc s ILLEGAL 0
        | some m => s.fpResult c pc rd (fpOp fn.toNat m (k.s ra) (k.s rb)))

/-- FMADD, FMSUB, FNMSUB, FNMADD (R61, R62). -/
def fmaOp (var : Nat) (mode : RMode) (a b d : Word) : Word × FFlags :=
  let x := if 2 ≤ var then (f32 a).neg1 else f32 a
  let z := if var = 1 ∨ var = 3 then (f32 d).neg1 else f32 d
  w32 (fFma fmt32 mode x (f32 b) z)

def execFma (c : Nat) (rd ra rb rc : Reg) (fn : BitVec 6) (s : State) : Host.Outcome State Fault Refusal :=
  .next (s.instr c fun pc s =>
    let k := s.core c
    if 32 ≤ fn.toNat then .exc s ILLEGAL 0
    else
      match k.rmode (fn.toNat / 4) with
      | none => .exc s ILLEGAL 0
      | some m => s.fpResult c pc rd (fmaOp (fn.toNat % 4) m (k.s ra) (k.s rb) (k.s rc)))

end Sys2Proof.Machine
end

