-- ==== Sys2Proof/Machine/CoreMem.lean ====
section
/-!
DEFINITION. Loads, stores, branches and jumps of the control core (spec/02 R59, R60).
-/

namespace Sys2Proof.Machine

/-- A load of n bytes; MISALIGN, ACCESS and SPAD_UE in that order (R59, R90). -/
def State.loadInstr (s : State) (c : Nat) (rd ra : Reg) (imm : BitVec 16) (n : Nat) (signed : Bool) : State :=
  s.instr c fun pc s =>
    let a := (s.core c).s ra + sx16 imm
    if a.toNat % n ≠ 0 then .exc s 4 a
    else if !inSpad a.toNat n then .exc s 5 a
    else
      match s.spadRead c a.toNat n 6 1 with
      | (s, _, some _) => .exc s 6 a
      | (s, d, none) =>
        IRes.put c pc s rd (if signed then wordOfInt (sfld (leNat d) 0 (8 * n)) else BitVec.ofNat 32 (leNat d))

/-- A store of n bytes; a partly written uncorrectable word stays unwritten without a trap (R59, R110). -/
def State.storeInstr (s : State) (c : Nat) (rd ra : Reg) (imm : BitVec 16) (n : Nat) : State :=
  s.instr c fun pc s =>
    let a := (s.core c).s ra + sx16 imm
    if a.toNat % n ≠ 0 then .exc s 4 a
    else if !inSpad a.toNat n then .exc s 5 a
    else .retire (s.spadWrite c a.toNat (leBytes n ((s.core c).s rd).toNat) 6 0).1 (pc + 4)

def execLb (c : Nat) (rd ra : Reg) (imm : BitVec 16) (s : State) : Host.Outcome State Fault Refusal :=
  .next (s.loadInstr c rd ra imm 1 true)
def execLbu (c : Nat) (rd ra : Reg) (imm : BitVec 16) (s : State) : Host.Outcome State Fault Refusal :=
  .next (s.loadInstr c rd ra imm 1 false)
def execLh (c : Nat) (rd ra : Reg) (imm : BitVec 16) (s : State) : Host.Outcome State Fault Refusal :=
  .next (s.loadInstr c rd ra imm 2 true)
def execLhu (c : Nat) (rd ra : Reg) (imm : BitVec 16) (s : State) : Host.Outcome State Fault Refusal :=
  .next (s.loadInstr c rd ra imm 2 false)
def execLw (c : Nat) (rd ra : Reg) (imm : BitVec 16) (s : State) : Host.Outcome State Fault Refusal :=
  .next (s.loadInstr c rd ra imm 4 false)
def execSb (c : Nat) (rd ra : Reg) (imm : BitVec 16) (s : State) : Host.Outcome State Fault Refusal :=
  .next (s.storeInstr c rd ra imm 1)
def execSh (c : Nat) (rd ra : Reg) (imm : BitVec 16) (s : State) : Host.Outcome State Fault Refusal :=
  .next (s.storeInstr c rd ra imm 2)
def execSw (c : Nat) (rd ra : Reg) (imm : BitVec 16) (s : State) : Host.Outcome State Fault Refusal :=
  .next (s.storeInstr c rd ra imm 4)

/-- A branch (R60). -/
def State.branch (s : State) (c : Nat) (ra rb : Reg) (off : BitVec 16) (cond : Word → Word → Bool) : State :=
  s.instr c fun pc s =>
    .retire s (if cond ((s.core c).s ra) ((s.core c).s rb) then pc + 4 * sx16 off else pc + 4)

def execBeq (c : Nat) (ra rb : Reg) (off : BitVec 16) (s : State) : Host.Outcome State Fault Refusal :=
  .next (s.branch c ra rb off fun a b => a == b)
def execBne (c : Nat) (ra rb : Reg) (off : BitVec 16) (s : State) : Host.Outcome State Fault Refusal :=
  .next (s.branch c ra rb off fun a b => a != b)
def execBlt (c : Nat) (ra rb : Reg) (off : BitVec 16) (s : State) : Host.Outcome State Fault Refusal :=
  .next (s.branch c ra rb off fun a b => decide (sint a < sint b))
def execBge (c : Nat) (ra rb : Reg) (off : BitVec 16) (s : State) : Host.Outcome State Fault Refusal :=
  .next (s.branch c ra rb off fun a b => decide (sint b ≤ sint a))
def execBltu (c : Nat) (ra rb : Reg) (off : BitVec 16) (s : State) : Host.Outcome State Fault Refusal :=
  .next (s.branch c ra rb off fun a b => decide (a.toNat < b.toNat))
def execBgeu (c : Nat) (ra rb : Reg) (off : BitVec 16) (s : State) : Host.Outcome State Fault Refusal :=
  .next (s.branch c ra rb off fun a b => decide (b.toNat ≤ a.toNat))

def execJal (c : Nat) (rd : Reg) (off : BitVec 21) (s : State) : Host.Outcome State Fault Refusal :=
  .next (s.instr c fun pc s =>
    .retire (s.modCore c fun k => k.setS rd (pc + 4)) (pc + 4 * off.signExtend 32))

def execJalr (c : Nat) (rd ra : Reg) (imm : BitVec 16) (s : State) : Host.Outcome State Fault Refusal :=
  .next (s.instr c fun pc s =>
    .retire (s.modCore c fun k => k.setS rd (pc + 4)) (((s.core c).s ra + sx16 imm) &&& 0xFFFFFFFC#32))

end Sys2Proof.Machine
end

