-- ==== Sys2Proof/Machine/Update.lean ====
section
/-!
DEFINITION. The update engines: run tables, rows and groups, the snapshot, the recurrence, copies and their publishing, REEMIT and
REAPPLY, and the mirror of every state write (spec/09; spec/15 R520-R531, R536).
-/

namespace Sys2Proof.Machine

/-! ### Registers of the units -/

def ueKey (t o : Nat) : Nat := 0x400000 + 0x20000 * t + o
/-- The partition block of site 1 (R363). -/
def uePart (p o : Nat) : Nat := 0x422000 + 0x40 * p + o
def cmKey (p o : Nat) : Nat := 0xA0000 + 0x200 * p + o

/-- The states SA and SB of a partition's steps (R329). -/
def State.sa (s : State) (p : Nat) : Nat := s.regFld (stKey p 4) 0 2
def State.sb (s : State) (p : Nat) : Nat := s.regFld (stKey p 4) 2 3
def State.setSa (s : State) (p v : Nat) : State := s.setRegFld (stKey p 4) 0 2 v
def State.setSb (s : State) (p v : Nat) : State := s.setRegFld (stKey p 4) 2 3 v
/-- Whether a step of the partition is open (R290). -/
def State.stepOpen (s : State) (p : Nat) : Bool := s.sa p != 0 || s.sb p != 0

def State.apply (s : State) (p : Nat) : Option Apply := s.applies.get none0 p
def State.setApply (s : State) (p : Nat) (a : Option Apply) : State := { s with applies := s.applies.set none0 p a }
def State.modApply (s : State) (p : Nat) (f : Apply → Apply) : State := s.setApply p ((s.apply p).map f)

/-- An event of the partition's update engines (R363). -/
def State.ueEvent (s : State) (p b : Nat) : State := s.evSet (uePart p 0x1C) (2 ^ b) (192 + p)

/-- UE_ERR0 to UE_ERR3 of a tile hold the first event (R362). -/
def State.ueCapture (s : State) (t cause p run blk elem step detail : Nat) : State :=
  if bit (s.reg (ueKey t 0x10)) 31 then s
  else
    let s := s.setReg (ueKey t 0x10) (BitVec.ofNat 32 (cause + p * 2 ^ 3 + run % 2 ^ 12 * 2 ^ 9 + 2 ^ 31))
    let s := s.setReg (ueKey t 0x14) (BitVec.ofNat 32 (blk % 2 ^ 24 + elem * 2 ^ 24))
    (s.setReg (ueKey t 0x18) (BitVec.ofNat 32 step)).setReg (ueKey t 0x1C) (BitVec.ofNat 32 detail)

/-! ### Run tables (R336, R337) -/

/-- Bytes of a state block by layout (R333). -/
def layoutSize : Nat → Nat
  | 0 => 448
  | 2 => 192
  | _ => 320

/-- Where s1 and s2 lie in a block, if the layout holds them (R333). -/
def layoutS1 : Nat → Option Nat
  | 0 => some 192
  | 1 => some 192
  | _ => none
def layoutS2 : Nat → Option Nat
  | 0 => some 320
  | 3 => some 192
  | _ => none

def parseRun (b : List Byte) : RunEnt :=
  { state := leAt b 0 6, layout := byteAt b 6 % 4, group := byteAt b 7, nblk := leAt b 8 3, rch := byteAt b 11,
    gidx := leAt b 12 4, vrec := leAt b 16 4 % 2 ^ 17, norec := (leAt b 16 4).testBit 31, coff := leAt b 20 3,
    last := (leAt b 20 4).testBit 31 }

/-- Cause 3 of R337: an entry breaks R336. -/
def State.runBad (s : State) (p : Nat) (b : List Byte) : Bool :=
  let r := parseRun b
  byteAt b 6 / 4 != 0 || nfld (leAt b 16 4) 17 14 != 0 || nfld (leAt b 20 4) 24 7 != 0 || leAt b 24 8 != 0 ||
    r.state % 64 != 0 || r.nblk == 0 || decide (s.regFld (uePart p 0) 8 9 ≤ r.group) ||
    (if r.norec then r.vrec != 0 || r.coff != 0 || r.last else decide (s.vrNum p ≤ r.vrec))

/-- Whether a run's extent lies in one master-state region of the partition on tile t, through the tile-local window (R335, R500). -/
def State.runPlaced (s : State) (p t : Nat) (r : RunEnt) : Bool :=
  let n := r.nblk * layoutSize r.layout
  let base := 0x800000000000 + t * 2 ^ 36
  decide (base ≤ r.state) && decide (r.state + n ≤ base + 2 ^ 36) &&
    match s.xlate p r.state, s.xlate p (r.state + n - 1) with
    | some (t1, o1), some (t2, o2) =>
      t1 == t && t2 == t && (List.range 16).any fun i =>
        let g := s.region t i
        g.valid && g.kind == 2 && g.part == p && decide (g.base * 4096 ≤ o1) && decide (o2 < (g.base + g.pages) * 4096)
    | _, _ => false

/-- Cause 5 of R337: the first entry at which the runs of one record are not consecutive, differ in group, or end in no LAST or in
more than one. -/
def runChainBad (l : List RunEnt) : Option Nat :=
  (List.range l.length).find? fun i =>
    match l[i]? with
    | none => false
    | some r =>
      !r.norec &&
        (let before := l.take i
         let same := before.filter fun q => !q.norec && q.vrec == r.vrec
         let prev := match before.getLast? with
           | some q => !q.norec && q.vrec == r.vrec
           | none => false
         let next := match l[i + 1]? with
           | some q => !q.norec && q.vrec == r.vrec
           | none => false
         (!same.isEmpty && !prev) || same.any (fun q => q.group != r.group || q.last) || (!next && !r.last))

/-- A read of device memory by the update engine of tile t; the dies on the way wake. -/
def State.ueRead (s : State) (t p a n : Nat) : State × MemRes :=
  (s.memRoute (siteDie t) p a n).dmRead p a n (.updateEngine t) 10

/-- The record operations of the update engine of tile t: the record's first line, or that it cannot be had. -/
def State.ueRecord (s : State) (t p i : Nat) : State × List Byte × Bool :=
  (s.memRoute (siteDie t) p (s.vrBase p + 128 * i) 32).recOpen p i (.updateEngine t) true

def State.runTab (s : State) (t p : Nat) : List RunEnt := s.runs.get (fun _ => []) (t * 64 + p)
def State.setRunTab (s : State) (t p : Nat) (l : List RunEnt) : State :=
  { s with runs := s.runs.set (fun _ => []) (t * 64 + p) l }
/-- Free entries of a tile's run cache, not counting what p holds (R337). -/
def State.runFree (s : State) (t : Nat) : Nat :=
  4096 - ((List.range 64).map fun p => (s.runTab t p).length).sum

/-- A write of ARM is refused (R337). -/
def State.armRefuse (s : State) (t p cause idx : Nat) : State :=
  let k := ueKey t (0x100C + 0x10 * p)
  let armed := s.regFld k 0 1
  s.setReg k (BitVec.ofNat 32 (armed + cause * 2 + 16 + idx % 4096 * 2 ^ 16))

/-- A write of ARM = 1: load the run table, or refuse it with the lowest cause that holds (R337). -/
def State.ueArm (s : State) (t p : Nat) : State :=
  let k := ueKey t (0x1000 + 0x10 * p)
  let n := s.regFld (k + 8) 0 13
  let a := s.reg64 k % 2 ^ 48
  if s.stepOpen p then s.armRefuse t p 1 0
  else if s.runFree t + (s.runTab t p).length < n then s.armRefuse t p 2 0
  else
    let (s, l) := (List.range n).foldl (fun (acc : State × List (Option (List Byte))) i =>
      match acc.1.ueRead t p (a + 32 * i) 32 with
      | (s, .ok d) => (s, acc.2 ++ [some d])
      | (s, _) => (s, acc.2 ++ [none])) (s, [])
    let es := l.map fun d => d.getD []
    let runs := es.map parseRun
    match l.findIdx? (· == none), es.findIdx? (s.runBad p), runs.findIdx? (fun r => !s.runPlaced p t r), runChainBad runs with
    | some i, none, none, none => s.armRefuse t p 6 i
    | some i, some j, _, _ => if i ≤ j then s.armRefuse t p 6 i else s.armRefuse t p 3 j
    | some i, none, some j, _ => if i ≤ j then s.armRefuse t p 6 i else s.armRefuse t p 4 j
    | some i, none, none, some j => if i ≤ j then s.armRefuse t p 6 i else s.armRefuse t p 5 j
    | none, some j, _, _ => s.armRefuse t p 3 j
    | none, none, some j, _ => s.armRefuse t p 4 j
    | none, none, none, some j => s.armRefuse t p 5 j
    | none, none, none, none => (s.setRegFld (k + 12) 0 1 1).setRunTab t p runs

def State.ueDisarm (s : State) (t p : Nat) : State :=
  if s.stepOpen p then s.armRefuse t p 1 0
  else (s.setRegFld (ueKey t (0x100C + 0x10 * p)) 0 1 0).setRunTab t p []

/-! ### Groups, rows and curves (R341-R349) -/

/-- Bank kinds of the update engine: the row table 2, a group 0x200 + g, a partition's curve base 128 + p. -/
def grpKind (g : Nat) : Nat := 0x200 + g
def crvKind (p : Nat) : Nat := 128 + p
def grpWordKey (g i : Nat) : Nat := 0x424000 + 0x20 * g + 4 * i
def rowKey (r i : Nat) : Nat := 0x427000 + 0x40 * r + 4 * i

def State.grpBase (s : State) (p : Nat) : Nat := s.regFld (uePart p 0) 0 8
def State.grpNum (s : State) (p : Nat) : Nat := s.regFld (uePart p 0) 8 9
/-- Word i of device group g in its active bank. -/
def State.grpWord (s : State) (g i : Nat) : Word := s.reg (bankKey (s.devBank (grpKind g)) (grpWordKey g i))
/-- Coefficient i of row r in bank b. -/
def State.rowWord (s : State) (b r i : Nat) : Word := s.reg (bankKey b (rowKey r i))

/-- VALID of a row (R341). -/
def State.rowValid (s : State) (b r : Nat) : Bool :=
  let k := s.rowWord b r 9
  let e := s.rowWord b r 10
  ((List.range 11).all fun i => !nonFin32 (s.rowWord b r i)) && (!bit k 31 || decide (k.toNat % 2 ^ 31 = 0)) &&
    !bit e 31 && decide (0x00800000 ≤ e.toNat)

/-- Swap the active bank of a device table. -/
def State.devSwap (s : State) (kind : Nat) : State :=
  { s with devAct := s.devAct.set nat0 kind (1 - s.devAct.get nat0 kind) }

/-- Copy words of the active bank of a kind into its shadow. -/
def State.devCopy (s : State) (kind : Nat) (keys : List Nat) : State :=
  let b := s.devBank kind
  keys.foldl (fun s k => s.setReg (bankKey (1 - b) k) (s.reg (bankKey b k))) s

/-- Swap GRP of a partition: its groups and its curve base (R349). -/
def State.swapGrp (s : State) (p : Nat) : State :=
  ((List.range (s.grpNum p)).foldl (fun s i => s.devSwap (grpKind (s.grpBase p + i))) s).devSwap (crvKind p)

/-- Requests of UE_SWAP that wait for their boundary: GRP of partition p, and ROW. -/
def grpSwapKind (p : Nat) : Nat := 0x1000 + p
def rowSwapKind : Nat := 0x2000

/-- A write of UE_SWAP (R277, R278, R349, R363): ROW counts only from the PF. A swap waits for its boundary, the start of a snapshot; until
then the shadow bank is the one that stood. DESIGN CHOICE (log entry 54): of two requests before one boundary the second undoes the first. A
bank is busy only while a snapshot runs, which the model makes at once. -/
def State.ueSwap (s : State) (p : Nat) (pf grp row copy : Bool) : State :=
  let row := row && pf
  if copy then
    let s := if grp then
        let s := (List.range (s.grpNum p)).foldl (fun s i =>
          s.devCopy (grpKind (s.grpBase p + i)) ((List.range 7).map (grpWordKey (s.grpBase p + i)))) s
        s.devCopy (crvKind p) [uePart p 4, uePart p 8]
      else s
    if row then s.devCopy 2 ((List.range 32).flatMap fun r => (List.range 11).map (rowKey r)) else s
  else
    let s := if grp then s.devSwap (grpSwapKind p) else s
    if row then s.devSwap rowSwapKind else s

/-- The swaps that wait for the start of partition p's snapshot take effect (R349). -/
def State.swapsDue (s : State) (p : Nat) : State :=
  let s := if s.devBank (grpSwapKind p) = 0 then s else (s.devSwap (grpSwapKind p)).swapGrp p
  if s.devBank rowSwapKind = 0 then s else (s.devSwap rowSwapKind).devSwap 2

/-- binary32 operations by RNE; the engine raises no flags. -/
def fma32 (a b c : Word) : Word := BitVec.ofNat 32 (fFma fmt32 0 (f32 a) (f32 b) (f32 c)).1
def div32 (a b : Word) : Word := BitVec.ofNat 32 (fDiv fmt32 0 (f32 a) (f32 b)).1
def sqrt32 (a : Word) : Word := BitVec.ofNat 32 (fSqrt fmt32 0 (f32 a)).1
def min32 (a b : Word) : Word := BitVec.ofNat 32 (fMinMax fmt32 false (f32 a) (f32 b)).1
def max32 (a b : Word) : Word := BitVec.ofNat 32 (fMinMax fmt32 true (f32 a) (f32 b)).1
def neg32 (a : Word) : Word := a ^^^ 0x80000000#32
def sub32 (a b : Word) : Word := BitVec.ofNat 32 (finish fmt32 0 [f32 a, f32 b] (exAdd false (f32 a) (f32 b).negate)).1
def ofU32 (n : Nat) : Word := BitVec.ofNat 32 (roundTo fmt32 0 (.fin false n 0)).1

/-- The segments of a curve of 1,024 bytes (R345): S, KIND, Y0, Y1 and whether its reserved bytes are 0, up to the first END. -/
structure Seg where
  s : Nat
  kind : Nat
  y0 : Word
  y1 : Word
  clean : Bool

def curveSegs (b : List Byte) : List Seg :=
  ((List.range 64).map fun j =>
    { s := leAt b (16 * j) 4, kind := byteAt b (16 * j + 4), y0 := BitVec.ofNat 32 (leAt b (16 * j + 8) 4),
      y1 := BitVec.ofNat 32 (leAt b (16 * j + 12) 4), clean := leAt b (16 * j + 5) 3 == 0 : Seg }).takeWhile (·.kind != 0)

/-- Whether a curve is well-formed (R345). A curve without a segment and a KIND that R345 does not name are not. -/
def curveOk (l : List Seg) : Bool :=
  (match l.head? with
    | some x => x.s == 0
    | none => false) &&
  (l.all fun x => x.clean && !nonFin32 x.y0 && !nonFin32 x.y1 && decide (x.kind ≤ 3)) &&
  ((List.range (l.length - 1)).all fun i => match l[i]?, l[i + 1]? with
    | some a, some b => decide (a.s < b.s)
    | _, _ => true) &&
  (match l.getLast? with
    | some x => x.kind != 1
    | none => false)

/-- pow(r, e) by squaring over the bits of e from the most significant (R346). -/
def pow32 (r : Word) (e : Nat) : Word :=
  ((List.range 32).reverse).foldl (fun x i =>
    let x := mul32 x x
    if e.testBit i then mul32 x r else x) 0x3F800000#32

/-- A well-formed curve at optimizer step n (R346). -/
def curveAt (l : List Seg) (n : Nat) : Word :=
  match ((List.range l.length).filter fun j => match l[j]? with
      | some x => decide (x.s ≤ n)
      | none => false).getLast? with
  | none => 0
  | some j =>
    match l[j]? with
    | none => 0
    | some x =>
      if x.kind = 1 then
        match l[j + 1]? with
        | some y => fma32 (sub32 x.y1 x.y0) (div32 (ofU32 (n - x.s)) (ofU32 (y.s - x.s))) x.y0
        | none => x.y0
      else if x.kind = 2 then mul32 x.y0 (pow32 x.y1 (n - x.s))
      else x.y0

/-- The factor a curve reference gives; `none` where the group must be applied as FROZEN (R346, R347). -/
def State.curveFactor (s : State) (p c n : Nat) (inv : Bool) : State × Option Word :=
  let (s, y) := if c = 0xFF then (s, some 0x3F800000#32)
    else
      let b := s.devBank (crvKind p)
      let a := (s.reg (bankKey b (uePart p 4))).toNat + 2 ^ 32 * s.regFld (bankKey b (uePart p 8)) 0 16
      match s.ueRead 1 p (a + 1024 * c) 1024 with
      | (s, .ok d) => if curveOk (curveSegs d) then (s, some (curveAt (curveSegs d) n)) else (s, none)
      | (s, _) => (s, none)
  match y with
  | none => (s, none)
  | some y =>
    if inv && c != 0xFF then
      let d := sub32 0x3F800000#32 y
      if (f32 d).isNan || bit d 31 || d.toNat == 0 then (s, none) else (s, some (div32 0x3F800000#32 d))
    else (s, some y)

/-- Group i of partition p at the snapshot (R347): its factors, or that it is not valid; `none` twice where it is FROZEN. -/
def State.snapGroup (s : State) (p i n : Nat) : State × Option (Option Factor) :=
  let g := s.grpBase p + i
  let w := s.grpWord g
  if bit (w 0) 0 then (s, none)
  else
    let b := s.devBank 2
    let row := fld (w 0) 8 5
    let (s, lrc) := s.curveFactor p (fld (w 0) 16 8) n false
    let (s, c1) := s.curveFactor p (fld (w 1) 0 8) n (bit (w 1) 8)
    let (s, kf) := s.curveFactor p (fld (w 1) 16 8) n (bit (w 1) 24)
    match lrc, c1, kf with
    | some lrc, some c1, some kf =>
      let lr := mul32 lrc (s.reg (0x426000 + 4 * g))
      let x : Factor :=
        { group := i, lr := lr, c1 := mul32 (s.rowWord b row 5) c1, k := mul32 (s.rowWord b row 9) kf, p := mul32 lr (w 2),
          gscale := w 3, clip := w 4, rlo := w 5, rhi := w 6, row := (List.range 11).map (s.rowWord b row) }
      let bad := !s.rowValid b row || [x.lr, x.c1, x.k, x.p, w 2, x.gscale, x.clip, lrc, c1, kf].any nonFin32 ||
        (bit x.clip 31 && decide (x.clip.toNat % 2 ^ 31 ≠ 0))
      (s, some (if bad then none else some x))
    | _, _, _ => (s, some none)

/-- The snapshot of step t (R347, R348): the factors of every group that is not frozen; GCFG for those applied as FROZEN. -/
def State.snapshot (s : State) (p t : Nat) : State × List Factor :=
  (List.range (s.grpNum p)).foldl (fun (acc : State × List Factor) i =>
    match acc.1.snapGroup p i (acc.1.reg (stKey p 0x20)).toNat with
    | (s, none) => (s, acc.2)
    | (s, some (some x)) => (s, acc.2 ++ [x])
    | (s, some none) => ((s.ueEvent p 1).ueCapture 1 5 p 0 0 0 t (s.grpBase p + i), acc.2)) (s, [])

/-- Step 3 of R319: the snapshot, at whose start waiting swaps take effect, and every tile with an armed table begins its runs. -/
def State.applyStart (s : State) (p t att : Nat) : State :=
  let (s, facs) := (s.swapsDue p).snapshot p t
  let tiles := (s.fuse.tiles.filter fun k => !(s.runTab k p).isEmpty).map fun k =>
    ({ tile := k, run := 0, blk := 0, wait := false, lost := false, ended := false, sums := [] } : UeTile)
  s.setApply p (some { step := t, att := att, opt := (s.reg (stKey p 0x20)).toNat, facs := facs, tiles := tiles, copies := [],
                       mirFailed := false, markSent := false, marked := false, restored := false, disarm := false })

/-! ### Frames the device's units send (R464, R465) -/

/-- The device address of a device id (R464). -/
def devAddr (id : Nat) : Nat := id * 65536 + 0x8000
def State.domOf (s : State) (p : Nat) : Nat := s.regFld (0x104100 + 4 * p) 0 16

/-- A frame a unit of the device sends for partition p to a device; HOPS and PRI are set as it is routed. -/
def State.sendWyn (s : State) (p cls sub ch seq dst : Nat) (rsp : Bool) (payload : List Byte) : State :=
  s.send (.wyn { cls := cls, nf := false, rg := false, rsp := rsp, lv := false, av := false, sub := sub, ch := ch, seq := seq,
                 dst := devAddr dst, src := devAddr s.devId, tag := s.domOf p, hops := 0, pri := 0, lseq := 0, lack := 0, ck := 0,
                 payload := payload })

/-! ### Comet's part in an apply (R520-R531) -/

def State.nextCmSeq (s : State) (t : Nat) : Nat × State :=
  let n := s.cmSeq.get nat0 t
  (n, { s with cmSeq := s.cmSeq.set nat0 t ((n + 1) % 65536) })

/-- A Comet request of tile t, recorded until its response (R523). -/
def State.cmSend (s : State) (p t kind sub ch step line len : Nat) (payload : List Byte) : State :=
  let (n, s) := s.nextCmSeq t
  let s := s.sendWyn p 5 sub ch n (s.regFld (cmKey p 0) 16 16) false payload
  { s with cmReqs := s.cmReqs ++ [{ part := p, tile := t, seq := n, kind := kind, step := step, line := line, len := len }] }

def words4 (a b c d : Nat) : List Byte := leBytes 4 a ++ leBytes 4 b ++ leBytes 4 c ++ leBytes 4 d

/-- A failure of the step's mirror: counted, STALE, MFAIL (R530). A step's mirror fails once. -/
def State.mirrorFail (s : State) (p : Nat) : State :=
  match s.apply p with
  | none => s
  | some a =>
    if a.mirFailed then s
    else
      let s := s.setApply p (some { a with mirFailed := true })
      let s := (s.bump (cmKey p 0x110) 1).orReg (cmKey p 4) 1
      s.evSet (cmKey p 0x20) 1 (256 + p)

/-- A window of a partition on site k (R521, R552). -/
def State.cmWin (s : State) (p k : Nat) : Option (Nat × Nat) :=
  let b := cmKey p (0x40 + 0x10 * k)
  if bit (s.reg (b + 8)) 31 then some (s.regFld b 0 24, s.regFld (b + 4) 0 25) else none

/-- Mirror a state write of tile t at tile-local offset o (R520, R521). -/
def State.mirror (s : State) (p t o : Nat) (d : List Byte) (step : Nat) : State :=
  if !bit (s.reg (cmKey p 0)) 0 then s
  else
    match s.cmWin p t with
    | none => s.mirrorFail p
    | some (base, pages) =>
      if base * 4096 ≤ o ∧ o + d.length ≤ (base + pages) * 4096 then
        let line := o / 64 - base * 64
        s.cmSend p t 0 0 (line / 128 % 4096) step line d.length (words4 t step line 0 ++ d)
      else s.mirrorFail p

/-- Mirrored bytes of a tile for partition p without acknowledgement, and whether a write of n bytes more must wait: at most OUT × 4 KiB
stand unacknowledged (R527). OUT = 0 acts as 1 (R550). -/
def State.mirOut (s : State) (p t : Nat) : Nat :=
  ((s.cmReqs.filter fun r => r.kind == 0 && r.tile == t && r.part == p).map (·.len)).sum
def State.waitMir (s : State) (p t n : Nat) : Bool :=
  bit (s.reg (cmKey p 0)) 0 && decide (max 1 (s.regFld (cmKey p 0) 8 8) * 4096 < s.mirOut p t + n)

/-- Whether the next state write of tile t waits for acknowledgements (R527, CM_STAT.WAITMIR). -/
def State.mirWaits (s : State) (p t : Nat) : Bool :=
  match s.apply p with
  | none => false
  | some a =>
    match a.tiles.find? fun u => u.tile == t with
    | none => false
    | some u =>
      match (s.runTab t p)[u.run]? with
      | none => false
      | some r => !u.ended && s.waitMir p t (layoutSize r.layout)

/-- Every update engine that holds an armed table has reported its state writes complete (R350, R352). -/
def Apply.reported (a : Apply) : Bool := a.tiles.all fun u => u.ended && !u.lost

/-- Once every mirror of the step is acknowledged, Comet of M-tile 1 sends the MARK (R528). -/
def State.markTry (s : State) (p : Nat) : State :=
  match s.apply p with
  | none => s
  | some a =>
    let busy := s.cmReqs.any fun r => r.part == p && r.kind == 0 && r.step == a.step
    if bit (s.reg (cmKey p 0)) 0 && a.reported && !a.mirFailed && !a.markSent && !busy then
      let s := s.setApply p (some { a with markSent := true })
      s.cmSend p 1 1 2 0 a.step 0 0 (words4 a.att a.step a.opt 0)
    else s

/-- Step 4 of R319 is complete; its Final parts may run once the marker has been sent (R356, R530, R531). -/
def State.step4 (s : State) (p : Nat) (a : Apply) : Bool :=
  a.reported && (!bit (s.reg (cmKey p 0)) 0 || a.mirFailed || a.marked)
def State.finalsMayRun (s : State) (p : Nat) (a : Apply) : Bool :=
  a.reported && (!bit (s.reg (cmKey p 0)) 0 || a.mirFailed || a.markSent)

/-! ### Copies (R354-R358) -/

def Copy.key (c : Copy) : Nat × Nat := (c.tile, c.vrec)

/-- A copy has failed: counted, captured, COPYFAIL (R357). -/
def State.copyFail (s : State) (p : Nat) (c : Copy) (run blk step : Nat) : State × Copy :=
  if c.failed then (s, c)
  else
    let s := s.bump (ueKey c.tile 0x118) 1
    let s := s.ueCapture c.tile 3 p run blk 0 step c.vrec
    (s.ueEvent p 4, { c with failed := true })

/-- A destination of R354: KIND MEM or CORE. -/
def locOk (l : Nat) : Bool :=
  let k := nfld l 62 2
  if k = 1 then nfld l 48 14 == 0 && l % 64 == 0
  else if k = 2 then nfld l 50 12 == 0 && nfld l 32 18 % 32 == 0
  else false

/-- The destinations a location names (R354); `none` where a field breaks its rule. -/
def State.copyLocs (s : State) (t p l : Nat) : State × Option (List Nat) :=
  let k := nfld l 62 2
  if k = 0 then (s, if l = 0 then some [] else none)
  else if k = 3 then
    let n := nfld l 48 8
    let a := l % 2 ^ 48
    if n = 0 ∨ nfld l 56 6 ≠ 0 ∨ a % 64 ≠ 0 then (s, none)
    else
      match s.ueRead t p a (8 * n) with
      | (s, .ok d) =>
        let ls := (List.range n).map fun i => leAt d (8 * i) 8
        (s, if ls.all locOk then some ls else none)
      | (s, _) => (s, none)
  else (s, if locOk l then some [l] else none)

/-- The format a copy's selector names, codes 0 to 10 (R354). -/
def copyFmt (sel : Nat) : Option Fmt := if sel ≤ 10 then builtinFmt sel else none

/-- The largest finite value of a built-in format (R158). -/
def fmtTop (f : Fmt) : Fv := if f.kind = 3 then .fin false (intMax f) 0 else decodeFloat f (maxCode f)

/-- Whether a target is +0, or positive, finite and not above the format's maximum (R354). -/
def tgtOk (f : Fmt) (x : Nat) : Bool :=
  x == 0 || (decide (0 < x) && decide (x < 0x7F80) && Fv.cmp (decodeFloat fmtBf16 x) (fmtTop f) != .gt)

/-- Fill a copy from line 1 of its record; `none` where a field breaks its rule (R354). -/
def State.copyFields (s : State) (p : Nat) (c : Copy) (l1 : List Byte) : State × Option Copy :=
  let c := { c with cfsel := byteAt l1 16, floor := byteAt l1 17, tgt := leAt l1 18 2, rows := leAt l1 20 2, lblk := leAt l1 22 2 }
  let (s, locs) := s.copyLocs c.tile p (leAt l1 (8 * c.slot) 8)
  match copyFmt c.cfsel, locs with
  | some f, some ls =>
    (s, if tgtOk f c.tgt && c.rows != 0 && c.lblk != 0 && leAt l1 24 8 == 0 then some { c with locs := ls } else none)
  | _, _ => (s, none)

/-- A copy whose fields have been read, or that fails. -/
def State.copyGot (s : State) (p : Nat) (c : Copy) (run blk step : Nat) (x : Option Copy) : State × Copy :=
  match x with
  | some c => (s, { c with phase := 1 })
  | none =>
    let (s, c) := s.copyFail p c run blk step
    (s, { c with phase := 1 })

/-- The Begin part of R356: PUB is set, and the copy may be written once no hold on slot k remains. A record that cannot be read
fails its copy. -/
def State.copyBegin (s : State) (p : Nat) (c : Copy) (run blk step : Nat) : State × Copy :=
  let (s, l0, ue) := s.ueRecord c.tile p c.vrec
  if ue then s.copyGot p c run blk step none
  else
    let (s, r) := s.expire p c.vrec (VRec.parse l0)
    let r := r.setCtrl 6 true
    let s := s.recStore p c.vrec r
    let k := if r.two then 1 - r.cur else 0
    let c := { c with slot := k }
    if r.holds k then (s, c)
    else
      let (s, l1, ue) := s.recLine p c.vrec 1
      let r := if ue then (s, none) else s.copyFields p c l1
      r.1.copyGot p c run blk step r.2

/-- The scale byte of a copy block: the largest finite magnitude among its values against TGT or the maximum (R234, R235, R355). -/
def copyScale (f : Fmt) (c : Copy) (ws : List Fv) : Nat :=
  let q := (ws.map Fv.abs).foldl (fun a v => match v with
    | .fin .. => if Fv.cmp a v == .lt then v else a
    | _ => a) Fv.zero
  if q.isZero then c.floor
  else
    let s := 127 + scaleExp q (if c.tgt = 0 then fmtTop f else decodeFloat fmtBf16 c.tgt)
    if s < 0 then 0 else if 254 < s then 254 else s.toNat

/-- The pieces of copy block j for the W48 values `ws`, with both headers at the record's first block (R355, R356). -/
def Copy.pieces (c : Copy) (first : Bool) (j : Nat) (ws : List Fv) : List (Nat × List Byte) :=
  match copyFmt c.cfsel with
  | none => []
  | some f =>
    let pitch := rowPitch f.width (32 * c.lblk)
    let row := j / c.lblk
    let col := 32 * (j % c.lblk)
    let scale := copyScale f c ws
    let blk := convBlock f [] 0 true scale (ws.map fun v => some (v, 0))
    let bytes := leBytes (4 * f.width) (packCodes f.width (blk.codes.map (·.getD 0)))
    if f.block then
      let sc := 32 + c.rows * pitch
      let heads := if first then
          [(0, headerBytes c.ver c.cfsel (c.rows * c.lblk)), (sc, headerBytes c.ver 14 (c.rows * c.lblk))] else []
      heads ++ [(32 + row * pitch + col * f.width / 8, bytes), (sc + 32 + j, [BitVec.ofNat 8 blk.scale])]
    else [(row * pitch + col * f.width / 8, bytes)]

/-- Write the copy of block `blk` of run `run` to every destination (R354, R356). -/
def State.copyWrite (s : State) (p : Nat) (c : Copy) (first : Bool) (run blk j : Nat) (ws : List Fv) : State × Copy :=
  let ps := c.pieces first j ws
  let items := c.locs.map fun l =>
    ({ tile := c.tile, part := p, vrec := c.vrec, loc := l, reemit := c.reemit, run := run, blk := blk,
       pieces := ps } : CopyWrite)
  ({ s with copyq := s.copyq ++ items }, { c with out := c.out + items.length })

def State.findCopy (s : State) (p t v : Nat) (reemit : Bool) : Option Copy :=
  if reemit then s.reemits.get none0 p
  else match s.apply p with
    | some a => a.copies.find? fun c => c.tile == t && c.vrec == v
    | none => none

/-- Put a copy back in its place; a copy of an apply that is not yet listed joins its tile's list at the end. -/
def State.putCopy (s : State) (p : Nat) (c : Copy) : State :=
  if c.reemit then { s with reemits := s.reemits.set none0 p (some c) }
  else s.modApply p fun a =>
    { a with copies := if a.copies.any fun x => x.tile == c.tile && x.vrec == c.vrec then
        a.copies.map fun x => if x.tile == c.tile && x.vrec == c.vrec then c else x
      else a.copies ++ [c] }

def freshCopy (t v ver run : Nat) (reemit : Bool) : Copy :=
  { tile := t, vrec := v, slot := 0, ver := ver, phase := 0, failed := false, locs := [], cfsel := 0, floor := 0, tgt := 0, rows := 1,
    lblk := 1, out := 0, run := run, reemit := reemit }

/-! ### One block (R333, R338-R340, R350-R352) -/

/-- The state of one element: W as a 48-bit code, s1 and s2 (R165, R333). -/
structure Elem where
  w : Nat
  s1 : Word
  s2 : Word

def elemOf (layout : Nat) (b : List Byte) (i : Nat) : Elem :=
  { w := leAt b (4 * i) 4 * 2 ^ 16 + leAt b (128 + 2 * i) 2,
    s1 := match layoutS1 layout with
      | some o => BitVec.ofNat 32 (leAt b (o + 4 * i) 4)
      | none => 0,
    s2 := match layoutS2 layout with
      | some o => BitVec.ofNat 32 (leAt b (o + 4 * i) 4)
      | none => 0 }

/-- The lines of a block that its layout holds (R333). -/
def elemsBytes (layout : Nat) (l : List Elem) : List Byte :=
  (l.flatMap fun e => leBytes 4 (e.w / 2 ^ 16)) ++ (l.flatMap fun e => leBytes 2 (e.w % 2 ^ 16)) ++
    (if (layoutS1 layout).isSome then l.flatMap fun e => leBytes 4 e.s1.toNat else []) ++
    (if (layoutS2 layout).isSome then l.flatMap fun e => leBytes 4 e.s2.toNat else [])

def w48 (n : Nat) : Fv := decodeFloat fmtW48 n
/-- sign(x) of R338. -/
def signOf (v : Word) : Word :=
  match f32 v with
  | .nan .. => v
  | x => if x.isZero then v else if x.neg then 0xBF800000#32 else 0x3F800000#32

/-- The recurrence for one element with reduced gradient g (R338). -/
def Factor.step (x : Factor) (e : Elem) (g : Word) : Elem :=
  let c := fun i => x.row.getD i 0
  let u := mul32 g x.gscale
  let u := if x.clip.toNat % 2 ^ 31 = 0 then u else min32 (max32 u (neg32 x.clip)) x.clip
  let s1n := fma32 (c 0) e.s1 (mul32 (c 1) u)
  let s2n := fma32 (c 2) e.s2 (mul32 (c 3) (mul32 u u))
  let v := fma32 (c 7) s1n (mul32 (c 8) u)
  let num := fma32 (c 6) (signOf v) (fma32 x.c1 s1n (mul32 (c 4) u))
  let den := add32 (sqrt32 (mul32 x.k s2n)) (c 10)
  let d := div32 num den
  let w' : Nat :=
    match w48 e.w, f32 x.p, f32 x.lr, f32 d with
    | .fin nw mw ew, .fin np mp ep, .fin nl ml el, .fin nd md ed =>
      (finish fmtW48 0 [] (exSum false (.fin nw mw ew) [.fin (nw == np) (mw * mp) (ew + ep), .fin (nl == nd) (ml * md) (el + ed)])).1
    | _, _, _, _ => canonNan fmtW48
  { w := w', s1 := s1n, s2 := s2n }

def w48Finite (n : Nat) : Bool := nfld n 39 8 != 255

/-- Whether an element's written state is finite (R339). -/
def Elem.finite (layout : Nat) (e : Elem) : Bool :=
  w48Finite e.w && ((layoutS1 layout).isNone || !nonFin32 e.s1) && ((layoutS2 layout).isNone || !nonFin32 e.s2)

/-- Add an exact value to a binary64 sum, rounded once by RNE (R359). -/
def add64 (acc : Nat) (v : Fv) : Nat :=
  let a := decodeFloat fmt64 acc
  (finish fmt64 0 [a, v] (exAdd false a v)).1

def sqFv (v : Fv) : Fv :=
  match v with
  | .fin _ m e => .fin false (m * m) (2 * e)
  | v => v.abs

/-- The sums of one block: (w' - w)^2 with the difference rounded to binary64, and w'^2 (R359). -/
def blockSums (sums : List (Nat × Nat × Nat)) (g : Nat) (old new : List Elem) : List (Nat × Nat × Nat) :=
  let cur := (sums.find? fun x => x.1 == g).getD (g, 0, 0)
  let out := (old.zip new).foldl (fun (acc : Nat × Nat) p =>
    let w := w48 p.1.w
    let w' := w48 p.2.w
    let d := (finish fmt64 0 [w', w] (exAdd false w' w.negate)).1
    (add64 acc.1 (sqFv (decodeFloat fmt64 d)), add64 acc.2 (sqFv w'))) cur.2
  (sums.filter fun x => x.1 != g) ++ [(g, out)]

/-- The reduced gradient of block j of channel ch for step t, as the owner buffer of tile k holds it (R338, R340, R368, R390). -/
inductive Grad where
  | miss
  | ue
  | vals (l : List Word)

def State.gradient (s : State) (p k ch j t : Nat) : State × Grad :=
  let cfg := s.reg (rdKey ch 0)
  let nblk := s.regFld (rdKey ch 0xC) 0 24
  if !bit cfg 0 || !bit cfg 2 || fld cfg 3 3 ≠ k || fld cfg 8 6 ≠ p || nblk ≤ j then (s, .miss)
  else
    let ob := 128 * nblk + ((nblk + 7) / 8 + 63) / 64 * 64
    let base := (s.reg64 (rdKey ch 0x18)) % 2 ^ 48 + t % 2 * ob
    match s.ueRead k p (base + 128 * nblk + j / 8) 1 with
    | (s, .fault _) => (s, .miss)
    | (s, .ue _) => (s, .ue)
    | (s, .ok d) =>
      if !(leNat d).testBit (j % 8) then (s, .miss)
      else
        match s.ueRead k p (base + 128 * j) 128 with
        | (s, .fault _) => (s, .miss)
        | (s, .ue _) => (s, .ue)
        | (s, .ok d) => (s, .vals ((List.range 32).map fun i => BitVec.ofNat 32 (leAt d (4 * i) 4)))

/-- Move on to the next block of a tile's apply. -/
def UeTile.next (u : UeTile) (runs : List RunEnt) : UeTile :=
  match runs[u.run]? with
  | none => { u with ended := true }
  | some r =>
    if u.blk + 1 < r.nblk then { u with blk := u.blk + 1 }
    else { u with run := u.run + 1, blk := 0, ended := decide (runs.length ≤ u.run + 1) }

def State.putTile (s : State) (p : Nat) (u : UeTile) : State :=
  s.modApply p fun a => { a with tiles := a.tiles.map fun x => if x.tile = u.tile then u else x }

/-- Whether run i is the first of its record, and whether its block b is the record's last. -/
def firstOfRec (runs : List RunEnt) (i : Nat) (r : RunEnt) : Bool :=
  (runs.take i).all fun q => q.norec || q.vrec != r.vrec

/-- Write a block's state and mirror it (R350, R520). -/
def State.stateWrite (s : State) (p t o : Nat) (d : List Byte) (step : Nat) : State :=
  ((s.tileWrite t o d p 10).1).mirror p t o d step

/-- The block of an error that leaves its lines unwritten (R352). -/
def State.stateUe (s : State) (p : Nat) (u : UeTile) (runs : List RunEnt) (o step : Nat) : State :=
  let s := s.bump (ueKey u.tile 0x120) 1
  let s := s.ueCapture u.tile 4 p u.run u.blk 0 step (o / 64)
  let s := s.ueEvent p 5
  let s := s.putTile p ({ u with lost := true }.next runs)
  s.modApply p fun a => { a with restored := false }

/-- Apply one block of partition p on tile t, whose place is known to be valid and whose copy, if it has one, may be written. -/
def State.blockApply (s : State) (p : Nat) (a : Apply) (u : UeTile) (runs : List RunEnt) (r : RunEnt) (o : Nat)
    (copy : Option Copy) : State :=
  let t := u.tile
  let size := layoutSize r.layout
  let (s, b, ue) := s.tileRead t o size p 10
  if ue then s.stateUe p u runs o a.step
  else
    match a.facs.find? fun x => x.group == r.group with
    | none =>
      let s := (s.stateWrite p t o b a.step).bump (ueKey t 0x100) 1
      s.putTile p (u.next runs)
    | some x =>
      let (s, g) := s.gradient p t r.rch (r.gidx + u.blk) a.step
      match g with
      | .ue => s.stateUe p u runs o a.step
      | g =>
        let (s, gs) := match g with
          | .vals l => (s, l)
          | _ =>
            let s := (s.bump (ueKey t 0x110) 1).ueCapture t 2 p u.run u.blk 0 a.step 0
            (s.ueEvent p 3, List.replicate 32 (0 : Word))
        let old := (List.range 32).map (elemOf r.layout b)
        let new := (old.zip gs).map fun q => x.step q.1 q.2
        let (s, new) := match (new.findIdx? fun e => !e.finite r.layout) with
          | some i =>
            let s := (s.bump (ueKey t 0x108) 1).ueCapture t 1 p u.run u.blk i a.step 0
            (s.ueEvent p 2, old)
          | none => (s, new)
        let s := (s.stateWrite p t o (elemsBytes r.layout new) a.step).bump (ueKey t 0x100) 1
        let u' := { u with sums := blockSums u.sums r.group old new }.next runs
        let s := s.putTile p u'
        match copy with
        | none => s
        | some c =>
          let (s, c) := if c.failed then (s, c)
            else s.copyWrite p c (firstOfRec runs u.run r && u.blk == 0) u.run u.blk (r.coff + u.blk) (new.map fun e => w48 e.w)
          s.putCopy p (if r.last && u.blk + 1 == r.nblk then { c with phase := 2 } else c)

/-- Whether a REEMIT of tile t has not ended with a record. DESIGN CHOICE (log entry 98): the apply waits for it before its own Begin part on
the same record. -/
def State.reemitting (s : State) (p t v : Nat) : Bool :=
  match s.reemits.get none0 p with
  | some c => c.tile == t && c.vrec == v
  | none => false

/-- One action of a tile's apply: the Begin part of the next record, or its next block (R350, R356). -/
def State.applyBlock (s : State) (p t : Nat) : State :=
  match s.apply p with
  | none => s
  | some a =>
    match a.tiles.find? fun u => u.tile == t with
    | none => s
    | some u =>
      let runs := s.runTab t p
      match runs[u.run]? with
      | none => s.putTile p { u with ended := true }
      | some r =>
        if u.ended || s.waitMir p t (layoutSize r.layout) then s
        else
          match s.xlate p (r.state + u.blk * layoutSize r.layout) with
          | none => s.stateUe p u runs 0 a.step
          | some (_, o) =>
            if r.norec || !(a.facs.any fun x => x.group == r.group) then s.blockApply p a u runs r o none
            else if s.reemitting p t r.vrec then s.putTile p { u with wait := true }
            else
              let c := (s.findCopy p t r.vrec false).getD (freshCopy t r.vrec a.step u.run false)
              if c.phase = 0 then
                let (s, c) := s.copyBegin p c u.run u.blk a.step
                let u := { u with wait := c.phase == 0 }
                let s := (s.putCopy p c).putTile p u
                if c.phase = 0 then s else s.blockApply p a u runs r o (some c)
              else s.blockApply p a u runs r o (some c)

/-! ### REEMIT (R358) -/

/-- Read every W of the record's runs and write the whole copy; an error in a state line fails the copy. -/
def State.reemitWrite (s : State) (p : Nat) (c : Copy) : State × Copy :=
  let runs := s.runTab c.tile p
  let (s, c) := (List.range runs.length).foldl (fun (acc : State × Copy) i =>
    match runs[i]? with
    | none => acc
    | some r =>
      if r.norec || r.vrec != c.vrec then acc
      else (List.range r.nblk).foldl (fun (acc : State × Copy) b =>
        let (s, c) := acc
        if c.failed then (s, c)
        else
          match s.xlate p (r.state + b * layoutSize r.layout) with
          | none => s.copyFail p c i b c.ver
          | some (_, o) =>
            let (s, d, ue) := s.tileRead c.tile o 192 p 10
            if ue then s.copyFail p c i b c.ver
            else s.copyWrite p c (firstOfRec runs i r && b == 0) i b (r.coff + b)
              ((List.range 32).map fun e => w48 (elemOf 2 d e).w)) acc) (s, c)
  (s, { c with phase := 2 })

/-- A busy REEMIT goes on: it waits for the holds on its slot, then writes the copy. -/
def State.reemitGo (s : State) (p : Nat) : State :=
  match s.reemits.get none0 p with
  | none => s
  | some c =>
    if c.phase = 0 then
      let (s, c) := s.copyBegin p c c.run 0 c.ver
      if c.phase = 0 then s.putCopy p c
      else
        let (s, c) := s.reemitWrite p c
        s.putCopy p c
    else s

def State.ueRefused (s : State) (p : Nat) : State := s.orReg (uePart p 0x18) 2

def State.reemit (s : State) (p v : Nat) : State :=
  if s.sa p = 3 ∨ (s.reemits.get none0 p).isSome then s.ueRefused p
  else
    match s.fuse.tiles.find? fun t => (s.runTab t p).any fun r => !r.norec && r.vrec == v with
    | none => s.orReg (uePart p 0x18) 4
    | some t =>
      let run := ((s.runTab t p).findIdx? fun r => !r.norec && r.vrec == v).getD 0
      let (s, l0, ue) := s.ueRecord t p v
      let s := if ue || (VRec.parse l0).valid then s else s.recStore p v ((VRec.parse l0).setCtrl 0 true)
      let s := s.putCopy p (freshCopy t v (s.reg (stKey p 0x1C)).toNat run true)
      (s.orReg (uePart p 0x18) 1).reemitGo p

/-! ### Acknowledgements and the Final part (R304, R356, R357) -/

/-- Whether a function reset halted the core while an apply of its partition went on (R353): its copy writes are refused. -/
def State.haltedByReset (s : State) (p c : Nat) : Bool :=
  match s.apply p with
  | some a => a.disarm && decide ((s.core c).rs = 0)
  | none => false

/-- One piece of a copy write in the scratchpad of core c (R110, R354). -/
def State.landPiece (s : State) (c a : Nat) (d : List Byte) : State × Bool :=
  if inSpad a d.length then
    let (s, bad) := s.spadWrite c a d 0xF1 0
    (s, bad.isNone)
  else (s, false)

/-- A copy write at its destination (R354, R357); false where it is refused or left a word or line unwritten. The rest of it is written all
the same (R110, R504). -/
def State.copyLand (s : State) (w : CopyWrite) : State × Bool :=
  if nfld w.loc 62 2 = 1 then
    w.pieces.foldl (fun (acc : State × Bool) q =>
      let a := w.loc % 2 ^ 48 + q.1
      match (acc.1.memRoute (siteDie w.tile) w.part a q.2.length).memWr w.part a q.2 (.updateEngine w.tile) 10 false with
      | (s, .ok _) => (s, acc.2)
      | (s, _) => (s, false)) (s, true)
  else
    let core := w.loc % 2 ^ 32
    match (if s.isOwn (addrDev core) then s.toCore w.part (core % 65536) else none) with
    | none => (s, false)
    | some c0 =>
      let s := s.wakeRoute (siteDie w.tile) (coreDie c0)
      if s.clState (coreCluster c0) = 3 ∨ s.haltedByReset w.part c0 then (s, false)
      else
        let s := s.wakeFor (coreCluster c0)
        let c := s.servedBy c0
        w.pieces.foldl (fun (acc : State × Bool) q =>
          let (s, ok) := acc.1.landPiece c (nfld w.loc 32 18 + q.1) q.2
          (s, acc.2 && ok)) (s, true)

/-- The step number an event of partition p's apply or REEMIT is captured under. -/
def State.copyStep (s : State) (p : Nat) (reemit : Bool) : Nat :=
  if reemit then (s.reg (stKey p 0x1C)).toNat else ((s.apply p).map (·.step)).getD 0

/-- The oldest copy write of tile t for partition p is answered: `ok` says whether it took effect. -/
def State.copyAnswered (s : State) (w : CopyWrite) (ok : Bool) : State :=
  match s.findCopy w.part w.tile w.vrec w.reemit with
  | none => s
  | some c =>
    let c := { c with out := c.out - 1 }
    let (s, c) := if ok then (s, c) else s.copyFail w.part c w.run w.blk (s.copyStep w.part w.reemit)
    s.putCopy w.part c

def State.popCopy (s : State) (p t : Nat) : Option (CopyWrite × State) :=
  match s.copyq.find? fun w => w.tile == t && w.part == p with
  | none => none
  | some w => some (w, { s with copyq := s.copyq.erase w })

/-- The final operation on a record, or the one that takes its place after a failure (R304, R357). -/
def State.publishOp (s : State) (p : Nat) (c : Copy) : State :=
  let (s, l0, ue) := s.ueRecord c.tile p c.vrec
  if ue then s
  else
    let (s, r) := s.expire p c.vrec (VRec.parse l0)
    let r := if c.failed then (if r.two then r.setCtrl 3 false else r.setCtrl 0 false)
      else
        let r := { r with ver := putAt r.ver c.slot c.ver }
        let r := if r.two then r.setCtrl 3 true else r
        r.setCtrl 2 (c.slot == 1)
    s.recStore p c.vrec (r.setCtrl 6 false)

/-- A REEMIT of tile t that has written its copy publishes it and ends (R358). -/
def State.reemitFinal (s : State) (p t : Nat) : Option State :=
  match s.reemits.get none0 p with
  | some c =>
    if c.tile = t ∧ c.phase = 2 ∧ c.out = 0 then
      let s := s.publishOp p c
      let s := { s with reemits := s.reemits.set none0 p none }
      let s := s.clrReg (uePart p 0x18) 1
      let s := if c.failed then s.orReg (uePart p 0x18) 8 else s
      some (s.ueEvent p 6)
    else none
  | none => none

/-- The Final part of the next record of tile t in run-table order, or of a REEMIT (R356, R358). -/
def State.publishFinal (s : State) (p t : Nat) : State :=
  match s.reemitFinal p t, s.apply p with
  | some s, _ => s
  | none, none => s
  | none, some a =>
    match a.copies.find? fun c => c.tile == t with
    | none => s
    | some c =>
      if s.finalsMayRun p a && c.phase == 2 && c.out == 0 then
        let s := s.publishOp p c
        s.modApply p fun a => { a with copies := a.copies.erase c }
      else s

/-! ### REAPPLY and ABANDON's part (R536) -/

def Apply.lost (a : Apply) : Bool := a.tiles.any (·.lost)

/-- Every engine of the partition applies the step again, from the kept factors; publishes begun stand with PUB = 1. -/
def State.reapply (s : State) (p : Nat) : State :=
  match s.apply p with
  | none => s.ueRefused p
  | some a =>
    if s.sa p = 3 ∧ a.lost ∧ a.restored then
      let s := { s with copyq := s.copyq.filter fun w => w.part != p || w.reemit }
      s.setApply p (some { a with
        tiles := a.tiles.map fun u => { u with run := 0, blk := 0, wait := false, lost := false, ended := false, sums := [] },
        copies := a.copies.map fun c => { c with phase := 0, failed := false, out := 0 },
        mirFailed := false, markSent := false, marked := false, restored := false })
    else s.ueRefused p

/-- Every record whose publish has begun takes PUB := 0 (R536). -/
def State.dropPublishes (s : State) (p : Nat) (l : List Copy) : State :=
  let s := { s with copyq := s.copyq.filter fun w => w.part != p || w.reemit }
  l.foldl (fun s c =>
    let (s, l0, ue) := s.ueRecord c.tile p c.vrec
    if ue then s else s.recStore p c.vrec ((VRec.parse l0).setCtrl 6 false)) s

/-! ### Monitors (R359) -/

/-- RATIO of R359. -/
def ratioOf (sqd sqw : Nat) : Word :=
  let d := decodeFloat fmt64 sqd
  let w := decodeFloat fmt64 sqw
  if d.isZero then 0
  else if w.isZero then 0x7F800000#32
  else
    let q := (fDiv fmt64 0 d w).1
    let r := (fSqrt fmt64 0 (decodeFloat fmt64 q)).1
    BitVec.ofNat 32 (roundTo fmt32 0 (decodeFloat fmt64 r)).1

/-- The monitor of one group when its step is applied: partial sums in ascending site order. -/
def State.monitor (s : State) (p : Nat) (a : Apply) (x : Factor) : State :=
  let part := fun (u : UeTile) => ((u.sums.find? fun e => e.1 == x.group).map (·.2)).getD (0, 0)
  let (sqd, sqw) := a.tiles.foldl (fun (acc : Nat × Nat) u =>
    (add64 acc.1 (decodeFloat fmt64 (part u).1), add64 acc.2 (decodeFloat fmt64 (part u).2))) (0, 0)
  let ratio := ratioOf sqd sqw
  let pos := fun (w : Word) => !(f32 w).isNan && Fv.cmp Fv.zero (f32 w) == .lt
  let low := pos x.rlo && Fv.cmp (f32 ratio) (f32 x.rlo) == .lt
  let high := pos x.rhi && Fv.cmp (f32 x.rhi) (f32 ratio) == .lt
  let k := 0x428000 + 0x20 * (s.grpBase p + x.group)
  let s := [(0, sqd), (4, sqd / 2 ^ 32), (8, sqw), (0xC, sqw / 2 ^ 32), (0x10, ratio.toNat), (0x14, a.step), (0x18, x.lr.toNat),
    (0x1C, (if low then 1 else 0) + if high then 2 else 0)].foldl (fun s e => s.setReg (k + e.1) (BitVec.ofNat 32 e.2)) s
  if low || high then s.ueEvent p 0 else s

/-! ### Parameter-group ranges (R343) -/

def rangesOverlap (a n b m : Nat) : Bool := decide (0 < n) && decide (0 < m) && decide (a < b + m) && decide (b < a + n)

/-- A write of UE_PGRPp by the PF (R343). -/
def State.pgrpWrite (s : State) (p : Nat) (v : Word) : State :=
  let s := if bit v 31 then s.clrReg (uePart p 0) (2 ^ 31) else s
  let busy := s.stepOpen p || s.fuse.tiles.any fun t => s.regFld (ueKey t (0x100C + 0x10 * p)) 0 1 == 1
  let hit := (List.range 64).any fun q => q != p && rangesOverlap (fld v 0 8) (fld v 8 9) (s.grpBase q) (s.grpNum q)
  if busy || hit then s.orReg (uePart p 0) (2 ^ 31)
  else s.setRegFld (uePart p 0) 0 17 (fld v 0 17)

/-! ### The commands -/

def isTile (s : State) (t p : Nat) : Bool := s.fuse.hasTile t && decide (p < 64)

def execUeArm (t p : Nat) (s : State) : Host.Outcome State Fault Refusal := .next (if isTile s t p then s.ueArm t p else s)
def execUeDisarm (t p : Nat) (s : State) : Host.Outcome State Fault Refusal := .next (if isTile s t p then s.ueDisarm t p else s)

/-- The update engine of tile t acts for partition p: a REEMIT that waited goes on, and the next block of its apply follows (R350, R358). -/
def State.ueAct (s : State) (t p : Nat) : State :=
  let s := match s.reemits.get none0 p with
    | some c => if c.tile = t then s.reemitGo p else s
    | none => s
  if s.sa p = 3 then (s.applyBlock p t).markTry p else s

def execUeBlockApply (t p : Nat) (s : State) : Host.Outcome State Fault Refusal :=
  .next (if isTile s t p then s.ueAct t p else s)

def execPublishFinal (t p : Nat) (s : State) : Host.Outcome State Fault Refusal := .next (s.publishFinal p t)

def execCopyWriteAck (t p : Nat) (s : State) : Host.Outcome State Fault Refusal :=
  .next (match s.popCopy p t with
    | none => s
    | some (w, s) =>
      let (s, ok) := s.copyLand w
      s.copyAnswered w ok)

/-- A write without acknowledgement within 1 ms; whether its data landed is not known, and the model lands none (log entry 16). -/
def execCopyAckTimeout (t p : Nat) (s : State) : Host.Outcome State Fault Refusal :=
  .next (match s.popCopy p t with
    | none => s
    | some (w, s) => s.copyAnswered w false)

def execReemit (p v : Nat) (s : State) : Host.Outcome State Fault Refusal := .next (if p < 64 then s.reemit p v else s)
def execReapply (p : Nat) (s : State) : Host.Outcome State Fault Refusal := .next (if p < 64 then s.reapply p else s)
def execUeSwapGrp (p : Nat) (s : State) : Host.Outcome State Fault Refusal :=
  .next (if p < 64 then s.ueSwap p false true false false else s)
def execUeSwapRow (p : Nat) (pf : Bool) (s : State) : Host.Outcome State Fault Refusal :=
  .next (if p < 64 then s.ueSwap p pf false true false else s)
def execUeSwapCopy (p : Nat) (pf grp row : Bool) (s : State) : Host.Outcome State Fault Refusal :=
  .next (if p < 64 then s.ueSwap p pf grp row true else s)
/-- Only the PF writes UE_PGRPp; another function's write is ignored. -/
def execUePgrpWrite (p : Nat) (pf : Bool) (v : Word) (s : State) : Host.Outcome State Fault Refusal :=
  .next (if p < 64 && pf then s.pgrpWrite p v else s)

end Sys2Proof.Machine
end

