-- ==== Sys2Proof/Machine/RedBase.lean ====
section
/-!
DEFINITION. Reduction channels: their areas, the reduction-scale table, records as bytes, discarding and clearing a step's state
(spec/10 R366-R381, R388, R390, R395-R397).
-/

namespace Sys2Proof.Machine

/-! ### A channel's registers (R400-R402) -/

def State.rdEn (s : State) (c : Nat) : Bool := bit (s.reg (rdKey c 0)) 0
def State.rdOwner (s : State) (c : Nat) : Bool := bit (s.reg (rdKey c 0)) 2
def State.rdTile (s : State) (c : Nat) : Nat := s.regFld (rdKey c 0) 3 3
def State.rdPart (s : State) (c : Nat) : Nat := s.regFld (rdKey c 0) 8 6
def State.rdNchild (s : State) (c : Nat) : Nat := s.regFld (rdKey c 0) 16 6
def State.rdNlocal (s : State) (c : Nat) : Nat := s.regFld (rdKey c 8) 0 14
def State.rdNblk (s : State) (c : Nat) : Nat := s.regFld (rdKey c 0xC) 0 24
/-- A 48-bit address register pair of a channel. -/
def State.rdAddr (s : State) (c o : Nat) : Nat := s.reg64 (rdKey c o) % 2 ^ 48
/-- The enabled channels of a partition. -/
def State.rdChans (s : State) (p : Nat) : List Nat :=
  (List.range 256).filter fun c => s.rdEn c && s.rdPart c == p

/-- Size of an exponent array, of an owner-buffer area's data and of the whole area (R375, R390). -/
def expSize (nblk : Nat) : Nat := (2 * nblk + 63) / 64 * 64
def obSize (nblk : Nat) : Nat := 128 * nblk + ((nblk + 7) / 8 + 63) / 64 * 64

def State.expAddr (s : State) (c par j : Nat) : Nat := s.rdAddr c 0x20 + par * expSize (s.rdNblk c) + 2 * j
def State.histAddr (s : State) (c j : Nat) : Nat := s.rdAddr c 0x20 + 2 * expSize (s.rdNblk c) + 16 * j

/-- Reads and writes of a channel's areas by its combiner; UNIT code 11 asks (R727). -/
def State.rdRead (s : State) (p a n : Nat) : State × MemRes := s.dmRead p a n .ordinary 11
def State.rdWrite (s : State) (p a : Nat) (d : List Byte) : State := (s.dmWrite p a d .ordinary 11).1

/-! ### Combine state -/

def combKey (c par j : Nat) : Nat := (2 * c + par) * 2 ^ 24 + j
def State.combAt (s : State) (c par j : Nat) : Option RedRec := s.comb.get none0 (combKey c par j)
def State.setComb (s : State) (c par j : Nat) (r : Option RedRec) : State := { s with comb := s.comb.set none0 (combKey c par j) r }
/-- The blocks present, in ascending J. -/
def State.combAll (s : State) (c par : Nat) : List RedRec :=
  (s.comb.filter fun e => e.1 / 2 ^ 24 == 2 * c + par).filterMap (·.2)
def State.redStep (s : State) (c par : Nat) : Option RedStep := s.redSteps.get none0 (2 * c + par)
def State.setRedStep (s : State) (c par : Nat) (x : Option RedStep) : State :=
  { s with redSteps := s.redSteps.set none0 (2 * c + par) x }

def RedStep.fresh (v a : Nat) : RedStep :=
  { step := v, att := a, flags := 0, ends := 0, complete := false, sealed := [], closing := false, closed := false }

/-- Presence bits of one parity are cleared (R396, R397). -/
def State.clearPresence (s : State) (c par : Nat) : State :=
  if s.rdOwner c then
    let n := s.rdNblk c
    s.rdWrite (s.rdPart c) (s.rdAddr c 0x18 + par * obSize n + 128 * n) (List.replicate ((n + 7) / 8) 0)
  else s

/-- Combine blocks, END counts and presence bits of one parity of a channel go; pending bucket conversions of the step end. -/
def State.redClear (s : State) (c par v : Nat) : State :=
  let s := { s with comb := s.comb.clearRange (combKey c par 0) (2 ^ 24) }
  let s := s.setRedStep c par none
  let s := (s.seals.filter fun x => x.ch == c && x.step == v).foldl (fun s x => s.clrReg (rdKey c 0x54) (2 ^ x.area)) s
  let s := { s with seals := s.seals.filter fun x => !(x.ch == c && x.step == v) }
  let mine : Rq → Bool := fun r => r.eng == 5 && r.ticket == c && !(s.seals.any fun x => x.ch == c && x.area == r.pos / 2 ^ 32)
  let s := { s with rqOut := s.rqOut.filter fun q => !mine q.2,
                    net := s.net.filter fun x => match x with
                      | .req r => !mine r
                      | .rsp r => !(r.eng == 5 && r.ticket == c && !(s.seals.any fun x => x.ch == c && x.area == r.pos / 2 ^ 32))
                      | _ => true }
  s.clearPresence c par

/-- A reduction packet of step v of partition p, or a context opened for step v, counts no more (R396). -/
def NetItem.markStale (p v : Nat) : NetItem → NetItem
  | .red k => .red (if k.part = p ∧ k.step = v then { k with stale := true } else k)
  | x => x
def RdCtx.markStale (v : Nat) (x : RdCtx) : RdCtx := if x.step = v then { x with stale := true } else x

/-- What is on its way for a skipped or cancelled step v, and the contexts opened for it, count no more (R396). -/
def State.redStale (s : State) (p v : Nat) : State :=
  (s.partCores p).foldl (fun s c => s.modCore c fun k => { k with ctxs := k.ctxs.mapAll none0 fun _ x => x.map (RdCtx.markStale v) })
    { s with net := s.net.map (NetItem.markStale p v) }

/-- Every combiner of a partition discards or clears its state of step v (R396, R397). -/
def State.redDrop (s : State) (p v : Nat) : State :=
  (s.rdChans p).foldl (fun s c => s.redClear c (v % 2) v) s

/-! ### The reduction-scale table (R372, R375, R378) -/

/-- The exponent byte of a history (R372). -/
def expOf (ring : List Nat) (count inits floor : Nat) : Nat :=
  if count = 0 then inits
  else
    let m := (ring.take (min count 8)).foldl max 0
    max (min (m - 28) 254) floor

/-- Push MX of block j into its ring, and give the new exponent byte (R378). The ring's older bytes are those of the COUNT last pushes. -/
def pushHist (h : List Byte) (mx inits floor : Nat) : List Byte × Nat :=
  let count := min (byteAt h 8 % 16) 8
  let head := byteAt h 8 / 16 % 8
  let ring := (List.range 8).map fun i => if i = head then mx else byteAt h i
  let count' := min (count + 1) 8
  let head' := (head + 1) % 8
  let recent := (List.range count').map fun i => ring.getD ((head' + 8 - 1 - i) % 8) 0
  ((ring.map (BitVec.ofNat 8)) ++ [BitVec.ofNat 8 (count' + 16 * head')] ++ List.replicate 7 0, expOf recent count' inits floor)

/-- The table of channel c when the outcome of step t is applied (R378). -/
def State.scaleUpdate (s : State) (c t : Nat) (commit : Bool) : State :=
  let p := s.rdPart c
  let par := t % 2
  let push : State → Nat → Nat → State × Nat := fun s j mx =>
    match s.rdRead p (s.histAddr c j) 16 with
    | (s, .ok h) =>
      let (h', e) := pushHist h mx (s.regFld (rdKey c 0x48) 0 8) (s.regFld (rdKey c 0x48) 8 8)
      (s.rdWrite p (s.histAddr c j) h', e)
    | (s, _) => (s, s.regFld (rdKey c 0x48) 0 8)
  if commit then
    (List.range (s.rdNblk c)).foldl (fun s j =>
      let (s, e) := push s j (((s.combAt c par j).map (·.mx)).getD 0)
      s.rdWrite p (s.expAddr c par j) [BitVec.ofNat 8 e, BitVec.ofNat 8 (t + 2 + j)]) s
  else
    (s.combAll c par).foldl (fun s r =>
      if r.rg then
        let (s, e) := push s r.j r.mx
        let s := s.rdWrite p (s.expAddr c 0 r.j) [BitVec.ofNat 8 e]
        s.rdWrite p (s.expAddr c 1 r.j) [BitVec.ofNat 8 e]
      else s) s

/-- What the outcome of step t does to every channel of partition p: the tables of owned channels (R378), and EFSEL of bucket
channels that contribute (R395). -/
def State.redOutcome (s : State) (p t : Nat) (commit : Bool) : State :=
  (s.rdChans p).foldl (fun s c =>
    let s := if s.rdOwner c then s.scaleUpdate c t commit else s
    if commit && bit (s.reg (rdKey c 0)) 1 && s.rdNlocal c != 0 then
      s.setRegFld (rdKey c 0x54) 2 1 (1 - s.regFld (rdKey c 0x54) 2 1) else s) s

/-! ### Records as bytes (R379, R380) -/

def i48 (i : Int) : Nat := (i % 2 ^ 48).toNat

/-- One record with its header; `step` and `att` are the packet's. A SPARSE record lists the nonzero values. DESIGN CHOICE (log entry
102): one of a block whose sums are all 0 lists element 0, since R379 wants at least one entry. -/
def RedRec.bytes (r : RedRec) (step att : Nat) : List Byte :=
  let nz := (List.range 32).filter fun i => r.vals.getD i 0 != 0
  let nz := if nz.isEmpty then [0] else nz
  let head := leBytes 4 r.j ++ [BitVec.ofNat 8 r.kind, BitVec.ofNat 8 r.s, BitVec.ofNat 8 r.tag,
      BitVec.ofNat 8 ((if r.nf then 1 else 0) + (if r.rg then 2 else 0) + if r.ck then 4 else 0), BitVec.ofNat 8 r.mx,
      BitVec.ofNat 8 (if r.kind = 2 then nz.length else 0)] ++ leBytes 2 (if r.kind = 3 then 1 else r.count) ++ leBytes 4 step ++
    leBytes 8 r.sum ++ [BitVec.ofNat 8 att] ++ List.replicate 7 0
  match r.kind with
  | 0 => head ++ r.vals.flatMap fun v => leBytes 4 (v % 2 ^ 32).toNat
  | 1 => head ++ r.vals.flatMap fun v => leBytes 6 (i48 v)
  | 2 => head ++ nz.flatMap fun i => leBytes 8 (i + 2 ^ 16 * i48 (r.vals.getD i 0))
  | _ => head

/-- A record read from the wire: the record with its step and attempt, and its length. KIND 4 stands for a malformed one (R379). -/
def parseRec (b : List Byte) : RedRec × Nat × Nat × Nat :=
  let kind := byteAt b 4 % 4
  let n := byteAt b 9
  let len := match kind with
    | 0 => 128
    | 1 => 192
    | 2 => 8 * n
    | _ => 0
  let ents := (List.range n).map fun i => leAt b (32 + 8 * i) 8
  let okSparse := decide (1 ≤ n) && decide (n ≤ 32) && (ents.all fun e => nfld e 5 11 == 0) &&
    (List.range (n - 1)).all fun i => decide (nfld (ents.getD i 0) 0 5 < nfld (ents.getD (i + 1) 0) 0 5)
  let bad := byteAt b 4 / 4 != 0 || byteAt b 7 / 8 != 0 || leAt b 25 7 != 0 || (kind == 2 && !okSparse) || (kind != 2 && n != 0)
  let vals : List Int := (List.range 32).map fun i =>
    match kind with
    | 0 => sfld (leAt b (32 + 4 * i) 4) 0 32
    | 1 => sfld (leAt b (32 + 6 * i) 6) 0 48
    | 2 => match ents.find? fun e => nfld e 0 5 == i with
      | some e => sfld e 16 48
      | none => 0
    | _ => 0
  let fl := byteAt b 7
  ({ kind := if bad then 4 else kind, j := leAt b 0 4, s := byteAt b 5, tag := byteAt b 6, nf := fl.testBit 0, rg := fl.testBit 1,
     ck := fl.testBit 2, mx := byteAt b 8, count := leAt b 10 2, sum := leAt b 16 8, vals := vals }, leAt b 12 4, byteAt b 24, 32 + len)

/-- The records of a packet's payload, at most 32 (R380). -/
def parseRecs : Nat → List Byte → List (RedRec × Nat × Nat)
  | 0, _ => []
  | _, [] => []
  | fuel + 1, b =>
    let (r, v, a, n) := parseRec b
    (r, v, a) :: parseRecs fuel (b.drop n)

/-- A packet from the wire cut into runs of one step and attempt; a header checksum that differs shows in every run (R381). -/
def packetsOf (p ch src : Nat) (nf rg : Bool) (ck : Nat) (payload : List Byte) : List RedPkt :=
  let rs := parseRecs 32 payload
  let good := (rs.map fun x => x.1.sum).sum % 2 ^ 64 == ck
  let keys := (rs.map fun x => (x.2.1, x.2.2)).foldl (fun (acc : List (Nat × Nat)) k => if k ∈ acc then acc else acc ++ [k]) []
  keys.map fun k =>
    let mine := (rs.filter fun x => x.2 == k).map (·.1)
    let sum := (mine.map (·.sum)).sum % 2 ^ 64
    { part := p, ch := ch, step := k.1, attempt := k.2, src := src, core := 0, nf := nf, rg := rg,
      ck := if good then sum else sum + 2 ^ 64, stale := false, recs := mine }

end Sys2Proof.Machine
end

