-- ==== Sys2Proof/Machine/StepCtl.lean ====
section
/-!
DEFINITION. The step controller: begin, close, the finite vote, commit, skip, cancel, rolls and notifications
(spec/08 R288-R296, R309-R332; spec/15 R536).
-/

namespace Sys2Proof.Machine

def State.stCtl (s : State) (p : Nat) : StepCtl := s.stc.get (fun _ => StepCtl.reset) p
def State.setStCtl (s : State) (p : Nat) (x : StepCtl) : State := { s with stc := s.stc.set (fun _ => StepCtl.reset) p x }
def State.modStCtl (s : State) (p : Nat) (f : StepCtl → StepCtl) : State := s.setStCtl p (f (s.stCtl p))

def State.stNext (s : State) (p : Nat) : Nat := (s.reg (stKey p 0xC)).toNat
def State.stAttempt (s : State) (p : Nat) : Nat := s.regFld (stKey p 0x24) 0 8
def State.cmdErr (s : State) (p : Nat) : State := s.orReg (stKey p 4) (2 ^ 9)
def State.stEvent (s : State) (p b : Nat) : State := s.evSet (stKey p 0x84) (2 ^ b) (128 + p)

/-! ### The vote's registers (R310, R330) -/

def State.voteEn (s : State) (p : Nat) : Bool := bit (s.reg (stKey p 0x30)) 23
def State.voteRoot (s : State) (p : Nat) : Bool := bit (s.reg (stKey p 0x30)) 22
def State.voteGroup (s : State) (p : Nat) : Nat := s.regFld (stKey p 0x30) 0 16
def State.voteNchild (s : State) (p : Nat) : Nat := s.regFld (stKey p 0x30) 16 6
def State.voteChs (s : State) (p : Nat) : List Nat :=
  (List.range 256).filter fun c => bit (s.reg (stKey p (0x40 + 4 * (c / 32)))) (c % 32)

/-- The window of steps whose messages count: ST_NEXT with ST_ATTEMPT, and the number after it with attempt 0. While the older step is
in APPLYING it is decided, and ST_NEXT is already the number after it (R313, R370). -/
def State.inWindow (s : State) (p v a : Nat) : Bool :=
  (v == s.stNext p && a == s.stAttempt p) || (v == (s.stNext p + 1) % 2 ^ 32 && a == 0)

/-! ### Notifications (R325, R326) -/

def State.notify (s : State) (p kind att flags step : Nat) : State :=
  let w := s.reg (stKey p 0x80)
  if bit w 31 && bit w (15 + kind) then
    (s.partCores p).foldl (fun s c =>
      s.sendEvent p 0xFFFFFFFF (s.relAddr c) (fld w 0 12) 5 noCore
        [kind + att % 256 * 2 ^ 8 + flags % 256 * 2 ^ 16, step, (s.reg (stKey p 0x20)).toNat, 0]) s
  else s

/-! ### Rolls (R293, R319, R320) -/

def State.rollAll (s : State) (p step : Nat) (commit : Bool) : State :=
  { s with rolls := s.rolls ++ (s.partCores p).map fun c => { core := c, step := step, commit := commit } }

/-- Whether a core holds a started descriptor of a step (R293). -/
def Core.startedOf (k : Core) (t : Nat) : Bool :=
  [0, 1, 2].any fun e => (k.eng e).jobs.any fun j => j.step.toNat == t

/-- The oldest roll on its way to a core reaches it. -/
def State.rollReach (s : State) (c : Nat) : State :=
  match s.rolls.find? fun r => r.core == c with
  | none => s
  | some r =>
    if (s.core c).startedOf r.step then s
    else
      let s := { s with rolls := s.rolls.erase r }
      (s.rollCore c (BitVec.ofNat 32 r.step) r.commit 0).rollAgain c

/-! ### Ballots (R309, R311, R313, R317) -/

/-- The reports of a step's selected channels (R391). -/
def State.stepReports (s : State) (p : Nat) (x : OpenStep) : List Report :=
  (s.stCtl p).reports.filter fun r => r.step == x.num && r.att == x.att && decide (r.ch ∈ s.voteChs p)

def orAll (l : List Nat) : Nat := l.foldl (· ||| ·) 0

/-- The flags of a device's own ballot so far: NF 1, RG 2, CK 4, VT 8. -/
def State.ownFlags (s : State) (p : Nat) (x : OpenStep) : Nat :=
  orAll ((s.stepReports p x).map (·.flags)) ||| (if x.veto then 8 else 0)

/-- The close condition of a step in RUN (R292). -/
def State.closeHolds (s : State) (p : Nat) (x : OpenStep) : Bool :=
  let done := (s.stepReports p x).map (·.ch)
  ((s.voteChs p).all fun c => decide (c ∈ done)) && (!bit (s.reg (stKey p 0)) 1 || x.hclosed)

/-- Children's ballots held for a step (R313). -/
def State.heldBallots (s : State) (p : Nat) (x : OpenStep) : Ballots :=
  ((s.stCtl p).ballots.find? fun b => b.step == x.num && b.att == x.att).getD ⟨x.num, x.att, 0, 0, 0⟩

def State.childrenIn (s : State) (p : Nat) (x : OpenStep) : Bool := decide (s.voteNchild p ≤ (s.heldBallots p x).children)

/-- A vote message (R312): KIND 1 to the parent, 2 broadcast. -/
def State.sendVote (s : State) (p kind step att flags count dst : Nat) : State :=
  s.sendWyn p 9 0 0 0 dst false
    (words4 (s.voteGroup p + kind * 2 ^ 16 + att % 256 * 2 ^ 24) step flags (count % 2 ^ 16))

/-! ### Leaving, commit and skip (R290, R319-R322) -/

/-- Drop held ballots and reports that no window can use again. -/
def State.pruneVotes (s : State) (p : Nat) : State :=
  s.modStCtl p fun x =>
    { x with ballots := x.ballots.filter fun b => s.inWindow p b.step b.att,
             reports := x.reports.filter fun r => s.inWindow p r.step r.att }

/-- Cancel the newer step (R321). -/
def State.cancelB (s : State) (p : Nat) : State :=
  match (s.stCtl p).b with
  | none => s
  | some b =>
    let s := (s.setSb p 4).modStCtl p fun x =>
      { x with b := some { b with held := none }, reports := x.reports.filter fun r => r.step != b.num }
    let s := ((s.redDrop p b.num).redStale p b.num).bump (stKey p 0x138) 1
    s.notify p 5 b.att 0 b.num

/-- The registers of an outcome (step 1 of R319 and R320). -/
def State.outcomeRegs (s : State) (p : Nat) (x : OpenStep) (commit : Bool) (flags : Nat) : State :=
  (s.setReg (stKey p 0x14) (BitVec.ofNat 32 x.num)).setReg (stKey p 0x18)
    (BitVec.ofNat 32 ((if commit then 1 else 0) + flags % 256 * 2 ^ 4 + x.att * 2 ^ 16))

/-- A commit of step A is applied (R319, steps 1 to 3). -/
def State.commitA (s : State) (p : Nat) (x : OpenStep) (flags : Nat) : State :=
  let s := s.outcomeRegs p x true flags
  let s := s.setReg (stKey p 0x20) (s.reg (stKey p 0x20) + 1)
  let s := (s.setReg (stKey p 0xC) (BitVec.ofNat 32 (x.num + 1))).setReg (stKey p 0x24) 0
  let s := (s.bump (stKey p 0x100) 1).stEvent p 0
  let s := s.notify p 2 x.att flags x.num
  let s := s.rollAll p x.num true
  let s := s.redOutcome p x.num true
  let s := (s.setSa p 3).applyStart p x.num x.att
  (s.pruneVotes p).markTry p

/-- The skip counters of the flags set (R320, R327). -/
def State.skipCounts (s : State) (p flags : Nat) : State :=
  (List.range 5).foldl (fun s i => if flags.testBit i then s.bump (stKey p (0x110 + 8 * i)) 1 else s) s

/-- A skip of step A is applied, and A leaves (R320, R322). -/
def State.skipA (s : State) (p : Nat) (x : OpenStep) (flags : Nat) : State :=
  let s := s.outcomeRegs p x false flags
  let s := (s.bump (stKey p 0x108) 1).skipCounts p flags
  let s := (s.setReg (stKey p 0xC) (BitVec.ofNat 32 x.num)).setReg (stKey p 0x24) (BitVec.ofNat 32 ((s.stAttempt p + 1) % 256))
  let s := s.stEvent p 1
  let s := s.notify p 3 x.att flags x.num
  let s := s.rollAll p x.num false
  let s := ((s.redOutcome p x.num false).redDrop p x.num).redStale p x.num
  let s := s.cancelB p
  let s := (s.setSa p 0).modStCtl p fun c => { c with a := none, ballots := [] }
  let s := s.pruneVotes p
  let max := s.regFld (stKey p 0) 8 8
  if max ≠ 0 ∧ s.stAttempt p = max then s.stHalt p 7 else s

def State.outcomeA (s : State) (p : Nat) (x : OpenStep) (commit : Bool) (flags : Nat) : State :=
  if commit then s.commitA p x flags else s.skipA p x flags

/-- Step A has left: B, unless it is cancelled, takes its place, and an outcome held for it is applied (R290, R316). -/
def State.promoteB (s : State) (p : Nat) : State :=
  match (s.stCtl p).b with
  | none => s
  | some b =>
    let sb := s.sb p
    if sb = 4 then s
    else
      let s := s.modStCtl p fun c => { c with a := some { b with held := none }, b := none }
      let s := (s.setSb p 0).setSa p (if sb = 3 then 2 else sb)
      match b.held with
      | some (commit, flags) => s.outcomeA p b commit flags
      | none => s

/-- UE_MAPp and the Comet partition block return to their reset values (R581, R683). -/
def State.disarmFn (s : State) (p : Nat) : State :=
  let s := (List.range 8).foldl (fun (s : State) t =>
    { s.setRunTab t p [] with regs := s.regs.clearRange (ueKey t (0x1000 + 0x10 * p)) 0x10 }) s
  { s with regs := s.regs.clearRange (cmKey p 0) 0x200, restores := s.restores.set none0 p none,
           cmReqs := s.cmReqs.filter fun r => r.part != p }

/-- Step A leaves after its apply: its reduction state is cleared, its tables are disarmed if a function reset asked for it. -/
def State.leaveA (s : State) (p : Nat) : State :=
  let s := match (s.stCtl p).a with
    | some x => s.redDrop p x.num
    | none => s
  let s := match s.apply p with
    | some a => if a.disarm then s.disarmFn p else s
    | none => s
  let s := ((s.setApply p none).setSa p 0).modStCtl p fun c => { c with a := none }
  s.promoteB p

/-! ### Progress of the vote (R292, R310-R316) -/

/-- Step A while it is undecided: its own ballot becomes ready; the ballot goes to the parent once the children's are in; the root
decides; without a vote tree the partition decides alone. The root counts its ballot as sent when it is ready. -/
def State.voteA (s : State) (p : Nat) : State :=
  match (s.stCtl p).a with
  | none => s
  | some x =>
    let sa := s.sa p
    let x := { x with ready := x.ready || (sa == 1 && s.closeHolds p x) }
    let s := s.modStCtl p fun c => { c with a := some x }
    if !x.ready || sa == 3 then s
    else if !s.voteEn p then s.outcomeA p x (s.ownFlags p x == 0) (s.ownFlags p x)
    else
      let h := s.heldBallots p x
      let flags := s.ownFlags p x ||| h.flags
      let count := h.count + 1
      if s.voteRoot p then
        let s := s.setSa p 2
        if s.childrenIn p x then
          let cfg := count != s.regFld (stKey p 0x38) 0 16
          let flags := if cfg then flags ||| 16 else flags
          let s := s.sendVote p 2 x.num x.att (flags + if flags = 0 then 256 else 0) count 0xFFFF
          let s := if cfg then s.stEvent p 7 else s
          s.outcomeA p x (flags == 0) flags
        else s
      else if sa == 1 && s.childrenIn p x then
        (s.sendVote p 1 x.num x.att flags count (s.regFld (stKey p 0x34) 0 16)).setSa p 2
      else s

/-- Step B: as A, but its ballot follows A's, and its outcome is held until A leaves. -/
def State.voteB (s : State) (p : Nat) : State :=
  match (s.stCtl p).b with
  | none => s
  | some x =>
    let sb := s.sb p
    let sent := 2 ≤ s.sa p
    let x := { x with ready := x.ready || (sb == 1 && s.closeHolds p x) }
    let s := s.modStCtl p fun c => { c with b := some x }
    let hold : State → Bool → Nat → State := fun s commit flags =>
      (s.setSb p 3).modStCtl p fun c => { c with b := some { x with held := some (commit, flags) } }
    if !x.ready || !sent || 3 ≤ sb then s
    else if !s.voteEn p then hold s (s.ownFlags p x == 0) (s.ownFlags p x)
    else
      let h := s.heldBallots p x
      let flags := s.ownFlags p x ||| h.flags
      let count := h.count + 1
      if s.voteRoot p then
        let s := s.setSb p 2
        if s.childrenIn p x then
          let cfg := count != s.regFld (stKey p 0x38) 0 16
          let flags := if cfg then flags ||| 16 else flags
          let s := s.sendVote p 2 x.num x.att (flags + if flags = 0 then 256 else 0) count 0xFFFF
          hold (if cfg then s.stEvent p 7 else s) (flags == 0) flags
        else s
      else if sb == 1 && s.childrenIn p x then
        (s.sendVote p 1 x.num x.att flags count (s.regFld (stKey p 0x34) 0 16)).setSb p 2
      else s

/-- Everything the vote can do now. A skip of A cancels B, so that B is looked at only where A remains or B has taken its place. -/
def State.vote (s : State) (p : Nat) : State := (s.voteA p).voteB p

/-- A channel reports a step complete at this device (R391). -/
def State.report (s : State) (c v a flags : Nat) : State :=
  let p := s.rdPart c
  let s := s.setReg (rdKey c 0x58) (BitVec.ofNat 32 v)
  let s := s.setReg (rdKey c 0x5C) (BitVec.ofNat 32 (flags % 8 + a % 256 * 2 ^ 8))
  let s := s.modStCtl p fun x => { x with reports := x.reports ++ [{ ch := c, step := v, att := a, flags := flags % 8 }] }
  s.vote p

/-! ### Commands of ST_CMD (R291, R292, R306, R317, R536) -/

/-- BEGIN (R291): EN is a condition of the first case alone; HALTED (R305, R322, R329) and an open or cancelled newer step refuse
both. -/
def State.stBegin (s : State) (p : Nat) : State :=
  let ctl := s.reg (stKey p 0)
  let x := s.stCtl p
  if (x.a.isNone && !bit ctl 0) || bit (s.reg (stKey p 4)) 5 || x.b.isSome then s.cmdErr p
  else
    let go : State → OpenStep → State := fun s o =>
      let s := s.setReg (stKey p 0x10) (BitVec.ofNat 32 o.num)
      let s := (s.rdChans p).foldl (fun s c => s.clrReg (rdKey c 0x54) 8) s
      (s.notify p 1 o.att 0 o.num).vote p
    let fresh : Nat → Nat → OpenStep := fun n a =>
      { num := n, att := a, hclosed := false, veto := false, ready := false, vtmo := false, held := none }
    match x.a with
    | none =>
      let o := fresh (s.stNext p) (s.stAttempt p)
      go ((s.setSa p 1).modStCtl p fun c => { c with a := some o }) o
    | some a =>
      if bit ctl 2 && decide (2 ≤ s.sa p) then
        let o := fresh ((a.num + 1) % 2 ^ 32) 0
        go ((s.setSb p 1).modStCtl p fun c => { c with b := some o }) o
      else s.cmdErr p

/-- CLOSE: the oldest step in RUN that the host has not closed, or a cancelled step, which leaves with a skip roll (R292, R321). -/
def State.stClose (s : State) (p : Nat) : State :=
  let x := s.stCtl p
  match x.a, x.b with
  | a, some b =>
    if s.sb p = 4 then
      let s := (s.setSb p 0).modStCtl p fun c => { c with b := none, reports := c.reports.filter fun r => r.step != b.num }
      (s.redDrop p b.num).rollAll p b.num false
    else if !bit (s.reg (stKey p 0)) 1 then s.cmdErr p
    else
      match a with
      | some y =>
        if s.sa p = 1 ∧ !y.hclosed then (s.modStCtl p fun c => { c with a := some { y with hclosed := true } }).vote p
        else if s.sb p = 1 ∧ !b.hclosed then (s.modStCtl p fun c => { c with b := some { b with hclosed := true } }).vote p
        else s.cmdErr p
      | none => s.cmdErr p
  | some y, none =>
    if bit (s.reg (stKey p 0)) 1 && s.sa p == 1 && !y.hclosed then
      (s.modStCtl p fun c => { c with a := some { y with hclosed := true } }).vote p
    else s.cmdErr p
  | none, none => s.cmdErr p

def State.stVeto (s : State) (p : Nat) : State :=
  let x := s.stCtl p
  match x.a, x.b with
  | some y, _ =>
    if s.sa p = 1 then s.modStCtl p fun c => { c with a := some { y with veto := true } }
    else match x.b with
      | some b => if s.sb p = 1 then s.modStCtl p fun c => { c with b := some { b with veto := true } }
        else s.orReg (stKey p 4) (2 ^ 10)
      | none => s.orReg (stKey p 4) (2 ^ 10)
  | none, _ => s.orReg (stKey p 4) (2 ^ 10)

/-- RESUME clears HALTED and its reasons (R329). -/
def State.stResume (s : State) (p : Nat) : State := s.clrReg (stKey p 4) (2 ^ 5 + 2 ^ 6 + 2 ^ 7 + 2 ^ 11)

/-- BREAK; with no record in the array every record has been visited (R306). -/
def State.stBreak (s : State) (p : Nat) : State :=
  let s := { s with swept := s.swept.set (fun _ => []) p [] }
  if s.vrNum p = 0 then s else s.orReg (stKey p 4) (2 ^ 8)

def State.stAbandon (s : State) (p : Nat) : State :=
  match s.apply p with
  | none => s.cmdErr p
  | some a =>
    if s.sa p = 3 ∧ a.lost ∧ !bit (s.reg (cmKey p 4)) 1 then
      let s := s.dropPublishes p a.copies
      let s := { s with cmReqs := s.cmReqs.filter fun r => !(r.part == p && r.kind ≤ 1 && r.step == a.step) }
      (s.leaveA p).stHalt p 11
    else s.cmdErr p

/-- A write of ST_CMD (R327). -/
def State.stCmd (s : State) (p code : Nat) : State :=
  match code with
  | 1 => s.stBegin p
  | 2 => s.stClose p
  | 3 => s.stVeto p
  | 4 => s.stResume p
  | 5 => s.stBreak p
  | 6 => s.stAbandon p
  | _ => s.cmdErr p

/-! ### Vote messages (R312, R313, R316) -/

def State.voteDisc (s : State) (p : Nat) : State := s.bump (stKey p 0x158) 1

/-- A child's ballot for partition p. -/
def State.ballotAt (s : State) (p step att flags count : Nat) : State :=
  let x := s.stCtl p
  let cancelled := s.sb p == 4 && (x.b.map (·.num)) == some step
  if !s.inWindow p step att || cancelled then s.voteDisc p
  else
    let old := (x.ballots.find? fun b => b.step == step && b.att == att).getD ⟨step, att, 0, 0, 0⟩
    let new := { old with flags := old.flags ||| flags, count := old.count + count, children := old.children + 1 }
    (s.setStCtl p { x with ballots := (x.ballots.filter fun b => !(b.step == step && b.att == att)) ++ [new] }).vote p

/-- An outcome message for partition p. -/
def State.outcomeAt (s : State) (p step att : Nat) (commit : Bool) (flags : Nat) : State :=
  let x := s.stCtl p
  match x.a, x.b with
  | some a, b =>
    if a.num = step ∧ a.att = att ∧ s.sa p = 2 then (s.outcomeA p a commit flags).vote p
    else match b with
      | some b =>
        if b.num = step ∧ b.att = att ∧ s.sb p ≤ 2 then
          (s.setSb p 3).modStCtl p fun c => { c with b := some { b with held := some (commit, flags) } }
        else s.voteDisc p
      | none => s.voteDisc p
  | none, _ => s.voteDisc p

/-- The partitions that take a vote message (R312). -/
def State.voteParts (s : State) (group : Nat) : List Nat :=
  (List.range 64).filter fun p => s.voteEn p && s.voteGroup p == group

/-- Step 6 of R319: everything is complete; ST_APPLIED, the monitors, and the step leaves. -/
def State.applied (s : State) (p : Nat) : State :=
  match s.apply p with
  | none => s
  | some a =>
    if s.sa p = 3 ∧ s.step4 p a ∧ a.copies.isEmpty then
      let s := a.facs.foldl (fun s x => s.monitor p a x) s
      let s := s.setReg (stKey p 0x1C) (BitVec.ofNat 32 a.step)
      let s := s.stEvent p 2
      let s := s.notify p 4 a.att (s.regFld (stKey p 0x18) 4 8) a.step
      (s.leaveA p).vote p
    else s

/-- ST_VOTE_TMO has passed for a step: once per step (R318). -/
def State.voteTimeout (s : State) (p : Nat) (newer : Bool) : State :=
  let x := s.stCtl p
  if s.regFld (stKey p 0x3C) 0 24 = 0 then s
  else if newer then
    match x.b with
    | some b => if b.ready && !b.vtmo && s.sb p != 4 then
        (s.setStCtl p { x with b := some { b with vtmo := true } }).stEvent p 3 else s
    | none => s
  else
    match x.a with
    | some a => if a.ready && !a.vtmo && s.sa p != 3 then
        (s.setStCtl p { x with a := some { a with vtmo := true } }).stEvent p 3 else s
    | none => s

/-! ### The commands -/

def execRoll (c : Nat) (s : State) : Host.Outcome State Fault Refusal := .next (s.rollReach c)
def execBegin (p : Nat) (s : State) : Host.Outcome State Fault Refusal := .next (if p < 64 then s.stBegin p else s)
def execClose (p : Nat) (s : State) : Host.Outcome State Fault Refusal := .next (if p < 64 then s.stClose p else s)
def execVeto (p : Nat) (s : State) : Host.Outcome State Fault Refusal := .next (if p < 64 then s.stVeto p else s)
def execResume (p : Nat) (s : State) : Host.Outcome State Fault Refusal := .next (if p < 64 then s.stResume p else s)
def execBreak (p : Nat) (s : State) : Host.Outcome State Fault Refusal := .next (if p < 64 then s.stBreak p else s)
def execAbandon (p : Nat) (s : State) : Host.Outcome State Fault Refusal := .next (if p < 64 then s.stAbandon p else s)

/-- A child's ballot, for every partition of its group. -/
def execBallot (group step att flags count : Nat) (s : State) : Host.Outcome State Fault Refusal :=
  .next ((s.voteParts group).foldl (fun s p => s.ballotAt p step att flags count) s)

def execOutcome (group step att : Nat) (commit : Bool) (flags : Nat) (s : State) : Host.Outcome State Fault Refusal :=
  .next ((s.voteParts group).foldl (fun s p => s.outcomeAt p step att commit flags) s)

def execApplied (p : Nat) (s : State) : Host.Outcome State Fault Refusal := .next (s.applied p)
def execVoteTimeout (p : Nat) (newer : Bool) (s : State) : Host.Outcome State Fault Refusal := .next (s.voteTimeout p newer)

end Sys2Proof.Machine
end

