-- ==== Sys2Proof/Machine/Reduction.lean ====
section
/-!
DEFINITION. Combiners and owners: reduction packets, completion of a step, buckets and thinning, and the commands of a channel
(spec/10 R370-R402).
-/

namespace Sys2Proof.Machine

def State.rdEvent (s : State) (b : Nat) : State := s.evSet 0x90000 (2 ^ b) 61

/-- RD_ERR0 to RD_ERR3 hold the first error (R399). -/
def State.rdCapture (s : State) (c cause j step src : Nat) : State :=
  if bit (s.reg 0x90010) 31 then s
  else
    let s := s.setReg 0x90010 (BitVec.ofNat 32 (c + cause * 2 ^ 8 + s.rdPart c * 2 ^ 16 + 2 ^ 31))
    let s := (s.setReg 0x90014 (BitVec.ofNat 32 j)).setReg 0x90018 (BitVec.ofNat 32 step)
    s.setReg 0x9001C (BitVec.ofNat 32 src)

/-- Flags of a step at this device become set; NF and RG raise their events. -/
def State.rdFlag (s : State) (c par m : Nat) : State :=
  match s.redStep c par with
  | none => s
  | some x =>
    let new := x.flags ||| m
    let s := s.setRedStep c par (some { x with flags := new })
    let rise := fun i => new.testBit i && !x.flags.testBit i
    let s := if rise 0 then s.rdEvent 3 else s
    if rise 1 then s.rdEvent 2 else s

/-- A checksum or malformed-record failure: counted, captured, CK set. -/
def State.rdCkerr (s : State) (c par cause j step src : Nat) : State :=
  (((s.bump 0x90108 1).rdCapture c cause j step src).rdEvent (if cause = 5 then 5 else 0)).rdFlag c par 4

/-- A disagreement of exponents or tags: counted, captured, CK set. -/
def State.rdSkew (s : State) (c par j step src : Nat) : State :=
  (((s.bump 0x90110 1).rdCapture c 3 j step src).rdEvent 1).rdFlag c par 4

def State.rdLate (s : State) (n : Nat) : State := if n = 0 then s else (s.bump 0x90128 n).rdEvent 4

/-- The combiner's access to a block of the combine area, whose contents are its own (R388): the lines are read if the block is present,
and written if it changes; whether the block is lost. DESIGN CHOICE (log entry 103): an address fault loses it too. -/
def State.combScan (s : State) (c par j : Nat) (rd wr : Bool) : State × Bool :=
  let p := s.rdPart c
  match s.chunks p (s.rdAddr c 0x10 + (par * s.rdNblk c + j) * 288) 288 with
  | none => (s, true)
  | some l =>
    let no := l.filter (s.regionRefuses p .ordinary wr)
    if !no.isEmpty then (s.refuseAt no, true)
    else
      let (s, _, ue) := if rd then s.readChunks p 11 0 l else (s, [], none)
      if ue.isSome then (s, true)
      else if wr then
        let (s, ue) := s.writeChunks p 11 0 l (l.flatMap fun x => s.mem.getN byte0 (memIdx x.tile x.off) x.len)
        (s, ue.isSome)
      else (s, false)

/-- The flags a record adds to its step (R391): its CK says that a check failed elsewhere. -/
def RedRec.stepFlags (r : RedRec) : Nat := (if r.nf then 1 else 0) + (if r.rg then 2 else 0) + if r.ck then 8 else 0

/-- A 48-bit sum held at its bounds (R374). -/
def sat48 (i : Int) : Int × Bool :=
  let top : Int := 2 ^ 47 - 1
  if top < i then (top, true) else if i < -top then (-top, true) else (i, false)

/-- Add a record to a block that is present (R374, R381). -/
def RedRec.add (b r : RedRec) : RedRec × Nat :=
  let sums := (List.range 32).map fun i => sat48 (b.vals.getD i 0 + r.vals.getD i 0)
  let nsat := (sums.filter (·.2)).length
  ({ b with nf := b.nf || r.nf, rg := b.rg || r.rg || decide (0 < nsat), ck := b.ck || r.ck, mx := max b.mx r.mx,
            count := min 65535 (b.count + r.count), sum := (b.sum + r.sum) % 2 ^ 64, vals := sums.map (·.1) }, nsat)

/-- One record of an accepted step v (R387). -/
def State.addRec (s : State) (c v src : Nat) (r : RedRec) : State :=
  let par := v % 2
  if r.kind = 3 then
    let s := s.rdFlag c par r.stepFlags
    match s.redStep c par with
    | none => s
    | some x =>
      let s := s.setRedStep c par (some { x with ends := x.ends + 1 })
      if s.rdNlocal c + s.rdNchild c < x.ends + 1 then s.rdCkerr c par 4 0 v src else s
  else if 3 < r.kind ∨ s.rdNblk c ≤ r.j then s.rdCkerr c par 4 r.j v src
  else if r.tag ≠ (v + r.j) % 256 then s.rdSkew c par r.j v src
  else
    let s := s.rdFlag c par r.stepFlags
    let (s, lost) := s.combScan c par r.j (s.combAt c par r.j).isSome true
    if lost then (s.setComb c par r.j none).rdCkerr c par 5 r.j v 0
    else
      match s.combAt c par r.j with
      | none => (s.setComb c par r.j (some { r with kind := 1 })).bump 0x90100 1
      | some b =>
        if b.s ≠ r.s then s.rdSkew c par r.j v src
        else
          let (b, nsat) := b.add r
          let s := (s.setComb c par r.j (some b)).bump 0x90100 1
          if nsat = 0 then s else (s.bump 0x90118 nsat).rdFlag c par 2

/-- Cut records into packets of at most 32 records and 8,192 bytes (R380). -/
def cutRecs (step att : Nat) : List RedRec → List (List RedRec × List Byte) → List (List RedRec × List Byte)
  | [], acc => acc
  | r :: t, acc =>
    let b := r.bytes step att
    let acc := match acc.getLast? with
      | some (rs, d) =>
        if rs.length < 32 ∧ d.length + b.length ≤ 8192 then acc.dropLast ++ [(rs ++ [r], d ++ b)] else acc ++ [([r], b)]
      | none => [([r], b)]
    cutRecs step att t acc

/-- A combiner that is not the owner forwards its sums and one END record to its parent (R380, R389, R463). A block that cannot be read
is lost and sets CK first (R388). -/
def State.forward (s : State) (c : Nat) (x : RedStep) : State :=
  let par := x.step % 2
  let p := s.rdPart c
  let s := (s.combAll c par).foldl (fun s r =>
    let (s, lost) := s.combScan c par r.j true false
    if lost then (s.setComb c par r.j none).rdCkerr c par 5 r.j x.step 0 else s) s
  let flags := ((s.redStep c par).map (·.flags)).getD x.flags
  let blocks := (s.combAll c par).map fun r => { r with kind := if (r.vals.filter (· != 0)).length ≤ 16 then 2 else 1 }
  let nf := flags.testBit 0
  let rg := flags.testBit 1
  let fin : RedRec := { endRec nf rg with ck := flags.testBit 2 || flags.testBit 3, count := 1 }
  let pks := cutRecs x.step x.att (blocks ++ [fin]) []
  pks.foldl (fun s pk =>
    s.send (.wyn { cls := if bit (s.reg (rdKey c 0)) 1 then 3 else 2, nf := nf, rg := rg, rsp := false, lv := false, av := false,
                   sub := 0, ch := c, seq := 0, dst := devAddr (s.regFld (rdKey c 4) 0 16), src := devAddr s.devId, tag := s.domOf p,
                   hops := 0, pri := 0, lseq := 0, lack := 0, ck := (pk.1.map (·.sum)).sum % 2 ^ 64, payload := pk.2 })) s

/-- One block of a complete step at the owner (R389). -/
def State.ownBlock (s : State) (c v : Nat) (r : RedRec) : State :=
  let par := v % 2
  let p := s.rdPart c
  let (s, res) := s.rdRead p (s.expAddr c par r.j) 2
  let s := match res with
    | .ok d => if byteAt d 0 ≠ r.s ∨ byteAt d 1 ≠ r.tag then s.rdSkew c par r.j v 0 else s
    | .ue _ => s.rdCkerr c par 5 r.j v 0
    | .fault _ => s.rdSkew c par r.j v 0
  let (s, lost) := s.combScan c par r.j true false
  if lost then (s.setComb c par r.j none).rdCkerr c par 5 r.j v 0
  else
    let s := if (r.vals.sum % 2 ^ 64).toNat ≠ r.sum then
        (s.rdCkerr c par 1 r.j v 0).log { level := 0x44, unit := 11, cause := 1, action := 0, part := some p, loc := c, d1 := r.j }
      else s
    let xs := r.vals.map fun q => roundTo fmt32 0 ((Fv.ofInt q).scale ((r.s : Int) - 127))
    let novf := (xs.filter fun x => x.2 &&& flOF ≠ 0).length
    let s := if novf = 0 then s
      else
        let s := (s.bump 0x90118 novf).rdFlag c par 2
        match s.combAt c par r.j with
        | some b => s.setComb c par r.j (some { b with rg := true })
        | none => s
    s.rdWrite p (s.rdAddr c 0x18 + par * obSize (s.rdNblk c) + 128 * r.j) (xs.flatMap fun x => leBytes 4 x.1)

/-- The presence bits of a complete step (R389, R390). -/
def State.ownPresence (s : State) (c v : Nat) : State :=
  let par := v % 2
  let n := s.rdNblk c
  let here := (s.combAll c par).map (·.j)
  let bytes := (List.range ((n + 7) / 8)).map fun i =>
    BitVec.ofNat 8 (((List.range 8).filter fun b => decide (8 * i + b ∈ here)).map (2 ^ ·)).sum
  s.rdWrite (s.rdPart c) (s.rdAddr c 0x18 + par * obSize n + 128 * n) bytes

/-- Complete a step whose END records have all arrived (R389, R391). -/
def State.redComplete (s : State) (c par : Nat) : State :=
  match s.redStep c par with
  | none => s
  | some x =>
    if x.complete || x.ends < s.rdNlocal c + s.rdNchild c then s
    else
      let s := s.setRedStep c par (some { x with complete := true })
      let s := if s.rdOwner c then
          ((s.combAll c par).foldl (fun s r => s.ownBlock c x.step r) s).ownPresence c x.step
        else s.forward c x
      s.report c x.step x.att (((s.redStep c par).map (·.flags)).getD 0)

/-- Open a parity's state for a step that is accepted. -/
def State.redTouch (s : State) (c v a : Nat) : State :=
  match s.redStep c (v % 2) with
  | some x => if x.step = v ∧ x.att = a then s else s.setRedStep c (v % 2) (some (RedStep.fresh v a))
  | none => s.setRedStep c (v % 2) (some (RedStep.fresh v a))

/-- Whether records of step v must wait: the step two before it is still in the controller (R370). -/
def State.redWaits (s : State) (p v : Nat) : Bool :=
  match (s.stCtl p).a with
  | some x => x.num == (v + 2 ^ 32 - 2) % 2 ^ 32
  | none => false

/-- A packet of an accepted step (R381, R387). -/
def State.redAdd (s : State) (k : RedPkt) : State :=
  let c := k.ch
  let par := k.step % 2
  let s := s.redTouch c k.step k.attempt
  let s := s.rdFlag c par ((if k.nf then 1 else 0) + if k.rg then 2 else 0)
  let s := if (k.recs.map (·.sum)).sum % 2 ^ 64 = k.ck then s else s.rdCkerr c par 2 0 k.step k.src
  let s := k.recs.foldl (fun s r => s.addRec c k.step k.src r) s
  s.redComplete c par

/-- Whether step v of partition p is the cancelled newer step (R321). -/
def State.cancelled (s : State) (p v : Nat) : Bool := s.sb p == 4 && ((s.stCtl p).b.map (·.num)) == some v

/-- A reduction packet at the combiner of its channel: outside the window, or of a step that was skipped or cancelled, it is discarded
(R370, R396); records that must wait leave it where it is. A packet for a channel that is not enabled, or of another partition, is
discarded as late (log entry 17). -/
def State.redPacket (s : State) (k : RedPkt) : State :=
  let gone := { s with net := s.net.erase (.red k) }
  if !s.rdEn k.ch || s.rdPart k.ch != k.part || !s.inWindow k.part k.step k.attempt || k.stale || s.cancelled k.part k.step then
    gone.rdLate k.recs.length
  else if s.redWaits k.part k.step then s
  else gone.redAdd k

/-! ### The reduction-scale table's INIT (R377) -/

def State.rdCmdErr (s : State) (c : Nat) : State := s.orReg (rdKey c 0x54) (2 ^ 9)

def State.rdInit (s : State) (c : Nat) : State :=
  let p := s.rdPart c
  if s.stepOpen p || !s.rdOwner c then s.rdCmdErr c
  else
    let v := (s.reg (rdKey c 0x4C)).toNat
    let ini := s.regFld (rdKey c 0x48) 0 8
    (List.range (s.rdNblk c)).foldl (fun s j =>
      let s := s.rdWrite p (s.expAddr c (v % 2) j) [BitVec.ofNat 8 ini, BitVec.ofNat 8 (v + j)]
      let s := s.rdWrite p (s.expAddr c ((v + 1) % 2) j) [BitVec.ofNat 8 ini, BitVec.ofNat 8 (v + 1 + j)]
      s.rdWrite p (s.histAddr c j) (List.replicate 16 0)) s

/-! ### Buckets (R392-R395) -/

/-- Blocks per bucket, and the blocks of bucket k (R392). -/
def State.bucketBB (s : State) (c : Nat) : Nat := s.regFld (rdKey c 0x40) 0 7 * 8192
def State.bucketBlocks (s : State) (c k : Nat) : List Nat :=
  let bb := s.bucketBB c
  (List.range (min bb (s.rdNblk c - k * bb))).map (k * bb + ·)

/-- The window attempt of the partition's current step. -/
def State.curAttempt (s : State) (p : Nat) : Nat := if (s.stepNo p).toNat = s.stNext p then s.stAttempt p else 0

/-- The READs of the owner's exponent array for the blocks of a bucket (R376, R466). DEDUCED (log entry 55): RD_CHc_SCALE holds the
array's address on every device of the channel. -/
def State.sealReads (s : State) (c area k v : Nat) : List Rq :=
  if s.rdOwner c then []
  else
    let n := ((s.bucketBlocks c k).length * 2 + 3) / 4 * 4
    (List.range ((n + 8191) / 8192)).map fun i =>
      { part := s.rdPart c, src := 0xFFFF0000, eng := 5, ticket := c, pos := area * 2 ^ 32 + 8192 * i, dst := Config.rdOwner c * 65536,
        space := 1, op := 0, addr := s.expAddr c (v % 2) (k * s.bucketBB c) + 8192 * i, len := min 8192 (n - 8192 * i), data := [],
        land := 0 }

/-- A write of SEAL (R393). -/
def State.rdSeal (s : State) (c area k : Nat) : State :=
  let p := s.rdPart c
  let v := (s.stepNo p).toNat
  let x := (s.redStep c (v % 2)).filter fun x => x.step == v
  let done := match x with
    | some x => x.closed || decide (k ∈ x.sealed)
    | none => false
  if bit (s.reg (rdKey c 0x54)) area || decide (s.rdNblk c ≤ k * s.bucketBB c) || done || !s.stepOpen p || !s.rdEn c ||
      !bit (s.reg (rdKey c 0)) 1 then s.rdCmdErr c
  else
    let a := s.curAttempt p
    let s := s.redTouch c v a
    let s := match s.redStep c (v % 2) with
      | some x => s.setRedStep c (v % 2) (some { x with sealed := x.sealed ++ [k] })
      | none => s
    let s := s.orReg (rdKey c 0x54) (2 ^ area)
    let rs := s.sealReads c area k v
    let s := { s with seals := s.seals ++ [{ ch := c, area := area, k := k, step := v, att := a, need := rs.length, exps := [] }] }
    rs.foldl (fun s r => s.send (.req r)) s

/-- ADDR of a bucket stream's random words (R373). -/
def State.bucketAddr (s : State) (c : Nat) : Word := BitVec.ofNat 32 (s.devId * 65536 + 0x8000 + s.rdTile c)

/-- The exponent entries of the blocks: from the owner's array on the owner, else as the memory class returned them (R376). DESIGN
CHOICE (log entry 55): an entry that could not be read is a tag that does not match. -/
def State.bucketExps (s : State) (x : Seal) (js : List Nat) : State × List (Nat × Nat) :=
  if s.rdOwner x.ch then
    js.foldl (fun (acc : State × List (Nat × Nat)) j =>
      match acc.1.rdRead (s.rdPart x.ch) (s.expAddr x.ch (x.step % 2) j) 2 with
      | (s, .ok d) => (s, acc.2 ++ [(byteAt d 0, byteAt d 1)])
      | (s, _) => (s, acc.2 ++ [(0, 256)])) (s, [])
  else (s, (List.range js.length).map fun i =>
    match x.exps.find? fun e => e.1 == 2 * i / 8192 * 8192 with
    | some (o, d) => if d.isEmpty then (0, 256) else (byteAt d (2 * i - o), byteAt d (2 * i - o + 1))
    | none => (0, 256))

/-- The 32 values of one block of a bucket area; an uncorrectable line loses the block. -/
def State.bucketVals (s : State) (c area k j : Nat) : State × Option (List Word) :=
  let p := s.rdPart c
  let a := s.rdAddr c (0x28 + 8 * area) + 4 * 32 * (j - k * s.bucketBB c)
  match s.rdRead p a 128 with
  | (s, .ok d) =>
    let s := if bit (s.reg (rdKey c 0x40)) 7 then s.rdWrite p a (List.replicate 128 0) else s
    (s, some ((List.range 32).map fun i => BitVec.ofNat 32 (leAt d (4 * i) 4)))
  | (s, _) => (s, none)

/-- An error-feedback area: 0 committed, 1 new (R394, R395). -/
def State.efAddr (s : State) (c new j : Nat) : Nat :=
  let sel := s.regFld (rdKey c 0x54) 2 1
  s.rdAddr c 0x38 + (if new = 1 then 1 - sel else sel) * 128 * s.rdNblk c + 128 * j

def State.efRead (s : State) (c j : Nat) : State × List Word :=
  match s.rdRead (s.rdPart c) (s.efAddr c 0 j) 128 with
  | (s, .ok d) => (s, (List.range 32).map fun i => BitVec.ofNat 32 (leAt d (4 * i) 4))
  | (s, _) => (s, List.replicate 32 0)

/-- The rank of a value when a bucket is thinned: NaN and infinities highest, then magnitude (R394). -/
def thinRank (w : Word) : Nat := if nonFin32 w then 2 ^ 32 else w.toNat % 2 ^ 31

/-- Insert into a list ordered by falling rank, after its equals. -/
def rankIns (x : Nat × Nat) : List (Nat × Nat) → List (Nat × Nat)
  | [] => [x]
  | y :: t => if y.1 < x.1 then x :: y :: t else y :: rankIns x t

/-- The positions of the k elements of highest rank, equal ones in ascending position (R394). -/
def thinPick (k : Nat) (ws : List Word) : List Nat :=
  let rs := (List.range ws.length).map fun i => (thinRank (ws.getD i 0), i)
  ((rs.foldl (fun l x => rankIns x l) []).take k).map (·.2)

/-- The record of one block of a bucket, with the positions sent under thinning; none of the conversion's flags reaches a register. -/
def State.bucketRec (s : State) (c v j : Nat) (e : Nat × Nat) (xs : List Word) (sel : Option (List Nat)) : RedRec × Nat × Nat :=
  let keep := fun i => match sel with
    | some l => decide (i ∈ l)
    | none => true
  let qs : List (Int × Bool × Bool) := (List.range 32).map fun i =>
    if keep i then toFixed e.1 (rand (s.reg (rdKey c 0x44)) (s.bucketAddr c) (BitVec.ofNat 32 v) (BitVec.ofNat 32 c)
      (BitVec.ofNat 32 (j * 32 + i))) (xs.getD i 0) else (0, false, false)
  let vals : List Int := qs.map (fun q => q.1)
  let mine := ((List.range 32).filter keep).map fun i => xs.getD i 0
  ({ kind := if sel.isSome then 2 else 0, j := j, s := e.1, tag := e.2, nf := qs.any fun q => q.2.1, rg := qs.any fun q => q.2.2,
     ck := false, mx := magByte mine, count := 1, sum := (vals.sum % 2 ^ 64).toNat, vals := vals },
   (qs.filter fun q => q.2.1).length, (qs.filter fun q => q.2.2).length)

/-- Add one block of a bucket as a local contribution, with its counters; one of a cancelled step is late (R396). -/
def State.bucketAdd (s : State) (c v j : Nat) (e : Nat × Nat) (xs : List Word) (sel : Option (List Nat)) : State :=
  let (r, nnf, nrg) := s.bucketRec c v j e xs sel
  let s := if nnf = 0 then s else s.bump 0x90120 nnf
  let s := if nrg = 0 then s else s.bump 0x90118 nrg
  if s.cancelled (s.rdPart c) v then s.rdLate 1 else s.addRec c v 0 r

/-- The bucket stream's END, once every sealed bucket has been added (R393). -/
def State.bucketEnd (s : State) (c par : Nat) : State :=
  match s.redStep c par with
  | none => s
  | some x =>
    if x.closing && !x.closed && !(s.seals.any fun y => y.ch == c && y.step == x.step) then
      let s := s.setRedStep c par (some { x with closed := true })
      let s := s.orReg (rdKey c 0x54) 8
      if s.cancelled (s.rdPart c) x.step then s.rdLate 1
      else (s.addRec c x.step 0 (endRec (x.flags.testBit 0) (x.flags.testBit 1))).redComplete c par
    else s

/-- The conversion of bucket `k` of a channel in one of its two areas, if it is under way (R393). -/
def State.sealAt (s : State) (c : Nat) (area : Bool) (k : Nat) : Option Seal :=
  s.seals.find? fun x => x.ch == c && x.area == (if area then 1 else 0) && x.k == k

/-- The conversion of a sealed bucket ends, once the owner's exponents have come (R376, R393, R394). -/
def State.sealDone (s : State) (x : Seal) : State :=
  let c := x.ch
  let par := x.step % 2
  let js := s.bucketBlocks c x.k
  let (s, es) := s.bucketExps x js
  let (s, vals) := js.foldl (fun (acc : State × List (Option (List Word))) j =>
    let (s, v) := acc.1.bucketVals c x.area x.k j
    (s, acc.2 ++ [v])) (s, [])
  let thin := s.regFld (rdKey c 0x40) 8 4
  let n := js.length
  let s := (List.range n).foldl (fun s i =>
    match vals.getD i none with
    | some _ => s
    | none => s.rdCkerr c par 5 (js.getD i 0) x.step 0) s
  let s :=
    if thin = 0 then
      (List.range n).foldl (fun s i =>
        match vals.getD i none with
        | some xs => s.bucketAdd c x.step (js.getD i 0) (es.getD i (0, 256)) xs none
        | none => s) s
    else
      let (s, xs') := (List.range n).foldl (fun (acc : State × List (List Word)) i =>
        let (s, ef) := acc.1.efRead c (js.getD i 0)
        let xs := (vals.getD i none).getD (List.replicate 32 0)
        (s, acc.2 ++ [(List.range 32).map fun e => add32 (xs.getD e 0) (ef.getD e 0)])) (s, [])
      let k := (32 * n + 2 ^ thin - 1) / 2 ^ thin
      let sel := thinPick k xs'.flatten
      (List.range n).foldl (fun s i =>
        let j := js.getD i 0
        let mine := (sel.filter fun e => e / 32 == i).map (· % 32)
        let row := xs'.getD i []
        let s := s.rdWrite (s.rdPart c) (s.efAddr c 1 j)
          ((List.range 32).flatMap fun e => leBytes 4 (if e ∈ mine then 0 else (row.getD e 0).toNat))
        if mine.isEmpty then s else s.bucketAdd c x.step j (es.getD i (0, 256)) row (some mine)) s
  let s := s.clrReg (rdKey c 0x54) (2 ^ x.area)
  { s with seals := s.seals.erase x }.bucketEnd c par

/-- A write of CLOSE: buckets not sealed keep their committed error feedback, and END follows the last conversion (R393, R394). DESIGN
CHOICE (log entry 104): with no open step, on a channel not enabled in the bucket class, and a second time it is refused with CMDERR. -/
def State.rdCloseCmd (s : State) (c : Nat) : State :=
  let p := s.rdPart c
  let v := (s.stepNo p).toNat
  if !s.stepOpen p || !s.rdEn c || !bit (s.reg (rdKey c 0)) 1 then s.rdCmdErr c
  else
    let s := s.redTouch c v (s.curAttempt p)
    match s.redStep c (v % 2) with
    | none => s
    | some x =>
      if x.closing then s.rdCmdErr c
      else
        let s := s.setRedStep c (v % 2) (some { x with closing := true })
        let s := if s.regFld (rdKey c 0x40) 8 4 = 0 then s
          else
            let bb := s.bucketBB c
            (List.range (s.rdNblk c)).foldl (fun s j =>
              if j / bb ∈ x.sealed then s
              else
                match s.rdRead p (s.efAddr c 0 j) 128 with
                | (s, .ok d) => s.rdWrite p (s.efAddr c 1 j) d
                | (s, _) => s) s
        s.bucketEnd c (v % 2)

/-- A write of RD_CHc_CMD (R400). -/
def State.rdCmd (s : State) (c : Nat) (v : Word) : State :=
  match fld v 0 4 with
  | 1 => s.rdInit c
  | 2 => s.rdSeal c (fld v 4 1) (fld v 8 24)
  | 3 => s.rdCloseCmd c
  | _ => s.rdCmdErr c

/-! ### Enabling a channel (R398, R400, R401) -/

def State.rdCfgErr (s : State) (c : Nat) : State := s.orReg (rdKey c 0x54) (2 ^ 8)

def State.rdEnableBad (s : State) (c : Nat) : Bool :=
  let w := s.reg (rdKey c 0)
  let thin := s.regFld (rdKey c 0x40) 8 4
  !s.fuse.hasTile (fld w 3 3) || s.rdNblk c == 0 || s.rdNlocal c + s.rdNchild c == 0 || decide (thin ∈ [1, 2, 11, 12, 13, 14, 15]) ||
    (bit w 1 && decide (1 < s.rdNlocal c)) ||
    (!bit w 2 && decide (s.regFld (rdKey c 4) 0 16 = 0 ∨ s.regFld (rdKey c 4) 0 16 = 0xFFFF))

/-- A write of RD_CHc_CFG by the PF or by a VF, which writes EN alone. While EN is 1 only EN may be written. -/
def State.rdCfgWrite (s : State) (pf : Bool) (c : Nat) (v : Word) : State :=
  let old := s.reg (rdKey c 0)
  if bit old 0 then
    let s := if pf && (old ^^^ v) &&& 0x3F3F3E#32 != 0 then s.rdCfgErr c else s
    if bit v 0 then s
    else if s.stepOpen (s.rdPart c) then s.rdCfgErr c
    else
      let s := s.setReg (rdKey c 0) (setBit old 0 false)
      ([0, 1] : List Nat).foldl (fun s par =>
        { s with comb := s.comb.clearRange (combKey c par 0) (2 ^ 24) }.setRedStep c par none) s
  else
    let s := if pf then s.setReg (rdKey c 0) (v &&& 0x3F3F3E#32) else s
    if !bit v 0 then s
    else if s.rdEnableBad c then s.rdCfgErr c
    else s.setReg (rdKey c 0) (setBit (s.reg (rdKey c 0)) 0 true)

/-! ### The commands -/

def execMuRdOpen (c : Nat) (i : BitVec 4) (s : State) : Host.Outcome State Fault Refusal :=
  .next (s.csrCmd c 0x2C1 (BitVec.ofNat 32 i.toNat))
def execMuRdClose (c : Nat) (i : BitVec 4) (s : State) : Host.Outcome State Fault Refusal :=
  .next (s.csrCmd c 0x2C2 (BitVec.ofNat 32 i.toNat))

/-- The oldest packet of its sender on its channel reaches the combiner (R369, R387). -/
def execReductionPacket (k : RedPkt) (s : State) : Host.Outcome State Fault Refusal :=
  let first := s.net.find? fun x => match x with
    | .red q => q.ch == k.ch && q.src == k.src && q.core == k.core && q.part == k.part
    | _ => false
  .next (if first = some (.red k) then s.redPacket k else s)

def isChan (c : Nat) : Bool := decide (c < 256)
def execRdInit (c : Nat) (s : State) : Host.Outcome State Fault Refusal := .next (if isChan c then s.rdInit c else s)
def execSeal (c : Nat) (area : Bool) (k : BitVec 24) (s : State) : Host.Outcome State Fault Refusal :=
  .next (if isChan c then s.rdSeal c (if area then 1 else 0) k.toNat else s)
def execSealDone (c : Nat) (area : Bool) (k : BitVec 24) (s : State) : Host.Outcome State Fault Refusal :=
  .next (match s.sealAt c area k.toNat with
    | some x => if x.exps.length < x.need then s else s.sealDone x
    | none => s)
def execRdClose (c : Nat) (s : State) : Host.Outcome State Fault Refusal := .next (if isChan c then s.rdCloseCmd c else s)
def execRdChannelEnable (c : Nat) (pf : Bool) (v : Word) (s : State) : Host.Outcome State Fault Refusal :=
  .next (if isChan c then s.rdCfgWrite pf c v else s)

end Sys2Proof.Machine
end

