-- ==== Sys2Proof/Machine/Ethernet.lean ====
section
/-!
DEFINITION. The Ethernet ports: received frames and their filter, pause and PFC, transmit queues and the frame boundary, shaping, link
state, and the frames of WYN as bytes (spec/12; spec/13 R458, R459, R461, R475, R477).
-/

namespace Sys2Proof.Machine

/-! ### A port and its registers (R21, R40, R426, R427, R444) -/

def macKey (g o : Nat) : Nat := 0x200000 + 0x8000 * g + o
def fbKey (g o : Nat) : Nat := 0x100000 + 0x8000 * g + o

def port0 : Nat → Port := fun _ => Port.reset
def State.port (s : State) (g : Nat) : Port := s.ports.get port0 g
def State.setPort (s : State) (g : Nat) (x : Port) : State := { s with ports := s.ports.set port0 g x }
def State.modPort (s : State) (g : Nat) (f : Port → Port) : State := s.setPort g (f (s.port g))

/-- MODE and C2M of the X-die a port lies on (R456). -/
def State.xmode (s : State) (g : Nat) : Bool := bit (s.reg (macKey (g / 8 * 8) 0x30)) 0
def State.c2m (s : State) (g : Nat) : Bool := bit (s.reg (macKey (g / 8 * 8) 0x30)) 1
/-- The ports that exist, ascending. -/
def State.portList (s : State) : List Nat :=
  (List.range (8 * s.fuse.xdies.length)).filter fun g => !s.xmode g || g % 2 == 0
/-- The MAC rate in Mb/s. -/
def State.rate (s : State) (g : Nat) : Nat := if s.xmode g then 400000 else 200000
def State.linkUp (s : State) (g : Nat) : Bool := bit (s.reg (macKey g 4)) 0
def State.macAddr (s : State) (g : Nat) : Nat := (s.reg (macKey g 8)).toNat + 2 ^ 32 * s.regFld (macKey g 12) 0 16
def State.lrt (s : State) (g : Nat) : Bool := bit (s.reg (fbKey g 0)) 0
def State.udp (s : State) (g : Nat) : Bool := bit (s.reg (fbKey g 0)) 1
def State.ip6 (s : State) (g : Nat) : Bool := bit (s.reg (fbKey g 0)) 2
def State.pauseMode (s : State) (g : Nat) : Nat := s.regFld (macKey g 0x20) 0 2 % 3

def State.macEvent (s : State) (g b : Nat) : State := s.evSet (macKey g 0x38) (2 ^ b) (28 + g)
def State.fbEvent (s : State) (b : Nat) : State := s.evSet 0x104020 (2 ^ b) 60

def Port.queue (x : Port) (q : Nat) : List TxFrame := x.queues.get (fun _ => []) q
def Port.setQueue (x : Port) (q : Nat) (l : List TxFrame) : Port := { x with queues := x.queues.set (fun _ => []) q l }
def Port.link (x : Port) (h : Nat) : RetryLink := x.links.get (fun _ => RetryLink.reset) h
def Port.setLink (x : Port) (h : Nat) (l : RetryLink) : Port := { x with links := x.links.set (fun _ => RetryLink.reset) h l }
/-- Every frame that waits in a queue. -/
def Port.waiting (x : Port) : List TxFrame := (List.range 8).flatMap x.queue
def Port.clearQueues (x : Port) : Port := { x with queues := [], drr := [] }

/-! ### WYN frames as bytes (R458, R459, R461) -/

def b2n (b : Bool) (w : Nat) : Nat := if b then w else 0

/-- The 32-byte header (R461). -/
def Wyn.header (w : Wyn) : List Byte :=
  beBytes 1 (16 + w.cls) ++ beBytes 1 (b2n w.nf 1 + b2n w.rg 2 + b2n w.rsp 4 + b2n w.lv 8 + b2n w.av 16) ++
    beBytes 2 (w.sub * 2 ^ 12 + w.ch % 2 ^ 12) ++ beBytes 2 w.seq ++ beBytes 2 w.payload.length ++ beBytes 4 w.dst ++ beBytes 4 w.src ++
    beBytes 2 w.tag ++ beBytes 1 w.hops ++ beBytes 1 w.pri ++ beBytes 2 w.lseq ++ beBytes 2 w.lack ++ beBytes 8 w.ck

/-- The flow value of R469. -/
def Wyn.flow (w : Wyn) : Nat :=
  (mix (BitVec.ofNat 32 (w.src ^^^ w.dst ^^^ (w.cls * 2 ^ 16) ^^^ w.ch))).toNat

/-- The Internet checksum of a byte list of even length. -/
def inetSum (b : List Byte) : Nat :=
  let t := ((List.range (b.length / 2)).map fun i => beAt b (2 * i) 2).sum
  let t := t % 65536 + t / 65536
  0xFFFF - (t % 65536 + t / 65536)

def evenBytes (b : List Byte) : List Byte := if b.length % 2 = 0 then b else b ++ [0]

/-- The UDP checksum over IPv6; 0 is sent as all ones. -/
def udp6Sum (src dst udp : List Byte) : Nat :=
  let c := inetSum (src ++ dst ++ beBytes 4 udp.length ++ beBytes 4 17 ++ evenBytes udp)
  if c = 0 then 0xFFFF else c

def State.ip6Addr (s : State) (g : Nat) : List Byte := (List.range 4).flatMap fun i => beBytes 4 (s.reg (fbKey g (0x30 + 4 * i))).toNat
def peerKey (g k : Nat) : Nat := fbKey g (0x2000 + 0x20 * k)

/-- Octets of a frame from the destination address to the FCS (R434, R458, R459). -/
def State.frameLen (s : State) (g : Nat) (w : Wyn) : Nat :=
  let ip := if s.udp g then (if s.ip6 g then 48 else 28) else 0
  let tag := if bit (s.reg (macKey g 0x18)) 12 then 4 else 0
  max 60 (14 + tag + ip + 32 + w.payload.length) + 4

/-- A frame from a port with the encapsulation, tag, padding and FCS it leaves with. -/
def State.frameBytes (s : State) (g hop : Nat) (w : Wyn) : List Byte :=
  let k := hop - 1
  let dst := if hop = 0 then Config.neighbourMac g % 2 ^ 48
    else (s.reg (peerKey g k + 4)).toNat + 2 ^ 32 * s.regFld (peerKey g k + 8) 0 16
  let vlan := s.reg (macKey g 0x18)
  let tag := if bit vlan 12 then beBytes 2 0x8100 ++ beBytes 2 (w.pri * 2 ^ 13 + fld vlan 0 12) else []
  let wyn := w.header ++ w.payload
  let port := 0xC000 + w.flow % 2 ^ 14
  let udp := fun (sum : Nat) => beBytes 2 port ++ beBytes 2 (s.regFld 0x10400C 0 16) ++ beBytes 2 (8 + wyn.length) ++ beBytes 2 sum ++ wyn
  let body := if s.udp g then
      if s.ip6 g then
        let src := s.ip6Addr g
        let far := (List.range 4).flatMap fun i => beBytes 4 (s.reg (peerKey g k + 12 + 4 * i)).toNat
        beBytes 2 0x86DD ++ beBytes 4 (6 * 2 ^ 28 + w.pri * 2 ^ 25 + Config.ipIdent g % 2 ^ 20) ++ beBytes 2 (8 + wyn.length) ++ [17, 64] ++
          src ++ far ++ udp (udp6Sum src far (udp 0))
      else
        let head := fun (sum : Nat) => beBytes 2 (0x4500 + w.pri * 32) ++ beBytes 2 (28 + wyn.length) ++ beBytes 2 (Config.ipIdent g) ++
          beBytes 2 0x4000 ++ [64, 17] ++ beBytes 2 sum ++ beBytes 4 (s.reg (fbKey g 0x20)).toNat ++ beBytes 4 (s.reg (peerKey g k + 12)).toNat
        beBytes 2 0x0800 ++ head (inetSum (head 0)) ++ udp 0
    else beBytes 2 (s.regFld 0x104008 0 16) ++ wyn
  let f := beBytes 6 dst ++ beBytes 6 (s.macAddr g) ++ tag ++ body
  let f := f ++ List.replicate (60 - f.length) 0
  f ++ leBytes 4 (crc32 f)

/-! ### Pause frames the port sends (R443) -/

def RxFrame.octets (x : RxFrame) : Nat := x.bytes.length + 4
/-- Occupancy of the receive buffer: of one priority, or whole for 8. -/
def Port.occ (x : Port) (p : Nat) : Nat :=
  ((x.rx.filter fun f => p == 8 || f.prio == p).map RxFrame.octets).sum

/-- What may be paused in the port's mode: priorities, or 8 for the whole port. -/
def State.pausable (s : State) (g : Nat) : List Nat :=
  match s.pauseMode g with
  | 1 => [8]
  | 2 => (List.range 8).filter fun p => bit (s.reg (macKey g 0x20)) (24 + p)
  | _ => []

def Port.addDue (x : Port) (p t : Nat) : Port := { x with due := (x.due.filter fun d => d.1 != p) ++ [(p, t)] }

/-- Occupancy has changed: pause frames that fall due (R443). -/
def State.pauseCheck (s : State) (g : Nat) : State :=
  let w := s.reg (macKey g 0x20)
  let xon := fld w 8 8 * 4096
  let xoff := fld w 16 8 * 4096
  let txq := s.regFld (macKey g 0x24) 0 16
  if !bit w 2 then s
  else if xoff ≤ xon then s.orReg (macKey g 0x20) 8
  else
    s.modPort g fun x => (s.pausable g).foldl (fun (x : Port) p =>
      let o := x.occ p
      if p ∉ x.xoff ∧ xoff ≤ o then { x.addDue p txq with xoff := x.xoff ++ [p] }
      else if p ∈ x.xoff ∧ o ≤ xon then { x.addDue p 0 with xoff := x.xoff.filter (· ≠ p) }
      else x) x

/-- The bytes of a MAC control frame. -/
def State.controlFrame (s : State) (g op : Nat) (body : List Byte) : List Byte :=
  let f := beBytes 6 0x0180C2000001 ++ beBytes 6 (s.macAddr g) ++ beBytes 2 0x8808 ++ beBytes 2 op ++ body
  let f := f ++ List.replicate (60 - f.length) 0
  f ++ leBytes 4 (crc32 f)

/-- Whether the port may send pause frames: TXEN, and XON below XOFF (R443). -/
def State.pauseTx (s : State) (g : Nat) : Bool :=
  let w := s.reg (macKey g 0x20)
  bit w 2 && decide (fld w 8 8 < fld w 16 8)

/-- MAC_PAUSE has been written: what may no longer be sent is no longer due, and the occupancy is tested under the new levels (R443). -/
def State.pauseSet (s : State) (g : Nat) : State :=
  let on := if s.pauseTx g then s.pausable g else []
  (s.modPort g fun x => { x with due := x.due.filter fun d => decide (d.1 ∈ on), xoff := x.xoff.filter fun p => decide (p ∈ on) }).pauseCheck g

/-- The pause frame due at a frame boundary: a PAUSE, or one PFC frame for every priority due. -/
def State.dueFrame (s : State) (g : Nat) : Option (List Byte × Port) :=
  let x := s.port g
  match x.due with
  | [] => none
  | (p, t) :: rest =>
    if !s.pauseTx g then none
    else if p = 8 then some (s.controlFrame g 1 (beBytes 2 t), { x with due := rest })
    else
      let pfc := x.due.filter fun d => d.1 != 8
      let vec := (pfc.map fun d => 2 ^ d.1).sum
      let times := (List.range 8).flatMap fun i => beBytes 2 (((pfc.find? fun d => d.1 == i).map (·.2)).getD 0)
      some (s.controlFrame g 0x0101 (beBytes 2 vec ++ times), { x with due := x.due.filter fun d => d.1 == 8 })

/-! ### Pause frames received (R439-R441) -/

/-- The transmitter is held for all queues, or queue 7 is held and holds a frame (R450). -/
def State.heldNow (s : State) (g : Nat) : Bool :=
  let x := s.port g
  x.pause != 0 || (!(x.queue 7).isEmpty && (List.range 8).any fun p => x.pfc.get nat0 p != 0 && s.regFld (macKey g 0x1C) (3 * p) 3 == 7)

/-- TX_HELD advances by a free number of quanta while the transmitter is held (R450, log entry 5). -/
def State.heldTick (s : State) (g : Nat) : State :=
  if s.heldNow g then
    let (w, s) := s.freeVal
    s.bump (macKey g 0x468) w.toNat
  else s

def State.setHeld (s : State) (g : Nat) : State :=
  let x := s.port g
  let v := s.reg (macKey g 4)
  let v := setBit v 6 (x.pause != 0)
  s.setReg (macKey g 4) ((List.range 8).foldl (fun v p => setBit v (8 + p) (x.pfc.get nat0 p != 0)) v)

def State.rxPause (s : State) (g t : Nat) : State :=
  if s.pauseMode g = 1 then ((((s.heldTick g).bump (macKey g 0x438) 1).modPort g fun x => { x with pause := t }).setHeld g)
  else s.bump (macKey g 0x448) 1

def State.rxPfc (s : State) (g vec : Nat) (times : List Nat) : State :=
  if s.pauseMode g = 2 then
    ((((s.heldTick g).bump (macKey g 0x440) 1).modPort g fun x =>
      { x with pfc := (bitsOf 8 vec).foldl (fun m p => m.set nat0 p (times.getD p 0)) x.pfc }).setHeld g)
  else s.bump (macKey g 0x448) 1

/-! ### Reception (R430, R433-R439) -/

/-- The hash index of a group address (R437). -/
def hashIndex (da : List Byte) : Nat :=
  let r := crc32 da
  ((List.range 9).map fun i => if r.testBit i then 2 ^ (8 - i) else 0).sum

/-- The receive filter (R436), after MAC control frames. -/
def State.accepts (s : State) (g : Nat) (d : List Byte) : Bool :=
  let f := s.reg (macKey g 0x14)
  let da := beAt d 0 6
  if bit f 0 then true
  else if !(beAt d 0 1).testBit 0 then da == s.macAddr g
  else if da == 0xFFFFFFFFFFFF then bit f 1
  else
    let h := hashIndex (sliceB d 0 6)
    bit f 2 && bit (s.reg (macKey g (0x40 + 4 * (h / 32)))) (h % 32)

/-- A MAC control frame (R439). -/
def State.rxControl (s : State) (g : Nat) (d : List Byte) : State :=
  let da := beAt d 0 6
  let op := beAt d 14 2
  if da == 0x0180C2000001 || da == s.macAddr g then
    if op = 1 then s.rxPause g (beAt d 16 2)
    else if op = 0x0101 then s.rxPfc g (beAt d 16 2 % 256) ((List.range 8).map fun i => beAt d (18 + 2 * i) 2)
    else s.bump (macKey g 0x448) 1
  else s.bump (macKey g 0x448) 1

/-- Size of a port's receive buffer, and of its transmit buffer (R444). -/
def State.bufSize (s : State) (g : Nat) : Nat := if s.xmode g then 0x80000 else 0x40000

/-- A frame has arrived: `data` runs from the destination address to the FCS, and is empty where codewords arrived that belong to no frame.
`corr`, `sym` and `ue.1` count the corrected codewords, their symbols and the uncorrectable codewords decoded since the frame before, and
`ue.2` says that the frame overlaps an uncorrectable codeword, counted with it or with an earlier one (R430, R433). -/
def State.frameReceive (s : State) (g : Nat) (data : List Byte) (corr sym : Nat) (ue : Nat × Bool) : State :=
  if g ∉ s.portList ∨ !s.linkUp g then s
  else
    let n := data.length
    let d := data.take (n - 4)
    let s := (s.bump (macKey g 0x488) corr).bump (macKey g 0x498) sym
    let s := if ue.1 = 0 then s else (s.bump (macKey g 0x490) ue.1).macEvent g 2
    if data.isEmpty then s
    else if !bit (s.reg (macKey g 0)) 2 then s.bump (macKey g 0x428) 1
    else if ue.2 ∨ n < 4 ∨ leNat (data.drop (n - 4)) ≠ crc32 d then s.bump (macKey g 0x410) 1
    else if n < 64 then s.bump (macKey g 0x418) 1
    else if s.regFld (macKey g 0x10) 0 14 < n then s.bump (macKey g 0x420) 1
    else if beAt d 12 2 = 0x8808 then s.rxControl g d
    else if !s.accepts g d then s.bump (macKey g 0x428) 1
    else if s.bufSize g < (s.port g).occ 8 + n then (s.bump (macKey g 0x430) 1).macEvent g 3
    else
      let prio := if beAt d 12 2 = 0x8100 then beAt d 14 2 / 2 ^ 13 else s.regFld (macKey g 0x18) 13 3
      let s := (s.bump (macKey g 0x400) 1).bump (macKey g 0x408) n
      (s.modPort g fun x => { x with rx := x.rx ++ [⟨prio, d⟩] }).pauseCheck g

/-- The fabric layer takes the oldest received frame. -/
def State.rxPop (s : State) (g : Nat) : State := (s.modPort g fun x => { x with rx := x.rx.tail }).pauseCheck g

/-! ### Admission to the transmit queues (R434, R444-R446, R475) -/

/-- Frames of the fabric's own retry logic, which take no LSEQ (R475). -/
def Wyn.linkControl (w : Wyn) : Bool := w.cls == 7 && (w.sub == 1 || w.sub == 2)

/-- The queue a frame of a flow goes to; `none` where its partition owns no queue (R445, R446). -/
def State.queueFor (s : State) (g flow pri : Nat) : Option Nat :=
  let q := s.regFld (macKey g 0x1C) (3 * pri) 3
  let owns : Nat → Bool := fun q => bit (s.reg (macKey g (0x100 + 8 * q + 4 * (flow / 32)))) (flow % 32)
  if flow = 64 ∨ owns q then some q else (List.range 8).find? owns

/-- Bytes waiting in a queue's guaranteed space, and in the shared space. -/
def State.guaranteed (s : State) (g q : Nat) : Nat :=
  ((((s.port g).queue q).filter fun f => !f.shared).map fun f => s.frameLen g f.wyn).sum
def State.sharedUse (s : State) (g : Nat) : Nat :=
  (((s.port g).waiting.filter (·.shared)).map fun f => s.frameLen g f.wyn).sum

/-- Whether a frame fits in the replay buffer, beside the frames unacknowledged and those admitted before it (R475). -/
def State.replayRoom (s : State) (g hop n : Nat) : Bool :=
  let x := s.port g
  let wait := x.waiting.filter fun f => !f.wyn.linkControl
  let held := (x.links.flatMap fun l => l.2.sent) ++ wait
  let l := x.link hop
  decide ((held.map fun f => s.frameLen g f.wyn).sum + n ≤ 0x40000) && !l.failed &&
    decide (l.sent.length + (wait.filter fun f => f.hop == hop).length < 4096)

/-- Offer a frame to a port: `none` where it must wait at its source, else the state in which it has been admitted (true) or discarded. -/
def State.admitTx (s : State) (g flow hop : Nat) (w : Wyn) : Option (State × Bool) :=
  let n := s.frameLen g w
  if s.regFld (macKey g 0x10) 0 14 < n then some (s.bump (macKey g 0x480) 1, false)
  else
    match s.queueFor g flow w.pri with
    | none => some ((s.bump (macKey g 0x478) 1).macEvent g 5, false)
    | some q =>
      let own := if s.xmode g then 0x8000 else 0x4000
      let put : Bool → State := fun sh => s.modPort g fun x =>
        x.setQueue q (x.queue q ++ [{ flow := flow, shared := sh, hop := hop, lseq := none, wyn := w }])
      if s.lrt g && !w.linkControl && !s.replayRoom g hop n then none
      else if s.guaranteed g q + n ≤ own then some (put false, true)
      else if s.sharedUse g + n ≤ s.bufSize g - 8 * own then some (put true, true)
      else none

/-- A link-control frame of the port's retry logic; it goes with the transit traffic, at priority 7 (R462, R476, R477). -/
def State.linkFrame (s : State) (g hop sub num : Nat) : Wyn :=
  let far := if hop = 0 then Config.neighbourDev g % 65536 else s.regFld (peerKey g (hop - 1)) 0 16
  { cls := 7, nf := false, rg := false, rsp := false, lv := false, av := false, sub := sub, ch := 0, seq := 0, dst := devAddr far,
    src := devAddr s.devId, tag := 0, hops := s.regFld 0x104000 0 8, pri := 7, lseq := num, lack := 0, ck := 0, payload := [] }

/-- Link-control frames that wait at their source are admitted, in order, while they fit (R444). -/
def State.admitLink (s : State) (g : Nat) : Nat → State
  | 0 => s
  | n + 1 =>
    match (s.port g).ctlq with
    | [] => s
    | (hop, w) :: t =>
      match s.admitTx g 64 hop w with
      | none => s
      | some (s, _) => (s.modPort g fun x => { x with ctlq := t }).admitLink g n

/-- Send a link-control frame; it waits at its source while there is no room (R444). -/
def State.sendLink (s : State) (g hop sub num : Nat) : State :=
  let s := s.modPort g fun x => { x with ctlq := x.ctlq ++ [(hop, s.linkFrame g hop sub num)] }
  s.admitLink g (s.port g).ctlq.length

/-! ### The frame boundary (R440-R442, R447-R449) -/

/-- Weight of a flow (R447). -/
def State.weight (s : State) (g flow : Nat) : Nat :=
  if flow = 64 then s.regFld (macKey g 0x180) 0 8 else s.regFld (macKey g (0x140 + 4 * (flow / 4))) (8 * (flow % 4)) 8

/-- The next flow after `cur` in ascending order, going round. -/
def nextFlow (flows : List Nat) (cur : Nat) : Nat := (flows.find? (cur < ·)).getD (flows.headD cur)

/-- Deficit round robin over the flows that hold a frame and have a weight; `len` gives the octets of a flow's oldest frame. -/
def drrPick (weight len : Nat → Nat) (flows : List Nat) : Nat → Drr → Option (Nat × Drr)
  | 0, _ => none
  | fuel + 1, d =>
    let d := if d.turn ∈ flows then d else { d with turn := nextFlow flows d.turn, given := false }
    let c := d.turn
    let have' := d.deficit.get nat0 c + if d.given then 0 else weight c * 512
    let d := { d with given := true, deficit := d.deficit.set nat0 c have' }
    if len c ≤ have' then some (c, { d with deficit := d.deficit.set nat0 c (have' - len c) })
    else drrPick weight len flows fuel { d with turn := nextFlow flows c, given := false }

/-- The frame a queue gives next, and the port without it (R447). -/
def State.queuePick (s : State) (g q : Nat) : Option (TxFrame × Port) :=
  let x := s.port g
  let l := x.queue q
  let flows := (List.range 65).filter fun f => s.weight g f != 0 && l.any fun y => y.flow == f
  if flows.isEmpty then none
  else
    let len : Nat → Nat := fun f => ((l.find? fun y => y.flow == f).map fun y => s.frameLen g y.wyn).getD 0
    match drrPick (s.weight g) len flows (65 * 40) (x.drr.get (fun _ => ⟨0, false, []⟩) q) with
    | none => none
    | some (f, d) =>
      match l.find? fun y => y.flow == f with
      | none => none
      | some y =>
        let rest := l.erase y
        let d := if rest.any fun z => z.flow == f then d
          else { d with turn := nextFlow flows f, given := false, deficit := d.deficit.set nat0 f 0 }
        some (y, { x.setQueue q rest with drr := x.drr.set (fun _ => ⟨0, false, []⟩) q d })

/-- IDLESLOPE in force: one above the MAC rate, or 0, shapes at the MAC rate (R449). -/
def State.idleSlope (s : State) (g q : Nat) : Nat :=
  let v := s.regFld (macKey g (0x80 + 0x10 * q)) 0 20
  if v = 0 ∨ s.rate g < v then s.rate g else v
def State.cbsOn (s : State) (g q : Nat) : Bool := bit (s.reg (macKey g (0x80 + 0x10 * q))) 31

/-- Whether a queue is held by PAUSE or PFC (R440, R441). -/
def State.held (s : State) (g q : Nat) : Bool :=
  let x := s.port g
  x.pause != 0 || (List.range 8).any fun p => x.pfc.get nat0 p != 0 && s.regFld (macKey g 0x1C) (3 * p) 3 == q

def int0 : Nat → Int := fun _ => 0
def Port.setCredit (x : Port) (q : Nat) (c : Int) : Port := { x with credit := x.credit.set int0 q c }

/-- Whether a queue may start a frame (R448). -/
def State.eligible (s : State) (g q : Nat) : Bool :=
  !((s.port g).queue q).isEmpty && !s.held g q && (!s.cbsOn g q || decide (0 ≤ (s.port g).credit.get int0 q))

/-- A frame's octets on the medium, with preamble, SFD and gap, in bit times of 1/400,000 bit of credit at 1 Mb/s (R449). -/
def State.medium (s : State) (g n : Nat) : Nat := (n + 20) * 8 * (400000 / s.rate g)

/-- Whether a queue's credit rises: shaping is on, it holds frames, is not transmitting and is not held (R449). -/
def State.credits (s : State) (g q : Nat) : Bool :=
  s.cbsOn g q && !((s.port g).queue q).isEmpty && !s.held g q && ((s.port g).now.map (·.queue)) != some q

/-- A queue's credit rises by `d`, to HICREDIT at most unless that is 0 (R449). -/
def State.creditRise (s : State) (g q d : Nat) : State :=
  let top : Int := (s.regFld (macKey g (0x84 + 0x10 * q)) 0 24 * 400000 : Nat)
  s.modPort g fun x =>
    let c := x.credit.get int0 q
    x.setCredit q (if top = 0 then c + d else max c (min top (c + d)))

/-- A frame of another queue has been on the medium for a time `m`: each queue whose credit rises has risen by a free part of what that
time gives, since it may have held frames for a part of it only (R449, log entry 5). -/
def State.creditPass (s : State) (g m : Nat) : State :=
  (List.range 8).foldl (fun s q =>
    if s.credits g q then
      let (w, s) := s.freeVal
      s.creditRise g q (min w.toNat (m * s.idleSlope g q))
    else s) s

/-- The positive credit of an empty queue is set to 0 (R449). -/
def Port.creditEmpty (x : Port) : Port :=
  (List.range 8).foldl (fun x q => if (x.queue q).isEmpty ∧ 0 < x.credit.get int0 q then x.setCredit q 0 else x) x

/-- Before CREDIT is read: a credit that moves has moved by a free amount; one that is frozen is read as it stands (R449, R457). -/
def State.creditTick (s : State) (g q : Nat) : State :=
  if s.credits g q then
    let (w, s) := s.freeVal
    s.creditRise g q w.toNat
  else s

/-- Credit falls at sendSlope over a frame's medium time (R449). -/
def State.spend (s : State) (g q n : Nat) : State :=
  if s.cbsOn g q then
    let d : Int := (s.medium g n * (s.rate g - s.idleSlope g q) : Nat)
    s.modPort g fun x => x.setCredit q (x.credit.get int0 q - d)
  else s

/-- Start a frame on the wire: under retry a new one takes the next LSEQ and stays in the replay buffer; every frame carries the
acknowledgement of what has been accepted (R475, R477). -/
def State.startFrame (s : State) (g q : Nat) (f : TxFrame) (again : Bool) : State :=
  let l := (s.port g).link f.hop
  let retry := s.lrt g && !f.wyn.linkControl
  let num := if retry then f.lseq.getD l.next else f.wyn.lseq
  let ack := s.lrt g && l.any
  let w := { f.wyn with lv := retry, lseq := if retry || f.wyn.linkControl then num else 0, av := ack,
                        lack := if ack then (l.expect + 65535) % 65536 else 0 }
  let l := { l with owed := if ack then false else l.owed }
  let l := if !retry then l
    else if again then { l with todo := l.todo - 1 }
    else { l with next := (l.next + 1) % 65536, sent := l.sent ++ [{ f with lseq := some num }] }
  let s := s.modPort g fun x => { x.setLink f.hop l with now := some ⟨s.frameBytes g f.hop w, q⟩ }
  s.spend g q (s.frameLen g w)

/-- A frame of the replay buffer that is to be sent again and is not held. -/
def State.replayNext (s : State) (g : Nat) : Option (Nat × TxFrame) :=
  (s.port g).links.findSome? fun e =>
    let l := e.2
    if l.todo = 0 then none
    else
      match l.sent[l.sent.length - l.todo]? with
      | none => none
      | some f =>
        match s.queueFor g f.flow f.wyn.pri with
        | some q => if s.held g q then none else some (q, f)
        | none => none

/-- The frame in transmission ends: credits have moved, and space is free (R444, R448-R450). -/
def State.frameEnd (s : State) (g : Nat) : State :=
  match (s.port g).now with
  | none => s
  | some t =>
    let s := s.creditPass g (s.medium g t.bytes.length)
    let s := s.modPort g fun x => { x with now := none }.creditEmpty
    let s := s.admitLink g (s.port g).ctlq.length
    let s := { s with out := s.out ++ [OutItem.frame g t.bytes] }
    if t.queue = 8 then s.bump (macKey g 0x460) 1
    else ((s.bump (macKey g 0x450) 1).bump (macKey g 0x458) t.bytes.length).bump (macKey g (0x500 + 8 * t.queue)) 1

/-- A frame boundary: what was in transmission has left, and the next frame starts (R448). -/
def State.frameTransmit (s : State) (g : Nat) : State :=
  let s := s.frameEnd g
  if g ∉ s.portList ∨ !s.linkUp g then s
  else
    match s.dueFrame g with
    | some (b, x) => s.setPort g { x with now := some ⟨b, 8⟩ }
    | none =>
      if !bit (s.reg (macKey g 0)) 1 || (s.port g).pause != 0 then s
      else
        match s.replayNext g with
        | some (q, f) => s.startFrame g q f true
        | none =>
          match ((List.range 8).reverse.filter (s.eligible g)).findSome? fun q => (s.queuePick g q).map (q, ·) with
          | some (q, f, x) => (s.setPort g x).startFrame g q f false
          | none => s

/-! ### Link state (R429-R431, R478) -/

/-- The waiting frames are discarded (R431). -/
def State.flushQueues (s : State) (g : Nat) : State :=
  let n := (s.port g).waiting.length
  if n = 0 then s
  else
    let s := ((s.bump (macKey g 0x470) n).macEvent g 4).modPort g fun x => x.clearQueues.creditEmpty
    s.admitLink g (s.port g).ctlq.length

/-- Replay buffers are discarded and both ends restart at LSEQ 0 (R478). -/
def State.dropReplay (s : State) (g : Nat) : State :=
  let n := ((s.port g).links.flatMap fun l => l.2.sent).length
  let s := if n = 0 then s else (s.bump (fbKey g 0x158) n).fbEvent 1
  s.modPort g fun x => { x with links := [], ctlq := [] }

/-- The Shepherd island logs frames lost with a link (R407, R478, R698). -/
def State.linkLoss (s : State) (g : Nat) : State :=
  let (cause, s) := s.freeVal
  s.log { level := 0x44, unit := 12, cause := cause.toNat % 256, action := 0, loc := g }

/-- The link has stayed down for LDHOLD: what waits is lost, and the loss is passed to the package level (R407, R431, R478). -/
def State.ldholdEnd (s : State) (g : Nat) : State :=
  let lost := !(s.port g).waiting.isEmpty || (s.port g).links.any fun l => !l.2.sent.isEmpty
  let s := ((s.modPort g fun x => { x with hold := false, ctlq := [] }).flushQueues g).dropReplay g
  if lost then s.linkLoss g else s

/-- The link goes down, with a frame in reception or not (R431). -/
def State.linkDown (s : State) (g : Nat) (receiving : Bool) : State :=
  if !s.linkUp g then s
  else
    let s := s.clrReg (macKey g 4) 0x3F
    let s := (s.bump (macKey g 0x4A0) 1).macEvent g 0
    let s := if receiving then s.bump (macKey g 0x410) 1 else s
    let s := if (s.port g).now.isSome then (s.bump (macKey g 0x470) 1).modPort g fun x => { x with now := none } else s
    if s.regFld (macKey g 0) 8 8 = 0 then s.ldholdEnd g else s.modPort g fun x => { x with hold := true }

/-- The port itself takes its link down; whether a frame was in reception the model does not know (R431, log entry 5). -/
def State.linkDrop (s : State) (g : Nat) : State :=
  if s.linkUp g then
    let (w, s) := s.freeVal
    s.linkDown g (bit w 0)
  else s

def State.negotiates (s : State) (g : Nat) : Bool := bit (s.reg (macKey g 0x2C)) 0 && !s.c2m g

/-- The link comes up (R430), unless LINKDN is held (R652); retry resumes or restarts (R478). -/
def State.linkRise (s : State) (g : Nat) : State :=
  if g ∉ s.portList ∨ s.linkUp g ∨ !bit (s.reg (macKey g 0)) 0 ∨ s.pwrHeld.testBit 1 then s
  else
    let an := s.negotiates g
    let lt := an && bit (s.reg (macKey g 0x2C)) 1
    let v := s.reg (macKey g 4)
    let v := setFld (setBit (setBit (setBit (setBit v 0 true) 1 an) 2 lt) 3 true) 4 2 (if s.xmode g then 2 else 1)
    let s := ((s.setReg (macKey g 4) v).macEvent g 0).modPort g fun x => { x with hold := false }
    if !s.lrt g then s
    else
      let s := s.clrReg (fbKey g 0x14) 1
      let s := s.modPort g fun x => { x with links := x.links.mapAll (fun _ => RetryLink.reset) fun _ l =>
        if l.failed then RetryLink.reset else { l with todo := l.sent.length } }
      (s.port g).links.foldl (fun s e => s.sendLink g e.1 1 0) s

/-- Negotiation restarts (R429). -/
def State.anRestart (s : State) (g : Nat) : State :=
  if g ∉ s.portList ∨ !bit (s.reg (macKey g 0)) 0 ∨ !s.negotiates g then s
  else (((s.linkDrop g).clrReg (macKey g 4) 6).bump (macKey g 0x4A0) 1).macEvent g 1

/-! ### The commands of spec/12 -/

def execFrameReceive (g : Nat) (data : List Byte) (corr sym : Nat) (ue : Nat × Bool) (s : State) : Host.Outcome State Fault Refusal :=
  .next (s.frameReceive g data corr sym ue)
def execFrameTransmit (g : Nat) (s : State) : Host.Outcome State Fault Refusal := .next (s.frameTransmit g)
def execPause (g : Nat) (t : BitVec 16) (s : State) : Host.Outcome State Fault Refusal := .next (s.rxPause g t.toNat)
def execPfc (g : Nat) (vec : Byte) (times : List (BitVec 16)) (s : State) : Host.Outcome State Fault Refusal :=
  .next (s.rxPfc g vec.toNat (times.map (·.toNat)))

/-- A pause timer reaches zero: that of PAUSE, or of one priority of PFC. -/
def execPauseTimerExpiry (g : Nat) (prio : Option (BitVec 3)) (s : State) : Host.Outcome State Fault Refusal :=
  .next (((s.heldTick g).modPort g fun x => match prio with
    | none => { x with pause := 0 }
    | some p => { x with pfc := x.pfc.set nat0 p.toNat 0 }).setHeld g)

/-- Half of MAC_PAUSE_TXQ has passed since the last pause frame of what stays above XON (R443). -/
def execPauseResendExpiry (g : Nat) (s : State) : Host.Outcome State Fault Refusal :=
  let w := s.reg (macKey g 0x20)
  .next (if s.pauseTx g then
    s.modPort g fun x => (x.xoff.filter fun p => decide (p ∈ s.pausable g)).foldl (fun (x : Port) p =>
      if fld w 8 8 * 4096 < x.occ p then x.addDue p (s.regFld (macKey g 0x24) 0 16) else x) x
    else s)

/-- A queue's credit has risen to zero: only a queue that holds frames, is not transmitting and is not held gains credit (R449). -/
def execCbsCreditRecovered (g : Nat) (q : BitVec 3) (s : State) : Host.Outcome State Fault Refusal :=
  .next (if !s.credits g q.toNat || decide (0 ≤ (s.port g).credit.get int0 q.toNat) then s
    else s.modPort g fun x => x.setCredit q.toNat 0)

def execLinkUp (g : Nat) (s : State) : Host.Outcome State Fault Refusal := .next (s.linkRise g)
def execLinkDown (g : Nat) (receiving : Bool) (s : State) : Host.Outcome State Fault Refusal := .next (s.linkDown g receiving)
def execLdholdExpiry (g : Nat) (s : State) : Host.Outcome State Fault Refusal := .next (if (s.port g).hold && !s.linkUp g then s.ldholdEnd g else s)

/-- Auto-negotiation has not completed within 500 ms (R429). -/
def execAnTimeout (g : Nat) (s : State) : Host.Outcome State Fault Refusal :=
  .next (if s.linkUp g || bit (s.reg (macKey g 4)) 1 then s else s.anRestart g)
def execAnRestart (g : Nat) (s : State) : Host.Outcome State Fault Refusal := .next (s.anRestart g)
def execMacFlush (g : Nat) (s : State) : Host.Outcome State Fault Refusal := .next (s.flushQueues g)

def State.macEnable (s : State) (g : Nat) (en : Bool) : State :=
  let s := s.setReg (macKey g 0) (setBit (s.reg (macKey g 0)) 0 en)
  if en then s else s.linkDrop g

def execMacEnable (g : Nat) (en : Bool) (s : State) : Host.Outcome State Fault Refusal :=
  .next (if g ∈ s.portList then s.macEnable g en else s)

/-- A write of a register under its access codes (R13). -/
def State.putCode (s : State) (k : Nat) (v : Word) : State :=
  match findBar0 (k % 0x2000000) with
  | some r => s.setReg k (writeCode r (s.reg k) v)
  | none => s

/-- A write of the mode of X-die x (R428). -/
def State.xmodeWrite (s : State) (x : Nat) (v : Word) : State :=
  let k := macKey (8 * x) 0x30
  if ((List.range 8).any fun i => bit (s.reg (macKey (8 * x + i) 0)) 0) then s.orReg k (2 ^ 31) else s.putCode k v

def execMacXmodeWrite (x : Nat) (v : Word) (s : State) : Host.Outcome State Fault Refusal :=
  .next (if x < s.fuse.xdies.length then s.xmodeWrite x v else s)

/-- A write of a word of MAC_CBSq; the values take effect at the next frame boundary, where they are read (R449, R457). -/
def State.cbsWrite (s : State) (g q w : Nat) (v : Word) : State :=
  let k := macKey g (0x80 + 0x10 * q)
  let s := s.putCode (k + 4 * w) v
  let idle := s.regFld k 0 20
  if w = 0 ∧ bit (s.reg k) 31 ∧ (idle = 0 ∨ s.rate g < idle) then s.orReg k (2 ^ 30) else s

def execMacCbsWrite (g : Nat) (q : BitVec 3) (word : Bool) (v : Word) (s : State) : Host.Outcome State Fault Refusal :=
  .next (if g ∈ s.portList then s.cbsWrite g q.toNat (if word then 1 else 0) v else s)

end Sys2Proof.Machine
end

