-- ==== Sys2Proof/Machine/MemTile.lean ====
section
/-!
DEFINITION. Memory tiles as commands: accesses to a line, the memory class of other devices, the patrol scrub, self-refresh, region
entries and temperature reports (spec/14; spec/13 R465, R466).
-/

namespace Sys2Proof.Machine

/-- A command carries what arrives; if it stands on the mesh it is taken from there. -/
def State.takeNet (s : State) (x : NetItem) : State := { s with net := s.net.erase x }

/-- An answer to a frame: same class, channel, SEQ and TAG, to its sender (R465, R466, R523). -/
def State.reply (s : State) (w : Wyn) (sub : Nat) (payload : List Byte) : State :=
  s.send (.wyn { w with nf := false, rg := false, rsp := true, lv := false, av := false, sub := sub, dst := w.src,
                        src := devAddr s.devId, hops := 0, pri := 0, lseq := 0, lack := 0, ck := 0, payload := payload })

/-! ### Accesses to one line (R498, R501, R504, R505) -/

/-- The partition address under which a requester of partition p names a byte of tile t: the one at which the access touches a version
record, a release page or a command port, if there is one. -/
def State.lineAddr (s : State) (p t off n : Nat) : Option Nat :=
  let l := s.unxlate p t off
  (l.find? fun a => !(s.recsIn p a n).isEmpty || (s.pageAt p a n).isSome || (s.cportAt p a n).isSome).or l.head?

/-- An access to bytes of one line of tile t by a requester of partition p whose UNIT code is `unit`; a write carries its data. Version
records are accessed under R299; their ports have commands of their own, and this one, which names no taker, does not use them. -/
def State.lineAccess (s : State) (t off n p unit : Nat) (data : Option (List Byte)) : State :=
  let c : Chunk := ⟨t, off, n⟩
  if !s.fuse.hasTile t || n == 0 || decide (2 ^ 36 < off + n) || off / 64 != (off + n - 1) / 64 then s
  else match s.lineAddr p t off n, data with
    | some a, none => (s.memRd p a n .ordinary unit none).1
    | some a, some d => (s.memWr p a (sliceB d 0 n) .ordinary unit false).1
    | none, data =>
      if s.regionRefuses p .ordinary data.isSome c then s.refuseAt [c]
      else match data with
      | none => (s.readChunks p unit 0 [c]).1
      | some d => (s.writeChunk c (sliceB d 0 n) p unit).1

def execMemoryLineAccess (t : BitVec 3) (off n p unit : Nat) (data : Option (List Byte)) (s : State) :
    Host.Outcome State Fault Refusal := .next (s.lineAccess t.toNat off n p unit data)

/-! ### The memory class (R466) -/

/-- The code of an ERROR answer (R466, R595): 2 for an uncorrectable line, 4 where a version record or a command port refuses the access,
else 1. -/
def State.memCode (s : State) (p a n : Nat) (write : Bool) : MemRes → Nat
  | .ue _ => 2
  | _ => if (!(s.recsIn p a n).isEmpty || (s.cportAt p a n).isSome) && (s.regionsRefuse p a n .ordinary write).isNone then 4 else 1

/-- The address and length of a request, where its header is well-formed. -/
def memHeader (b : List Byte) : Option (Nat × Nat) :=
  let n := leAt b 8 4
  if leAt b 6 2 = 0 ∧ leAt b 12 4 = 0 ∧ 4 ≤ n ∧ n ≤ 8192 ∧ n % 4 = 0 then some (leAt b 0 6, n) else none

/-- A READ for partition p (R466). -/
def State.memReadAt (s : State) (p : Nat) (w : Wyn) : State :=
  let s := s.takeNet (.inw p w)
  match memHeader w.payload with
  | none => s.reply w 4 (leBytes 4 1)
  | some (a, n) =>
    match s.memRd p a n .ordinary 12 (some w.src) with
    | (s, .ok d) => s.reply w 2 d
    | (s, r) => s.reply w 4 (leBytes 4 (s.memCode p a n false r))

/-- A WRITE for partition p, acknowledged once it is visible (R466). -/
def State.memWriteAt (s : State) (p : Nat) (w : Wyn) : State :=
  let s := s.takeNet (.inw p w)
  match memHeader w.payload with
  | none => s.reply w 4 (leBytes 4 1)
  | some (a, n) =>
    let d := sliceB w.payload 16 n
    let port := (s.recsIn p a n).isEmpty && (s.pageAt p a n).isNone && (s.cportAt p a n == some true) &&
      (s.regionsRefuse p a n .ordinary true).isNone
    match (if port then (s.cportPush p (w.src / 65536) d, .ok []) else s.memWr p a d .ordinary 12 true) with
    | (s, .ok _) => s.reply w 3 []
    | (s, r) => s.reply w 4 (leBytes 4 (s.memCode p a n true r))

/-- An answer for a request of this device: it reaches the engine that waits for it (R118, R132). -/
def State.memAnswer (s : State) (p : Nat) (w : Wyn) (err : Bool) : State :=
  let s := s.takeNet (.inw p w)
  match s.rqOut.find? fun q => q.1 == w.seq && q.2.part == p with
  | none => s
  | some (n, q) =>
    let s := { s with rqOut := s.rqOut.erase (n, q) }
    s.response { part := p, dst := q.src, eng := q.eng, ticket := q.ticket, pos := q.pos, err := err, data := if err then [] else w.payload }
      (fun s c => if q.eng = 3 then s.rvFinish c else s)

def execRead (p : BitVec 6) (w : Wyn) (s : State) : Host.Outcome State Fault Refusal := .next (s.memReadAt p.toNat w)
def execWrite (p : BitVec 6) (w : Wyn) (s : State) : Host.Outcome State Fault Refusal := .next (s.memWriteAt p.toNat w)
def execReadRsp (p : BitVec 6) (w : Wyn) (s : State) : Host.Outcome State Fault Refusal := .next (s.memAnswer p.toNat w false)
def execWriteAck (p : BitVec 6) (w : Wyn) (s : State) : Host.Outcome State Fault Refusal := .next (s.memAnswer p.toNat w false)
def execError (p : BitVec 6) (w : Wyn) (s : State) : Host.Outcome State Fault Refusal := .next (s.memAnswer p.toNat w true)

/-! ### The patrol scrub (R508) -/

def State.patrol (s : State) (t : Nat) : State :=
  let k := mtKey t
  if !s.fuse.hasTile t || !bit (s.reg (k + 8)) 0 || s.regFld (k + 4) 1 2 != 0 then s
  else
    let line := s.scrub.get nat0 t
    let s := match s.memErr.get nat0 (t * 2 ^ 30 + line) with
      | 0 => s
      | 1 => (s.lineFix t line).bump (k + 0x110) 1
      | _ =>
        let s := ((s.bump (k + 0x118) 1).bump (k + 0x108) 1).setReg (k + 0x20) (BitVec.ofNat 32 line)
        let s := (s.setReg (k + 0x24) (BitVec.ofNat 32 (line / 2 ^ 32))).evSet (k + 0x28) 5 (20 + t)
        s.log { level := 0x44, unit := 15, cause := 3, action := 0, loc := t, d2 := 64 * line }
    let next := (line + 1) % 2 ^ 30
    { s.setReg (k + 0xC) (BitVec.ofNat 32 (next / 64)) with scrub := s.scrub.set nat0 t next }

def execPatrolScrub (t : BitVec 3) (s : State) : Host.Outcome State Fault Refusal := .next (s.patrol t.toNat)

/-! ### Self-refresh (R510-R512, R517) -/

/-- HOLDS of MT_STAT: a version record on the tile has a nonzero count. -/
def State.tileHolds (s : State) (t : Nat) : Bool :=
  (List.range 64).any fun p => (List.range (s.vrNum p)).any fun i =>
    match s.recPlace p i with
    | some (k, o) =>
      k == t && (let r := VRec.parse (s.mem.getN byte0 (memIdx k o) 32)
                 r.holds 0 || r.holds 1)
    | none => false

/-- Whether an apply, a combiner step, a mirror or a REEMIT is in progress on the tile. -/
def State.tileBusy (s : State) (t : Nat) : Bool :=
  (s.applies.any fun a => match a.2 with
    | some a => a.tiles.any fun u => u.tile == t && !u.ended
    | none => false) ||
  (s.redSteps.any fun r => r.2.isSome && s.rdTile (r.1 / 2) == t) ||
  (s.cmReqs.any fun r => r.kind == 0 && r.tile == t) ||
  s.reemits.any fun r => match r.2 with
    | some c => c.tile == t
    | none => false

/-- A tile enters self-refresh: after its idle time, or commanded by the power-state table (R510). -/
def State.selfRefresh (s : State) (t : Nat) (commanded : Bool) : State :=
  let k := mtKey t
  if !s.fuse.hasTile t || s.regFld (k + 4) 1 2 != 0 || !(if commanded then s.pwrHeld.testBit 0 else bit (s.reg k) 0) || s.tileBusy t || s.tileHolds t then s
  else (s.setRegFld (k + 4) 1 2 2).bump (k + 0x128) 1

def execSelfRefreshEntry (t : BitVec 3) (commanded : Bool) (s : State) : Host.Outcome State Fault Refusal :=
  .next (s.selfRefresh t.toNat commanded)

/-- The exit completes and the tile is active again; the cycles that requests waited for it are a free amount (R511, log entry 5). -/
def State.refreshExit (s : State) (t : Nat) : State :=
  if s.regFld (mtKey t + 4) 1 2 = 0 then s
  else
    let (n, s) := s.freeVal
    (s.setRegFld (mtKey t + 4) 1 2 0).bump (mtKey t + 0x130) n.toNat

def execSelfRefreshExit (t : BitVec 3) (s : State) : Host.Outcome State Fault Refusal := .next (s.refreshExit t.toNat)

/-! ### Region entries (R499, R502, R518) -/

/-- The pages of the generations of a hosting entry, first page and length (R554). -/
def hostKey (h o : Nat) : Nat := 0xA8100 + 0x40 * h + o
def State.hostGens (s : State) (h : Nat) : List (Nat × Nat) :=
  let n := s.regFld (hostKey h 4) 0 25
  [(s.regFld (hostKey h 8) 0 24, n), (s.regFld (hostKey h 12) 0 24, n)]
def State.hostValid (s : State) (h : Nat) : Bool := bit (s.reg (hostKey h 0)) 31

def overlaps (a b : Nat × Nat) : Bool :=
  decide (a.2 ≠ 0) && decide (b.2 ≠ 0) && decide (a.1 < b.1 + b.2) && decide (b.1 < a.1 + a.2)

/-- Whether an entry may not be changed as it stands, or may not stand so (R502). -/
def State.regionHeld (s : State) (t : Nat) (g : Region) : Bool :=
  g.valid && ((g.kind == 2 && (s.stepOpen g.part || bit (s.reg (ueKey t (0x100C + 0x10 * g.part))) 0)) ||
    (g.kind == 3 && (List.range 16).any fun h => s.hostValid h && s.regFld (hostKey h 0) 20 3 == t &&
      (s.hostGens h).any (overlaps (g.base, g.pages))))

/-- Whether a valid entry breaks R499 or overlaps another. -/
def State.regionBad (s : State) (t r : Nat) (g : Region) : Bool :=
  g.valid && (g.pages == 0 || decide (2 ^ 24 < g.base + g.pages) || g.kind == 0 || decide (5 < g.kind) ||
    ((List.range 16).any fun i => i != r && (s.region t i).valid &&
      overlaps (g.base, g.pages) ((s.region t i).base, (s.region t i).pages)))

def State.regionWrite (s : State) (t r w : Nat) (v : Word) : State :=
  let k := mtKey t + 0x400 + 0x10 * r
  let s' := s.putCode (k + 4 * w) v
  let new := s'.region t r
  if s.regionHeld t (s.region t r) || s.regionHeld t new || s.regionBad t r new then s.orReg (k + 8) (2 ^ 30) else s'

def execMtRegionWrite (t : BitVec 3) (r : BitVec 4) (w : BitVec 2) (v : Word) (s : State) : Host.Outcome State Fault Refusal :=
  .next (if s.fuse.hasTile t.toNat ∧ w.toNat < 3 then s.regionWrite t.toNat r.toNat w.toNat v else s)

/-- A stack reports its temperature, and whether the refresh rate is raised (R517). -/
def execDramTemperatureReport (t : BitVec 3) (temp : Byte) (x2 : Bool) (s : State) : Host.Outcome State Fault Refusal :=
  .next (if s.fuse.hasTile t.toNat then
    let k := mtKey t.toNat + 4
    (s.setRegFld k 8 8 temp.toNat).setRegFld k 16 1 (if x2 then 1 else 0)
  else s)

end Sys2Proof.Machine
end

