-- ==== Sys2Proof/Machine/Comet.lean ====
section
/-!
DEFINITION. Comet on both sides of a mirror, restores, heartbeats, and fencing by command (spec/15).
-/

namespace Sys2Proof.Machine

/-! ### The buddy (R522-R529, R533) -/

/-- An answer that refuses a Comet request: counted, HOSTERR (R526). -/
def State.hostRefuse (s : State) (w : Wyn) (code : Nat) : State :=
  ((s.bump 0xA8608 1).evSet 0xA8008 4 62).reply w 6 (leBytes 4 code)

/-- Hosting entries that match a sender and a partition. -/
def State.hostsOf (s : State) (p dev : Nat) : List Nat :=
  (List.range 16).filter fun h =>
    s.hostValid h && s.regFld (hostKey h 0) 0 16 == dev && s.regFld (hostKey h 0) 24 6 == p

def State.hostFind (s : State) (p dev site : Nat) : Option Nat :=
  (s.hostsOf p dev).find? fun h => s.regFld (hostKey h 0) 16 3 == site

/-- State, STEP and OPT of generation g, 0 for A and 1 for B. -/
def State.genState (s : State) (h g : Nat) : Nat := s.regFld (hostKey h 0x10) (2 * g) 2
def State.genStep (s : State) (h g : Nat) : Nat := (s.reg (hostKey h (0x14 + 4 * g))).toNat
def State.setGen (s : State) (h g st : Nat) : State := s.setRegFld (hostKey h 0x10) (2 * g) 2 st

/-- The signed difference of two step numbers is negative. -/
def stepBefore (a b : Nat) : Bool := decide (2 ^ 31 ≤ (a + 2 ^ 32 - b % 2 ^ 32) % 2 ^ 32)

/-- The generation a MIRROR of step t is placed in (R525). -/
def State.mirrorGen (s : State) (h t : Nat) : Option (Nat × State) :=
  match [0, 1].find? fun g => s.genState h g == 1 && s.genStep h g == t with
  | some g => some (g, s)
  | none =>
    if [0, 1].any fun g => s.genState h g == 2 && !stepBefore (s.genStep h g) t then none
    else
      let g := if s.genState h 0 = 2 then 1 else 0
      some (g, (s.setGen h g 1).setReg (hostKey h (0x14 + 4 * g)) (BitVec.ofNat 32 t))

/-- Tile and tile-local offset of a line of a generation. -/
def State.genPlace (s : State) (h g line : Nat) : Nat × Nat :=
  (s.regFld (hostKey h 0) 20 3, s.regFld (hostKey h (8 + 4 * g)) 0 24 * 4096 + 64 * line)

/-- SITE, STEP and LINE of a MIRROR or READ header, and whether its reserved bits are 0; `last` is what word 3 may hold (R524). -/
def cmHeader (b : List Byte) (last : Nat) : Nat × Nat × Nat × Bool :=
  (leAt b 0 4 % 8, leAt b 4 4, leAt b 8 4 % 2 ^ 30,
    leAt b 0 4 / 8 == 0 && leAt b 8 4 / 2 ^ 30 == 0 && decide (leAt b 12 4 ≤ last))

def State.mirrorAt (s : State) (p : Nat) (w : Wyn) : State :=
  let s := s.takeNet (.inw p w)
  let (site, t, line, ok) := cmHeader w.payload 0
  let d := w.payload.drop 16
  let n := d.length
  match s.hostFind p (w.src / 65536) site with
  | none => s.hostRefuse w 1
  | some h =>
    if n = 0 ∨ n % 64 ≠ 0 ∨ s.regFld (hostKey h 4) 0 25 * 64 < line + n / 64 then s.hostRefuse w 2
    else
      match s.mirrorGen h t, ok with
      | none, _ => s.hostRefuse w 3
      | some _, false => s.hostRefuse w 5
      | some (g, s), true =>
        let (k, o) := s.genPlace h g line
        (((s.tileWrite k o d p 16).1).bump 0xA8600 n).reply w 1 []

/-- A MARK of step t (R529). -/
def State.markAt (s : State) (p : Nat) (w : Wyn) : State :=
  let s := s.takeNet (.inw p w)
  let t := leAt w.payload 4 4
  let opt := leAt w.payload 8 4
  let hs := s.hostsOf p (w.src / 65536)
  let gen : Nat → Option Nat := fun h => [0, 1].find? fun g => s.genState h g != 0 && s.genStep h g == t
  if hs.isEmpty then s.hostRefuse w 1
  else if hs.any fun h => (gen h).isNone then s.hostRefuse w 3
  else if leAt w.payload 0 4 / 256 ≠ 0 ∨ leAt w.payload 12 4 ≠ 0 then s.hostRefuse w 5
  else
    let s := hs.foldl (fun (s : State) h =>
      match gen h with
      | none => s
      | some g =>
        let o := 1 - g
        let s' := (s.setGen h g 2).setReg (hostKey h (0x1C + 4 * g)) (BitVec.ofNat 32 opt)
        if s.genState h o = 2 ∧ stepBefore (s.genStep h o) t then s'.setGen h o 3
        else if stepBefore t (s.genStep h o) then s'.setGen h o 0
        else s') s
    s.reply w 3 []

/-- A READ of step t (R533). -/
def State.cometReadAt (s : State) (p : Nat) (w : Wyn) : State :=
  let s := s.takeNet (.inw p w)
  let (site, t, line, ok) := cmHeader w.payload (2 ^ 14 - 1)
  let n := leAt w.payload 12 4 % 2 ^ 14
  match s.hostFind p (w.src / 65536) site with
  | none => s.hostRefuse w 1
  | some h =>
    if n < 64 ∨ 8128 < n ∨ n % 64 ≠ 0 ∨ s.regFld (hostKey h 4) 0 25 * 64 < line + n / 64 then s.hostRefuse w 2
    else
      match [0, 1].find? fun g => decide (2 ≤ s.genState h g) && s.genStep h g == t with
      | none => s.hostRefuse w 3
      | some g =>
        if !ok then s.hostRefuse w 5
        else
          let (k, o) := s.genPlace h g line
          let (s, d, ue) := s.tileRead k o n p 16
          if ue then s.hostRefuse w 4
          else s.reply w 5 (words4 (s.reg (hostKey h (0x1C + 4 * g))).toNat t 0 0 ++ d)

/-! ### The source's restore (R534) -/

def State.cmStat (s : State) (p b : Nat) : State := s.orReg (cmKey p 4) (2 ^ b)
def State.cmEvent (s : State) (p b : Nat) : State := s.evSet (cmKey p 0x20) (2 ^ b) (256 + p)

def State.setRestore (s : State) (p : Nat) (r : Option Restore) : State := { s with restores := s.restores.set none0 p r }

/-- The restore stops with a cause. -/
def State.restoreFail (s : State) (p cause : Nat) : State :=
  match s.restores.get none0 p with
  | none => s
  | some _ =>
    let s := s.setRestore p none
    let s := { s with cmReqs := s.cmReqs.filter fun r => !(r.part == p && decide (2 ≤ r.kind)) }
    (((s.clrReg (cmKey p 4) 2).setRegFld (cmKey p 4) 2 4 cause)).cmEvent p 2

/-- Ask for the next lines, or mark the generation once every line is written. -/
def State.restoreGo (s : State) (p : Nat) : State :=
  match s.restores.get none0 p with
  | none => s
  | some r =>
    match r.wins with
    | [] =>
      if r.marking then s
      else
        let opt := r.opt.getD 0
        let (att, s) := s.freeVal
        let s := (s.setReg (cmKey p 0x10) (BitVec.ofNat 32 opt)).setRestore p (some { r with marking := true })
        s.cmSend p 1 3 2 0 r.step 0 0 (words4 (att.toNat % 256) r.step opt 0)
    | k :: rest =>
      let lines := ((s.cmWin p k).getD (0, 0)).2 * 64
      if lines ≤ r.line then
        -- the next window; its first line is asked for when the restore goes on
        s.setRestore p (some { r with wins := rest, line := 0 })
      else
        let n := min 127 (lines - r.line)
        let s := s.setRestore p (some { r with line := r.line + n })
        s.cmSend p k 2 4 (r.line / 128 % 4096) r.step r.line (64 * n) (words4 k r.step r.line (64 * n))

/-- As `restoreGo`, passing over windows that are finished. -/
def State.restoreNext (s : State) (p : Nat) : State :=
  (List.range 9).foldl (fun (s : State) _ =>
    if s.cmReqs.any fun r => r.part == p && decide (2 ≤ r.kind) then s else s.restoreGo p) s

/-- RESTORE (R534). -/
def State.restore (s : State) (p : Nat) : State :=
  let lost := match s.apply p with
    | some a => s.sa p == 3 && a.lost
    | none => false
  let wins := (List.range 8).filter fun k => (s.cmWin p k).isSome
  if (s.stepOpen p && !lost) || !bit (s.reg (cmKey p 0)) 0 || (s.restores.get none0 p).isSome || wins.isEmpty then s.cmStat p 16
  else
    let s := (s.setRegFld (cmKey p 4) 2 4 0).cmStat p 1
    (s.setRestore p (some { step := (s.reg (cmKey p 0xC)).toNat, opt := none, wins := wins, line := 0, marking := false })).restoreNext p

/-- Lines of a READ_RSP are written to their tile, as Comet's own writes there (R534). -/
def State.restoreLines (s : State) (p : Nat) (q : CmReq) (opt : Nat) (d : List Byte) : State :=
  match s.restores.get none0 p, s.cmWin p q.tile with
  | some r, some (base, _) =>
    if r.opt.isSome && r.opt != some opt then s.restoreFail p 8
    else
      let c : Chunk := ⟨q.tile, base * 4096 + 64 * q.line, q.len⟩
      if s.regionRefuses p (.updateEngine c.tile) true c then (s.refuseAt [c]).restoreFail p 7
      else
        let (s, _) := s.writeChunk c (sliceB d 0 q.len) p 16
        (s.setRestore p (some { r with opt := some opt })).restoreNext p
  | _, _ => s

/-! ### Answers at the source (R526-R530, R534) -/

/-- The oldest request an answer belongs to: its partition, SEQ and channel, among the kinds it may answer. -/
def State.cmTake (s : State) (p : Nat) (w : Wyn) (kinds : List Nat) : Option (CmReq × State) :=
  match s.cmReqs.find? fun r => r.part == p && r.seq == w.seq && decide (r.kind ∈ kinds) &&
      (if r.kind == 0 || r.kind == 2 then r.line / 128 % 4096 else 0) == w.ch with
  | none => none
  | some r => some (r, { s with cmReqs := s.cmReqs.erase r })

def State.mirrorAck (s : State) (p : Nat) (w : Wyn) : State :=
  let s := s.takeNet (.inw p w)
  match s.cmTake p w [0] with
  | none => s
  | some (r, s) => (s.bump (cmKey p 0x100) r.len).markTry p

def State.markAck (s : State) (p : Nat) (w : Wyn) : State :=
  let s := s.takeNet (.inw p w)
  match s.cmTake p w [1, 3] with
  | none => s
  | some (r, s) =>
    let s := ((s.bump (cmKey p 0x108) 1).setReg (cmKey p 0x14) (BitVec.ofNat 32 r.step)).clrReg (cmKey p 4) 1
    if r.kind = 1 then
      s.modApply p fun a => if a.step = r.step ∧ !a.mirFailed then { a with marked := true } else a
    else
      let s := s.modApply p fun a => if a.step = (r.step + 1) % 2 ^ 32 ∧ a.lost then { a with restored := true } else a
      ((s.setRestore p none).clrReg (cmKey p 4) 2).cmEvent p 1

def State.cometReadRsp (s : State) (p : Nat) (w : Wyn) : State :=
  let s := s.takeNet (.inw p w)
  match s.cmTake p w [2] with
  | none => s
  | some (r, s) => s.restoreLines p r (leAt w.payload 0 4) (w.payload.drop 16)

/-- A request fails: the step's mirror, or the restore. -/
def State.cmFail (s : State) (p : Nat) (r : CmReq) (cause : Nat) : State :=
  if r.kind ≤ 1 then
    match s.apply p with
    | some a => if a.step = r.step then s.mirrorFail p else s
    | none => s
  else s.restoreFail p cause

def State.cometError (s : State) (p : Nat) (w : Wyn) : State :=
  let s := s.takeNet (.inw p w)
  match s.cmTake p w [0, 1, 2, 3] with
  | none => s
  | some (r, s) => s.cmFail p r (leAt w.payload 0 4 % 16)

def execMirror (p : BitVec 6) (w : Wyn) (s : State) : Host.Outcome State Fault Refusal := .next (s.mirrorAt p.toNat w)
def execMirrorAck (p : BitVec 6) (w : Wyn) (s : State) : Host.Outcome State Fault Refusal := .next (s.mirrorAck p.toNat w)
def execMark (p : BitVec 6) (w : Wyn) (s : State) : Host.Outcome State Fault Refusal := .next (s.markAt p.toNat w)
def execMarkAck (p : BitVec 6) (w : Wyn) (s : State) : Host.Outcome State Fault Refusal := .next (s.markAck p.toNat w)
def execCometRead (p : BitVec 6) (w : Wyn) (s : State) : Host.Outcome State Fault Refusal := .next (s.cometReadAt p.toNat w)
def execCometReadRsp (p : BitVec 6) (w : Wyn) (s : State) : Host.Outcome State Fault Refusal := .next (s.cometReadRsp p.toNat w)
def execCometError (p : BitVec 6) (w : Wyn) (s : State) : Host.Outcome State Fault Refusal := .next (s.cometError p.toNat w)

/-- CM_TMO passes without an answer to a request of a tile (R530, R534). -/
def execMirrorTimeout (p : BitVec 6) (t : BitVec 3) (seq : BitVec 16) (s : State) : Host.Outcome State Fault Refusal :=
  .next (match s.cmReqs.find? fun r => r.part == p.toNat && r.tile == t.toNat && r.seq == seq.toNat with
    | none => s
    | some r => { s with cmReqs := s.cmReqs.erase r }.cmFail p.toNat r 6)

def execRestore (p : BitVec 6) (s : State) : Host.Outcome State Fault Refusal := .next (s.restore p.toNat)

/-! ### Comet's registers (R531, R550-R554) -/

/-- A write of CM_CTL. With a step open, EN and BUDDY keep their values, OUT is written, and CMDERR is set if EN or BUDDY would change
(DEDUCED, log entry 108). A new enable or buddy has acknowledged no MARK yet, so STALE is set. -/
def State.cmCtlWrite (s : State) (p : Nat) (v : Word) : State :=
  let k := cmKey p 0
  let old := s.reg k
  let b := fld v 16 16
  if s.stepOpen p then
    let s := s.putCode k (setFld old 8 8 (fld v 8 8))
    if bit v 0 = bit old 0 ∧ b = fld old 16 16 then s else s.cmStat p 16
  else if bit v 0 && (b == 0 || b == 0xFFFF || b == s.devId) then s.cmStat p 17
  else
    let fresh := bit v 0 && (!bit old 0 || b != fld old 16 16)
    let s := s.putCode k v
    if fresh then s.cmStat p 0 else s

def execCmCtlWrite (p : BitVec 6) (v : Word) (s : State) : Host.Outcome State Fault Refusal := .next (s.cmCtlWrite p.toNat v)

/-- Whether pages lie inside one region of a kind and partition on a tile. -/
def State.inRegion (s : State) (t kind p base n : Nat) : Bool :=
  (List.range 16).any fun i =>
    let g := s.region t i
    g.valid && g.kind == kind && g.part == p && decide (g.base ≤ base) && decide (base + n ≤ g.base + g.pages)

/-- How far pages from `base` on lie in regions of a kind and partition on a tile, taken together. -/
def State.coverTo (s : State) (t kind p : Nat) : Nat → Nat → Nat
  | 0, base => base
  | n + 1, base =>
    match (List.range 16).find? fun i =>
      let g := s.region t i
      g.valid && g.kind == kind && g.part == p && decide (g.base ≤ base) && decide (base < g.base + g.pages) with
    | some i => State.coverTo s t kind p n ((s.region t i).base + (s.region t i).pages)
    | none => base

def State.cmWinWrite (s : State) (p k w : Nat) (v : Word) : State :=
  if s.stepOpen p then s.cmStat p 16
  else
    let s' := s.putCode (cmKey p (0x40 + 0x10 * k + 4 * w)) v
    match s'.cmWin p k with
    | some (base, n) => if s.fuse.hasTile k && n != 0 && s.inRegion k 2 p base n then s' else s.cmStat p 17
    | none => s'

def execCmWinWrite (p : BitVec 6) (k : BitVec 3) (w : BitVec 2) (v : Word) (s : State) : Host.Outcome State Fault Refusal :=
  .next (if w.toNat < 3 then s.cmWinWrite p.toNat k.toNat w.toNat v else s)

/-- Whether entry h may not become valid (R554). -/
def State.hostBad (s : State) (h : Nat) : Bool :=
  let x := s.reg (hostKey h 0)
  let t := fld x 20 3
  let p := fld x 24 6
  let gens := s.hostGens h
  let others := (List.range 16).filter fun i => i != h && s.hostValid i
  !s.fuse.hasTile t || (gens.any fun g => g.2 != 0 && decide (s.coverTo t 3 p 16 g.1 < g.1 + g.2)) ||
    (match gens with
      | [a, b] => overlaps a b
      | _ => false) ||
    others.any fun i =>
      let y := s.reg (hostKey i 0)
      (fld y 20 3 == t && (s.hostGens i).any fun a => gens.any (overlaps a)) ||
        (fld y 0 19 == fld x 0 19 && fld y 24 6 == p)

def State.cmHostWrite (s : State) (h w : Nat) (v : Word) : State :=
  let k := hostKey h 0
  if s.hostValid h then
    if w = 0 then
      let x := if bit v 30 then setBit (s.reg k) 30 false else s.reg k
      s.setReg k (setBit x 31 (bit v 31))
    else s
  else
    let s' := s.putCode (k + 4 * w) v
    if w = 0 ∧ bit v 31 then
      if s'.hostBad h then s.setReg k (setBit (s.reg k) 30 true) else s'.setReg (hostKey h 0x10) 0
    else s'

def execCmHostWrite (h : BitVec 4) (w : BitVec 2) (v : Word) (s : State) : Host.Outcome State Fault Refusal :=
  .next (s.cmHostWrite h.toNat w.toNat v)

/-! ### Core reset and the fence by command (R541, R542, R682) -/

/-- The state of a core reset; a fenced core stays FENCED (R682). Open contexts close without END records (R404). -/
def State.coreReset (s : State) (c : Nat) : State :=
  s.setCore c (if s.isFenced c then Core.reset.setRs 4 else Core.reset)

/-- A write of FENCE (R537); a core already fenced stays as it is. -/
def State.clFence (s : State) (cl i : Nat) : State :=
  let c := clusterCore cl i
  if s.isFenced c then s else s.fence c 4

def State.unfence (s : State) (cl i : Nat) : State :=
  let c := clusterCore cl i
  let named := (List.range 16).any fun j =>
    let a := s.reg (clKey cl + 4 * j)
    bit a 8 && (j == i || fld a 0 4 == i)
  if !s.isFenced c || named then s.orReg (clKey cl + 0x50) (2 ^ 16)
  else
    let code := (s.core c).cf 0x11 0 5
    let cause := s.fcause c
    let s := ((s.clrReg (clKey cl + 4 * i) (2 ^ 9)).setFcause c 0).coreReset c
    let s := s.log { level := 0x42, unit := 1, cause := code, action := 6, part := some (s.corePart c),
                     loc := mkAddr 0 (coreRow c) (coreCol c), d1 := cause }
    s.fenceNotify c 2 cause

/-- A write of MU_CL_FENCE (R541, R555). -/
def State.clFenceWrite (s : State) (cl : Nat) (v : Word) : State :=
  let s := s.putCode (clKey cl + 0x50) v
  let i := fld v 0 4
  match bit v 8, bit v 9 with
  | true, true => s.orReg (clKey cl + 0x50) (2 ^ 16)
  | true, false => s.clFence cl i
  | false, true => s.unfence cl i
  | false, false => s

def execClFence (cl : Nat) (i : BitVec 4) (s : State) : Host.Outcome State Fault Refusal :=
  .next (if cl < 640 then s.clFenceWrite cl (BitVec.ofNat 32 (i.toNat + 2 ^ 8)) else s)
def execUnfence (cl : Nat) (i : BitVec 4) (s : State) : Host.Outcome State Fault Refusal :=
  .next (if cl < 640 then s.clFenceWrite cl (BitVec.ofNat 32 (i.toNat + 2 ^ 9)) else s)

/-! ### Heartbeats (R543, R544) -/

/-- One heartbeat of a state to every valid target. -/
def State.heartbeat (s : State) (st : Nat) : State :=
  if s.devId = 0 then s
  else (List.range 4).foldl (fun s t =>
    let w := s.reg (0xA8010 + 4 * t)
    if bit w 31 then
      let s := s.bump 0xA8610 1
      let pay := words4 (s.devId + st * 2 ^ 16) (s.reg 0xA8610).toNat s.time32 0
      s.send (.wyn { cls := 7, nf := false, rg := false, rsp := false, lv := false, av := false, sub := 3, ch := 0, seq := 0,
                     dst := devAddr (fld w 0 16), src := devAddr s.devId, tag := 0, hops := 0, pri := 0, lseq := 0, lack := 0, ck := 0,
                     payload := pay })
    else s) s

/-- PERIOD passes: OK, or FAILED while the device has a fatal package error. -/
def execHeartbeatSend (s : State) : Host.Outcome State Fault Refusal :=
  .next (if s.regFld 0xA8000 0 16 = 0 then s else s.heartbeat (if bit (s.reg 0x2004) 0 then 2 else 0))

def hbKey (w : Nat) : Nat := 0xA8040 + 8 * w

/-- A heartbeat of a device with a state (R544). -/
def State.heartbeatAt (s : State) (dev st : Nat) : State :=
  (List.range 8).foldl (fun s w =>
    let x := s.reg (hbKey w)
    if bit x 31 && fld x 0 16 == dev then
      let old := fld x 16 2
      let s := (s.setRegFld (hbKey w) 16 2 st).setReg (hbKey w + 4) (BitVec.ofNat 32 s.time32)
      if st = 2 ∧ old < 2 then s.evSet 0xA8008 2 62 else s
    else s) s

def execHeartbeat (w : Wyn) (s : State) : Host.Outcome State Fault Refusal :=
  let a := leAt w.payload 0 4
  .next ((s.takeNet (.inw 0 w)).heartbeatAt (a % 2 ^ 16) (a / 2 ^ 16 % 4))

/-- No heartbeat for CM_HB_TMO while STATE is OK. -/
def execHeartbeatTimeout (w : BitVec 3) (s : State) : Host.Outcome State Fault Refusal :=
  let k := hbKey w.toNat
  .next (if s.regFld 0xA8004 0 24 ≠ 0 ∧ bit (s.reg k) 31 ∧ s.regFld k 16 2 = 0 then
    (s.setRegFld k 16 2 3).evSet 0xA8008 1 62 else s)

/-- A write of a watch entry's first word (R544, R553). -/
def State.hbWatchWrite (s : State) (w : Nat) (v : Word) : State :=
  let k := hbKey w
  let s := s.putCode k v
  if bit v 31 then (s.setRegFld k 16 2 0).setReg (k + 4) (BitVec.ofNat 32 s.time32) else s

def execHbWatchWrite (w : BitVec 3) (v : Word) (s : State) : Host.Outcome State Fault Refusal := .next (s.hbWatchWrite w.toNat v)

end Sys2Proof.Machine
end

