-- ==== Sys2Proof/Machine/Feed.lean ====
section
/-!
DEFINITION. Feed channels: enabling, packets, conversion and placement of records (spec/13 R480-R487, R493-R495).
-/

namespace Sys2Proof.Machine

/-! ### A channel's registers -/

def State.fdErr (s : State) (c : Nat) : State := s.orReg (fdKey c 0x38) 4
/-- FD_CHc_STAT.EVT, with any count of FD_GAP, FD_DROP or FD_PLACEERR (R495). -/
def State.fdEvt (s : State) (c : Nat) : State := (s.orReg (fdKey c 0x38) 8).evTouch (448 + c)
/-- Count in a counter that sets EVT. -/
def State.fdCount (s : State) (c o n : Nat) : State := if n = 0 then s else (s.bump (fdKey c o) n).fdEvt c

def State.fdKind (s : State) (c : Nat) : Nat := s.regFld (fdKey c 0) 3 3
def State.fdReclen (s : State) (c : Nat) : Nat := s.regFld (fdKey c 8) 0 24
def State.fdGroups (s : State) (c : Nat) : Nat := s.regFld (fdKey c 0x24) 16 11

/-- Element sizes (R480). -/
def elemSize : Nat → Nat
  | 0 => 2
  | 1 => 3
  | 5 => 1
  | _ => 4

/-! ### Enabling (R482, R483, R487, R494) -/

def parseEntry (b : List Byte) : FdEntry :=
  { dest := leAt b 0 4, base := leAt b 4 2, nslot := leAt b 6 2, slotln := leAt b 8 2, sem := byteAt b 10 % 64,
    semen := (byteAt b 10).testBit 6, first := leAt b 12 4, count := leAt b 16 4 }

/-- The output format at a destination core; `none` where OCV is refused (R482). User slots and code tables are the core's. -/
def State.fdFmt (s : State) (c core : Nat) : Option (Fmt × List Nat) :=
  let ocv := s.regFld (fdKey c 4) 0 12
  let k := s.core core
  match k.fmtSel k.act (ocv % 256) with
  | none => none
  | some (f, tbl) =>
    if !rndOk f (ocv / 256 % 8) || (s.fdKind c == 4 && ocv % 256 != 13) then none else some (f, tbl)

/-- Whether a placement entry breaks R483. -/
def State.entryBad (s : State) (c : Nat) (b : List Byte) : Bool :=
  let e := parseEntry b
  decide (8192 ≤ e.base) || e.nslot == 0 || decide (256 < e.nslot) || decide (8192 ≤ e.slotln) || (byteAt b 10).testBit 7 ||
    byteAt b 11 != 0 || decide (2 ^ 24 ≤ e.first) || e.count == 0 || decide (2 ^ 24 ≤ e.count) || leAt b 20 12 != 0 ||
    decide (s.fdReclen c < e.first + e.count) || decide (6144 < e.base + e.nslot * e.slotln) || addrDev e.dest != 0 ||
    match s.toCore (s.fdPart c) e.dest with
    | none => true
    | some core =>
      match s.fdFmt c core with
      | none => true
      | some (f, _) => (f.block && e.count % 32 != 0) || decide (e.slotln * 32 < 32 + areaSize f 1 e.count)

/-- The placement table, if the channel may be enabled. -/
def State.fdTable (s : State) (c : Nat) : State × Option (List FdEntry) :=
  let n := s.regFld (fdKey c 0x24) 0 11
  let g := s.fdGroups c
  let a := s.reg64 (fdKey c 0x1C) % 2 ^ 48
  if n = 0 ∨ 1024 < n ∨ g = 0 ∨ n % g ≠ 0 ∨ 6 ≤ s.fdKind c ∨ s.fdReclen c = 0 then (s, none)
  else
    match (s.memRoute (siteDie (s.fuse.xdies.getD 0 0)) (s.fdPart c) a (32 * n)).dmRead (s.fdPart c) a (32 * n) .ordinary 14 with
    | (s, .ok d) =>
      let es := (List.range n).map fun i => sliceB d (32 * i) 32
      (s, if es.any (s.entryBad c) then none else some (es.map parseEntry))
    | (s, _) => (s, none)

/-- The channel stops; partial and waiting records are discarded (R487). -/
def State.fdStop (s : State) (c : Nat) : State :=
  let x := s.feed c
  let n := x.waiting.length + (if x.part.isSome then 1 else 0)
  let s := (s.clrReg (fdKey c 0) 1).clrReg (fdKey c 0x38) 1
  (s.setFeed c FdCh.reset).fdCount c 0x110 n

/-- A write of FD_CHc_CFG; PART is the PF's. While EN is 1 another field that would change is left alone and sets CFGERR, whether EN is
kept or cleared (R487, R493, R494). -/
def State.fdCfgWrite (s : State) (c : Nat) (pf : Bool) (v : Word) : State :=
  let k := fdKey c 0
  let v' := if pf then v else setFld v 8 6 (s.fdPart c)
  if s.fdOn c then
    let s := if fld v' 1 5 = fld (s.reg k) 1 5 ∧ fld v' 8 6 = fld (s.reg k) 8 6 then s else s.fdErr c
    if bit v 0 then s else s.fdStop c
  else
    let s := s.putCode k (setBit v' 0 false)
    if !bit v 0 then s
    else
      match s.fdTable c with
      | (s, none) => s.fdErr c
      | (s, some es) => ((s.orReg k 1).orReg (fdKey c 0x38) 1).setFeed c { FdCh.reset with table := es }

def execFdEnable (c : BitVec 6) (pf : Bool) (v : Word) (s : State) : Host.Outcome State Fault Refusal :=
  .next (s.fdCfgWrite c.toNat pf (setBit v 0 true))
def execFdDisable (c : BitVec 6) (s : State) : Host.Outcome State Fault Refusal :=
  .next (s.fdCfgWrite c.toNat true (setBit (s.reg (fdKey c.toNat 0)) 0 false))

/-! ### Packets (R480, R481, R486) -/

/-- GAP is due in the next piece of every entry. -/
def FdCh.allGaps (x : FdCh) : FdCh := { x with gaps := List.range x.table.length }

def State.nextRec (s : State) (c : Nat) : Nat := (s.reg (fdKey c 0x40)).toNat
def State.setNextRec (s : State) (c n : Nat) : State := s.setReg (fdKey c 0x40) (BitVec.ofNat 32 n)

/-- The entries that place record r. -/
def State.fdGroup (s : State) (c r : Nat) : List (Nat × FdEntry) :=
  let es := (s.feed c).table
  let per := es.length / s.fdGroups c
  let g := r % s.fdGroups c
  (List.range per).filterMap fun i => (es[g * per + i]?).map (g * per + i, ·)

/-- Whether every entry of the record's group has a free slot (R485). -/
def State.canPlace (s : State) (c r : Nat) : Bool :=
  (s.fdGroup c r).all fun e => decide ((s.feed c).used.get nat0 e.1 < e.2.nslot)

/-- Bytes of the records that wait, over all channels. -/
def State.recBytes (s : State) : Nat := (s.feeds.map fun x => (x.2.waiting.map fun r => r.data.length).sum).sum

/-- A complete record joins those that wait, or meets POLICY where it does not fit; `none` holds its packet (R486). -/
def State.recordDone (s : State) (c : Nat) (r : FdRecord) : Option State :=
  let x := s.feed c
  let x := { x with part := none }
  let s' := s.setNextRec c (r.num + 1)
  if (x.waiting.isEmpty && s.canPlace c r.num) || decide (s.recBytes + r.data.length ≤ 2 ^ 21) then
    some (s'.setFeed c { x with waiting := x.waiting ++ [r] })
  else if bit (s.reg (fdKey c 0)) 2 then none
  else some (((s'.setFeed c x.allGaps).fdCount c 0x110 1).fdCount c 0x108 1)

/-- A packet whose record is the next one (R481). -/
def State.packetNext (s : State) (c off : Nat) (data : List Byte) (last : Bool) : Option State :=
  let x := s.feed c
  let n := s.nextRec c
  let size := elemSize (s.fdKind c)
  let r := x.part.getD { num := n, step := (s.stepNo (s.fdPart c)).toNat, data := [] }
  let count := (r.data.length + data.length) / size
  if off ≠ r.data.length / size ∨ (last ∧ count ≠ s.fdReclen c) then
    some (((s.setFeed c { x with part := none }.allGaps).setNextRec c (n + 1)).fdCount c 0x108 1)
  else
    let r := { r with data := r.data ++ data }
    if last then s.recordDone c r else some (s.setFeed c { x with part := some r })

/-- A feed packet for an enabled channel; `none` where the packet must wait in its port's buffer. -/
def State.feedPacket (s : State) (c : Nat) (b : List Byte) : Option State :=
  let n := beAt b 0 4
  let dlen := beAt b 8 2
  let fl := byteAt b 11
  if b.length < 16 + dlen ∨ dlen % elemSize (s.fdKind c) ≠ 0 ∨ byteAt b 10 ≠ s.fdKind c ∨ 2 ≤ fl ∨ beAt b 12 4 ≠ 0 then
    some (s.bump (fdKey c 0x118) 1)
  else
    let x := s.feed c
    let s := if x.started then s else (s.setNextRec c n).setFeed c { x with started := true }
    let d := (n + 2 ^ 32 - s.nextRec c) % 2 ^ 32
    let data := sliceB b 16 dlen
    if d = 0 then s.packetNext c (beAt b 4 4) data (fl == 1)
    else if d < 2 ^ 31 then
      let s := ((s.setFeed c { s.feed c with part := none }.allGaps).setNextRec c n).fdCount c 0x108 d
      s.packetNext c (beAt b 4 4) data (fl == 1)
    else some (s.bump (fdKey c 0x118) 1)

/-- A packet for channel c; one for a channel that is not enabled has no effect here (the fabric layer counts it). -/
def execFeedPacket (c : BitVec 6) (payload : List Byte) (s : State) : Host.Outcome State Fault Refusal :=
  .next (if s.fdOn c.toNat then (s.feedPacket c.toNat payload).getD s else s)

/-! ### Conversion and placement (R482, R484) -/

/-- The exact value of an element. -/
def feedValue (kind code : Nat) : Fv :=
  let pcm : Nat → Fv := fun b =>
    let v := sfld code 0 b
    .fin (decide (v < 0)) v.natAbs (1 - (b : Int))
  match kind with
  | 0 => pcm 16
  | 1 => pcm 24
  | 2 => pcm 32
  | 5 => .fin false code 0
  | _ => f32 (BitVec.ofNat 32 code)

/-- Element i of a record as the value to be converted, with the flags of the gain (R482). -/
def State.feedElem (s : State) (c : Nat) (r : FdRecord) (i : Nat) : Fv × FFlags :=
  let kind := s.fdKind c
  let x := feedValue kind (leAt r.data (elemSize kind * i) (elemSize kind))
  let gain := s.reg (fdKey c 0xC)
  let bias := s.reg (fdKey c 0x10)
  if gain = 0x3F800000#32 ∧ bias = 0 then (x, 0)
  else
    let (y, fl) := fFma fmt32 0 x (f32 gain) (f32 bias)
    (f32 (BitVec.ofNat 32 y), fl)

/-- A token id as it is written, and whether it was replaced. -/
def State.feedToken (s : State) (c : Nat) (r : FdRecord) (i : Nat) : Nat × Bool :=
  let v := leAt r.data (4 * i) 4
  if (s.reg (fdKey c 0x14)).toNat ≤ v then ((s.reg (fdKey c 0x18)).toNat, true) else (v, false)

/-- The bytes of a piece under format f, its flags, whether an id was replaced, and its block count. -/
def State.pieceBytes (s : State) (c : Nat) (r : FdRecord) (e : FdEntry) (f : Fmt) (tbl : List Nat) : List Byte × FFlags × Bool × Nat :=
  let idx := (List.range e.count).map (e.first + ·)
  if s.fdKind c = 4 then
    let ts := idx.map (s.feedToken c r)
    (ts.flatMap fun t => leBytes 4 t.1, 0, ts.any (·.2), 0)
  else
    let ocv := s.regFld (fdKey c 4) 0 12
    let scale := s.regFld (fdKey c 4) 16 8
    let mode := ocv / 256 % 8
    let vals := idx.map fun i =>
      let (v, fl) := s.feedElem c r i
      let w := rand (s.reg (fdKey c 0x34)) (BitVec.ofNat 32 (s.devId * 2 ^ 16 + 0x8040 + c)) (BitVec.ofNat 32 r.step)
        (BitVec.ofNat 32 r.num) (BitVec.ofNat 32 i)
      (v, fl, w)
    let nblk := if f.block then e.count / 32 else 1
    let per := if f.block then 32 else e.count
    let blks := (List.range nblk).map fun j =>
      convBlock f tbl mode (ocv.testBit 11) scale (((vals.drop (per * j)).take per).map fun v => some (v.1, v.2.2))
    let codes := blks.flatMap fun b => b.codes.map (·.getD 0)
    let fl := if f.block ∧ scale = 0xFF then 0 else (blks.flatMap (·.fls)).foldl (· ||| ·) (vals.foldl (fun a v => a ||| v.2.1) 0)
    let pitch := rowPitch f.width e.count
    let data := leBytes ((e.count * f.width + 7) / 8) (packCodes f.width codes)
    if f.block then
      let tag := s.regFld (fdKey c 0x44) 0 8
      let pad := List.replicate (pitch - data.length) (0 : Byte)
      let sel := ocv % 256
      (headerBytes tag sel nblk ++ data ++ pad ++ headerBytes tag 14 nblk ++ blks.map (fun b => BitVec.ofNat 8 b.scale), fl, false, nblk)
    else (data, fl, false, 0)

/-- One entry's piece of a record (R484). -/
def State.placePiece (s : State) (c : Nat) (r : FdRecord) (i : Nat) (e : FdEntry) : State :=
  let x := s.feed c
  let fail : State → State := fun s =>
    (s.setFeed c { x with gaps := if i ∈ x.gaps then x.gaps else x.gaps ++ [i] }).fdCount c 0x128 1
  match s.toCore (s.fdPart c) e.dest with
  | none => fail s
  | some core =>
    match s.reach (some (siteDie (s.fuse.xdies.getD 0 0))) core with
    | none => fail s
    | some s =>
      match s.fdFmt c core with
      | none => fail s
      | some (f, tbl) =>
        let (data, fl, voc, nblk) := s.pieceBytes c r e f tbl
        let head := leBytes 4 r.num ++ leBytes 4 e.first ++ leBytes 4 e.count ++
          [BitVec.ofNat 8 ((if i ∈ x.gaps then 1 else 0) + if voc then 2 else 0), fl.setWidth 8] ++ List.replicate 18 0
        let slot := r.num / s.fdGroups c % e.nslot
        let t := s.servedBy core
        let s := (s.orReg (fdKey c 0x3C) fl.toNat).setRegFld (fdKey c 0x44) 0 8
          (s.regFld (fdKey c 0x44) 0 8 + if f.block then nblk + 1 else 0)
        match s.spadWrite t (32 * (e.base + slot * e.slotln)) (head ++ data) 0xF1 0 with
        | (s, some _) => fail s
        | (s, none) =>
          let s := if e.semen then s.modCore t fun k => (k.semInc e.sem).1 else s
          s.setFeed c { x with used := x.used.set nat0 i (x.used.get nat0 i + 1), gaps := x.gaps.filter (· ≠ i) }

/-- The oldest complete record is placed once every entry of its group has a free slot. -/
def State.recordPlace (s : State) (c : Nat) : State :=
  let x := s.feed c
  match x.waiting with
  | [] => s
  | r :: rest =>
    if !s.canPlace c r.num then s
    else
      let s := s.setFeed c { x with waiting := rest }
      let bad := if s.fdKind c = 4 then ((List.range (s.fdReclen c)).filter fun i => (s.feedToken c r i).2).length else 0
      let s := s.bump (fdKey c 0x120) bad
      let s := (s.fdGroup c r.num).foldl (fun s e => s.placePiece c r e.1 e.2) s
      s.bump (fdKey c 0x100) 1

def execRecordPlace (c : BitVec 6) (s : State) : Host.Outcome State Fault Refusal :=
  .next (if s.fdOn c.toNat then s.recordPlace c.toNat else s)

/-- A write of n at offset 4e of the channel's release page. -/
def execSlotRelease (c : BitVec 6) (e : BitVec 10) (n : Word) (s : State) : Host.Outcome State Fault Refusal :=
  let a := s.reg64 (fdKey c.toNat 0x28) % 2 ^ 48 / 4096 * 4096 + 4 * e.toNat
  .next (if s.fdOn c.toNat then (s.memWr (s.fdPart c.toNat) a (leBytes 4 n.toNat) .ordinary 3 true).1 else s)

end Sys2Proof.Machine
end

