-- ==== Sys2Proof/Machine/Fabric.lean ====
section
/-!
DEFINITION. The WYN fabric: received frames and their checks, the forwarding decision, local delivery, frames the device sends, retry,
and the forwarding table (spec/13 R458-R479, R488-R492).
-/

namespace Sys2Proof.Machine

/-! ### Counters and events of a port (R488, R492) -/

def State.fbBad (s : State) (g : Nat) : State := (s.bump (fbKey g 0x110) 1).fbEvent 5
def State.fbNoRoute (s : State) (g : Nat) : State := (s.bump (fbKey g 0x118) 1).fbEvent 2
def State.fbTtl (s : State) (g : Nat) : State := (s.bump (fbKey g 0x120) 1).fbEvent 3
def State.fbReturned (s : State) (g : Nat) : State := s.bump (fbKey g 0x128) 1
def State.fbNoDom (s : State) (g : Nat) : State := (s.bump (fbKey g 0x130) 1).fbEvent 4

/-! ### The forwarding table (R467, R469-R474) -/

def State.fwd (s : State) (g o : Nat) : Word := s.reg (bankKey (s.devBank 0) (fbKey g o))
def State.fwdPorts (s : State) (d : Nat) : List Nat :=
  s.portList.filter fun g => bit (s.fwd g 12) 0 && decide (fld (s.fwd g 4) 0 16 ≤ d) && decide (d ≤ fld (s.fwd g 8) 0 16)
def State.orbPorts (s : State) : List Nat := s.portList.filter fun g => bit (s.fwd g 12) 1
def State.bcfPorts (s : State) : List Nat := s.portList.filter fun g => bit (s.fwd g 12) 2

/-- FB_CTL.XFWD (R474): some port may be forwarded to from another X-die. -/
def State.xfwd (s : State) : Bool :=
  decide (2 ≤ s.fuse.xdies.length) && s.portList.any fun g =>
    bit (s.fwd g 12) 1 || (bit (s.fwd g 12) 0 && decide (fld (s.fwd g 4) 0 16 ≤ fld (s.fwd g 8) 0 16))

/-- The registers of the forwarding table. -/
def fwdKeys : List Nat := 0x104004 :: (List.range 32).flatMap fun g => [fbKey g 4, fbKey g 8, fbKey g 12]

/-- A write of FB_SWAP (R278, R471). -/
def State.fbSwap (s : State) (fwd copy : Bool) : State :=
  if !fwd then s else if copy then s.devCopy 0 fwdKeys else s.devSwap 0

/-- The next hop for a device on a port: 0 on a direct port, else 1 + the first valid peer entry (R469). -/
def State.nextHop (s : State) (g d : Nat) : Option Nat :=
  if s.udp g then
    ((List.range 256).find? fun k => bit (s.reg (peerKey g k)) 31 && s.regFld (peerKey g k) 0 16 == d).map (· + 1)
  else some 0

/-- Offer a frame to a port by its encapsulation; `none` where it must wait, else whether the port has taken it. -/
def State.sendBy (s : State) (g flow : Nat) (w : Wyn) : Option (State × Bool) :=
  match s.nextHop g (w.dst / 65536) with
  | none => some (s.bump (fbKey g 0x138) 1, false)
  | some h => s.admitTx g flow h w

/-- Offer a frame to each of some ports; all answer, or it waits. The number counts the ports that have taken it. -/
def State.sendAll (s : State) (flow : Nat) (w : Wyn) : List Nat → Option (State × Nat)
  | [] => some (s, 0)
  | g :: t => match s.sendBy g flow w with
    | none => none
    | some (s, ok) => (State.sendAll s flow w t).map fun r => (r.1, r.2 + if ok then 1 else 0)

/-- The port of a list a frame takes (R469). -/
def pickPort (l : List Nat) (w : Wyn) : Nat := l.getD (w.flow % l.length) 0

/-! ### Local delivery (R462, R464-R466) -/

/-- The C-die beside the X-die of a port: where a packet enters the package or leaves it (R19, R21). -/
def State.portDie (s : State) (g : Nat) : Nat := siteDie (s.fuse.xdies.getD (g / 8) 0)

/-- The die of the core a frame of partition p names by an address, if it names one. -/
def State.frameDie (s : State) (p a : Nat) : Option Nat := if (a / 2 ^ 15) % 2 = 1 then none else (s.toCore p (a % 65536)).map coreDie

/-- A frame for partition p enters at port g: the dies it must enter or cross on its way wake (R27, R653): to a core, to the memory it
reads or writes, to the tile of a Comet request, to the combiner's tile or to the feed unit on X-die 0. -/
def State.enterWake (s : State) (g p : Nat) (w : Wyn) : State :=
  let d := s.portDie g
  let toCore := match s.frameDie p w.dst with
    | some e => s.wakeRoute d e
    | none => s
  match w.cls, w.sub with
  | 2, _ => s.wakeRoute d (siteDie (s.rdTile w.ch))
  | 3, _ => s.wakeRoute d (siteDie (s.rdTile w.ch))
  | 4, 0 => match memHeader w.payload with
    | some (a, n) => s.memRoute d p a n
    | none => s
  | 4, 1 => match memHeader w.payload with
    | some (a, n) => s.memRoute d p a n
    | none => s
  | 5, 0 => match s.hostFind p (w.src / 65536) (leAt w.payload 0 4 % 8) with
    | some h => s.wakeRoute d (siteDie (s.regFld (hostKey h 0) 20 3))
    | none => s
  | 5, 4 => match s.hostFind p (w.src / 65536) (leAt w.payload 0 4 % 8) with
    | some h => s.wakeRoute d (siteDie (s.regFld (hostKey h 0) 20 3))
    | none => s
  | 5, _ => match s.cmReqs.find? fun r => r.part == p && r.seq == w.seq with
    | some r => s.wakeRoute d (siteDie r.tile)
    | none => s
  | 6, _ => s.wakeRoute d (s.portDie 0)
  | _, _ => toCore

/-- A frame passes from port g to others: the dies between wake (R27, R653). -/
def State.crossWake (s : State) (g : Nat) (outs : List Nat) : State :=
  outs.foldl (fun s o => if o / 8 = g / 8 then s else s.wakeRoute (s.portDie g) (s.portDie o)) s


/-- The partition whose domain a tag names (R465). -/
def State.domPart (s : State) (tag : Nat) : Option Nat :=
  if tag = 0 then none else (List.range 64).find? fun p => s.domOf p == tag

/-- Which of the device's own datagrams a refusal with SEQ 0 answers: an event of a core, or a notification of a unit (R123, R464). -/
def State.refusalOrigin (s : State) (p : Nat) (w : Wyn) : Nat :=
  if w.seq ≠ 0 then 0
  else if (w.dst / 2 ^ 15) % 2 = 1 then
    if bit (s.reg (cmKey p 0x1C)) 31 && s.regFld (cmKey p 0x1C) 0 12 == w.ch && (s.reg (cmKey p 0x18)).toNat == w.src then 4
    else if bit (s.reg (stKey p 0x80)) 31 && s.regFld (stKey p 0x80) 0 12 == w.ch then 5
    else 6
  else
    match s.toCore p (w.dst % 65536) with
    | some c => if (s.core c).cf 0x2A2 0 12 = w.ch then 2 else 3
    | none => 0

/-- A rotate packet from another device: packets of one SEQ land in order; one shorter than 8,192 bytes ends the transfer (R127). -/
def State.rotatePacket (s : State) (m : Msg) : State :=
  let same : Msg → Bool := fun x => x.part == m.part && x.src == m.src && x.dst == m.dst && x.ch == m.ch && x.seq == m.seq
  let old := ((s.rotIn.find? same).map (·.payload)).getD []
  let all := { m with payload := old ++ m.payload }
  let s := { s with rotIn := s.rotIn.filter fun x => !same x }
  if m.payload.length < 8192 then s.send (.msg all) else { s with rotIn := s.rotIn ++ [all] }

/-- Vote messages (R312). -/
def State.voteAt (s : State) (b : List Byte) : State :=
  let kind := leAt b 2 1 % 16
  let att := byteAt b 3
  let step := leAt b 4 4
  let fl := byteAt b 8
  let ps := s.voteParts (leAt b 0 2)
  if kind = 1 then ps.foldl (fun s p => s.ballotAt p step att fl (leAt b 12 2)) s
  else if kind = 2 then ps.foldl (fun s p => s.outcomeAt p step att ((leAt b 8 4).testBit 8) fl) s
  else s

/-- A frame of a class that belongs to partition p. -/
def State.deliverPart (s : State) (g p : Nat) (w : Wyn) : Option State :=
  let dst := w.dst % 65536
  let msg : Nat → Msg := fun c => { part := p, src := w.src, dst := dst, cls := c, ch := w.ch, seq := w.seq, ticket := w.seq, origin := 0,
                                    orig := noCore, payload := w.payload }
  match w.cls, w.sub with
  | 0, 0 => some (s.send (.msg (msg 0)))
  | 0, _ => some (s.send (.refusal { part := p, dst := dst, src := w.src, ch := w.ch, ticket := w.seq, origin := s.refusalOrigin p w,
                                     orig := (s.toUnit p dst).getD noCore }))
  | 2, _ => some (if w.ch < 256 then
      (packetsOf p w.ch (w.src / 65536) w.nf w.rg w.ck w.payload).foldl (fun s k => s.send (.red k)) s else s.fbBad g)
  | 3, _ => some (if w.ch < 256 then
      (packetsOf p w.ch (w.src / 65536) w.nf w.rg w.ck w.payload).foldl (fun s k => s.send (.red k)) s else s.fbBad g)
  | 4, _ => some (s.send (.inw p w))
  | 5, _ => some (s.send (.inw p w))
  | 6, _ =>
    if 64 ≤ w.ch ∨ !s.fdOn w.ch ∨ bit (s.reg (fdKey w.ch 0)) 1 ∨ s.fdPart w.ch ≠ p then some (s.fbBad g)
    else s.feedPacket w.ch w.payload
  | c, 0 => some (if c = 1 then s.send (.msg (msg 1)) else s.rotatePacket (msg 2))
  | c, 1 =>
    let (first, units, recs, cap) := Config.grantOf w.payload
    some (s.send (.grant { part := p, dst := dst, src := w.src, ch := w.ch, rot := c == 8, first := first, units := units, recs := recs,
                           cap := cap }))
  | c, _ => some (s.send (.close { part := p, dst := dst, src := w.src, ch := w.ch, rot := c == 8, refused := false, ticket := 0,
                                   origin := 0, orig := noCore }))

/-- A frame that no partition may take, with the answer it expects (R465). -/
def State.noDomain (s : State) (g : Nat) (w : Wyn) : State :=
  let s := s.fbNoDom g
  if w.cls = 0 ∧ w.sub = 0 then s.reply w 1 []
  else if w.cls = 4 ∧ w.sub ≤ 1 then s.reply w 4 (leBytes 4 3)
  else s

/-- A Dictionary request of a network transport joins the queue, or finds it full and is discarded (R627). -/
def State.dapArrive (s : State) (r : DapReq) : State :=
  if 16 ≤ (s.dapq.filter fun q => match q.src with
    | .mbx _ => false
    | _ => true).length then { s with dapDrop := s.dapDrop + 1 }
  else { s with dapq := s.dapq ++ [r] }.evcSample 65

/-- Local delivery; `none` where the frame must wait in its port's buffer. -/
def State.deliverWyn (s : State) (g : Nat) (w : Wyn) : Option State :=
  if w.cls = 9 then some (s.voteAt w.payload)
  else if w.cls = 7 ∧ w.sub = 0 then some (if w.rsp then s else s.dapArrive ⟨.fabric w, w.payload⟩)
  else if w.cls = 7 then some (s.send (.inw 0 w))
  else
    match s.domPart w.tag with
    | none => some (s.noDomain g w)
    | some p => (s.enterWake g p w).deliverPart g p w

/-! ### Retry (R475-R479) -/

/-- A cumulative acknowledgement (R477): frames up to and including `a` are released. -/
def State.linkAck (s : State) (g h a : Nat) : State :=
  let l := (s.port g).link h
  let keep := l.sent.filter fun f => decide (32768 ≤ (a + 65536 - f.lseq.getD 0) % 65536)
  let moved := keep.length < l.sent.length
  s.modPort g fun x => x.setLink h
    { l with sent := keep, todo := min l.todo keep.length, replays := if moved then 0 else l.replays }

/-- A LINK_NAK: frames from `n` on are to be sent again (R477). -/
def State.linkNak (s : State) (g h n : Nat) : State :=
  let l := (s.port g).link h
  let from' := (l.sent.filter fun f => decide ((f.lseq.getD 0 + 65536 - n) % 65536 < 32768)).length
  s.modPort g fun x => x.setLink h { l with todo := from' }

/-- A timeout of FB_LRT in SCLK cycles of 40 ns, rounded down. -/
def State.tmo (s : State) (g : Nat) : Nat := max 1 (s.regFld (fbKey g 0x10) 8 16) / 4

/-- A frame with LV at a retry link: whether it is passed on (R476). -/
def State.retryRx (s : State) (g h lseq : Nat) : State × Bool :=
  let l := (s.port g).link h
  let d := (lseq + 65536 - l.expect) % 65536
  let put : State → RetryLink → State := fun s l => s.modPort g fun x => x.setLink h l
  if d = 0 then (put s { l with expect := (l.expect + 1) % 65536, any := true, owed := true }, true)
  else if 32768 ≤ d then ((s.bump (fbKey g 0x150) 1).sendLink g h 1 0, false)
  else
    let recent := match l.nak with
      | some (n, t) => n == l.expect && decide (s.sclk.toNat < t + s.tmo g)
      | none => false
    if recent then (s, false)
    else (((put s { l with nak := some (l.expect, s.sclk.toNat) }).bump (fbKey g 0x148) 1).sendLink g h 2 l.expect, false)

/-- A link has failed (R478): its replay buffer and waiting frames are lost; the Shepherd island logs it (R698). -/
def State.linkFail (s : State) (g h : Nat) : State :=
  let x := s.port g
  let l := x.link h
  let wait := (x.waiting.filter fun f => f.hop == h).length
  let s := s.modPort g fun x =>
    let x := (List.range 8).foldl (fun (x : Port) q => x.setQueue q ((x.queue q).filter fun f => f.hop != h)) x
    { x.setLink h { RetryLink.reset with failed := true } with ctlq := x.ctlq.filter fun f => f.1 != h }
  let s := ((s.bump (fbKey g 0x158) (l.sent.length + wait)).fbEvent 1).fbEvent 0
  (s.orReg (fbKey g 0x14) 1).linkLoss g

/-- The oldest unacknowledged frame has waited TMO (R478). -/
def State.replayTimeout (s : State) (g h : Nat) : State :=
  let l := (s.port g).link h
  if l.sent.isEmpty || !s.linkUp g || !s.lrt g || s.held g (s.regFld (macKey g 0x1C) 21 3) then s
  else if max 1 (s.regFld (fbKey g 0x10) 24 4) ≤ l.replays then s.linkFail g h
  else (s.bump (fbKey g 0x140) 1).modPort g fun x => x.setLink h { l with todo := l.sent.length, replays := l.replays + 1 }

/-- RSTLRT (R489). -/
def State.rstLrt (s : State) (g : Nat) : State := (s.clrReg (fbKey g 0x14) 1).modPort g fun x => { x with links := [], ctlq := [] }

/-! ### A received frame read as WYN (R458-R461) -/

/-- SUB values of a class (R462, R523). -/
def subOk (cls sub : Nat) : Bool :=
  decide (sub ≤ match cls with
    | 0 => 1
    | 1 => 2
    | 4 => 4
    | 5 => 6
    | 7 => 3
    | 8 => 2
    | _ => 0)

/-- The header and payload at the start of `b`; `none` where R460 discards it. -/
def parseWyn (b : List Byte) : Option Wyn :=
  let cls := byteAt b 0 % 16
  let fl := byteAt b 1
  let sub := beAt b 2 2 / 2 ^ 12
  let len := beAt b 6 2
  if byteAt b 0 / 16 ≠ 1 ∨ 32 ≤ fl ∨ 2 ^ 14 ≤ len ∨ 8 ≤ byteAt b 19 ∨ 10 ≤ cls ∨ !subOk cls sub ∨ 8192 < len ∨ b.length < 32 + len then none
  else some
    { cls := cls, nf := fl.testBit 0, rg := fl.testBit 1, rsp := fl.testBit 2, lv := fl.testBit 3, av := fl.testBit 4, sub := sub,
      ch := beAt b 2 2 % 2 ^ 12, seq := beAt b 4 2, dst := beAt b 8 4, src := beAt b 12 4, tag := beAt b 16 2, hops := byteAt b 18,
      pri := byteAt b 19, lseq := beAt b 20 2, lack := beAt b 22 2, ck := beAt b 24 8, payload := sliceB b 32 len }

/-- What a received frame carries. -/
inductive Carried where
  /-- WYN bytes, on the retry link of a peer; `none` where no peer entry has the sender's address. -/
  | wyn (link : Option Nat) (b : List Byte)
  | bad
  | feed (c : Nat) (b : List Byte)
  | other
  deriving DecidableEq, Repr

/-- The feed channel a UDP destination port names (R480). -/
def State.feedPort (s : State) (port : Nat) : Option Nat :=
  (List.range 64).find? fun c => s.fdOn c && bit (s.reg (fdKey c 0)) 1 && s.regFld (fdKey c 0x30) 0 16 == port

def State.peerOf (s : State) (g : Nat) (ip : List Nat) : Option Nat :=
  ((List.range 256).find? fun k => bit (s.reg (peerKey g k)) 31 &&
    (List.range ip.length).all fun i => (s.reg (peerKey g k + 12 + 4 * i)).toNat == ip.getD i 0).map (· + 1)

/-- Read a frame without its FCS. -/
def State.carried (s : State) (g : Nat) (d : List Byte) : Carried :=
  let o := if beAt d 12 2 = 0x8100 then 16 else 12
  let et := beAt d o 2
  let udp : Nat → Option Nat → Bool → Carried := fun u peer mine =>
    let port := beAt d (u + 2) 2
    let body := (d.drop (u + 8)).take (beAt d (u + 4) 2 - 8)
    if port = s.regFld 0x10400C 0 16 then (if mine then .wyn peer body else .bad)
    else match s.feedPort port with
      | some c => if mine then .feed c body else .other
      | none => .other
  if et = s.regFld 0x104008 0 16 then .wyn (some 0) (d.drop (o + 2))
  else if et = 0x0800 ∧ byteAt d (o + 2) = 0x45 ∧ byteAt d (o + 11) = 17 ∧ beAt d (o + 8) 2 % 2 ^ 14 = 0 then
    udp (o + 22) (s.peerOf g [beAt d (o + 14) 4]) (beAt d (o + 18) 4 == (s.reg (fbKey g 0x20)).toNat)
  else if et = 0x86DD ∧ byteAt d (o + 2) / 16 = 6 ∧ byteAt d (o + 8) = 17 then
    let u := o + 42
    let whole := (d.drop u).take (beAt d (u + 4) 2)
    let zeroed := whole.take 6 ++ [0, 0] ++ whole.drop 8
    if udp6Sum (sliceB d (o + 10) 16) (sliceB d (o + 26) 16) zeroed ≠ beAt d (u + 6) 2 then
      if beAt d (u + 2) 2 = s.regFld 0x10400C 0 16 then .bad else .other
    else udp u (s.peerOf g ((List.range 4).map fun i => beAt d (o + 10 + 4 * i) 4)) (sliceB d (o + 26) 16 == s.ip6Addr g)
  else .other

/-! ### The decision for a frame from a port (R467, R468, R470) -/

def Wyn.onward (w : Wyn) : Wyn := { w with hops := w.hops - 1, lv := false, av := false, lseq := 0, lack := 0 }

/-- Forward by one port; a frame the port takes is counted at the arrival port. -/
def State.forwardRx (s : State) (g out : Nat) (w : Wyn) : Option State :=
  if w.hops = 0 then some (s.fbTtl g)
  else ((s.crossWake g [out]).sendBy out 64 w.onward).map fun r => if r.2 then r.1.bump (fbKey g 0x108) 1 else r.1

def State.broadcastRx (s : State) (g : Nat) (w : Wyn) : Option State :=
  if w.cls ≠ 0 ∧ w.cls ≠ 7 ∧ w.cls ≠ 9 then some (s.fbBad g)
  else if w.src / 65536 = s.devId then some (s.fbReturned g)
  else
    let outs := s.bcfPorts.filter (· ≠ g)
    match s.deliverWyn g w with
    | none => none
    | some s =>
      if outs.isEmpty then some s
      else if w.hops = 0 then some (s.fbTtl g)
      else ((s.crossWake g outs).sendAll 64 w.onward outs).map fun r => if r.2 = 0 then r.1 else r.1.bump (fbKey g 0x108) r.2

def State.wynDecide (s : State) (g : Nat) (w : Wyn) : Option State :=
  let d := w.dst / 65536
  let m := s.devId
  if d = 0 then some (s.fbBad g)
  else if m ≠ 0 ∧ d = m then s.deliverWyn g w
  else if d = 0xFFFF then s.broadcastRx g w
  else
    let f := s.fwdPorts d
    if !f.isEmpty then s.forwardRx g (pickPort f w) w
    else if !s.orbPorts.isEmpty then
      if w.hops ≠ 0 ∧ w.src / 65536 = m then some (s.fbReturned g) else s.forwardRx g (pickPort s.orbPorts w) w
    else
      let s := s.fbNoRoute g
      some (if w.cls = 0 ∧ w.sub = 0 then s.reply w 1 []
        else if w.cls = 4 ∧ w.sub ≤ 1 then s.reply w 4 (leBytes 4 3) else s)

/-- A WYN frame on a retry link of port g (R460, R476, R477). -/
def State.wynRx (s : State) (g : Nat) (link : Option Nat) (w : Wyn) : Option State :=
  let s := s.bump (fbKey g 0x100) 1
  if !s.lrt g then (if w.linkControl then some s else s.wynDecide g w)
  else
    match link with
    | none => some (s.fbBad g)
    | some h =>
      let s := if w.av then s.linkAck g h w.lack else s
      if w.linkControl then some (if w.sub = 2 then s.linkNak g h w.lseq else s)
      else if !w.lv then some (s.fbBad g)
      else
        let (s, ok) := s.retryRx g h w.lseq
        if ok then s.wynDecide g w else some s

/-- The fabric layer takes the oldest received frame of a port; a frame that must wait leaves everything as it is. -/
def State.wynFrame (s : State) (g : Nat) : State :=
  match (s.port g).rx with
  | [] => s
  | f :: _ =>
    let r := match s.carried g f.bytes with
      | .wyn link b => match parseWyn b with
        | none => some (s.fbBad g)
        | some w => s.wynRx g link w
      | .bad => some (s.fbBad g)
      | .feed c b => (s.wakeRoute (s.portDie g) (s.portDie 0)).feedPacket c b
      | .other => some s
    match r with
    | none => s
    | some s => s.rxPop g

def execWynFrame (g : Nat) (s : State) : Host.Outcome State Fault Refusal := .next (s.wynFrame g)

/-! ### Frames the device sends (R462, R464, R467) -/

/-- PRI of a frame the device sends (R462). -/
def State.priOf (s : State) (w : Wyn) : Nat :=
  if w.linkControl then 7 else if w.rsp then s.regFld 0x104014 0 3 else s.regFld 0x104010 (3 * w.cls) 3

/-- A frame's fields but for what its routing sets. -/
def State.mkWyn (s : State) (p cls sub ch seq dst src : Nat) (rsp : Bool) (payload : List Byte) : Wyn :=
  { cls := cls, nf := false, rg := false, rsp := rsp, lv := false, av := false, sub := sub, ch := ch, seq := seq, dst := dst,
    src := if src / 2 ^ 16 = 0xFFFF then devAddr s.devId else src % 65536 + s.devId * 65536, tag := s.domOf p, hops := 0, pri := 0,
    lseq := 0, lack := 0, ck := 0, payload := payload }

/-- Packets of a transfer: 8,192 bytes each, and a shorter last one for a rotate transfer. -/
def cutPackets (rot : Bool) (b : List Byte) : List (List Byte) :=
  if rot then (List.range (b.length / 8192 + 1)).map fun i => (b.drop (8192 * i)).take 8192 else [b]

/-- The frames of an item that leaves the device, with its partition; the request SEQ is drawn here. -/
def State.framesOf (s : State) (x : NetItem) : List (Nat × Wyn) :=
  match x with
  | .msg m =>
    let cls := if m.cls = 2 then 8 else m.cls
    (cutPackets (m.cls == 2) m.payload).map fun b => (m.part, s.mkWyn m.part cls 0 m.ch m.seq m.dst m.src false b)
  | .grant g => [(g.part, s.mkWyn g.part (if g.rot then 8 else 1) 1 g.ch 0 g.dst g.src true
      ((Config.grantPayload g.first g.units g.recs g.cap).take 8192))]
  | .close c => [(c.part, s.mkWyn c.part (if c.rot then 8 else 1) 2 c.ch 0 c.dst c.src true [])]
  | .refusal r => [(r.part, s.mkWyn r.part 0 1 r.ch r.ticket r.dst r.src true [])]
  | .req r =>
    if r.space = 1 then
      [(r.part, s.mkWyn r.part 4 (if r.op = 0 then 0 else 1) 0 s.rqSeq (devAddr (r.dst / 65536)) r.src false
        (leBytes 6 r.addr ++ [0, 0] ++ leBytes 4 r.len ++ [0, 0, 0, 0] ++ if r.op = 0 then [] else r.data))]
    else []
  | .wyn w => [((s.domPart w.tag).getD 64, w)]
  | _ => []

/-- A message has left for another device: a SEND is no longer awaited by what this device sees, and by a fence only until its command
says that the other device has accepted it (R78); a DMA message is awaited by DMA_COMPLETE alone (R132, log entry 61). -/
def State.sentFar (s : State) (m : Msg) : State :=
  if m.origin = 0 then
    match s.waiter m.orig with
    | some c => s.modCore c fun k =>
        if m.ticket ∈ k.sacc then { k with sacc := k.sacc.filter (fun t => t ≠ m.ticket), saccFar := k.saccFar ++ [m.ticket] }
        else k
    | none => s
  else s.accepted m

/-- What the sending side of an item does once its frames have been taken. -/
def State.left (s : State) (x : NetItem) : State :=
  match x with
  | .msg m => s.sentFar m
  | .req r => { s with rqOut := s.rqOut ++ [(s.rqSeq, r)], rqSeq := (s.rqSeq + 1) % 65536 }
  | _ => s

/-- An item with no way out: a request gets its error answer (R467). -/
def State.unrouted (s : State) (x : NetItem) : State :=
  let s := s.fbNoRoute 0
  match x with
  | .msg m =>
    if m.cls = 0 then
      s.send (.refusal { part := m.part, dst := m.src, src := m.dst, ch := m.ch, ticket := m.ticket, origin := m.origin,
                         orig := m.orig })
    else s
  | .req r => s.send (.rsp { part := r.part, dst := r.src, eng := r.eng, ticket := r.ticket, pos := r.pos, err := true, data := [] })
  | _ => s

/-- A frame of a core leaves by some ports: the dies on its way wake (R27, R653). -/
def State.leaveWake (s : State) (p : Nat) (w : Wyn) (outs : List Nat) : State :=
  match s.frameDie p w.src with
  | some d => outs.foldl (fun s o => s.wakeRoute d (s.portDie o)) s
  | none => s

/-- A broadcast of this device: at home, and by every broadcast port (R470). -/
def State.broadcastTx (s : State) (p : Nat) (w : Wyn) (x : NetItem) : Option State :=
  if w.cls ≠ 0 ∧ w.cls ≠ 7 ∧ w.cls ≠ 9 then some (s.fbBad 0)
  else
    let here := match x with
      | .msg m => some (s.send (.msg { m with dst := m.dst % 65536, src := w.src }))
      | _ => s.deliverWyn 0 w
    match here with
    | none => none
    | some s => ((s.leaveWake p w s.bcfPorts).sendAll p w s.bcfPorts).map (·.1)

/-- Route one frame of the device (R467, R472); the Boolean says whether it found a way. -/
def State.routeOut (s : State) (p : Nat) (w : Wyn) (x : NetItem) : Option (State × Bool) :=
  let w := { w with hops := s.regFld 0x104000 0 8, pri := s.priOf w }
  let d := w.dst / 65536
  if d = 0 ∨ (s.devId ≠ 0 ∧ d = s.devId) then (s.deliverWyn 0 w).map (·, true)
  else if s.devId = 0 ∧ w.cls ≠ 7 then some (s, false)
  else if d = 0xFFFF then (s.broadcastTx p w x).map (·, true)
  else
    let f := s.fwdPorts d
    let f := if f.isEmpty then s.orbPorts else f
    if f.isEmpty then some (s, false)
    else ((s.leaveWake p w [pickPort f w]).sendBy (pickPort f w) p w).map fun r => (r.1, true)

def State.routeList (s : State) (x : NetItem) : List (Nat × Wyn) → Option (State × Bool)
  | [] => some (s, true)
  | (p, w) :: t => match s.routeOut p w x with
    | none => none
    | some (s, false) => some (s, false)
    | some (s, true) => State.routeList s x t

/-- Whether an item leaves the device: what is for this device's cores stays on the mesh. -/
def State.leaves (s : State) (x : NetItem) : Bool :=
  match x with
  | .msg m => !s.isOwn (addrDev m.dst)
  | .grant g => !s.isOwn (addrDev g.dst)
  | .close c => !s.isOwn (addrDev c.dst)
  | .refusal r => !s.isOwn (addrDev r.dst) && r.dst != 0xFFFFFFFF
  | .req r => r.space == 1 && (r.eng == 5 || !s.isOwn (r.dst / 65536))
  | .wyn _ => true
  | _ => false

/-- The order of R129: class, channel and the two ends of an item. -/
def NetItem.path (x : NetItem) : Nat × Nat × Nat × Nat × Nat :=
  match x with
  | .msg m => (m.cls, m.ch, m.part, m.src, m.dst)
  | .grant g => (3, g.ch, g.part, g.src, g.dst)
  | .close c => (3, c.ch, c.part, c.src, c.dst)
  | .refusal r => (4, 0, r.part, r.src, r.dst)
  | .req r => (5, 0, r.part, r.src, r.dst)
  | .rsp r => (6, 0, r.part, 0, r.dst)
  | .red k => (7, k.ch, k.part, k.src, k.core)
  | .wyn w => (8 + w.cls, w.ch, w.tag, w.src, w.dst)
  | .inw p w => (32 + w.cls, w.ch, p, w.src, w.dst)

/-- An item of the device leaves it, or waits at its source while a port has no room; items of one path keep their order. -/
def State.originate (s : State) (x : NetItem) : State :=
  if !s.leaves x || (s.net.find? fun y => y.path == x.path) != some x then s
  else
    let gone := { s with net := s.net.erase x }
    match gone.routeList x (gone.framesOf x) with
    | none => s
    | some (s', true) => s'.left x
    | some (_, false) => gone.unrouted x

def execFrameOriginate (x : NetItem) (s : State) : Host.Outcome State Fault Refusal := .next (s.originate x)

/-! ### Retry and table commands -/

def execLinkAck (g link : Nat) (a : BitVec 16) (s : State) : Host.Outcome State Fault Refusal :=
  .next (if s.lrt g then s.linkAck g link a.toNat else s)
def execLinkNak (g link : Nat) (n : BitVec 16) (ack : Option (BitVec 16)) (s : State) : Host.Outcome State Fault Refusal :=
  .next (if s.lrt g then
    let s := match ack with
      | some a => s.linkAck g link a.toNat
      | none => s
    s.linkNak g link n.toNat
  else s)

/-- No frame has carried an acknowledgement within ACKDLY of an acceptance (R477). -/
def execAckdlyExpiry (g link : Nat) (s : State) : Host.Outcome State Fault Refusal :=
  .next (if s.lrt g && ((s.port g).link link).owed then s.sendLink g link 1 0 else s)
def execReplayTimeout (g link : Nat) (s : State) : Host.Outcome State Fault Refusal := .next (s.replayTimeout g link)
def execRstlrt (g : Nat) (s : State) : Host.Outcome State Fault Refusal := .next (s.rstLrt g)
def execFbSwapFwd (s : State) : Host.Outcome State Fault Refusal := .next (s.fbSwap true false)
def execFbSwapCopy (s : State) : Host.Outcome State Fault Refusal := .next (s.fbSwap true true)

/-- A write of FB_DOMp (R465, R492). -/
def State.domWrite (s : State) (p : Nat) (v : Word) : State :=
  let k := 0x104100 + 4 * p
  let d := fld v 0 16
  if d ≠ 0 ∧ (List.range 64).any (fun q => q != p && s.domOf q == d) then s.orReg k (2 ^ 31) else s.putCode k v

def execFbDomWrite (p : BitVec 6) (v : Word) (s : State) : Host.Outcome State Fault Refusal := .next (s.domWrite p.toNat v)

end Sys2Proof.Machine
end

