-- ==== Sys2Proof/Machine/HostIf.lean ====
section
/-!
DEFINITION. The host interface: queues, doorbells, commands and their conversion, completion entries, interrupts and power states of a
function, function resets, partitions, the BAR2 window (spec/16).
-/

namespace Sys2Proof.Machine

/-! ### Queue pairs (R566-R568, R589) -/

def hostq0 : Nat → HostQ := fun _ => HostQ.reset
def State.hq (s : State) (q : Nat) : HostQ := s.hostqs.get hostq0 q
def State.setHq (s : State) (q : Nat) (x : HostQ) : State := { s with hostqs := s.hostqs.set hostq0 q x }

def State.qState (s : State) (q : Nat) : Nat := s.regFld (qKey q + 0x1C) 13 2
def State.setQState (s : State) (q v : Nat) : State := s.setRegFld (qKey q + 0x1C) 13 2 v
def State.sqHead (s : State) (q : Nat) : Nat := s.regFld (qKey q + 0x1C) 0 12
def State.cqTail (s : State) (q : Nat) : Nat := s.regFld (qKey q + 0x1C) 16 12
def State.sqSize (s : State) (q : Nat) : Nat := 2 ^ s.regFld (qKey q + 8) 0 4
def State.cqSize (s : State) (q : Nat) : Nat := 2 ^ s.regFld (qKey q + 0x14) 0 4

/-- Queue `q` of partition `p` by its local number (R566). -/
def State.queueOf (s : State) (p q : Nat) : Option Nat := if q < s.qpNum p then some (s.qpBase p + q) else none

/-- Whether a function may make host requests: D0, bus master, and no fatal package error for fetching (R583, R586, R699). -/
def State.hostOk (s : State) (f : Nat) : Bool := (s.fn f).busMaster && !(s.fn f).d3hot

/-- A queue enters ERROR (R568). -/
def State.qError (s : State) (p q code : Nat) : State := ((s.setQState q 2).setRegFld (qKey q + 0x1C) 28 4 code).fnEvt p 0

/-- A doorbell of a queue that takes none: discarded and logged (R568). -/
def State.badDoorbell (s : State) (p off : Nat) : State :=
  let (cause, s) := s.freeVal
  s.log { level := 0x44, unit := 17, cause := cause.toNat % 256, action := 7, part := some p, loc := p, d1 := off }

def State.sqDoorbell (s : State) (p q v : Nat) : State :=
  match s.queueOf p q with
  | none => s
  | some k =>
    if s.qState k = 0 ∨ s.qState k = 2 then s.badDoorbell p (0x40000 + 8 * q)
    else if s.sqSize k ≤ v then s.qError p k 1
    else s.setHq k { s.hq k with tail := v }

def execSqDoorbell (p : BitVec 6) (q : Nat) (v : Word) (s : State) : Host.Outcome State Fault Refusal :=
  .next (if s.decodes p.toNat then s.sqDoorbell p.toNat q v.toNat else s)

/-- A CQ head doorbell that passes every entry counted in UNSIG ends its due state (R579). -/
def State.cqDoorbell (s : State) (p q v : Nat) : State :=
  match s.queueOf p q with
  | none => s
  | some k =>
    let x := s.hq k
    let n := s.cqSize k
    if s.qState k = 0 ∨ s.qState k = 2 then s.badDoorbell p (0x40004 + 8 * q)
    else if n ≤ v ∨ (s.cqTail k + n - x.cqHead) % n < (v + n - x.cqHead) % n then s.qError p k 2
    else
      let s := s.setHq k { x with cqHead := v }
      if v = s.cqTail k then
        let s := s.setReg (qKey k + 0x24) 0
        let vec := s.regFld (qKey k + 0x14) 4 11
        if s.vecDue p vec then s else s.setFn p ((s.fn p).setPba vec false)
      else s

def execCqDoorbell (p : BitVec 6) (q : Nat) (v : Word) (s : State) : Host.Outcome State Fault Refusal :=
  .next (if s.decodes p.toNat then s.cqDoorbell p.toNat q v.toNat else s)

/-- A write of HI_Qq_SQCFG (R567). -/
def State.sqCfgWrite (s : State) (p q : Nat) (v : Word) : State :=
  match s.queueOf p q with
  | none => s
  | some k =>
    let b := qKey k
    let on := bit (s.reg (b + 8)) 31
    if bit v 31 then
      if on || s.qState k != 0 then s.setRegFld (b + 8) 0 4 (fld v 0 4)
      else
        let s := s.setReg (b + 8) (BitVec.ofNat 32 (fld v 0 4))
        let c := s.reg (b + 0x14)
        let vecs := if p = 0 then 2048 else 64
        if s.regFld b 0 12 ≠ 0 ∨ s.regFld (b + 12) 0 12 ≠ 0 ∨ fld v 0 4 = 0 ∨ 12 < fld v 0 4 ∨ fld c 0 4 = 0 ∨ 12 < fld c 0 4 ∨
            vecs ≤ fld c 4 11 then s.qError p k 3
        else
          let s := (s.orReg (b + 8) (2 ^ 31)).setReg (b + 0x1C) (BitVec.ofNat 32 (2 ^ 12 + 2 ^ 13))
          (s.setReg (b + 0x24) 0).setHq k HostQ.reset
    else
      let s := s.setReg (b + 8) (BitVec.ofNat 32 (fld v 0 4))
      s.setQState k (if (s.hq k).cmds.isEmpty then 0 else 3)

def execSqEnable (p : BitVec 6) (q : Nat) (v : Word) (s : State) : Host.Outcome State Fault Refusal :=
  .next (if s.decodes p.toNat then s.sqCfgWrite p.toNat q (setBit v 31 true) else s)
def execSqDisable (p : BitVec 6) (q : Nat) (v : Word) (s : State) : Host.Outcome State Fault Refusal :=
  .next (if s.decodes p.toNat then s.sqCfgWrite p.toNat q (setBit v 31 false) else s)

/-! ### Commands (R569, R572, R575) -/

def HostCmd.opc (c : HostCmd) : Nat := byteAt c.bytes 0
def HostCmd.conv (c : HostCmd) : Bool := (byteAt c.bytes 1).testBit 2
def HostCmd.cid (c : HostCmd) : Nat := leAt c.bytes 2 2
def HostCmd.len (c : HostCmd) : Nat := leAt c.bytes 4 3
def HostCmd.haddr (c : HostCmd) : Nat := leAt c.bytes 8 8
def HostCmd.daddr (c : HostCmd) : Nat := leAt c.bytes 16 6

/-- The offset of the first bad field of a command (R569, R572). -/
def cmdBad (b : List Byte) : Option Nat :=
  let opc := byteAt b 0
  let fl := byteAt b 1
  let n := leAt b 4 3
  let conv := fl.testBit 2
  if 5 < opc then some 0
  else if 8 ≤ fl then some 1
  else if byteAt b 7 ≠ 0 ∨ (opc ≠ 0 ∧ (n % 4 ≠ 0 ∨ n < 4)) then some 4
  else if (if opc = 0 then leAt b 8 8 ≠ 0 else if opc = 5 then leAt b 12 4 ≠ 0 else leAt b 8 4 % 4 ≠ 0) then some 8
  else if (if opc = 0 then false else if opc = 3 || opc = 4 then leAt b 20 4 % 4 != 0 || leAt b 20 4 / 2 ^ 18 != 0
      else leAt b 16 4 % 4 != 0 || leAt b 22 2 != 0) then some 16
  else if !conv ∧ byteAt b 24 ≠ 0 then some 24
  else if !conv ∧ byteAt b 25 ≠ 0 then some 25
  else if (if conv then 16 ≤ byteAt b 27 else leAt b 26 2 ≠ 0) then some 26
  else if (List.range 32).any fun i => byteAt b (32 + i) != 0 then some 32
  else none

/-- A format host DMA converts (R575): codes 0, 1, 2, 13, or block-scaled 3 to 10. -/
def dmaFmt (sel : Nat) : Option Fmt := if sel ≤ 10 ∨ sel = 13 then builtinFmt sel else none

/-- What is wrong with a command's conversion: DETAIL of FORMAT; else both formats (R575). -/
def HostCmd.formats (c : HostCmd) : Nat ⊕ (Fmt × Fmt) :=
  let a := byteAt c.bytes 24
  let b := byteAt c.bytes 26
  match dmaFmt a, dmaFmt b with
  | none, _ => .inl a
  | _, none => .inl (b + 256)
  | some f, some g =>
    if c.opc = 0 ∨ c.opc = 5 then .inl a
    else if f.block && g.block then .inl (b + 256)
    else if 8 * c.len % f.width ≠ 0 ∨ (f.block && 8 * c.len / f.width % 32 != 0) then .inl a
    else if !rndOk g (byteAt c.bytes 27 % 8) ∨ (g.block && 8 * c.len / f.width % 32 != 0) then .inl (b + 256)
    else .inr (f, g)

/-- Source bytes in whole elements or blocks, converted as elements `c.elems` on: the bytes, their flags, and the elements. `base` is ADDR of
R575. -/
def HostCmd.convert (c : HostCmd) (f g : Fmt) (base : Word) (src : List Byte) : List Byte × FFlags × Nat :=
  let scale := byteAt c.bytes 25
  let per := if f.block || g.block then 32 else 1
  let n := 8 * src.length / f.width / per * per
  let x := leNat src
  let seed := BitVec.ofNat 32 (leAt c.bytes 28 4)
  let dcv := leAt c.bytes 26 2
  let elem : Nat → Option (Fv × Word) := fun i =>
    some (expand f [] scale (codeAt x f.width i), rand seed base c.step (BitVec.ofNat 32 c.cid) (BitVec.ofNat 32 (c.elems + i)))
  let blks := (List.range (n / per)).map fun j =>
    convBlock g [] (dcv / 256 % 8) (dcv.testBit 11) scale ((List.range per).map fun i => elem (per * j + i))
  let codes := blks.flatMap fun b => b.codes.map (·.getD 0)
  (leBytes (n * g.width / 8) (packCodes g.width codes), (blks.flatMap (·.fls)).foldl (· ||| ·) 0, n)

/-- A number of source bytes as bytes at the destination, and the way back, for formats `f` to `g`. -/
def convSize (f g : Fmt) (o : Nat) : Nat := o * 8 / f.width * g.width / 8

/-- The bytes of a command at its destination; the formats of a command without conversion count as equal. -/
def HostCmd.dstLen (c : HostCmd) : Nat :=
  if c.conv then match c.formats with
    | .inr (f, g) => convSize f g c.len
    | .inl _ => c.len
  else c.len

/-! ### Segments (R570) -/

/-- The range that is cut into segments: host memory, or what a FILL fills (DESIGN CHOICE, log entry 18). -/
def HostCmd.segRange (c : HostCmd) : Nat × Nat :=
  if c.opc = 0 then (0, 0) else if c.opc = 5 then (c.daddr, c.len) else if c.opc = 2 || c.opc = 4 then (c.haddr, c.dstLen) else (c.haddr, c.len)

def HostCmd.segCount (c : HostCmd) : Nat :=
  let (a, n) := c.segRange
  if n = 0 then 1 else (a + n + 4095) / 4096 - a / 4096

/-- Segment i of a command: its place in the range and its bytes. -/
def HostCmd.seg (c : HostCmd) (i : Nat) : Nat × Nat :=
  let (a, n) := c.segRange
  let lo := max a ((a / 4096 + i) * 4096)
  (lo - a, min (a + n) ((a / 4096 + i + 1) * 4096) - lo)

/-- Whether a command's next segment makes a host request. -/
def HostCmd.host (c : HostCmd) : Bool := c.opc != 0 && c.opc != 5

/-- The command of a queue whose segment is issued next, if it may be: segments of a queue are issued in SQ order, at most 16 are in progress
at once, and a command with FENCE starts only once every earlier one has completed (R570). -/
def State.nextSeg (s : State) (p k : Nat) : Option HostCmd :=
  let l := (s.hq k).cmds
  if 16 ≤ (l.map fun c => if c.done.isSome then 0 else c.issued - c.moved).foldl (· + ·) 0 then none
  else
    match l.find? fun c => c.done.isNone && decide (c.issued < c.segCount) with
    | none => none
    | some c =>
      let early := l.filter fun d => d.done.isNone && decide (d.age < c.age)
      if c.issued = 0 ∧ (byteAt c.bytes 1).testBit 0 ∧ !early.isEmpty then none
      else if c.host && !s.hostOk p then none
      else some c

/-- The first of a list after x in a ring of n. -/
def ringNext (n x : Nat) (l : List Nat) : Option Nat :=
  l.foldl (fun (o : Option Nat) y => match o with
    | none => some y
    | some z => if (y + n - x - 1) % n < (z + n - x - 1) % n then some y else o) none

/-- The queues with a segment that waits, as (partition, local number). -/
def State.segWaiting (s : State) : List (Nat × Nat) :=
  (List.range 64).flatMap fun p =>
    (s.hostqs.filterMap fun e =>
      if s.qpBase p ≤ e.1 ∧ e.1 < s.qpBase p + s.qpNum p ∧ (s.nextSeg p e.1).isSome then some (p, e.1 - s.qpBase p) else none)

/-- The queue of partition p served next, by round robin, with the bytes of its segment. -/
def State.nextQueue (s : State) (p : Nat) (w : List (Nat × Nat)) : Option (Nat × HostCmd × Nat) :=
  match ringNext 512 (s.fn p).lastQ ((w.filter (·.1 == p)).map (·.2)) with
  | none => none
  | some q =>
    match s.nextSeg p (s.qpBase p + q) with
    | none => none
    | some c => some (q, c, (c.seg c.issued).2)

/-- Issue the next segment of local queue q of partition p: a command starts with its first. -/
def State.issue (s : State) (p q : Nat) (c : HostCmd) (n : Nat) : State :=
  let k := s.qpBase p + q
  let x := s.hq k
  let c' := { c with issued := c.issued + 1, step := if c.issued = 0 then s.stepNo p else c.step }
  let s := s.setHq k { x with cmds := x.cmds.map fun y => if y.age = c.age then c' else y }
  s.setFn p { s.fn p with lastQ := q, deficit := (s.fn p).deficit - n }

/-- The turn of the segment scheduler passes to the next partition, which gains its quantum; one that has nothing waiting keeps no deficit. -/
def State.serveNext (s : State) (act : List Nat) (w : List (Nat × Nat)) (weight : Nat → Nat) (t : Nat) : Option State :=
  match ringNext 64 t act with
  | none => none
  | some p =>
    let s := if act.contains t then s else s.setFn t { s.fn t with deficit := 0 }
    let s := { s.setFn p { s.fn p with deficit := (s.fn p).deficit + max 1 (weight p) * 4096 } with hostTurn := p }
    match s.nextQueue p w with
    | none => none
    | some (q, c, n) => some (s.issue p q c n)

/-- The scheduler issues one segment: partitions by deficit round robin with a quantum of WEIGHT × 4 KiB, those of weight 0 only when no
other waits, the queues of a partition by round robin (R570). Partitions of weight 0 take 4 KiB each among themselves (DESIGN CHOICE, log
entry 18). None when no segment may be issued. -/
def State.serveSeg (s : State) : Option State :=
  let w := s.segWaiting
  let weight : Nat → Nat := fun p => s.regFld (0x7800C + 0x20 * p) 0 8
  let all := (List.range 64).filter fun p => w.any (·.1 == p)
  let act := if all.any (fun p => weight p != 0) then all.filter (fun p => weight p != 0) else all
  let t := s.hostTurn
  match (if act.contains t then s.nextQueue t w else none) with
  | some (q, c, n) =>
    if n ≤ (s.fn t).deficit then some (s.issue t q c n) else s.serveNext act w weight t
  | none => s.serveNext act w weight t

/-- Segments are issued until command c of queue k has one in progress, or none can be issued. -/
def State.serveUntil (s : State) (k age : Nat) : Nat → State
  | 0 => s
  | fuel + 1 =>
    if (s.hq k).cmds.any fun c => c.age == age && decide (c.moved < c.issued) then s
    else
      match s.serveSeg with
      | none => s
      | some s => s.serveUntil k age fuel

/-- What a transfer has come to: bytes moved, and where it failed: a status, and a byte offset on the device side or a cause. -/
structure Moved where
  state : State
  data : List Byte
  fail : Option (Nat × Nat)

/-- Pieces of a range cut at multiples of `u`; an empty range has none. -/
def cuts (u a n : Nat) : List (Nat × Nat) :=
  let k := if n = 0 then 0 else (a + n + u - 1) / u - a / u
  (List.range k).map fun i =>
    let lo := max a ((a / u + i) * u)
    (lo - a, min (a + n) ((a / u + i + 1) * u) - lo)

/-- The C-die that X-die 0 adjoins, where host traffic enters the mesh (R19, R556). -/
def State.hostDie (s : State) : Nat := siteDie (s.fuse.xdies.getD 0 0)

/-- Write to device memory line by line up to the first failure (R572). -/
def State.hostWriteMem (s : State) (p a : Nat) (d : List Byte) : State × Option (Nat × Nat) :=
  (cuts 64 a d.length).foldl (fun (acc : State × Option (Nat × Nat)) c =>
    match acc.2 with
    | some _ => acc
    | none =>
      match (acc.1.memRoute acc.1.hostDie p (a + c.1) c.2).memWr p (a + c.1) (sliceB d c.1 c.2) .ordinary 17 false with
      | (s, .ok _) => (s, none)
      | (s, .fault _) => (s, some (4, c.1))
      | (s, .ue _) => (s, some (5, c.1))) (s, none)

/-- Read device memory line by line up to the first failure. -/
def State.hostReadMem (s : State) (p a n : Nat) : Moved :=
  (cuts 64 a n).foldl (fun (acc : Moved) c =>
    match acc.fail with
    | some _ => acc
    | none =>
      match (acc.state.memRoute acc.state.hostDie p (a + c.1) c.2).memRd p (a + c.1) c.2 .ordinary 17 none with
      | (s, .ok d) => ⟨s, acc.data ++ d, none⟩
      | (s, .fault _) => ⟨s, acc.data, some (4, c.1)⟩
      | (s, .ue _) => ⟨s, acc.data, some (5, c.1)⟩) ⟨s, [], none⟩

/-- The core whose scratchpad a command reaches, or the cause of CORE (R569, R572, R699). -/
def State.hostCore (s : State) (p : Nat) (c : HostCmd) (n : Nat) : State × (Nat ⊕ Nat) :=
  let a := leAt c.bytes 16 4
  match (if addrDev a = 0 then s.toCore p a else none) with
  | none => (s, .inl 1)
  | some k =>
    if spadSize < leAt c.bytes 20 4 % 2 ^ 18 + n then (s, .inl 2)
    else if bit (s.reg 0x2004) 0 then (s, .inl 3)
    else
      match s.reach (some s.hostDie) k with
      | none => (s, .inl 3)
      | some s => (s, .inr (s.servedBy k))

/-- A segment's write to a scratchpad: a word left unwritten refuses it, and the rest is written (R110). -/
def State.hostWriteSpad (s : State) (k a : Nat) (d : List Byte) : State × Option (Nat × Nat) :=
  match s.spadWrite k a d 0xF1 0 with
  | (s, none) => (s, none)
  | (s, some _) => (s, some (7, 3))

def State.hostReadSpad (s : State) (k a n : Nat) : Moved :=
  (cuts 8 a n).foldl (fun (acc : Moved) c =>
    match acc.fail with
    | some _ => acc
    | none =>
      match acc.state.spadRead k (a + c.1) c.2 0xF1 0 with
      | (s, d, none) => ⟨s, acc.data ++ d, none⟩
      | (s, _, some _) => ⟨s, acc.data, some (7, 3)⟩) ⟨s, [], none⟩

/-- What a command holds after a segment. -/
def State.setCmd (s : State) (k : Nat) (c : HostCmd) : State :=
  let x := s.hq k
  s.setHq k { x with cmds := x.cmds.map fun y => if y.age = c.age then c else y }

/-- A segment has moved its data: the conversion flags also stand in HI_Qq_FLAGS (R575); the command has completed with a failure's STATUS and
DETAIL, or with its last segment. -/
def State.segDone (s : State) (k : Nat) (c : HostCmd) (bad : Option (Nat × Nat)) : State :=
  let s := s.orReg (qKey k + 0x20) c.fl.toNat
  let c := { c with moved := c.moved + 1 }
  s.setCmd k (match bad with
    | some (st, det) => { c with done := some (st, det, c.fl.toNat) }
    | none => if c.segCount ≤ c.moved then { c with done := some (0, 0, c.fl.toNat), carry := [] } else c)

/-- ADDR of R575. -/
def State.hostRand (s : State) (p : Nat) : Word := BitVec.ofNat 32 (s.devId * 2 ^ 16 + 0x8100 + p)

/-- A segment of host data toward the device (H2D, H2S, FILL): `err` is the byte of the segment at which the host read failed. Data that ends
inside an element or block waits for the segment that completes it. -/
def State.moveIn (s : State) (p k : Nat) (c : HostCmd) (data : List Byte) (err : Option Nat) : State :=
  let (o, m) := c.seg c.moved
  let src := sliceB data 0 (match err with
    | some e => min e m
    | none => m)
  let s := if c.opc = 5 then s else s.bump (fnKey p 0x70100) src.length
  let (d, c', back) : List Byte × HostCmd × (Nat → Nat) :=
    if c.conv then
      match c.formats with
      | .inr (f, g) =>
        let all := c.carry ++ src
        let (d, fl, n) := c.convert f g (s.hostRand p) all
        (d, { c with fl := c.fl ||| fl, elems := c.elems + n, carry := all.drop (n * f.width / 8), dst := c.dst + d.length }, convSize g f)
      | .inl _ => (src, { c with dst := c.dst + src.length }, id)
    else (src, { c with dst := c.dst + src.length }, id)
  let (s, bad) : State × Option (Nat × Nat) :=
    if c.opc = 3 then
      match s.hostCore p c c.dstLen with
      | (s, .inl cause) => (s, some (7, cause))
      | (s, .inr t) => s.hostWriteSpad t (leAt c.bytes 20 4 % 2 ^ 18 + c.dst) d
    else s.hostWriteMem p (c.daddr + c.dst) d
  s.segDone k c' (match bad, err with
    | some (st, x), _ => some (st, if st = 7 then x else back (c.dst + x))
    | none, some e => some (6, o + min e m)
    | none, none => none)

/-- A segment of device data toward the host (D2H, S2H). Bytes of an element or block beyond the segment wait for the next. -/
def State.moveOut (s : State) (p k : Nat) (c : HostCmd) : State :=
  let (o, m) := c.seg c.moved
  let get : State → Nat → Nat → Moved := fun s a n =>
    if c.opc = 4 then
      match s.hostCore p c c.len with
      | (s, .inl cause) => ⟨s, [], some (7, cause)⟩
      | (s, .inr t) => s.hostReadSpad t (leAt c.bytes 20 4 % 2 ^ 18 + a) n
    else s.hostReadMem p (c.daddr + a) n
  let (r, d, c', from') : Moved × List Byte × HostCmd × Nat :=
    match c.conv, c.formats with
    | true, .inr (f, g) =>
      let per := if f.block || g.block then 32 else 1
      let e := min (8 * c.len / f.width) (((o + m) * 8 + g.width * per - 1) / (g.width * per) * per)
      let a := c.elems * f.width / 8
      let r := get s a ((e - c.elems) * f.width / 8)
      let (d, fl, n) := c.convert f g (r.state.hostRand p) r.data
      (r, c.carry ++ d, { c with fl := c.fl ||| fl, elems := c.elems + n }, a)
    | _, _ =>
      let r := get s o m
      (r, r.data, c, o)
  let w := d.take m
  let s := if w.isEmpty then r.state else { r.state with out := r.state.out ++ [OutItem.hostWrite p (c.haddr + o) w] }
  let s := s.bump (fnKey p 0x70108) w.length
  s.segDone k { c' with carry := d.drop m, dst := c.dst + w.length } (r.fail.map fun b => (b.1, if b.1 = 7 then b.2 else from' + b.2))

/-- The oldest command of an operation with this CID that has not completed. -/
def State.cmdOf (s : State) (k opc cid : Nat) : Option HostCmd :=
  (s.hq k).cmds.find? fun c => c.done.isNone && c.opc == opc && c.cid == cid

/-- One segment of a command moves its data: the device issues segments in its order until the command has one in progress. Data toward the
device comes in answer to requests already issued; data toward the host goes out only while the function may make requests (R583, R586). -/
def State.runCmd (s : State) (p q opc cid : Nat) (f : State → Nat → HostCmd → State) : State :=
  match s.queueOf p q with
  | none => s
  | some k =>
    match s.cmdOf k opc cid with
    | none => s
    | some c =>
      let s := s.serveUntil k c.age (16 * s.hostqs.length + 1)
      match s.cmdOf k opc cid with
      | none => s
      | some c =>
        if c.moved < c.issued then (if (opc = 2 ∨ opc = 4) ∧ !s.hostOk p then s else f s k c) else s

def execNop (p : BitVec 6) (q : Nat) (cid : BitVec 16) (s : State) : Host.Outcome State Fault Refusal :=
  .next (s.runCmd p.toNat q 0 cid.toNat fun s k c => s.segDone k c none)
def execH2d (p : BitVec 6) (q : Nat) (cid : BitVec 16) (data : List Byte) (err : Option Nat) (s : State) :
    Host.Outcome State Fault Refusal :=
  .next (s.runCmd p.toNat q 1 cid.toNat fun s k c => s.moveIn p.toNat k c data err)
def execD2h (p : BitVec 6) (q : Nat) (cid : BitVec 16) (s : State) : Host.Outcome State Fault Refusal :=
  .next (s.runCmd p.toNat q 2 cid.toNat fun s k c => s.moveOut p.toNat k c)
def execH2s (p : BitVec 6) (q : Nat) (cid : BitVec 16) (data : List Byte) (err : Option Nat) (s : State) :
    Host.Outcome State Fault Refusal :=
  .next (s.runCmd p.toNat q 3 cid.toNat fun s k c => s.moveIn p.toNat k c data err)
def execS2h (p : BitVec 6) (q : Nat) (cid : BitVec 16) (s : State) : Host.Outcome State Fault Refusal :=
  .next (s.runCmd p.toNat q 4 cid.toNat fun s k c => s.moveOut p.toNat k c)
def execFill (p : BitVec 6) (q : Nat) (cid : BitVec 16) (s : State) : Host.Outcome State Fault Refusal :=
  .next (s.runCmd p.toNat q 5 cid.toNat fun s k c =>
    s.moveIn p.toNat k c ((List.replicate 1024 (sliceB c.bytes 8 4)).flatten) none)

/-! ### Fetching and entries (R567, R571, R574, R577) -/

/-- A fetch of the next SQ entry completes, or fails (R574). A command that breaks R569 ends BADCMD, and
one whose conversion breaks R575 FORMAT, before it moves anything. -/
def State.sqFetch (s : State) (p q : Nat) (entry : List Byte) (ok : Bool) : State :=
  match s.queueOf p q with
  | none => s
  | some k =>
    let x := s.hq k
    if s.qState k ≠ 1 ∨ s.sqHead k = x.tail ∨ !s.hostOk p ∨ bit (s.reg 0x2004) 0 then s
    else if !ok then s.qError p k 4
    else
      let head := (s.sqHead k + 1) % s.sqSize k
      let b := sliceB entry 0 64
      let c : HostCmd := { age := s.hostSeq, head := head, bytes := b, done := (cmdBad b).map fun o => (2, o, 0) }
      let c := match c.done, c.conv, c.formats with
        | none, true, .inl det => { c with done := some (3, det, 0) }
        | _, _, _ => c
      { (s.setRegFld (qKey k + 0x1C) 0 12 head).setHq k { x with cmds := x.cmds ++ [c] } with hostSeq := s.hostSeq + 1 }

def execSqFetch (p : BitVec 6) (q : Nat) (entry : List Byte) (ok : Bool) (s : State) : Host.Outcome State Fault Refusal :=
  .next (s.sqFetch p.toNat q entry ok)

/-- An entry has been written: UNSIG and the due state of its CQ (R577). -/
def State.entryWritten (s : State) (p k : Nat) : State :=
  if bit (s.reg (qKey k + 0x14)) 15 then
    let n := s.regFld (qKey k + 0x24) 0 13 + 1
    let m := s.reg (qKey k + 0x18)
    let due := decide (max 1 (fld m 0 8) ≤ n) || fld m 8 16 == 0
    let s := s.setRegFld (qKey k + 0x24) 0 13 n
    if due then (s.setRegFld (qKey k + 0x24) 13 1 1).trySend p (s.regFld (qKey k + 0x14) 4 11) else s
  else s

/-- The oldest command's writes are visible: its entry is written, in SQ order, while the CQ has room (R571, R573). -/
def State.cmdComplete (s : State) (p q : Nat) : State :=
  match s.queueOf p q with
  | none => s
  | some k =>
    let x := s.hq k
    match x.cmds with
    | [] => s
    | c :: rest =>
      match c.done with
      | none => s
      | some (st, det, fl) =>
        let n := s.cqSize k
        let t := s.cqTail k
        let leave : State → State := fun s =>
          let s := s.setHq k { s.hq k with cmds := rest }
          if s.qState k = 3 ∧ rest.isEmpty then s.setQState k 0 else s
        if st = 0 ∧ (byteAt c.bytes 1).testBit 1 then leave s
        else if !s.hostOk p ∨ (t + 1) % n = x.cqHead then s
        else
          let ph := s.regFld (qKey k + 0x1C) 12 1
          let e := leBytes 2 c.cid ++ leBytes 2 c.head ++ leBytes 1 st ++ leBytes 1 fl ++ leBytes 2 q ++ leBytes 4 det ++ leBytes 4 ph
          let s := { s with out := s.out ++ [OutItem.hostWrite p (s.reg64 (qKey k + 12) + 16 * t) e] }
          let t' := (t + 1) % n
          let s := s.setRegFld (qKey k + 0x1C) 16 12 t'
          let s := if t' = 0 then s.setRegFld (qKey k + 0x1C) 12 1 (1 - ph) else s
          (leave s).entryWritten p k

def execCommandComplete (p : BitVec 6) (q : Nat) (s : State) : Host.Outcome State Fault Refusal := .next (s.cmdComplete p.toNat q)

/-- The moderation timer of a CQ reaches TIME (R577). -/
def State.moderation (s : State) (p k : Nat) : State :=
  if bit (s.reg (qKey k + 0x14)) 15 && s.regFld (qKey k + 0x24) 0 13 != 0 then
    (s.setRegFld (qKey k + 0x24) 13 1 1).trySend p (s.regFld (qKey k + 0x14) 4 11)
  else s

def execModerationTimerExpiry (p : BitVec 6) (q : Nat) (s : State) : Host.Outcome State Fault Refusal :=
  .next (match s.queueOf p.toNat q with
    | some k => s.moderation p.toNat k
    | none => s)

/-! ### Interrupt masks and function power states (R578, R583, R586, R587) -/

def State.vectors (f : Nat) : Nat := if f = 0 then 2048 else 64

/-- Every vector that may be sent is sent. -/
def State.sendDue (s : State) (f : Nat) : State := (List.range (State.vectors f)).foldl (fun (s : State) v => s.trySend f v) s
/-- Every vector that is due or whose PBA bit is set is sent. -/
def State.sendPba (s : State) (f : Nat) : State := (List.range (State.vectors f)).foldl (fun (s : State) v => s.trySendPba f v) s

/-- A vector's Mask bit, or the Function Mask, is cleared (R578). -/
def State.unmask (s : State) (f : Nat) (v : Option Nat) : State :=
  match v with
  | some v =>
    let x := s.fn f
    (s.setFn f { x with table := x.table.set msixWord0 (4 * v + 3) (setBit (x.table.get msixWord0 (4 * v + 3)) 0 false) }).trySendPba f v
  | none => (s.setFn f { s.fn f with fnMask := false }).sendPba f

def execVectorUnmask (f : BitVec 6) (v : Option (BitVec 11)) (s : State) : Host.Outcome State Fault Refusal :=
  .next (s.unmask f.toNat (v.map (·.toNat)))

def State.d3hot (s : State) (f : Nat) : State :=
  let s := s.setFn f { s.fn f with d3hot := true }
  let s := (List.range (s.qpNum f)).foldl (fun (s : State) i =>
    let k := s.qpBase f + i
    if bit (s.reg (qKey k + 0x14)) 15 && s.regFld (qKey k + 0x24) 0 13 != 0 then s.setRegFld (qKey k + 0x24) 13 1 1 else s) s
  s.sendDue f

def execD3hot (f : BitVec 6) (s : State) : Host.Outcome State Fault Refusal := .next (s.d3hot f.toNat)
/-- Return to D0: pending vectors are sent before anything else resumes (R587). -/
def State.toD0 (s : State) (f : Nat) : State := (s.setFn f { s.fn f with d3hot := false }).sendPba f
def execD0 (f : BitVec 6) (s : State) : Host.Outcome State Fault Refusal := .next (s.toD0 f.toNat)
/-- Bus Master Enable is written (R583). -/
def State.setBusMaster (s : State) (f : Nat) (on : Bool) : State :=
  let s := s.setFn f { s.fn f with busMaster := on }
  if on then s.sendDue f else s

def execBusMasterEnableWrite (f : BitVec 6) (on : Bool) (s : State) : Host.Outcome State Fault Refusal :=
  .next (s.setBusMaster f.toNat on)

/-! ### Function resets (R324, R580-R582, R683) -/

/-- Registers return to their reset values. -/
def State.clearRegs (s : State) (k n : Nat) : State := { s with regs := s.regs.clearRange k n }

/-- Commands fetched and not completed end ABORTED (step 3 of R580). -/
def State.abortCmds (s : State) (p : Nat) : State :=
  let all := (List.range (s.qpNum p)).flatMap fun i => ((s.hq (s.qpBase p + i)).cmds.map fun c => (i, c))
  let s := s.setReg (0x78010 + 0x20 * p) (BitVec.ofNat 32 (min 0xFFFF all.length))
  match all.foldl (fun (o : Option (Nat × HostCmd)) c => match o with
      | none => some c
      | some y => if c.2.age < y.2.age then some c else some y) none with
  | none => s
  | some (i, c) => s.setReg (0x78014 + 0x20 * p) (BitVec.ofNat 32 (c.cid + i * 2 ^ 16 + 2 ^ 31))

/-- Ballots of a function reset: one for every open step in RUN, to the parent (R324). The root of the vote has no parent, and none is sent
for it (DEDUCED, log entry 110). -/
def State.resetBallots (s : State) (p : Nat) : State :=
  let x := s.stCtl p
  let send : State → Option OpenStep → Bool → State := fun s o run =>
    match o with
    | some o => if run && s.voteEn p && !s.voteRoot p then
        s.sendVote p 1 o.num o.att 8 1 (s.regFld (stKey p 0x34) 0 16) else s
    | none => s
  send (send s x.a (s.sa p == 1)) x.b (s.sb p == 1)

/-- The step controller, Comet block and run tables of partition p; those of an apply under way stay until its step leaves (R581). -/
def State.resetSteps (s : State) (p : Nat) : State :=
  let s := s.resetBallots p
  let s := { s with rolls := s.rolls.filter fun r => s.corePart r.core != p, swept := s.swept.set (fun _ => []) p [] }
  match s.apply p with
  | none =>
    let s := (s.rdChans p).foldl (fun (s : State) c => (s.redClear c 0 0).redClear c 1 1) s
    ((s.clearRegs (stKey p 0) 0x400).modStCtl p fun _ => StepCtl.reset).disarmFn p
  | some a =>
    let s := (s.rdChans p).foldl (fun (s : State) c => s.redClear c (1 - a.step % 2) (a.step + 1)) s
    let keep := [0x60, 0x64, 0x68].map fun o => (stKey p o, s.reg (stKey p o))
    let s := (s.clearRegs (stKey p 0) 0x400).modStCtl p fun x => { StepCtl.reset with a := x.a }
    let s := keep.foldl (fun (s : State) e => s.setReg e.1 e.2) s
    (s.setSa p 3).setApply p (some { a with disarm := true })

/-- The cores of partition p that are not fenced (steps 5 and 6 of R580), their clusters woken from C1 and C2 first (R657). -/
def State.resetCores (s : State) (p : Nat) : State :=
  let cs := (s.partCores p).filter fun c => !s.isFenced c
  let s := ((s.partCores p).filter fun c => coreIdx c == 0).foldl (fun (s : State) c =>
    if s.clState (coreCluster c) = 1 ∨ s.clState (coreCluster c) = 2 then s.wakeFor (coreCluster c) else s) s
  let s := cs.foldl (fun (s : State) c => (s.closeContexts c).coreReset c) s
  { s with barC := s.barC.filter fun b => s.clusterPart b.1 != p, barD := s.barD.filter fun b => b.1 % 64 != p }

/-- The serving unit's state of partition p returns to reset, but for its range of request ids (R607). -/
def State.resetServing (s : State) (p : Nat) : State :=
  let b := s.regFld (svKey p 8) 0 16
  let n := s.regFld (svKey p 12) 0 17
  let keep := [8, 12].map fun o => (svKey p o, s.reg (svKey p o))
  let s := { s with reqs := s.reqs.filter fun e => !(decide (b ≤ e.1) && decide (e.1 < b + n)),
                    batches := s.batches.filter fun x => x.part != p, svq := s.svq.filter fun x => x.part != p }
  keep.foldl (fun (s : State) e => s.setReg e.1 e.2) (s.clearRegs (svKey p 0) 0x400)

/-- The registers of partition p's update-engine block return to reset, but for its groups, which the PF assigns, and a REEMIT under way
(R363, R580, R581); a swap that waits is forgotten. -/
def State.resetUePart (s : State) (p : Nat) : State :=
  let busy := s.reg (uePart p 0x18) &&& 1
  let s := { s with devAct := (s.devAct.set nat0 (crvKind p) 0).set nat0 (grpSwapKind p) 0 }
  let s := [4, 8].foldl (fun (s : State) o => (s.clearRegs (bankKey 0 (uePart p o)) 1).clearRegs (bankKey 1 (uePart p o)) 1) s
  (s.clearRegs (uePart p 0xC) 0x1C).setReg (uePart p 0x18) busy

/-- The function's own state returns to reset; the enable of a VF is the PF's (step 8 of R580). A mailbox request that has not started
is discarded, and one under way completes with its response going nowhere, which source 64 stands for (R640). -/
def State.resetFn (s : State) (p : Nat) : State :=
  let s := (s.clearRegs (fnKey p 0x70000) 0x1000).clearRegs (fnKey p 0x7F000) 0x40
  let s := (s.clearRegs (fnKey p 0x8000) 0x2000)
  let s := s.resetServing p
  let s := s.resetUePart p
  let s := { s with dapq := s.dapq.filter (fun q => q.src != DapSrc.mbx p),
                    dapWrite := s.dapWrite.map fun (w : DapWrite) => if w.req.src = DapSrc.mbx p then { w with req := { w.req with src := DapSrc.mbx 64 } } else w }
  s.setFn p { fn0 p with enabled := (s.fn p).enabled }

/-- A function reset of partition p (R580). -/
def State.flr (s : State) (p : Nat) : State :=
  let s := s.abortCmds p
  let s := s.resetSteps p
  let s := s.resetCores p
  let s := ((List.range 64).filter fun c => s.fdOn c && s.fdPart c == p).foldl (fun (s : State) c => s.fdStop c) s
  let s := (List.range (s.qpNum p)).foldl (fun (s : State) i =>
    (s.clearRegs (qKey (s.qpBase p + i)) 0x40).setHq (s.qpBase p + i) HostQ.reset) s
  s.resetFn p

/-- Configuration words the host writes, at reset: Device Control, and AER severity and correctable mask, are the base specification's
(PRESUMED, log entry 23). -/
def cfgReset : Nat → Word := fun w => if w = 8 then 0x2010 else if w = 14 then 0x462030 else if w = 16 then 0x2000 else 0
def HostFn.cfgWord (x : HostFn) (w : Nat) : Word := x.cfg.get cfgReset w
def HostFn.setCfg (x : HostFn) (w : Nat) (v : Word) : HostFn := { x with cfg := x.cfg.set cfgReset w v }

/-- VF Enable is cleared: every VF that was enabled is reset (R582). -/
def State.vfDisable (s : State) : State :=
  let s := s.setFn 0 ((s.fn 0).setCfg 2 ((s.fn 0).cfgWord 2 &&& 0x3F0000#32))
  (List.range 63).foldl (fun (s : State) i =>
    if (s.fn (i + 1)).enabled then
      let s := s.flr (i + 1)
      s.setFn (i + 1) { s.fn (i + 1) with enabled := false }
    else s) s

/-- A function reset; that of the PF disables every VF as well (R582). -/
def State.fnReset (s : State) (p : Nat) : State := if p = 0 then s.vfDisable.flr 0 else s.flr p

def execFlr (p : BitVec 6) (s : State) : Host.Outcome State Fault Refusal := .next (s.fnReset p.toNat)
def execVfDisable (s : State) : Host.Outcome State Fault Refusal := .next s.vfDisable

/-! ### Partitions (R562-R565, R590) -/

/-- Whether partition p is idle (R564). -/
def State.idle (s : State) (p : Nat) : Bool :=
  (s.cores.all fun e => s.corePart e.1 != p ||
    ((e.2.rs == 0 || e.2.rs == 4) && e.2.engs.all fun x => x.2.queue.isEmpty && x.2.jobs.isEmpty)) &&
  !s.stepOpen p &&
  ((List.range (s.qpNum p)).all fun i => !bit (s.reg (qKey (s.qpBase p + i) + 8)) 31) &&
  ((List.range 8).all fun t => !bit (s.reg (ueKey t (0x100C + 0x10 * p))) 0) &&
  (List.range 64).all fun c => !(s.fdOn c && s.fdPart c == p)

/-- Two ranges of base and length with something in common; an empty range has nothing in common with any (DEDUCED). -/
def rangeHit (a n b m : Nat) : Bool := decide (n ≠ 0) && decide (m ≠ 0) && decide (a < b + m) && decide (b < a + n)

/-- Whether a new word of a partition's assignment breaks R590 or overlaps another partition's. -/
def State.partBad (s : State) (p which : Nat) (v : Word) : Bool :=
  let others := (List.range 64).filter (· ≠ p)
  if which = 0 then
    let nr := fld v 16 5
    let nc := fld v 24 6
    decide (20 < nr) || decide (32 < nc) || decide (20 < fld v 0 5 + nr) || decide (32 < fld v 8 5 + nc) ||
      others.any fun q =>
        let r := s.rect q
        rangeHit (fld v 0 5) nr r.cr r.nr && rangeHit (fld v 8 5) nc r.cc r.nc
  else if which = 1 then
    decide (256 < fld v 0 9 + fld v 16 9) || others.any fun q =>
      let w := s.reg (0x78004 + 0x20 * q)
      rangeHit (fld v 0 9) (fld v 16 9) (fld w 0 9) (fld w 16 9)
  else
    decide (512 < fld v 0 9 + fld v 16 10) || others.any fun q => rangeHit (fld v 0 9) (fld v 16 10) (s.qpBase q) (s.qpNum q)

/-- A write of HI_PARTp_CLU, _MEM or _QP (R564). -/
def State.partWrite (s : State) (p which : Nat) (v : Word) : State :=
  if !s.idle p || s.partBad p which v then s.orReg (0x7800C + 0x20 * p) (2 ^ 16)
  else s.putCode (0x78000 + 0x20 * p + 4 * which) v

def execHiPartWrite (p : BitVec 6) (which : BitVec 2) (v : Word) (s : State) : Host.Outcome State Fault Refusal :=
  .next (if which.toNat < 3 then s.partWrite p.toNat which.toNat v else s)

/-! ### BAR2 (R560) -/

/-- The size of a function's BAR2: object 0x40FF.01 gives a VF's (R559, R591). -/
def State.bar2Size (s : State) (f : Nat) : Nat :=
  if f = 0 then 2 ^ 36 else 2 ^ (s.objsBoot.get objReset (objKey 0x40FF 1))

/-- An access to BAR2: each stretch of a page that is mapped is performed, the rest discarded or read as 0, and logged. -/
def State.bar2 (s : State) (f off n : Nat) (data : Option (List Byte)) : State :=
  let base := 2 ^ 28 * (s.reg64 (fnKey f 0x70010) % 2 ^ 48 / 2 ^ 28)
  if n = 0 ∨ !s.decodes f ∨ s.bar2Size f < off + n then s
  else
    let log : State → State := fun s =>
      s.log { level := 0x44, unit := 17, cause := 4, action := 7, loc := f, d1 := off % 2 ^ 32, d2 := base + off }
    let (s, d, bad, ue) := (cuts 4096 (base + off) n).foldl (fun (acc : State × List Byte × Bool × Bool) c =>
      let (s, d, bad, ue) := acc
      let s := s.memRoute s.hostDie f (base + off + c.1) c.2
      let r := match data with
        | some w => s.memWr f (base + off + c.1) (sliceB w c.1 c.2) .ordinary 17 false
        | none => s.memRd f (base + off + c.1) c.2 .ordinary 17 none
      match r with
      | (s, .ok b) => (s, d ++ b, bad, ue)
      | (s, .fault _) => (s, d ++ List.replicate c.2 0, true, ue)
      | (s, .ue _) => (s, d ++ List.replicate c.2 0, bad, true)) (s, [], false, false)
    let s := if bad then log s else s
    match data with
    | some _ => s
    | none => { s with out := s.out ++ [OutItem.completion f (if ue then List.replicate n 0xFF else d) ue] }

def execBar2Access (f : BitVec 6) (off n : Nat) (data : Option (List Byte)) (s : State) : Host.Outcome State Fault Refusal :=
  .next (s.bar2 f.toNat off (match data with
    | some d => d.length
    | none => n) data)

end Sys2Proof.Machine
end

