-- ==== Sys2Proof/Machine/Serving.lean ====
section
/-!
DEFINITION. The serving unit: the request table, its commands, KV pages, batch formation and notification, and models on several
devices (spec/17).
-/

namespace Sys2Proof.Machine

/-! ### Registers and entries (R592, R593, R608, R609) -/

def req0 : Nat → Req := fun _ => Req.reset
/-- A register of model m of partition p. -/
def smKey (p m o : Nat) : Nat := svKey p (0x100 + 0x40 * m + o)
def State.svBase (s : State) (p : Nat) : Nat := s.regFld (svKey p 8) 0 16
/-- The number of ids of partition p; there are 65,536 in all. -/
def State.svNum (s : State) (p : Nat) : Nat := min (s.regFld (svKey p 12) 0 17) (65536 - s.svBase p)
def State.req (s : State) (p r : Nat) : Req := s.reqs.get req0 (s.svBase p + r)
def State.setReq (s : State) (p r : Nat) (x : Req) : State := { s with reqs := s.reqs.set req0 (s.svBase p + r) x }
/-- Whether every request in a range of ids is FREE. -/
def State.allFree (s : State) (b n : Nat) : Bool :=
  s.reqs.all fun e => !(decide (b ≤ e.1) && decide (e.1 < b + n)) || e.2.state == 0

def State.svEvent (s : State) (p b : Nat) : State := s.evSet (svKey p 0x54) (2 ^ b) (384 + p)
def State.svCfgErr (s : State) (p : Nat) : State := s.orReg (svKey p 4) 4
/-- A 48-bit device-memory address held in two registers. -/
def State.svAddr (s : State) (p o : Nat) : Nat := s.reg64 (svKey p o) % 2 ^ 48

def State.smEn (s : State) (p m : Nat) : Bool := bit (s.reg (smKey p m 0)) 0
def State.smFollow (s : State) (p m : Nat) : Bool := bit (s.reg (smKey p m 0)) 1
def State.smTpp (s : State) (p m : Nat) : Nat := s.regFld (smKey p m 0) 2 8 + 1
def State.smSets (s : State) (p m : Nat) : Nat := s.regFld (smKey p m 0) 10 6 + 1
def State.smBmax (s : State) (p m : Nat) : Nat := s.regFld (smKey p m 0) 16 8 + 1
def State.smDepth (s : State) (p m : Nat) : Nat := s.regFld (smKey p m 0) 24 3 + 1
def State.svPtw (s : State) (p : Nat) : Nat := s.regFld (svKey p 0x2C) 0 17

/-- Flags of word 0 of an entry, from bit 16 up: EOS, MAXLEN, ABORTED, WAITPAGE, ABORTPEND, HOLDPEND. -/
def Req.flag (x : Req) (i : Nat) : Bool := x.flags.testBit i
def Req.setFlag (x : Req) (i : Nat) (b : Bool) : Req :=
  { x with flags := if x.flags.testBit i == b then x.flags else if b then x.flags + 2 ^ i else x.flags - 2 ^ i }

/-- Device time in µs modulo 2^32 (R593, R603). -/
def State.nowUs (s : State) : Nat := s.sclk.toNat / 25 % 2 ^ 32
/-- How long a request has been READY: an age that has reached 2^31 µs stays there (R603). -/
def State.age (s : State) (x : Req) : Nat := if x.capped then 2 ^ 31 else min ((s.nowUs + 2 ^ 32 - x.tlast) % 2 ^ 32) (2 ^ 31)

/-- Word w of an entry as SV_RQw reads (R593); TLAST of a capped age moves with the time (R603). -/
def State.reqWord (s : State) (x : Req) (w : Nat) : Nat :=
  match w with
  | 0 => x.state + 8 * x.model + 256 * x.prio + 65536 * x.flags
  | 1 => x.len
  | 2 => x.maxlen
  | 3 => x.npages
  | 4 => x.gen
  | 5 => x.last
  | 6 => if x.capped then (s.nowUs + 2 ^ 31) % 2 ^ 32 else x.tlast
  | 7 => x.seq
  | _ => x.user

/-- A request becomes READY, which sets TLAST (R597). -/
def State.setReady (s : State) (p r : Nat) (x : Req) : State := s.setReq p r { x with state := 2, tlast := s.nowUs, capped := false }

/-- A request enters DONE: counted and notified (R604). The pending bits go. -/
def State.setDone (s : State) (p r : Nat) (x : Req) : State :=
  let x := ({ x with state := 5 }.setFlag 4 false).setFlag 5 false
  let s := (s.setReq p r x).bump (svKey p 0x320) 1
  s.sendEvent p 0xFFFFFFFF (s.reg (smKey p x.model 8)).toNat (s.regFld (smKey p x.model 12) 0 12) 6 noCore
    [2 + 16 * x.model + 65536 * x.flags, r, x.gen, x.len]

/-! ### KV pages (R601, R602) -/

def State.svFree (s : State) (p : Nat) : Nat := s.regFld (svKey p 0x38) 0 25

/-- A page leaves the free stack; a word of the stack that cannot be read is a free value. LOWPG is raised as the count falls below. -/
def State.popPage (s : State) (p : Nat) : State × Nat :=
  let n := s.svFree p
  let (s, r) := s.memRd p (s.svAddr p 0x1C + 4 * (n - 1)) 4 .ordinary 18 none
  let (s, page) := match r with
    | .ok d => (s, leNat d)
    | _ => let (v, s) := s.freeVal
           (s, v.toNat)
  let s := s.setReg (svKey p 0x38) (BitVec.ofNat 32 (n - 1))
  let low := s.regFld (svKey p 0x3C) 0 25
  (if low ≤ n ∧ n - 1 < low then s.svEvent p 4 else s, page)

/-- A page goes back to the free stack. -/
def State.pushPage (s : State) (p page : Nat) : State :=
  let n := s.svFree p
  let s := (s.memWr p (s.svAddr p 0x1C + 4 * n) (leBytes 4 page) .ordinary 18 false).1
  s.setReg (svKey p 0x38) (BitVec.ofNat 32 (n + 1))

/-- The device-memory address of entry i of a request's page table. -/
def State.ptAddr (s : State) (p r i : Nat) : Nat := s.svAddr p 0x24 + 4 * (s.svPtw p * r + i)

/-- `n` pages for a request, entered in ascending order after those it holds. -/
def State.allocPages (s : State) (p r : Nat) : Nat → State
  | 0 => s
  | n + 1 =>
    let (s, page) := s.popPage p
    let x := s.req p r
    let s := (s.memWr p (s.ptAddr p r x.npages) (leBytes 4 page) .ordinary 18 false).1
    State.allocPages (s.setReq p r { x with npages := x.npages + 1 }) p r n

/-- Every page of a request, entries from `i` up, `n` of them. -/
def State.freePages (s : State) (p r i : Nat) : Nat → State
  | 0 => s
  | n + 1 =>
    let (s, d) := s.memRd p (s.ptAddr p r i) 4 .ordinary 18 none
    let (s, page) := match d with
      | .ok d => (s, leNat d)
      | _ => let (v, s) := s.freeVal
             (s, v.toNat)
    State.freePages (s.pushPage p page) p r (i + 1) n

/-- Pages `n` positions of a model need. -/
def State.pagesFor (s : State) (p m n : Nat) : Nat := (n + s.smTpp p m - 1) / s.smTpp p m * s.smSets p m

/-- Whether every byte of the pool lies in KV regions of the partition (R601). -/
def State.poolOk (s : State) (p : Nat) : Bool :=
  (List.range (4 * s.regFld (svKey p 0x18) 0 25)).all fun i =>
    match s.xlate p (s.svAddr p 0x10 + 4096 * i) with
    | none => false
    | some (t, o) => (List.range 16).any fun r =>
        let g := s.region t r
        g.valid && g.kind == 4 && g.part == p && decide (g.base ≤ o / 4096) && decide (o / 4096 < g.base + g.pages)

/-- INIT of the pool; INITBUSY has ended with it (R601). -/
def State.svInit (s : State) (p : Nat) : State :=
  if !s.allFree (s.svBase p) (s.svNum p) || !s.poolOk p then s.svCfgErr p
  else
    let n := s.regFld (svKey p 0x18) 0 25
    let s := s.setReg (svKey p 0x38) 0
    let s := (List.range n).foldl (fun (s : State) k => s.pushPage p (n - 1 - k)) s
    s.orReg (svKey p 4) 2

def execSvInit (p : BitVec 6) (s : State) : Host.Outcome State Fault Refusal := .next (s.svInit p.toNat)

/-! ### Models on several devices (R606) -/

/-- Forward a command's words to each follower's command port. -/
def State.svForward (s : State) (p m : Nat) (ws : List Nat) : State :=
  let n := s.regFld (smKey p m 0x18) 0 2
  let ids := [s.regFld (smKey p m 0x1C) 0 16, s.regFld (smKey p m 0x1C) 16 16, s.regFld (smKey p m 0x20) 0 16]
  if s.smFollow p m then s
  else (ids.take n).foldl (fun (s : State) d =>
    s.send (.req { part := p, src := 0xFFFFFFFF, eng := 6, ticket := 0, pos := 0, dst := d * 65536, space := 1, op := 1,
                   addr := s.svAddr p 0x30, len := 16, data := ws.flatMap (leBytes 4), land := 0 })) s

/-! ### Batch formation (R603, R604) -/

/-- The READY requests of a model, by partition-relative id. -/
def State.readyOf (s : State) (p m : Nat) : List (Nat × Req) :=
  (s.reqs.filter fun e => decide (s.svBase p ≤ e.1) && decide (e.1 < s.svBase p + s.svNum p) && e.2.state == 2 &&
    e.2.model == m).map fun e => (e.1 - s.svBase p, e.2)

/-- The priority a request has reached by ageing. -/
def State.eff (s : State) (p m : Nat) (x : Req) : Nat :=
  let u := s.regFld (smKey p m 4) 16 16
  if u = 0 then x.prio else x.prio + min (255 - x.prio) (s.age x / u)

/-- Whether request `a` goes before `b`: priority, then waiting time, then id. -/
def State.before (s : State) (p m : Nat) (a b : Nat × Req) : Bool :=
  let ea := s.eff p m a.2
  let eb := s.eff p m b.2
  decide (eb < ea) || (ea == eb && (decide (s.age b.2 < s.age a.2) || (s.age a.2 == s.age b.2 && decide (a.1 ≤ b.1))))

def State.place (s : State) (p m : Nat) (a : Nat × Req) : List (Nat × Req) → List (Nat × Req)
  | [] => [a]
  | b :: t => if s.before p m a b then a :: b :: t else b :: State.place s p m a t

def State.ordered (s : State) (p m : Nat) : List Nat :=
  ((s.readyOf p m).foldl (fun l a => s.place p m a l) []).map (·.1)

/-- Selection: requests in their order until the batch is full; members with NEWGRP. -/
def State.selectFrom (s : State) (p m : Nat) : List Nat → List (Nat × Bool) → State × List (Nat × Bool)
  | [], b => (s, b)
  | r :: t, b =>
    if s.smBmax p m ≤ b.length then (s, b)
    else
      let x := s.req p r
      let grow := decide (x.npages < s.pagesFor p m (x.len + 1))
      if grow && decide (s.svFree p < s.smSets p m) then
        let s := s.setReq p r (x.setFlag 3 true)
        State.selectFrom ((s.bump (svKey p 0x338) 1).svEvent p 1) p m t b
      else
        let s := if grow then s.allocPages p r (s.smSets p m) else s
        State.selectFrom (s.setReq p r ((s.req p r).setFlag 3 false)) p m t (b ++ [(r, grow)])

/-- The ring slot of a batch. -/
def State.slotAddr (s : State) (p m seq : Nat) : Nat :=
  s.svAddr p (0x110 + 0x40 * m) + seq % s.smDepth p m * ((32 + 32 * s.smBmax p m + 63) / 64 * 64)

def State.batchHeader (s : State) (p m seq count : Nat) : List Byte :=
  leBytes 4 seq ++ leBytes 2 count ++ leBytes 1 m ++ leBytes 1 (seq % s.smDepth p m) ++ leBytes 4 s.time32 ++ List.replicate 20 0

def State.batchEntry (s : State) (p r : Nat) (newgrp : Bool) : List Byte :=
  let x := s.req p r
  leBytes 4 r ++ leBytes 4 x.len ++ leBytes 4 x.last ++ leBytes 4 x.npages ++ leBytes 8 (s.ptAddr p r 0 % 2 ^ 48) ++ leBytes 2 x.user ++
    leBytes 1 ((if x.fresh then 1 else 0) + (if newgrp then 2 else 0)) ++ List.replicate 5 0

def State.inFlight (s : State) (p m : Nat) : Nat := (s.batches.filter fun b => b.part == p && b.model == m).length

/-- Whether a leader model has all it needs to form a batch. -/
def State.mayForm (s : State) (p m : Nat) : Bool :=
  let l := s.readyOf p m
  let fill := s.regFld (smKey p m 4) 0 16
  bit (s.reg (svKey p 0)) 0 && s.smEn p m && !s.smFollow p m && decide (s.inFlight p m < s.smDepth p m) && !l.isEmpty &&
    (decide (s.smBmax p m ≤ l.length) || fill == 0 || l.any fun e => decide (fill ≤ s.age e.2))

/-- A batch of the selected members takes its SEQ, its slot is written and its members run (R603, R604). -/
def State.launch (s : State) (p m : Nat) (b : List (Nat × Bool)) : State :=
  let seq := (s.reg (smKey p m 0x24)).toNat
  let s := s.setReg (smKey p m 0x24) (BitVec.ofNat 32 (seq + 1))
  let entries := b.flatMap fun e => s.batchEntry p e.1 e.2
  let s := (s.memWr p (s.slotAddr p m seq) (s.batchHeader p m seq b.length ++ entries) .ordinary 18 false).1
  let s := b.foldl (fun (s : State) e => s.setReq p e.1 { s.req p e.1 with state := 3, seq := seq, fresh := false }) s
  let s := (s.bump (svKey p 0x310) 1).bump (svKey p 0x318) b.length
  { s with batches := s.batches ++ [⟨p, m, seq, b.length, b.map (·.1), b.length, false⟩] }

/-- Batches are formed for as long as the conditions hold; a selection that leaves the batch empty forms none and is not repeated. -/
def State.formUpTo (s : State) (p m : Nat) : Nat → State
  | 0 => s
  | fuel + 1 =>
    if !s.mayForm p m then s
    else
      match s.selectFrom p m (s.ordered p m) [] with
      | (s, []) => s
      | (s, b) => (s.launch p m b).formUpTo p m fuel

def State.form (s : State) (p m : Nat) : State := s.formUpTo p m (s.smDepth p m)
def State.formAll (s : State) (p : Nat) : State := (List.range 8).foldl (fun (s : State) m => s.form p m) s

/-- The slot's writes are acknowledged: SELECTs to the followers, then the notification (R604, R606). -/
def State.batchNotify (s : State) (p m : Nat) : State :=
  match s.batches.find? fun b => b.part == p && b.model == m && !b.sent && b.members.length == b.count with
  | none => s
  | some b =>
    let s := { s with batches := s.batches.map fun x => if x == b then { x with sent := true } else x }
    let s := (List.range b.count).foldl (fun (s : State) i =>
      s.svForward p m [9 + 16 * m, b.members.getD i 0, b.seq, b.count + 65536 * i]) s
    s.sendEvent p 0xFFFFFFFF (s.reg (smKey p m 8)).toNat (s.regFld (smKey p m 12) 0 12) 6 noCore
      [1 + 16 * m + 256 * (b.seq % s.smDepth p m), b.seq, b.count, 0]

def execBatchNotify (p : BitVec 6) (m : BitVec 3) (s : State) : Host.Outcome State Fault Refusal := .next (s.batchNotify p.toNat m.toNat)
def execFillTimeout (p : BitVec 6) (m : BitVec 3) (s : State) : Host.Outcome State Fault Refusal := .next (s.form p.toNat m.toNat)

/-- A READY request's age stops growing at 2^31 µs (R603). -/
def State.ageLimit (s : State) (p r : Nat) : State :=
  let x := s.req p r
  if r < s.svNum p ∧ x.state = 2 ∧ 2 ^ 31 ≤ s.age x then
    (s.setReq p r { x with tlast := (s.nowUs + 2 ^ 31) % 2 ^ 32, capped := true }).form p x.model
  else s

def execTlastAgeLimit (p : BitVec 6) (r : BitVec 17) (s : State) : Host.Outcome State Fault Refusal := .next (s.ageLimit p.toNat r.toNat)

/-! ### Commands (R595-R599, R605) -/

/-- The four words of a command. -/
structure SvWords where
  w0 : Word
  w1 : Word
  a : Word
  b : Word
  deriving DecidableEq, Repr

def SvWords.op (c : SvWords) : Nat := fld c.w0 0 4
def SvWords.model (c : SvWords) : Nat := fld c.w0 4 3
def SvWords.prio (c : SvWords) : Nat := fld c.w0 8 8
def SvWords.user (c : SvWords) : Nat := fld c.w0 16 16
def SvWords.req (c : SvWords) : Nat := fld c.w1 0 17
def SvWords.nats (c : SvWords) : List Nat := [c.w0.toNat, c.w1.toNat, c.a.toNat, c.b.toNat]

/-- A reserved operation or a field the command does not use (R596, R597). -/
def SvWords.bad (c : SvWords) : Bool :=
  let op := c.op
  op == 0 || decide (10 < op) || bit c.w0 7 || fld c.w1 17 15 != 0 ||
    (op != 1 && op != 8 && (if op = 3 then decide (1 < c.prio) else c.prio != 0)) || (op != 1 && c.user != 0) ||
    (op == 10 && c.req != 0) || ((decide (4 ≤ op ∧ op ≤ 8) || op == 10) && (c.a != 0 || c.b != 0)) || (op == 2 && c.b != 0) ||
    (op == 9 && fld c.b 24 8 != 0)

/-- The tests a command passes before its effect, as a result code (R598). `dev` is the device it came from; 0 is this one. -/
def State.svTest (s : State) (p dev : Nat) (c : SvWords) : Nat :=
  let m := c.model
  let x := s.req p c.req
  let leader := s.regFld (smKey p m 0x18) 16 16
  let mine := if dev = 0 then s.isOwn leader else dev == leader
  let st := x.state
  if !bit (s.reg (svKey p 0)) 0 || !bit (s.reg (svKey p 4)) 1 then 6
  else if c.bad then 2
  else if !s.smEn p m then 6
  else if s.smFollow p m && !mine then 5
  else if !s.smFollow p m && c.op == 9 then 5
  else if c.op = 10 then 0
  else if s.svNum p ≤ c.req then 4
  else if c.op ≠ 1 ∧ st ≠ 0 ∧ x.model ≠ m then 4
  else match c.op with
    | 1 =>
      if st ≠ 0 then 1
      else if c.a = 0 ∨ c.b.toNat ≤ c.a.toNat ∨ s.svPtw p / s.smSets p m * s.smTpp p m < c.b.toNat ∨ 2 ^ 24 ≤ c.b.toNat then 2
      else if s.svFree p < s.pagesFor p m c.a.toNat then 3
      else 0
    | 2 => if st = 1 then 0 else 1
    | 3 => 0
    | 4 => if st = 2 ∨ st = 3 then 0 else 1
    | 5 => if st = 4 then 0 else 1
    | 6 => if st = 1 ∨ st = 2 ∨ st = 3 ∨ st = 4 then 0 else 1
    | 7 => if st = 5 then 0 else 1
    | 8 => if st = 0 then 1 else 0
    | _ =>
      let count := fld c.b 0 16
      let index := fld c.b 16 8
      if st ≠ 2 then 1
      else if count = 0 ∨ s.smBmax p m < count ∨ count ≤ index then 2
      else if x.npages < s.pagesFor p m (x.len + 1) ∧ s.svFree p < s.smSets p m then 3
      else 0

/-- ADMIT. -/
def State.svAdmit (s : State) (p : Nat) (c : SvWords) : State :=
  let x : Req := { s.req p c.req with state := 1, model := c.model, prio := c.prio, flags := 0, len := c.a.toNat, maxlen := c.b.toNat,
                                      npages := 0, gen := 0, user := c.user, fresh := false, capped := false }
  ((s.setReq p c.req x).allocPages p c.req (s.pagesFor p c.model c.a.toNat)).bump (svKey p 0x300) 1

/-- START. -/
def State.svStart (s : State) (p : Nat) (c : SvWords) : State :=
  (s.setReady p c.req { s.req p c.req with last := c.a.toNat, fresh := true }).form p c.model

/-- The batch of a model that carries a sequence number. -/
def State.batchOf (s : State) (p m seq : Nat) : Option Batch :=
  s.batches.find? fun b => b.part == p && b.model == m && b.seq == seq

/-- A member's TOKEN has come: at the last its slot is free (R599). -/
def State.batchLess (s : State) (p m seq : Nat) : State :=
  match s.batchOf p m seq with
  | none => s
  | some b =>
    if b.await ≤ 1 ∧ b.members.length = b.count then { s with batches := s.batches.erase b }
    else { s with batches := s.batches.map fun x => if x == b then { x with await := b.await - 1 } else x }

/-- Tests 3 to 5 of R599 for a request that leaves RUNNING. -/
def State.leaveRun (s : State) (p r : Nat) (x : Req) : State :=
  if x.flag 4 then s.setDone p r (x.setFlag 2 true)
  else if x.flag 5 then s.setReq p r ({ x with state := 4 }.setFlag 5 false)
  else s.setReady p r x

/-- TOKEN. -/
def State.svToken (s : State) (p : Nat) (c : SvWords) : State :=
  let x := s.req p c.req
  let x := { x with len := (x.len + 1) % 2 ^ 24, gen := (x.gen + 1) % 2 ^ 24, last := c.a.toNat }
  let s := s.bump (svKey p 0x308) 1
  let s := if c.prio = 1 then s.setDone p c.req (x.setFlag 0 true)
    else if x.len = x.maxlen then s.setDone p c.req (x.setFlag 1 true)
    else s.leaveRun p c.req x
  (s.batchLess p c.model x.seq).form p c.model

/-- HOLD. -/
def State.svHold (s : State) (p : Nat) (c : SvWords) : State :=
  let x := s.req p c.req
  s.setReq p c.req (if x.state = 2 then { x with state := 4 } else x.setFlag 5 true)

/-- RESUME. -/
def State.svResume (s : State) (p : Nat) (c : SvWords) : State := (s.setReady p c.req (s.req p c.req)).form p c.model

/-- ABORT. -/
def State.svAbort (s : State) (p : Nat) (c : SvWords) : State :=
  let x := s.req p c.req
  if x.state = 3 then s.setReq p c.req (x.setFlag 4 true) else s.setDone p c.req (x.setFlag 2 true)

/-- RELEASE: the pages a waiting request may have needed are free now. -/
def State.svRelease (s : State) (p : Nat) (c : SvWords) : State :=
  let x := s.req p c.req
  let s := s.freePages p c.req 0 x.npages
  (s.setReq p c.req { x with state := 0, flags := 0, npages := 0 }).formAll p

/-- SETPRIO. -/
def State.svSetPrio (s : State) (p : Nat) (c : SvWords) : State :=
  s.setReq p c.req { s.req p c.req with prio := c.prio }

/-- SELECT at a follower (R606). -/
def State.svSelect (s : State) (p : Nat) (c : SvWords) : State :=
  let m := c.model
  let seq := c.a.toNat
  let count := fld c.b 0 16
  let index := fld c.b 16 8
  let x := s.req p c.req
  let grow := decide (x.npages < s.pagesFor p m (x.len + 1))
  let s := if grow then s.allocPages p c.req (s.smSets p m) else s
  let s := (s.memWr p (s.slotAddr p m seq + 32 + 32 * index) (s.batchEntry p c.req grow) .ordinary 18 false).1
  let s := s.setReq p c.req { (s.req p c.req).setFlag 3 false with state := 3, seq := seq, fresh := false }
  let old := (s.batchOf p m seq).getD ⟨p, m, seq, count, [], 0, false⟩
  let new := { old with members := old.members ++ [c.req], await := old.await + 1 }
  let s := { s with batches := s.batches.filter (· != old) ++ [new] }
  if index + 1 = count then (s.memWr p (s.slotAddr p m seq) (s.batchHeader p m seq count) .ordinary 18 false).1 else s

/-- FLUSH (R605). -/
def State.svFlush (s : State) (p : Nat) (c : SvWords) : State :=
  let m := c.model
  let bs := s.batches.filter fun b => b.part == p && b.model == m
  let s := { s with batches := s.batches.filter fun b => !(b.part == p && b.model == m) }
  let s := bs.foldl (fun (s : State) b => b.members.foldl (fun (s : State) r =>
    let x := s.req p r
    if x.state = 3 ∧ x.model = m ∧ x.seq = b.seq then s.leaveRun p r x else s) s) s
  s.form p m

/-- The effect of a command that passed its tests, and its forwarding to followers in the order performed (R606). -/
def State.svPerform (s : State) (p : Nat) (c : SvWords) : State :=
  let x := s.req p c.req
  if c.op = 3 ∧ (x.state ≠ 3 ∨ x.seq ≠ c.b.toNat) then s.bump (svKey p 0x330) 1
  else
    let s : State := s.svForward p c.model c.nats
    match c.op with
    | 1 => s.svAdmit p c
    | 2 => s.svStart p c
    | 3 => s.svToken p c
    | 4 => s.svHold p c
    | 5 => s.svResume p c
    | 6 => s.svAbort p c
    | 7 => s.svRelease p c
    | 8 => s.svSetPrio p c
    | 9 => s.svSelect p c
    | _ => s.svFlush p c

/-- A command that was refused at the port (R595, R606). -/
def State.svRefused (s : State) (p dev code : Nat) (c : SvWords) : State :=
  let s := (s.bump (svKey p 0x328) 1).svEvent p 0
  let s := if bit (s.reg (svKey p 0x60)) 31 then s
    else (s.setReg (svKey p 0x60) (BitVec.ofNat 32 (code + 16 * c.op + 256 * c.req + 2 ^ 31))).setReg (svKey p 0x64)
      (BitVec.ofNat 32 (if dev = 0 then s.devId else dev))
  if s.smFollow p c.model && s.smEn p c.model && dev != 0 && dev == s.regFld (smKey p c.model 0x18) 16 16 then s.svEvent p 3 else s

/-- A command is performed: its result stands in SV_CMDSTAT, or its refusal is recorded (R595). -/
def State.svDo (s : State) (p : Nat) (src : Option Nat) (c : SvWords) : State :=
  let code := s.svTest p (src.getD 0) c
  let s := match src with
    | none => s.setRegFld (svKey p 0x50) 0 4 code
    | some _ => s
  match code, src with
  | 0, _ => s.svPerform p c
  | _, none => s
  | _, some dev => s.svRefused p dev code c

/-- A command arrives: the unit performs it at once when none stands before it, else it waits its turn (R600). -/
def State.svArrive (s : State) (p : Nat) (src : Option Nat) (c : SvWords) : State :=
  let s := match src with
    | none => ((s.setReg (svKey p 0x40) c.w0).setReg (svKey p 0x44) c.w1 |>.setReg (svKey p 0x48) c.a).setReg (svKey p 0x4C) c.b
    | some _ => s
  if s.svq.isEmpty then s.svDo p src c else { s with svq := s.svq ++ [⟨p, src.getD 0, src.isNone, c.nats⟩] }

/-- A command of the host (`none`) or of the port, from a device: the one at the head of the queue is performed, one behind it waits for
those before it, and one that is not there arrives (R595, R600). -/
def State.svCommand (s : State) (p : Nat) (src : Option Nat) (c : SvWords) : State :=
  let e : SvCmd := ⟨p, src.getD 0, src.isNone, c.nats⟩
  match s.svq with
  | [] => s.svArrive p src c
  | x :: rest => if x = e then { s with svq := rest }.svDo p src c else if rest.contains e then s else s.svArrive p src c

/-- The command a row names; a reserved operation is taken by any (log entry 8). -/
def State.svRow (s : State) (op : Nat) (p : BitVec 6) (src : Option (BitVec 16)) (c : SvWords) : State :=
  if c.op = op ∨ c.op = 0 ∨ 10 < c.op then s.svCommand p.toNat (src.map (·.toNat)) c else s

def execAdmit (p : BitVec 6) (src : Option (BitVec 16)) (w0 w1 a b : Word) (s : State) : Host.Outcome State Fault Refusal :=
  .next (s.svRow 1 p src ⟨w0, w1, a, b⟩)
def execStart (p : BitVec 6) (src : Option (BitVec 16)) (w0 w1 a b : Word) (s : State) : Host.Outcome State Fault Refusal :=
  .next (s.svRow 2 p src ⟨w0, w1, a, b⟩)
def execToken (p : BitVec 6) (src : Option (BitVec 16)) (w0 w1 a b : Word) (s : State) : Host.Outcome State Fault Refusal :=
  .next (s.svRow 3 p src ⟨w0, w1, a, b⟩)
def execHold (p : BitVec 6) (src : Option (BitVec 16)) (w0 w1 a b : Word) (s : State) : Host.Outcome State Fault Refusal :=
  .next (s.svRow 4 p src ⟨w0, w1, a, b⟩)
def execSvResume (p : BitVec 6) (src : Option (BitVec 16)) (w0 w1 a b : Word) (s : State) : Host.Outcome State Fault Refusal :=
  .next (s.svRow 5 p src ⟨w0, w1, a, b⟩)
def execAbort (p : BitVec 6) (src : Option (BitVec 16)) (w0 w1 a b : Word) (s : State) : Host.Outcome State Fault Refusal :=
  .next (s.svRow 6 p src ⟨w0, w1, a, b⟩)
def execRelease (p : BitVec 6) (src : Option (BitVec 16)) (w0 w1 a b : Word) (s : State) : Host.Outcome State Fault Refusal :=
  .next (s.svRow 7 p src ⟨w0, w1, a, b⟩)
def execSetprio (p : BitVec 6) (src : Option (BitVec 16)) (w0 w1 a b : Word) (s : State) : Host.Outcome State Fault Refusal :=
  .next (s.svRow 8 p src ⟨w0, w1, a, b⟩)
def execSelect (p : BitVec 6) (src : Option (BitVec 16)) (w0 w1 a b : Word) (s : State) : Host.Outcome State Fault Refusal :=
  .next (s.svRow 9 p src ⟨w0, w1, a, b⟩)
def execFlush (p : BitVec 6) (src : Option (BitVec 16)) (w0 w1 a b : Word) (s : State) : Host.Outcome State Fault Refusal :=
  .next (s.svRow 10 p src ⟨w0, w1, a, b⟩)

/-! ### Register writes with tests of their own (R592, R609) -/

/-- A write of SV_PART_BASE (o = 8) or SV_PART_NUM (o = 12). -/
def State.svPartWrite (s : State) (p o : Nat) (v : Word) : State :=
  let s' := s.putCode (svKey p o) v
  let rng : State → Nat → Nat × Nat := fun s q => (s.regFld (svKey q 8) 0 16, s.regFld (svKey q 12) 0 17)
  let new := rng s' p
  let old := rng s p
  if (List.range 64).any (fun q => q != p && new.2 != 0 && (rng s q).2 != 0 && overlaps new (rng s q)) || !s.allFree old.1 old.2 || !s.allFree new.1 new.2 then s.svCfgErr p
  else s'

def execSvPartWrite (p : BitVec 6) (num : Bool) (v : Word) (s : State) : Host.Outcome State Fault Refusal :=
  .next (s.svPartWrite p.toNat (if num then 12 else 8) v)

/-- Whether a model may be enabled as it stands (R609). -/
def State.smOk (s : State) (p m : Nat) : Bool :=
  let n := s.regFld (smKey p m 0x18) 0 2
  let ids := [s.regFld (smKey p m 0x1C) 0 16, s.regFld (smKey p m 0x1C) 16 16, s.regFld (smKey p m 0x20) 0 16].take n
  let size := s.smDepth p m * ((32 + 32 * s.smBmax p m + 63) / 64 * 64)
  s.addrOk p (s.reg (smKey p m 8)).toNat && (s.chunks p (s.svAddr p (0x110 + 0x40 * m)) size).isSome &&
    (s.smFollow p m || ids.all fun d => d != 0 && d != 0xFFFF && d != s.devId)

/-- A write of a model's word at offset o; word 0 holds EN. -/
def State.smWrite (s : State) (p m o : Nat) (v : Word) : State :=
  let k := smKey p m o
  let new := s.putCode k v
  if s.smEn p m then
    let s := if (s.reg k) ||| (if o = 0 then 1 else 0) ≠ (new.reg k) ||| (if o = 0 then 1 else 0) then s.svCfgErr p else s
    if o = 0 ∧ !bit v 0 ∧ s.inFlight p m = 0 then s.clrReg k 1 else s
  else if o = 0 ∧ bit v 0 then
    let s := new.clrReg k 1
    if s.smOk p m then (s.orReg k 1).form p m else s.svCfgErr p
  else new

def execSvModelEnable (p : BitVec 6) (m : BitVec 3) (v : Word) (s : State) : Host.Outcome State Fault Refusal :=
  .next (s.smWrite p.toNat m.toNat 0 v)

end Sys2Proof.Machine
end

