-- ==== Sys2Proof/Machine/Fatal.lean ====
section
/-!
DEFINITION. Fatal package errors and the return capture (spec/20 R698-R701).
-/

namespace Sys2Proof.Machine

/-! ### The return capture (R700) -/

/-- Exactly n bytes of a list, zeros after its end. -/
def padTo (n : Nat) (b : List Byte) : List Byte := b.take n ++ List.replicate (n - b.length) 0
def State.w4 (s : State) (k : Nat) : List Byte := leBytes 4 (s.reg k).toNat
def State.ws (s : State) (k n : Nat) : List Byte := (List.range n).flatMap fun i => s.w4 (k + 4 * i)

def State.capHeader (s : State) (seq : Nat) : List Byte :=
  leBytes 4 0x5043524B ++ leBytes 4 seq ++ leBytes 8 s.sclk.toNat ++ leBytes 4 s.fuse.info.toNat ++ leBytes 4 s.fuse.siteMap.toNat ++
    leBytes 4 s.fuse.repair ++ s.w4 0x2000 ++ s.w4 0x2004 ++ leBytes 8 Config.serial ++ leBytes 4 Config.firmware ++
    leBytes 4 (s.objsBoot.get objReset (objKey 0x0110 1))

def plink0 : Nat → PLink := fun _ => PLink.reset
def State.plink (s : State) (j : Nat) : PLink := s.plinks.get plink0 j

def State.capLink (s : State) (j : Nat) : List Byte :=
  padTo 32 (s.ws (0x100 + 0x20 * j) 6 ++ leBytes 4 (s.regFld (0x100 + 0x20 * j) 2 4))

/-- One word of a core (R700). -/
def State.capCore (s : State) (c : Nat) : Nat :=
  let k := s.core c
  k.rs + (if k.tm then 8 else 0) + s.fcause c * 2 ^ 4 + k.cf 0x11 0 5 * 2 ^ 8 + (if bit (k.get 0x11) 31 then 2 ^ 13 else 0) +
    (if k.barw then 2 ^ 14 else 0) + k.pc.toNat / 4 % 2 ^ 13 * 2 ^ 16

/-- The 256 most recent log entries, oldest first. -/
def State.capLog (s : State) : List Byte :=
  let n := (s.reg 0x200C).toNat
  let m := min n 256
  (List.range m).flatMap fun i =>
    match s.elog.get none0 ((n - m + 1 + i) % 512) with
    | some e => (List.range 8).flatMap fun w => leBytes 4 (e.word w)
    | none => List.replicate 32 0

def State.captureBytes (s : State) (seq : Nat) : List Byte :=
  padTo 256 (s.capHeader seq) ++ (List.range 12).flatMap s.capLink ++
    padTo 384 (s.w4 0x20000 ++ s.w4 0x20018 ++ s.w4 0x20024 ++ s.w4 0x20028 ++ s.ws 0x20030 4 ++ s.ws 0x20040 4 ++ s.w4 0x20050 ++
      s.ws 0x10400 16 ++ s.ws 0x10480 16) ++
    padTo 0x2000 s.capLog ++
    (List.range 640).flatMap (fun cl => (List.range 16).flatMap fun i => leBytes 4 (s.capCore (clusterCore cl i))) ++
    (List.range 8).flatMap (fun k =>
      let b := mtKey k
      padTo 128 (leBytes 4 (setBit (s.reg (b + 4)) 3 (s.tileHolds k)).toNat ++ s.ws (b + 0x100) 4 ++ s.ws (b + 0x18) 4)) ++
    (List.range 32).flatMap (fun g =>
      padTo 64 (s.w4 (macKey g 4) ++ s.w4 (fbKey g 0x14) ++ s.ws (macKey g 0x490) 2 ++ s.ws (fbKey g 0x158) 2 ++ s.ws (macKey g 0x4A0) 2)) ++
    padTo 0x3000 (Config.capturePrivate s.freeCtr)

/-- Freeze a capture, unless one is frozen or held (R699, R701). -/
def State.freeze (s : State) : State :=
  if s.capPend.isSome || s.svc.capture.isSome then { s with capRefused := s.capRefused + 1 }
  else { s with capPend := some (s.captureBytes (s.reg 0x200C).toNat), freeCtr := s.freeCtr + 1 }

/-- A fatal package error (R699): logged, captured, the PLLs stopped by FAILED, ELOG in every function, FAILED heartbeats. -/
def State.fatal (s : State) (e : Err) : State :=
  let s := (s.log { e with action := 8, fatal := true }).freeze
  let s := if bit (s.reg 0x2004) 0 then s
    else s.setReg 0x2004 (BitVec.ofNat 32 (1 + e.unit * 2 ^ 8 + e.cause * 2 ^ 16))
  let s := (List.range 64).foldl (fun (s : State) f => s.fnEvt f 1) s
  let s := { s with hourFatals := s.hourFatals + 1 }
  if s.regFld 0xA8000 0 16 = 0 then s else s.heartbeat 2

/-! ### A mesh link (R139) -/

/-- A flit of a link of a cluster failed: `n` flits are replayed; after the eighth replay the link is down. -/
def State.meshNak (s : State) (cl n : Nat) (eighth : Bool) : State :=
  let s := s.bump (clKey cl + 0x48) n
  if eighth then
    let (cause, s) := s.freeVal
    s.fatal { level := 0x24, unit := 3, cause := cause.toNat % 256, action := 8, loc := cl }
  else s

def execMeshNak (cluster flits : Nat) (eighth : Bool) (s : State) : Host.Outcome State Fault Refusal :=
  .next (if cluster < 640 then s.meshNak cluster flits eighth else s)

/-! ### Commands of the capture (R701) -/

def execCaptureFreeze (s : State) : Host.Outcome State Fault Refusal := .next s.freeze

/-- The PF clears the held capture. -/
def State.capClear (s : State) : State := { s with svc := { s.svc with capture := none } }
def execCaptureClear (s : State) : Host.Outcome State Fault Refusal := .next s.capClear

/-- A frozen capture is in flash; the two copies take turns. -/
def State.capWritten (s : State) : State :=
  match s.capPend with
  | none => s
  | some b => { s with capPend := none, svc := { s.svc with capture := some b, copy := 1 - s.svc.copy } }
def execCaptureFlashWrite (s : State) : Host.Outcome State Fault Refusal := .next s.capWritten

end Sys2Proof.Machine
end

