-- ==== Sys2Proof/Machine/Power.lean ====
section
/-!
DEFINITION. Power states and their table, the governor, thermal trip, PLLs, the Shepherd clock, and the event controller as commands
(spec/19).
-/

namespace Sys2Proof.Machine

/-! ### The power-state table (R651, R655, R656, R677) -/

def pstKeys : List Nat := (List.range 28).map fun i => 0x20100 + 4 * i
/-- Word o (0 or 4) of a row in force. -/
def State.pst (s : State) (r o : Nat) : Word := s.reg (bankKey (s.devBank 1) (0x20100 + 8 * r + o))
def State.rowOn (s : State) (r : Nat) : Bool := bit (s.pst r 0) 8
/-- Level of a row: 0 cluster, 1 die, 2 device. -/
def rowLevel (r : Nat) : Nat := if r < 6 then 0 else if r < 10 then 1 else 2

/-- The transition a unit takes part in. -/
def State.moving (s : State) (level unit : Nat) : Option Trans := s.trans.find? fun t => rowLevel t.row == level && t.unit == unit

/-- A transition starts, under the bank active now (R656). -/
def State.begin (s : State) (row unit : Nat) : State :=
  { s with trans := s.trans ++ [⟨row, unit, s.devBank 1, false⟩] }

/-- A wake event meets an entry under way: the wake row fires when it completes (R655). -/
def State.wakeLater (s : State) (level unit : Nat) : State :=
  { s with trans := s.trans.map fun t => if rowLevel t.row == level && t.unit == unit then { t with wake := true } else t }
def State.endMove (s : State) (row unit : Nat) : State :=
  { s with trans := s.trans.filter fun t => !(t.row == row && t.unit == unit) }

/-- Whether the shadow bank of the table is busy (R278, R656). -/
def State.pstBusy (s : State) : Bool := s.trans.any fun t => t.bank != s.devBank 1

/-- A write of PWR_SWAP (R278, R656): every transition that starts after it uses the new bank, as R276 says of a descriptor
(DEDUCED: the banks change roles at the write). -/
def State.pwrSwap (s : State) (pst copy : Bool) : State :=
  if !pst then s
  else if copy then (if s.pstBusy then s.orReg 0x20060 (2 ^ 16) else s.devCopy 1 pstKeys)
  else s.devSwap 1

def execPwrSwapPst (s : State) : Host.Outcome State Fault Refusal := .next (s.pwrSwap true false)
def execPwrSwapCopy (s : State) : Host.Outcome State Fault Refusal := .next (s.pwrSwap true true)

/-- A write of a word of the table (R675): only the shadow bank, and not while it is busy. -/
def State.pstWrite (s : State) (k : Nat) (v : Word) : State :=
  if bit (s.reg 0x2005C) 0 then s
  else if s.pstBusy then s.orReg 0x20060 (2 ^ 16)
  else
    match findBar0 k with
    | some r => let b := bankKey (1 - s.devBank 1) k
                s.setReg b (writeCode r (s.reg b) v)
    | none => s

/-! ### Clusters (R648, R649, R651, R654) -/

def State.clmax (s : State) (cl : Nat) : Nat := s.regFld (0x20200 + 4 * (cl / 16)) (2 * (cl % 16)) 2
def dieClusters (d : Nat) : List Nat := (List.range 640).filter fun cl => clusterDie cl == d

/-- Whether a core leaves its cluster idle: at rest, and its engines and message unit with it (R649). -/
def State.coreIdle (s : State) (c : Nat) : Bool :=
  let k := s.core c
  let rest := k.rs == 0 || k.rs == 4 || (k.rs == 2 && match k.wait with
    | some (.waitq _ _) => true
    | some (.bar _) => true
    | _ => false)
  rest && ((List.range 5).all fun e => let x := k.eng e
                                       x.queue.isEmpty && x.jobs.isEmpty && x.heldRec.isNone) && k.sendq.isEmpty && k.sacc.isEmpty

/-- The core of this device an item on the mesh has still to reach. -/
def State.itemCore (s : State) (x : NetItem) : Option Nat :=
  let at' : Nat → Nat → Option Nat := fun p a => if s.isOwn (addrDev a) then s.toCore p a else none
  match x with
  | .msg m => at' m.part m.dst
  | .grant g => at' g.part g.dst
  | .close c => at' c.part c.dst
  | .refusal r => at' r.part r.dst
  | .req r => if r.space = 0 then at' r.part r.dst else none
  | .rsp r => at' r.part r.dst
  | _ => none

def State.clIdle (s : State) (cl : Nat) : Bool :=
  (List.range 16).all (fun i => s.coreIdle (clusterCore cl i)) &&
    s.net.all fun x => match s.itemCore x with
      | some c => coreCluster c != cl
      | none => true

/-- DR or DI, by whether a cluster of the die is in C0 or wakes to it (rows 6 and 7). -/
def State.dieTouch (s : State) (d : Nat) : State :=
  if s.dieState d = 2 then s
  else
    let up := (dieClusters d).any fun cl => s.clState cl == 0 || match s.moving 0 cl with
      | some t => decide (3 ≤ t.row)
      | none => false
    s.setDieState d (if up then 0 else 1)

/-- The device answers row 9 of a die (rows 11 and 13, R658). -/
def State.devWake (s : State) : State :=
  match s.moving 2 0, s.regFld 0x20000 0 2 with
  | some t, _ => if t.row = 12 then s.wakeLater 2 0 else s
  | none, 0 => s
  | none, 1 => s.toP0
  | none, _ => s.begin 13 0

/-- A die wake event (row 9). -/
def State.dieWake (s : State) (d : Nat) : State :=
  if s.dieState d ≠ 2 then s
  else match s.moving 1 d with
    | some t => if t.row = 8 then s.wakeLater 1 d else s
    | none => ((s.begin 9 d).bump 0x20418 1).devWake

/-- A wake row of a cluster fires (rows 3 to 5); a die in DS wakes first. -/
def State.clWake (s : State) (cl : Nat) : State :=
  let st := s.clState cl
  let d := clusterDie cl
  if st = 0 ∨ 640 ≤ cl then s
  else match s.moving 0 cl with
    | some t => if t.row < 3 then s.wakeLater 0 cl else s
    | none => ((s.begin (2 + st) cl).dieWake d).dieTouch d

/-- What loses its state as a cluster goes off (R648, R682): every core takes a core reset; fences stay. -/
def State.clOff (s : State) (cl : Nat) : State :=
  (List.range 16).foldl (fun (s : State) i => s.coreReset (clusterCore cl i)) s

/-- Instruction memory and its check bits of a core, arbitrary: the state and the bytes are free (R682). -/
def imemFree (c : Nat) (r : State × List Byte) : State :=
  let n := r.1.freeCtr
  { r.1.modCore c fun k =>
      { k.imemWrite 0 r.2 with imemErr := (List.range 6144).foldl (fun m w => Map.set nat0 m w ((Config.freeWord (n + w)).toNat % 3)) [] }
    with freeCtr := n + 6144 }

/-- Instruction memory and its check bits after a wake from C3 are arbitrary (R682). -/
def State.imemLost (s : State) (cl : Nat) : State :=
  (List.range 16).foldl (fun (s : State) i => imemFree (clusterCore cl i) (freeBytes 6144 s)) s

/-- An entry row of a cluster (rows 0 to 2): its state is the deeper one from the start of the entry. -/
def State.clEntry (s : State) (cl row : Nat) : State :=
  if 640 ≤ cl ∨ s.clState cl ≠ row ∨ (s.moving 0 cl).isSome ∨ !s.rowOn row ∨ s.clmax cl ≤ row ∨ !s.clIdle cl then s
  else
    let s := s.begin row cl
    let s := if row = 2 then ((List.range 16).foldl (fun (s : State) i => s.closeStreams (clusterCore cl i)) s).clOff cl else s
    (s.setClState cl (row + 1)).dieTouch (clusterDie cl)

/-- Whether CLMAX allows the state a cluster is in (R654). -/
def State.clDeep (s : State) (cl : Nat) : Bool := decide (s.clmax cl < s.clState cl)

def execClusterC0ToC1 (cl : Nat) (s : State) : Host.Outcome State Fault Refusal := .next (s.clEntry cl 0)
def execClusterC1ToC2 (cl : Nat) (s : State) : Host.Outcome State Fault Refusal := .next (s.clEntry cl 1)
def execClusterC2ToC3 (cl : Nat) (s : State) : Host.Outcome State Fault Refusal := .next (s.clEntry cl 2)
def execClusterC1ToC0 (cl : Nat) (s : State) : Host.Outcome State Fault Refusal := .next (if s.clState cl = 1 then s.clWake cl else s)
def execClusterC2ToC0 (cl : Nat) (s : State) : Host.Outcome State Fault Refusal := .next (if s.clState cl = 2 then s.clWake cl else s)
def execClusterC3ToC0 (cl : Nat) (s : State) : Host.Outcome State Fault Refusal :=
  .next (if s.clState cl = 3 ∧ s.clmax cl ≤ 2 then s.clWake cl else s)

/-- A write of a word of PWR_CLMAX: clusters deeper than they may be wake (R654). -/
def State.clmaxWrite (s : State) (w : Nat) (v : Word) : State :=
  if 40 ≤ w then s
  else (List.range 16).foldl (fun (s : State) i => if s.clDeep (16 * w + i) then s.clWake (16 * w + i) else s) (s.setReg (0x20200 + 4 * w) v)

def execClmaxWrite (w : Nat) (v : Word) (s : State) : Host.Outcome State Fault Refusal := .next (s.clmaxWrite w v)

/-- A write of PWR_CLMAX_BC. -/
def State.clmaxBc (s : State) (v : Word) : State :=
  ((List.range 4).filter fun d => bit v (4 + d)).foldl (fun (s : State) d => (dieClusters d).foldl (fun (s : State) cl =>
    let s := s.setRegFld (0x20200 + 4 * (cl / 16)) (2 * (cl % 16)) 2 (fld v 0 2)
    if s.clDeep cl then s.clWake cl else s) s) s

def execClmaxBc (v : Word) (s : State) : Host.Outcome State Fault Refusal := .next (s.clmaxBc v)

/-! ### Dies and the device (R650-R653, R658) -/

def execDieDiToDs (d : BitVec 2) (s : State) : Host.Outcome State Fault Refusal :=
  let n := d.toNat
  .next (if s.dieState n ≠ 1 ∨ (s.moving 1 n).isSome ∨ !s.rowOn 8 ∨ s.xfwd ∨
      (dieClusters n).any (fun cl => decide (s.clState cl < 2) || (s.moving 0 cl).isSome) then s
    else (s.begin 8 n).setDieState n 2)

def execDieDsToDi (d : BitVec 2) (s : State) : Host.Outcome State Fault Refusal := .next (s.dieWake d.toNat)

/-- The actions of a device row (R652): a STANDBY heartbeat before any port goes down, self-refresh, ports down. -/
def State.actions (s : State) (a : Nat) : State :=
  let s := if a.testBit 2 && s.regFld 0xA8000 0 16 != 0 then s.heartbeat 1 else s
  let s := if a.testBit 0 then s.fuse.tiles.foldl (fun (s : State) t => s.selfRefresh t true) s else s
  if a.testBit 1 then s.portList.foldl (fun (s : State) g => s.linkDrop g) s else s

/-- Row 10, at once. -/
def State.p0ToP1 (s : State) : State :=
  if s.regFld 0x20000 0 2 ≠ 0 ∨ (s.moving 2 0).isSome ∨ !s.rowOn 10 ∨ (List.range 4).any (fun d => s.dieState d != 2) then s
  else
    let a := fld (s.pst 10 4) 0 3
    ({ s.setRegFld 0x20000 0 2 1 with pwrHeld := a }).actions a

def execDeviceP0ToP1 (s : State) : Host.Outcome State Fault Refusal := .next s.p0ToP1

/-- Row 12 fires; P2 is entered when the transition completes. -/
def State.p1ToP2 (s : State) : State :=
  if s.regFld 0x20000 0 2 ≠ 1 ∨ (s.moving 2 0).isSome ∨ !s.rowOn 12 ∨ !bit (s.reg 0x20000) 10 then s
  else
    let s := s.begin 12 0
    let a := fld (s.pst 12 4) 0 3
    ({ s with pwrHeld := s.pwrHeld ||| a }).actions a

def execDeviceP1ToP2 (s : State) : Host.Outcome State Fault Refusal := .next s.p1ToP2

/-- Row 13 fires: a wake pin, an ACTIVE command or a die wake. -/
def execDeviceP2ToP0 (s : State) : Host.Outcome State Fault Refusal := .next (if s.regFld 0x20000 0 2 = 2 then s.devWake else s)

def execStandby (s : State) : Host.Outcome State Fault Refusal := .next (s.orReg 0x20000 (2 ^ 10))
/-- ACTIVE (R658). -/
def State.active (s : State) : State := (s.clrReg 0x20000 (2 ^ 10)).devWake
def execActive (s : State) : Host.Outcome State Fault Refusal := .next s.active

/-- A transition under way completes (R655). -/
def State.moveDone (s : State) (row unit : Nat) : State :=
  match s.trans.find? fun t => t.row == row && t.unit == unit with
  | none => s
  | some t =>
    if row < 3 then
      let s := s.endMove row unit
      if t.wake || s.clDeep unit then s.clWake unit else s
    else if row < 6 then
      if s.dieState (clusterDie unit) = 2 then s
      else
        let s := (s.endMove row unit).setClState unit 0
        (if row = 5 then s.imemLost unit else s).dieTouch (clusterDie unit)
    else if row = 8 then
      let s := s.endMove row unit
      if t.wake then s.dieWake unit else s
    else if row = 9 then ((s.endMove row unit).setDieState unit 1).dieTouch unit
    else if row = 12 then
      let a := fld (s.reg (bankKey t.bank (0x20100 + 8 * 12 + 4))) 0 3
      let s := ((s.endMove row unit).setRegFld 0x20000 0 2 2).clrReg 0x20000 (2 ^ 10)
      let s := ({ s with pwrHeld := a }).evSet 0x20050 16 63
      if t.wake then s.devWake else s
    else (s.endMove row unit).toP0

def execPowerTransitionComplete (row : BitVec 4) (unit : Nat) (s : State) : Host.Outcome State Fault Refusal :=
  .next (s.moveDone row.toNat unit)

/-! ### Power and temperature (R659-R663, R675, R678) -/

/-- A frequency the clocks can have: a multiple of 25 MHz from 450 to 1,000 (R646, R9), as PWR_FMAX takes it from a write or from object
0x1001.01. -/
def fmaxRound (f : Nat) : Nat := max 450 (min 1000 (f / 25 * 25))

def State.pwrEvent (s : State) (b : Nat) : State := s.evSet 0x20050 (2 ^ b) 63
def temp16 (v : BitVec 16) : Int := v.toInt

/-- A thermal trip (R663). -/
def State.thermalTrip (s : State) : State :=
  let (cause, s) := s.freeVal
  ({ s with thermtrip := true, hourTrips := s.hourTrips + 1 }).fatal { level := 0x34, unit := 19, cause := cause.toNat % 256, action := 8 }

/-- The end of a governor period: average power in 0.125 W, and the hottest sensor of each C-die and X-die in 1/16 °C. -/
def State.governor (s : State) (power : BitVec 16) (dies xdies : List (BitVec 16)) : State :=
  let xs := xdies.take s.fuse.xdies.length
  let tj := (dies.take 4 ++ xs).foldl (fun (m : BitVec 16) t => if temp16 m < temp16 t then t else m) (dies.headD 0)
  let s := (s.setReg 0x20024 (power.setWidth 32)).setReg 0x20028 (tj.setWidth 32)
  let s := (List.range 4).foldl (fun (s : State) d => s.setReg (0x20030 + 4 * d) ((dies.getD d 0).setWidth 32)) s
  let s := (List.range 4).foldl (fun (s : State) j => s.setReg (0x20040 + 4 * j) ((xs.getD j 0).setWidth 32)) s
  let t := temp16 tj
  let thr : Int := 16 * (s.regFld 0x20020 0 8 : Int)
  let cap := 8 * s.regFld 0x20010 0 10
  let hyst := 8 * s.regFld 0x2001C 8 8
  let fmax := s.regFld 0x20014 0 11
  let f := s.regFld 0x20018 0 11
  let duty := s.regFld 0x20018 16 5
  let dutyMin := min 16 (max 1 (s.regFld 0x2001C 16 5))
  let us := 10 * max 1 (s.regFld 0x2001C 0 8)
  let s := if bit (s.reg 0x20018) 24 then s.bump 0x20408 us else s
  let s := if bit (s.reg 0x20018) 25 then s.bump 0x20410 us else s
  let hot := decide (thr ≤ t)
  let above := decide (cap < power.toNat)
  let mark : State → State := fun s =>
    let s := s.bump 0x20400 1
    let s := if above then (s.orReg 0x20018 (2 ^ 24)).pwrEvent 0 else s
    if hot then (s.orReg 0x20018 (2 ^ 25)).pwrEvent 1 else s
  let s : State :=
    if hot || above then
      if 450 < f then (mark s).setRegFld 0x20018 0 11 (max 450 (f - 25))
      else if dutyMin < duty then (mark s).setRegFld 0x20018 16 5 (duty - 1)
      else if s.capMiss then s else { s with capMiss := true }.pwrEvent 3
    else if t < thr - 32 ∧ power.toNat + hyst < cap then
      if duty < 16 then { s.setRegFld 0x20018 16 5 (duty + 1) with capMiss := false }
      else if f < fmax then { s.setRegFld 0x20018 0 11 (f + 25) with capMiss := false }
      else s
    else s
  let s := if fmax < s.regFld 0x20018 0 11 then s.setRegFld 0x20018 0 11 fmax else s
  let s := if s.regFld 0x20018 0 11 = fmax ∧ s.regFld 0x20018 16 5 = 16 then s.clrReg 0x20018 (2 ^ 24 + 2 ^ 25) else s
  let s := if 105 * 16 ≤ t then s.pwrEvent 2 else s
  let s := (List.range 4).foldl (fun (s : State) d => s.evcSample (66 + d)) s
  -- a reading of 115 °C or more trips, if no trip stands (R663)
  let s := if 115 * 16 ≤ t ∧ !s.thermtrip then s.thermalTrip else s
  { s.setReg 0x20010 (BitVec.ofNat 32 (s.obj 0x1000 1)) with hourHot := s.hourHot || decide (95 * 16 < t) }

def execGovernorPeriod (power : BitVec 16) (dies xdies : List (BitVec 16)) (s : State) : Host.Outcome State Fault Refusal :=
  .next (s.governor power dies xdies)

/-- A write of PWR_FMAX or PWR_THR: rounded, and ignored outside its range (R675). -/
def State.fmaxWrite (s : State) (v : Word) : State :=
  let f := fld v 0 11
  if 450 ≤ f ∧ f ≤ 1000 then s.setReg 0x20014 (BitVec.ofNat 32 (fmaxRound f)) else s
def State.thrWrite (s : State) (v : Word) : State :=
  let t := fld v 0 8
  if 85 ≤ t ∧ t ≤ 100 then s.setReg 0x20020 (BitVec.ofNat 32 t) else s

def execThermalTrip (s : State) : Host.Outcome State Fault Refusal := .next s.thermalTrip

/-! ### Clocks (R645-R647) -/

/-- A C-die PLL loses lock: its clock stops with all state kept. -/
def State.pllLoss (s : State) (d : Nat) : State :=
  if s.dieState d = 2 ∨ s.pllLost.testBit d then s else { s with pllLost := s.pllLost + 2 ^ d }.evcSample (66 + d)

def execPllLoss (d : BitVec 2) (s : State) : Host.Outcome State Fault Refusal := .next (s.pllLoss d.toNat)

/-- The restarted PLL relocks in time, or the loss is fatal. -/
def State.pllRelock (s : State) (d : Nat) (ok : Bool) : State :=
  if !s.pllLost.testBit d then s
  else
    let (cause, s) := s.freeVal
    let e : Err := { level := if ok then 0x33 else 0x34, unit := 19, cause := cause.toNat % 256, action := 0, loc := d }
    if ok then ({ s with pllLost := s.pllLost - 2 ^ d }.pwrEvent 6).log e else s.fatal e

def execPllRelock (d : BitVec 2) (ok : Bool) (s : State) : Host.Outcome State Fault Refusal := .next (s.pllRelock d.toNat ok)

/-! ### The event controller (R664-R670, R679) -/

def State.evcPrio (s : State) (n : Nat) : Nat := s.regFld (0x10000 + 4 * (n / 4)) (8 * (n % 4)) 8
def State.evcEn (s : State) (n : Nat) : Bool := bit (s.reg (0x10440 + 4 * (n / 32))) (n % 32)
def State.evcPend (s : State) (n : Nat) : Bool := bit (s.reg (evcPendKey n)) (n % 32)
/-- Active sources. -/
def State.evcActives (s : State) : List Nat := (List.range 512).filter s.evcActive
/-- The class in service. -/
def State.evcService (s : State) : Option Nat :=
  s.evcActives.foldl (fun (m : Option Nat) n => some (max (m.getD 0) (s.evcClass.get nat0 n))) none

def State.evcClaimable (s : State) (svc : Option Nat) (n : Nat) : Bool :=
  let p := s.evcPrio n
  s.evcPend n && s.evcEn n && p != 0 && match svc with
    | none => true
    | some c => decide (c < p >>> s.regFld 0x10600 0 3)

/-- The source a claim returns: the highest priority, and among equals the lowest number (R667). -/
def State.evcBest (s : State) : Option Nat :=
  let svc := s.evcService
  (List.range 512).foldl (fun (b : Option Nat) n =>
    if s.evcClaimable svc n then
      match b with
      | none => some n
      | some m => if s.evcPrio m < s.evcPrio n then some n else b
    else b) none

def State.evcReq (s : State) : Bool := s.evcBest.isSome

/-- A read of EVC_CLAIM by the Shepherd core. -/
def State.claim (s : State) : State :=
  match s.evcBest with
  | none => { s with out := s.out ++ [OutItem.claim 0x3FF] }
  | some n =>
    let s := (s.clrReg (evcPendKey n) (2 ^ (n % 32))).orReg (evcActiveKey n) (2 ^ (n % 32))
    { s with evcClass := s.evcClass.set nat0 n (s.evcPrio n >>> s.regFld 0x10600 0 3), out := s.out ++ [OutItem.claim n] }

def execEvcClaim (s : State) : Host.Outcome State Fault Refusal := .next s.claim

/-- A write of EVC_COMPLETE by the Shepherd core (R668). -/
def State.complete (s : State) (n : Nat) : State :=
  if 512 ≤ n ∨ !s.evcActive n then s.orReg 0x1060C 2
  else
    let s := s.clrReg (evcActiveKey n) (2 ^ (n % 32))
    ({ s with evcClass := s.evcClass.set nat0 n 0 }).evcSample n

def execEvcComplete (n : BitVec 10) (s : State) : Host.Outcome State Fault Refusal := .next (s.complete n.toNat)

/-- The line of an event pin from its filtered level (R670). -/
def State.pinLine (s : State) (n : Nat) : State :=
  let k := 0x10700 + 4 * n
  let old := bit (s.reg k) 10
  let new := s.pins.testBit n == bit (s.reg k) 9
  let s := s.setReg k (setBit (s.reg k) 10 new)
  let s := if bit (s.reg k) 8 then (if new && !old then s.evcSetPend n else s) else s.evcSample n
  if new && !old && bit (s.reg 0x20008) n && s.regFld 0x20000 0 2 == 2 then s.devWake else s

/-- A filtered event pin takes a level. -/
def State.pinSet (s : State) (n : Nat) (level : Bool) : State :=
  ({ s with pins := if s.pins.testBit n == level then s.pins else if level then s.pins + 2 ^ n else s.pins - 2 ^ n }).pinLine n

def execEventPin (n : BitVec 3) (level : Bool) (s : State) : Host.Outcome State Fault Refusal := .next (s.pinSet n.toNat level)

/-- A write of EVC_PINn. -/
def State.pinWrite (s : State) (n : Nat) (v : Word) : State := (s.putCode (0x10700 + 4 * n) v).pinLine n

/-! ### The Shepherd clock (R645, R674) -/

/-- Whether the Shepherd core has work: the request line, a queued request, or boot. -/
def State.shpWork (s : State) : Bool :=
  s.evcReq || !s.dapq.isEmpty || s.dapWrite.isSome || (s.regFld 0x2000 0 4 != 15 && !bit (s.reg 0x2000) 5 && !bit (s.reg 0x2004) 0)
/-- LOCKING of SHP_CLK. -/
def State.shpLocking (s : State) : Bool := s.shpWork && !bit (s.reg 0x1008) 0

def execShepherdIdleExpiry (s : State) : Host.Outcome State Fault Refusal := .next (if s.shpWork then s else s.clrReg 0x1008 1)
def execShepherdPllLocked (s : State) : Host.Outcome State Fault Refusal := .next (if s.shpLocking then s.orReg 0x1008 1 else s)

end Sys2Proof.Machine
end

