-- ==== Sys2Proof/Machine/Service.lean ====
section
/-!
DEFINITION. Package links, resets, boot, the repair record as boot applies it, JTAG and test modes, and the lifetime counters
(spec/01 R22-R27; spec/20 R682-R708).
-/

namespace Sys2Proof.Machine

/-! ### Package links (R22-R27, R48) -/

def linkKey (j : Nat) : Nat := 0x100 + 0x20 * j
/-- Data lanes of a direction; two spares stand beside them. -/
def linkData (j : Nat) : Nat := if j < 4 then 64 else 32
def State.linkState (s : State) (j : Nat) : Nat := s.regFld (linkKey j) 0 2
/-- STATE takes a value; a change sets CHG and its source. -/
def State.setLinkState (s : State) (j v : Nat) : State :=
  if s.linkState j = v then s else ((s.setRegFld (linkKey j) 0 2 v).orReg (linkKey j) (2 ^ 16)).evcSample (8 + j)
def State.setPlink (s : State) (j : Nat) (x : PLink) : State := { s with plinks := s.plinks.set plink0 j x }
def PLink.err (x : PLink) (ba : Bool) : Map Nat := if ba then x.errBA else x.errAB
def PLink.out (x : PLink) (ba : Bool) : List Nat := if ba then x.outBA else x.outAB
def PLink.setErr (x : PLink) (ba : Bool) (m : Map Nat) : PLink := if ba then { x with errBA := m } else { x with errAB := m }
def PLink.setOut (x : PLink) (ba : Bool) (l : List Nat) : PLink := if ba then { x with outBA := l } else { x with outAB := l }

/-- A retraining starts; one already under way goes on. -/
def State.retrain (s : State) (j : Nat) : State := if 12 ≤ j then s else s.setLinkState j 1

/-- A CRC error on a lane of a link: `n` flits are replayed; `fourth` says one flit has now been replayed four times without success. -/
def State.linkCrc (s : State) (j : Nat) (ba : Bool) (lane n : Nat) (fourth : Bool) : State :=
  if 12 ≤ j ∨ linkData j + 2 ≤ lane then s
  else
    let x := s.plink j
    let e := satAdd (2 ^ 32 - 1) ((x.err ba).get nat0 lane) 1
    let s := s.setPlink j (x.setErr ba ((x.err ba).set nat0 lane e))
    let s := (s.bump (linkKey j + 8) 1).bump (linkKey j + 16) n
    let th := s.regFld (linkKey j + 4) 0 8
    if fourth || (th != 0 && decide (th ≤ e)) then s.retrain j else s

def execNak (j : BitVec 4) (ba : Bool) (lane flits : Nat) (fourth : Bool) (s : State) : Host.Outcome State Fault Refusal :=
  .next (s.linkCrc j.toNat ba lane flits fourth)
def execRetrain (j : BitVec 4) (s : State) : Host.Outcome State Fault Refusal := .next (s.retrain j.toNat)

/-- The width a direction has: 2 full, 3 half, 0 down. -/
def laneWidth (j : Nat) (out : List Nat) : Nat :=
  if out.length ≤ 2 then 2 else if linkData j / 2 ≤ linkData j + 2 - out.length then 3 else 0

/-- A lane goes out of service: logged, and kept in the repair record (R26, R694, R695). -/
def State.laneOut (s : State) (j : Nat) (ba : Bool) (lane : Nat) : State :=
  let x := s.plink j
  if lane ∈ x.out ba ∨ linkData j + 2 ≤ lane then s
  else
    let (cause, s) := s.freeVal
    let s := s.setPlink j (x.setOut ba (x.out ba ++ [lane]))
    let s := s.log { level := 0x33, unit := 0, cause := cause.toNat % 256, action := 4, loc := j, d1 := lane + if ba then 128 else 0 }
    s.repairAppend [1, BitVec.ofNat 8 j, BitVec.ofNat 8 (lane + if ba then 128 else 0), 0, 0, 0, 0, 0]

/-- The state a link has with the lanes that are left; half width is a die error of the dies it joins, passed up to the package (R27, R664). -/
def State.linkSettle (s : State) (j : Nat) : State :=
  let x := s.plink j
  let a := laneWidth j x.outAB
  let b := laneWidth j x.outBA
  let v := if a = 0 ∨ b = 0 then 0 else if a = 3 ∨ b = 3 then 3 else 2
  let s := s.setRegFld (linkKey j) 2 2 (min 2 x.outAB.length)
  let s := (s.setRegFld (linkKey j) 4 2 (min 2 x.outBA.length)).setLinkState j v
  let (cause, s) := s.freeVal
  let e : Err := { level := 0x34, unit := 0, cause := cause.toNat % 256, action := 0, loc := j }
  if v = 0 then s.fatal e
  else if v = 3 then
    let s := (List.range 4).foldl (fun (s : State) d => if j ∈ dieLinks d then s.evcSample (66 + d) else s) s
    if s.obj 0x7010 1 = 1 then s.fatal e else s.log e
  else s

/-- Retraining ends (R26, R27): lanes that failed training and lanes at the threshold go out of service. -/
def State.retrained (s : State) (j : Nat) (failAB failBA : List Nat) : State :=
  if 12 ≤ j ∨ s.linkState j ≠ 1 then s
  else
    let th := s.regFld (linkKey j + 4) 0 8
    let worn : Bool → List Nat := fun ba => (((s.plink j).err ba).filter fun e => th != 0 && decide (th ≤ e.2)).map (·.1)
    let s := (failAB ++ worn false).foldl (fun (s : State) l => s.laneOut j false l) s
    let s := (failBA ++ worn true).foldl (fun (s : State) l => s.laneOut j true l) s
    (s.setPlink j { s.plink j with errAB := [], errBA := [] }).linkSettle j

def execRetrainingComplete (j : BitVec 4) (failAB failBA : List Nat) (s : State) : Host.Outcome State Fault Refusal :=
  .next (s.retrained j.toNat failAB failBA)

/-! ### Resets (R682-R685) -/

/-- A package reset: only fuses and flash survive (R684). The queue of commands and the record of outputs are the model's own. -/
def State.packageReset (s : State) : State :=
  { State.fresh s.fuse s.svc s.objs s.repairRec (s.obj 0x1000 1) (fmaxRound (s.obj 0x1001 1)) (s.obj 0x1003 1) with
    pending := s.pending, freeCtr := s.freeCtr, out := s.out }

def execPowerOn (s : State) : Host.Outcome State Fault Refusal := .next s.packageReset
/-- PORST_N has been low for 10 µs. -/
def execPorstN (s : State) : Host.Outcome State Fault Refusal := .next s.packageReset
/-- The supplies fall (R715): what flash had completed stays. -/
def execPowerLoss (s : State) : Host.Outcome State Fault Refusal := .next s.packageReset

/-- A package reset by SHP_RST (1) or object 0x0140.02 (2): logged, a STANDBY heartbeat, the reset (R685, R727). -/
def State.resetBy (s : State) (how : Nat) : State :=
  let s := s.log { level := 0x44, unit := 0, cause := 3, action := 0, d1 := how }
  let h := if s.regFld 0xA8000 0 16 = 0 then s else s.heartbeat 1
  let last := (h.net.drop s.net.length).filterMap fun x => match x with
    | .wyn w => some (OutItem.lastFrame w)
    | _ => none
  { h with out := h.out ++ last }.packageReset

/-- A write of SHP_RST by the PF. -/
def State.shpRst (s : State) (v : Word) : State :=
  if v = 0x5A5A then s.resetBy 1 else s.log { level := 0x44, unit := 0, cause := 2, action := 7, d1 := v.toNat }

def execShpRst (v : Word) (s : State) : Host.Outcome State Fault Refusal := .next (s.shpRst v)
def execPackageResetObject (s : State) : Host.Outcome State Fault Refusal := .next (s.resetBy 2)

/-- PERST# is asserted: a package reset, or a reset of the host link and of every function (R682). -/
def State.perst (s : State) : State :=
  if s.obj 0x0140 1 = 1 then s.packageReset else { s.fnReset 0 with fns := [], hostLink := none }

def execPerst (s : State) : Host.Outcome State Fault Refusal := .next s.perst

/-! ### The repair record (R693) -/

/-- An entry that names nothing, or an alias refused, is logged. -/
def State.repairLog (s : State) (d : Nat) : State :=
  let (cause, s) := s.freeVal
  s.log { level := 0x44, unit := 0, cause := cause.toNat % 256, action := 0, d1 := d }

def State.repairEntry (s : State) (i : Nat) (e : List Byte) : State :=
  let kind := byteAt e 0 % 16
  if kind = 1 then
    let j := byteAt e 1
    let lane := byteAt e 2 % 128
    if 12 ≤ j ∨ linkData j + 2 ≤ lane then s.repairLog i else (s.laneOut j (128 ≤ byteAt e 2) lane).linkSettle j
  else if kind = 2 then
    let cl := leAt e 2 2
    let idx := byteAt e 1
    if 640 ≤ cl ∨ 16 ≤ idx then s.repairLog i
    else if s.isFenced (clusterCore cl idx) then s.repairLog i
    else
      let s := s.fence (clusterCore cl idx) 6
      let a := byteAt e 4
      if a < 128 then s
      else
        let v := BitVec.ofNat 32 (a % 128 + 256)
        if s.aliasBad cl idx v then s.repairLog i else s.setAlias cl idx v
  else s.repairLog i

/-- Applied at stage 7; the record itself does not grow by it. -/
def State.repairApply (s : State) : State :=
  let s' := (List.range s.repairRec.length).foldl (fun (t : State) i => t.repairEntry i (s.repairRec.getD i [])) s
  { s' with repairRec := s.repairRec }

/-! ### Boot (R686-R692) -/

def slot0 : Nat → Option Nat := fun _ => none
def State.slotSvn (s : State) (k : Nat) : Option Nat := s.svc.slots.get slot0 k
/-- Whether a slot may boot (R688). -/
def State.slotOk (s : State) (k : Nat) : Bool := match s.slotSvn k with
  | some v => decide (s.svc.minSvn ≤ v)
  | none => false

/-- The slot the ROM boots: the higher SVN, slot A among equals. -/
def State.bootSlot (s : State) : Option Nat :=
  match s.slotOk 0, s.slotOk 1 with
  | true, true => some (if (s.slotSvn 0).getD 0 < (s.slotSvn 1).getD 0 then 1 else 0)
  | true, false => some 0
  | false, true => some 1
  | false, false => none

def State.bootErr (s : State) (e : Nat) : State := s.setRegFld 0x2000 8 8 e
/-- Recovery mode (R692). -/
def State.recovery (s : State) (e : Nat) : State := (s.bootErr e).orReg 0x2000 (2 ^ 5)

/-- Stage 1: the headers are read and a slot chosen. -/
def State.bootRom (s : State) : State :=
  let s := s.setRegFld 0x2000 0 4 1
  if s.svc.provs < s.svc.unlocks then s.recovery 7
  else match s.bootSlot with
    | some k => s.setRegFld 0x2000 4 1 k
    | none => s.recovery (if (s.slotSvn 0).isSome ∨ (s.slotSvn 1).isSome then 2 else 1)

/-- Stage 3: RWP objects are read; a record that fails its check takes its default and is logged (R618). -/
def State.bootObjs (s : State) (bad : List Nat) : State :=
  let s := bad.foldl (fun (s : State) k => { s with objs := s.objs.set objReset k (objReset k) }.repairLog k) s
  let s := { s with objsBoot := s.objs }
  let s := (s.setReg 0x20010 (BitVec.ofNat 32 (s.obj 0x1000 1))).setReg 0x20014 (BitVec.ofNat 32 (fmaxRound (s.obj 0x1001 1)))
  s.setReg 0x20020 (BitVec.ofNat 32 (s.obj 0x1003 1))

/-- Links of a stage train. -/
def State.trainAll (s : State) (l : List Nat) : State := l.foldl (fun (s : State) j => s.setLinkState j 2) s

/-- A boot failure 3 to 5 (R691). -/
def State.bootFatal (s : State) (e : Nat) : State :=
  (s.bootErr e).fatal { level := 0x44, unit := 0, cause := e, action := 8 }

/-- The work of the stage that completes; `err` is a failure of R691 found in it, `bad` the RWP objects whose records fail. -/
def State.bootWork (s : State) (stage err : Nat) (bad : List Nat) : State :=
  match stage with
  | 3 => s.bootObjs bad
  | 4 =>
    let s := { s.trainAll (s.fuse.tiles.map (4 + ·)) with mem := [], memErr := [] }
    let s := s.fuse.tiles.foldl (fun (s : State) t => s.orReg (mtKey t + 4) 1) s
    if err = 3 then s.bootFatal 3 else s
  | 5 =>
    let s := s.trainAll (s.fuse.xdies.map (4 + ·))
    if err = 4 then s.bootFatal 4 else s
  | 6 =>
    let s := (s.trainAll (List.range 4)).setReg 0x20018 (BitVec.ofNat 32 (s.regFld 0x20014 0 11 + 2 ^ 20))
    if err = 5 then s.bootFatal 5 else s
  | 7 => if err = 6 then (s.bootErr 6).log { level := 0x44, unit := 0, cause := 6, action := 0 } else s.repairApply
  | _ => s

/-- A boot stage completes; after a fatal failure boot stops at stage 8. -/
def State.bootStage (s : State) (err : Nat) (bad : List Nat) : State :=
  let st := s.regFld 0x2000 0 4
  if bit (s.reg 0x2000) 5 ∨ st = 15 ∨ (st = 8 ∧ bit (s.reg 0x2004) 0) then s
  else if st = 0 then s.bootRom
  else if st = 8 then s.setRegFld 0x2000 0 4 15
  else (s.setRegFld 0x2000 0 4 (st + 1)).bootWork (st + 1) err bad

def execBootStageComplete (err : Byte) (bad : List Nat) (s : State) : Host.Outcome State Fault Refusal :=
  .next (s.bootStage err.toNat bad)

/-- Firmware has not reached stage 3 within 2 s: the other slot, once (R688). -/
def State.bootWatchdog (s : State) : State :=
  let other := 1 - s.regFld 0x2000 4 1
  if 3 ≤ s.regFld 0x2000 0 4 ∨ bit (s.reg 0x2000) 5 ∨ s.bootRetry ∨ !s.slotOk other then s
  else { (s.setRegFld 0x2000 0 4 1).setRegFld 0x2000 4 1 other with bootRetry := true }

def execBootWatchdog (s : State) : Host.Outcome State Fault Refusal := .next s.bootWatchdog

/-! ### JTAG (R702-R704) -/

/-- An instruction that takes the pins from the device's functions: fatal (R703). -/
def State.jtagPins (s : State) (code : Nat) : State :=
  ({ s with jtag := code }).fatal { level := 0x44, unit := 0, cause := 1, action := 8 }

def execExtest (s : State) : Host.Outcome State Fault Refusal := .next (s.jtagPins 0)
def execClamp (s : State) : Host.Outcome State Fault Refusal := .next (s.jtagPins 4)
def execHighz (s : State) : Host.Outcome State Fault Refusal := .next (s.jtagPins 5)
def execExtestPulse (s : State) : Host.Outcome State Fault Refusal := .next (s.jtagPins 6)
def execExtestTrain (s : State) : Host.Outcome State Fault Refusal := .next (s.jtagPins 7)

/-- The identification register (R702, R725). -/
def Fuse.idcode (f : Fuse) : Nat := f.stepping % 16 * 2 ^ 28 + 0x4610 * 2 ^ 12 + 0xC57

def execIdcode (s : State) : Host.Outcome State Fault Refusal :=
  .next { s with jtag := 1, out := s.out ++ [OutItem.jtag s.fuse.idcode] }
def execSamplePreload (s : State) : Host.Outcome State Fault Refusal := .next { s with jtag := 2 }

/-- BYPASS, or a code R702 does not list: a locked test mode acts as BYPASS. -/
def execBypass (code : Byte) (s : State) : Host.Outcome State Fault Refusal :=
  .next (if code.toNat ∈ [0, 1, 2, 4, 5, 6, 7, 0x20, 0x21] then s else { s with jtag := code.toNat })

/-- A challenge with a fresh nonce of eight free words; zeros once 15 unlocks are used; not within 1 s of a failed response. -/
def State.tchal (s : State) : State :=
  let s := { s with jtag := 0x20 }
  let soon := match s.respAt with
    | some t => decide (s.sclk.toNat < t + 25000000)
    | none => false
  if soon then s
  else if 15 ≤ s.svc.unlocks then { s with out := s.out ++ [OutItem.jtag 0] }
  else
    let n := s.freeCtr
    let nonce := (List.range 8).foldl (fun a i => a + (Config.freeWord (n + i)).toNat * 2 ^ (32 * i)) 0
    { s with freeCtr := n + 8, challenge := true,
             out := s.out ++ [OutItem.jtag (Config.serial % 2 ^ 64 + nonce * 2 ^ 64 + s.svc.unlocks * 2 ^ 320)] }

def execTchal (s : State) : Host.Outcome State Fault Refusal := .next s.tchal

/-- A response: whether its signature verifies, and whether the fuse increment is verified (R704). -/
def State.tresp (s : State) (ok fuse : Bool) : State :=
  let s' := { s with jtag := 0x21, challenge := false }
  if s.challenge && ok && decide (s.svc.unlocks < 15) then
    if fuse then { s' with unlocked := true, svc := { s.svc with unlocks := s.svc.unlocks + 1 } } else s'
  else { s' with respFails := satAdd (2 ^ 32 - 1) s.respFails 1, respAt := some s.sclk.toNat }

def execTresp (ok fuse : Bool) (s : State) : Host.Outcome State Fault Refusal := .next (s.tresp ok fuse)

/-! ### Service life (R705, R708) -/

/-- The SVN of the running image. -/
def State.runSvn (s : State) : Option Nat := s.slotSvn (s.regFld 0x2000 4 1)

/-- Object 0x0105.02: whether the value is one it accepts. -/
def State.svnOk (s : State) (v : Nat) : Bool := s.runSvn == some v
/-- The fused minimum rises to the running image's SVN, at most 64 times. -/
def State.svnRaise (s : State) (v : Nat) : State :=
  if s.svnOk v ∧ s.svc.minSvn < v ∧ s.svc.raises < 64 then { s with svc := { s.svc with minSvn := v, raises := s.svc.raises + 1 } } else s

def execSvnRaise (v : Word) (s : State) : Host.Outcome State Fault Refusal := .next (s.svnRaise v.toNat)

/-- An hour of powered time has passed. -/
def State.lifeHour (s : State) : State :=
  let add : Map Nat → Nat → Nat → Map Nat := fun m i d => m.set nat0 i (satAdd (2 ^ 32 - 1) (m.get nat0 i) d)
  let m := add s.svc.life 1 1
  let m := if s.hourHot then add m 2 1 else m
  let m := if s.regFld 0x20000 0 2 = 0 then add m 3 1 else m
  let m := add (add m 4 s.hourTrips) 5 s.hourFatals
  { s with svc := { s.svc with life := m }, hourHot := false, hourTrips := 0, hourFatals := 0 }

def execLifetimeHour (s : State) : Host.Outcome State Fault Refusal := .next s.lifeHour

end Sys2Proof.Machine
end

