-- ==== Sys2Proof/Machine/RegAccess.lean ====
section
/-!
DEFINITION. Reads and writes of the registers of BAR0 by the PF and by VFs, with the effects the chapters give single registers
(spec/00 R13-R17, spec/01 R40-R44, spec/16 R588-R590, spec/18 R637-R640, spec/19 R671), and of the MSI-X tables and configuration
registers of a function (spec/16 R557-R559, R578).
-/

namespace Sys2Proof.Machine

/-! ### What a function sees at an offset (R40, R41) -/

/-- What a BAR0 offset leads to: no register, a register hidden from the function, or a register by its key, that the function may
write or not. -/
inductive BarPlace where
  | absent
  | hidden
  | found (key : Nat) (readOnly : Bool)
  deriving DecidableEq, Repr

/-- Whether the unit a block belongs to is present: ports and M-tiles (R41). The device registers of FB_ stand in block 0. -/
def State.unitHere (s : State) (off : Nat) : Bool :=
  if off < 0x100000 then true
  else if off < 0x200000 then decide (0x104000 ≤ off ∧ off < 0x108000) || decide ((off - 0x100000) / 0x8000 ∈ s.portList)
  else if off < 0x300000 then decide ((off - 0x200000) / 0x8000 ∈ s.portList)
  else if off < 0x500000 then s.fuse.hasTile (off % 0x100000 / 0x20000)
  else true

/-- A block of a partition's own, at the place of partition 0's. -/
def ownPlace (f base size off : Nat) : BarPlace := if off - base < size then .found (off + size * f) false else .hidden

/-- The update engine's window in a VF (R361). -/
def State.uePlace (s : State) (f off : Nat) : BarPlace :=
  let o := (off - 0x400000) % 0x20000
  let g := fun (base size : Nat) =>
    if (off - base) / size < s.grpNum f then BarPlace.found (off + size * s.grpBase f) false else .hidden
  if o = 0 ∨ (0x100 ≤ o ∧ o < 0x128) then .found off true
  else if 0x1000 ≤ o ∧ o < 0x1010 then .found (off + 0x10 * f) false
  else if 0x422000 ≤ off ∧ off < 0x422040 then
    if off = 0x422000 then .found (off + 0x40 * f) true else .found (off + 0x40 * f) false
  else if 0x424000 ≤ off ∧ off < 0x426000 then g 0x424000 0x20
  else if 0x426000 ≤ off ∧ off < 0x426400 then g 0x426000 4
  else if 0x427000 ≤ off ∧ off < 0x427800 then .found off true
  else if 0x428000 ≤ off ∧ off < 0x42A000 then g 0x428000 0x20
  else .hidden

/-- The registers a VF sees (R40, R155, R327, R361, R398, R451, R488, R493, R548, R588, R608, R637). -/
def State.vfPlace (s : State) (f off : Nat) : BarPlace :=
  if off < 0x10000 then
    if off = 0 then .found off true else if 0x8000 ≤ off then .found (fnKey f off) false else .hidden
  else if off < 0x40000 then .hidden
  else if off < 0x50000 then
    if (off - 0x40000) / 8 < s.qpNum f then .found (off + 8 * s.qpBase f) false else .hidden
  else if off < 0x70000 then
    if (off - 0x50000) / 0x40 < s.qpNum f then .found (off + 0x40 * s.qpBase f) false else .hidden
  else if off < 0x80000 then if 0x78000 ≤ off ∧ off < 0x7F000 then .hidden else .found (fnKey f off) false
  else if off < 0x90000 then ownPlace f 0x80000 0x400 off
  else if off < 0xA0000 then
    let c := (off - 0x91000) / 0x80
    if off < 0x91000 then .hidden
    else if s.rdPart c = f then .found off (!(off % 0x80 ∈ [0, 0x44, 0x50])) else .hidden
  else if off < 0xB0000 then ownPlace f 0xA0000 0x200 off
  else if off < 0xC0000 then
    if off = 0xB0008 ∨ off = 0xB000C then .found (off + 0x400 * f) true else ownPlace f 0xB0000 0x400 off
  else if off < 0xD0000 then if s.fdPart ((off - 0xC0000) / 0x400) = f then .found off false else .hidden
  else if off < 0x200000 then
    let o := off % 0x8000
    if off = 0x104100 then .found (off + 4 * f) true
    else if o = 0x14 ∨ (0x100 ≤ o ∧ o < 0x160) then .found off true else .hidden
  else if off < 0x300000 then
    let o := off % 0x8000
    if o = 4 ∨ o = 0x28 ∨ 0x400 ≤ o then .found off true else .hidden
  else if off < 0x400000 then .hidden
  else if off < 0x500000 then s.uePlace f off
  else
    let n := (off - 0x800000) / 0x1000
    let r := s.rect f
    if n / 32 < r.nr ∧ n % 32 < r.nc ∧ off % 0x1000 ≠ 0x50 then
      .found (clKey ((n / 32 + r.cr) * 32 + n % 32 + r.cc) + off % 0x1000) true
    else .hidden

/-- What BAR0 offset `off` leads to in function f. -/
def State.barPlace (s : State) (f off : Nat) : BarPlace :=
  match findBar0 off with
  | none => .absent
  | some _ => if !s.unitHere off then .absent else if f = 0 then .found off false else s.vfPlace f off

/-! ### Values computed when they are read -/

def b32 (l : List Bool) : Word := BitVec.ofNat 32 ((List.range l.length).map fun i => if l.getD i false then 2 ^ i else 0).sum

/-- UE_STAT of a tile (R361). -/
def State.ueStat (s : State) (t : Nat) : Word :=
  let aps := s.applies.filterMap (·.2)
  let tiles := (aps.flatMap (·.tiles)).filter fun u => u.tile == t
  let copies := ((aps.flatMap (·.copies)) ++ s.reemits.filterMap (·.2)).filter fun c => c.tile == t
  b32 [tiles.any (fun u => !u.ended) || (aps.flatMap (·.copies)).any (fun c => c.tile == t), tiles.any (fun u => u.wait && !u.ended),
    copies.any (fun c => c.out != 0), tiles.any (·.lost)]

/-- ST_BALLOT: the flags gathered for the oldest ballot that has not been sent (R327). -/
def State.ballotFlags (s : State) (p : Nat) : Nat :=
  let x := s.stCtl p
  let go : Option OpenStep → Nat := fun y => match y with
    | some y => s.ownFlags p y ||| (s.heldBallots p y).flags
    | none => 0
  if s.sa p = 1 then go x.a else if s.sb p = 1 then go x.b else 0

/-- EVC_STAT (R679). -/
def State.evcStat (s : State) : Word :=
  let svc := s.evcService
  BitVec.ofNat 32 ((if s.evcReq then 1 else 0) + 2 * s.regFld 0x1060C 1 1 + 2 ^ 16 * svc.getD 0 + if svc.isSome then 2 ^ 24 else 0)

/-- The word of a banked register that a selector shows: 0 the shadow bank, 1 the active bank. -/
def State.banked (s : State) (kind k : Nat) (active : Bool) : Word :=
  s.reg (bankKey (if active then s.devBank kind else 1 - s.devBank kind) k)

/-- UE_SEL.BANK of partition p. -/
def State.ueSel (s : State) (p : Nat) : Bool := bit (s.reg (uePart p 0x24)) 0

/-- What moves in time moves before a read (log entry 5): the credit of a shaper and the quanta a port was held (R449, R450). -/
def State.barTick (s : State) (k : Nat) : State :=
  let g := (k - 0x200000) / 0x8000
  let m := (k - 0x200000) % 0x8000
  if k < 0x200000 ∨ 0x300000 ≤ k then s
  else if 0x80 ≤ m ∧ m < 0x100 ∧ m % 16 = 8 then s.creditTick g ((m - 0x80) / 16)
  else if m = 0x468 ∨ m = 0x46C then s.heldTick g
  else s

/-- A SHP_ register (R45-R48, R674, R697, R707). -/
def State.shpPeek (s : State) (k : Nat) : Word :=
  if k = 0 then s.fuse.info
  else if k = 4 then s.fuse.siteMap
  else if k = 8 then BitVec.ofNat 32 s.fuse.repair
  else if k = 0x1000 then s.sclk.setWidth 32
  else if k = 0x1004 then (s.sclk >>> 32).setWidth 32
  else if k = 0x1008 then setBit (s.reg k) 1 s.shpLocking
  else if 0x4000 ≤ k ∧ k < 0x8000 then
    match s.elog.get none0 ((k - 0x4000) / 32) with
    | some e => BitVec.ofNat 32 (e.word (k % 32 / 4))
    | none => 0
  else s.reg k

/-- The register with key k as function f reads it, before its access codes. -/
def State.barPeek (s : State) (f k : Nat) : Word :=
  if k < 0x8000 then s.shpPeek k
  else if k < 0x10000 then s.reg k
  else if k < 0x20000 then
    if 0x104C0 ≤ k ∧ k < 0x10500 then b32 ((List.range 32).map fun b => s.evcLine (8 * (k - 0x104C0) + b))
    else if k = 0x10500 then b32 ((List.range 8).map s.evcEdge)
    else if k = 0x10604 then 0x3FF
    else if k = 0x1060C then s.evcStat
    else s.reg k
  else if k < 0x30000 then
    if k = 0x20060 then setBit (s.reg k) 0 s.pstBusy
    else if 0x20100 ≤ k ∧ k < 0x20170 then s.banked 1 k (bit (s.reg 0x2005C) 0)
    else s.reg k
  else if k < 0x80000 then
    if 0x78000 ≤ k ∧ k < 0x7F000 ∧ k % 0x20 = 0xC then setBit (s.reg k) 8 (s.idle ((k - 0x78000) / 0x20)) else s.reg k
  else if k < 0x90000 then if k % 0x400 = 0x28 then BitVec.ofNat 32 (s.ballotFlags ((k - 0x80000) / 0x400)) else s.reg k
  else if k < 0xA0000 then s.reg k
  else if k < 0xA8000 then
    let p := (k - 0xA0000) / 0x200
    if k % 0x200 = 4 then s.reg k ||| b32 (List.replicate 8 false ++ (List.range 8).map (s.mirWaits p)) else s.reg k
  else if k < 0xB0000 then s.reg k
  else if k < 0xC0000 then
    let p := (k - 0xB0000) / 0x400
    let o := k % 0x400
    let m := (o - 0x100) / 0x40
    if 0xA0 ≤ o ∧ o < 0xC4 then BitVec.ofNat 32 (s.reqWord (s.req p (s.regFld (svKey p 0x80) 0 17)) ((o - 0xA0) / 4))
    else if 0x100 ≤ o ∧ o < 0x300 then
      let run := (List.range (s.svNum p)).filter fun r => (s.req p r).state == 3 && (s.req p r).model == m
      if o % 0x40 = 0x28 then
        BitVec.ofNat 32 (s.inFlight p m % 16 +
          if !s.smFollow p m && s.smEn p m && !(s.readyOf p m).isEmpty && decide (s.inFlight p m < s.smDepth p m) &&
            !s.mayForm p m && bit (s.reg (svKey p 0)) 0 then 16 else 0)
      else if o % 0x40 = 0x2C then BitVec.ofNat 32 (s.readyOf p m).length
      else if o % 0x40 = 0x30 then BitVec.ofNat 32 run.length
      else s.reg k
    else s.reg k
  else if k < 0xD0000 then
    let c := (k - 0xC0000) / 0x400
    let x := s.feed c
    if k % 0x400 = 0x38 then
      setBit (s.reg k) 1 (match x.waiting.head? with
        | some r => !s.canPlace c r.num
        | none => false)
    else s.reg k
  else if k < 0x200000 then
    let g := (k - 0x100000) / 0x8000
    let o := (k - 0x100000) % 0x8000
    if k = 0x104004 ∨ o = 4 ∨ o = 8 ∨ o = 12 then s.banked 0 k (bit (s.reg 0x10401C) 0)
    else if k = 0x104000 then setBit (s.reg k) 8 s.xfwd
    else if o = 0x14 then s.reg k ||| BitVec.ofNat 32 (2 * min 4096 (((s.port g).links.map fun l => l.2.sent.length).sum))
    else s.reg k
  else if k < 0x300000 then
    let g := (k - 0x200000) / 0x8000
    if (k - 0x200000) % 0x8000 = 0x28 then
      let x := s.port g
      let xoff := s.regFld (macKey g 0x20) 16 8 * 4096
      b32 ((List.range 8).map fun p => decide (xoff < x.occ p)) ||| BitVec.ofNat 32 (2 ^ 16 * min 16384 ((x.occ 8 + 31) / 32))
    else
      let m := (k - 0x200000) % 0x8000
      if 0x80 ≤ m ∧ m < 0x100 ∧ m % 16 = 8 then BitVec.ofInt 32 (((s.port g).credit.get int0 ((m - 0x80) / 16)).tdiv 400000)
      else s.reg k
  else if k < 0x400000 then
    if k % 0x20000 = 4 then setBit (s.reg k) 3 (s.tileHolds ((k - 0x300000) / 0x20000)) else s.reg k
  else if k < 0x500000 then
    let t := (k - 0x400000) / 0x20000
    let o := k % 0x20000
    if o = 0 then s.ueStat t
    else if o = 0x20 then BitVec.ofNat 32 (s.runFree t)
    else if 0x422000 ≤ k ∧ k < 0x423000 then
      let p := (k - 0x422000) / 0x40
      if k % 0x40 = 4 ∨ k % 0x40 = 8 then s.banked (crvKind p) k (s.ueSel p) else s.reg k
    else if 0x424000 ≤ k ∧ k < 0x426000 then s.banked (grpKind ((k - 0x424000) / 0x20)) k (s.ueSel f)
    else if 0x427000 ≤ k ∧ k < 0x427800 then
      if k % 0x40 = 0x2C then
        let b := if s.ueSel f then s.devBank 2 else 1 - s.devBank 2
        setBit 0 31 (s.rowValid b ((k - 0x427000) / 0x40))
      else s.banked 2 k (s.ueSel f)
    else s.reg k
  else s.reg k

/-- A high half of a counter or of the time base (R671, R673). -/
def hiHalf (k : Nat) (r : RegDesc) : Bool :=
  k == 0x1004 || (r.rd == 0x8000FFFF && r.w1c == 0x80000000 && !decide (0x104100 ≤ k ∧ k < 0x104200))

/-- A read of a register by function f, under its access codes (R13, R671). -/
def State.barRead (s : State) (f k : Nat) : State × Word :=
  match findBar0 (k % 0x2000000) with
  | none => (s, 0)
  | some r =>
    match s.latch.get none0 k with
    | some v => ({ s with latch := s.latch.set none0 k none }, v)
    | none =>
      let s := s.barTick k
      let v := s.barPeek f k
      if hiHalf k r then ({ s with latch := s.latch.set none0 (k - 4) (some (s.barPeek f (k - 4))) }, readCode r v)
      else (s, readCode r v)

/-! ### Writes -/

/-- The source of the event controller an event register or its enables belong to (R664). -/
def evSource (k : Nat) : Option Nat :=
  let f := k / 0x2000000
  let o := k % 0x2000000
  let two := fun (base stride first : Nat) => if (o - base) % stride < 8 then some (first + (o - base) / stride) else none
  if 0x100 ≤ o ∧ o < 0x280 then if o % 0x20 = 0 then some (8 + (o - 0x100) / 0x20) else none
  else if o = 0x20050 ∨ o = 0x20054 then some 63
  else if o = 0x70008 ∨ o = 0x7000C then some (320 + f)
  else if 0x80084 ≤ o ∧ o < 0x90000 then two 0x80084 0x400 128
  else if o = 0x90000 ∨ o = 0x90004 then some 61
  else if 0xA0020 ≤ o ∧ o < 0xA8000 then two 0xA0020 0x200 256
  else if o = 0xA8008 ∨ o = 0xA800C then some 62
  else if 0xB0054 ≤ o ∧ o < 0xC0000 then two 0xB0054 0x400 384
  else if 0xC0000 ≤ o ∧ o < 0xD0000 then if o % 0x400 = 0x38 then some (448 + (o - 0xC0000) / 0x400) else none
  else if o = 0x104020 ∨ o = 0x104024 then some 60
  else if 0x200038 ≤ o ∧ o < 0x300000 then two 0x200038 0x8000 28
  else if 0x300028 ≤ o ∧ o < 0x400000 then two 0x300028 0x20000 20
  else if 0x42201C ≤ o ∧ o < 0x423000 then two 0x42201C 0x40 192
  else none

/-- A write under the access codes alone; an event source is sampled again, and clearing SAT clears its counter (R13, R665, R671). -/
def State.plainWrite (s : State) (k : Nat) (v : Word) : State :=
  match findBar0 (k % 0x2000000) with
  | none => s
  | some r =>
    if hiHalf k r then (if bit v 31 then (s.setReg k 0).setReg (k - 4) 0 else s)
    else
      let s := s.setReg k (writeCode r (s.reg k) v)
      match evSource k with
      | some src => s.evTouch src
      | none => s

/-- A write of SHP_MBX_CTL: GO queues the request that stands in the request buffer (R638-R640). -/
def State.mbxCtl (s : State) (f : Nat) (v : Word) : State :=
  let k := fnKey f 0x8000
  let st := fnKey f 0x8004
  let busy := bit (s.reg st) 0
  let s := s.setReg k (v &&& 0x27FF#32)
  let n := fld v 0 11
  let msg := ((List.range 260).flatMap fun i => leBytes 4 (s.reg (fnKey f (0x8800 + 4 * i))).toNat).take n
  if !bit v 12 then s
  else if busy then s.orReg st 4
  else if n < 16 ∨ 1040 < n ∨ n ≠ 16 + leAt msg 2 2 then s.orReg st 8
  else { (s.clrReg st 2).orReg st 1 with dapq := s.dapq ++ [(⟨DapSrc.mbx f, msg⟩ : DapReq)] }.evcSample 65

/-- A write of SHP_MBX_STAT; clearing DONE ends the source's due state. -/
def State.mbxStat (s : State) (f : Nat) (v : Word) : State :=
  let s := s.plainWrite (fnKey f 0x8004) v
  if bit v 1 then s.setFn f { s.fn f with dueMbx := false } else s

def State.shpWrite (s : State) (f o : Nat) (v : Word) : State :=
  let k := fnKey f o
  if 0x100 ≤ o ∧ o < 0x280 ∧ o % 0x20 = 4 then
    let s := s.plainWrite k v
    if bit v 8 then s.retrain ((o - 0x100) / 0x20) else s
  else if o = 0x2008 then s.shpRst v
  else if o = 0x8000 then s.mbxCtl f v
  else if o = 0x8004 then s.mbxStat f v
  else if 0x8800 ≤ o ∧ o < 0x8C10 ∧ bit (s.reg (fnKey f 0x8004)) 0 then s.orReg (fnKey f 0x8004) 4
  else s.plainWrite k v

/-- The event controller and the power registers (R669, R675, R680). -/
def State.pwrWrite (s : State) (k : Nat) (v : Word) : State :=
  if 0x10700 ≤ k ∧ k < 0x10720 then s.pinWrite ((k - 0x10700) / 4) v
  else if k = 0x20004 then
    if fld v 0 2 = 1 then s.orReg 0x20000 (2 ^ 10) else if fld v 0 2 = 2 then s.active else s
  else if k = 0x20014 then s.fmaxWrite v
  else if k = 0x20020 then s.thrWrite v
  else if k = 0x20058 then s.pwrSwap (bit v 0) (bit v 31)
  else if 0x20100 ≤ k ∧ k < 0x20170 then s.pstWrite k v
  else if 0x20200 ≤ k ∧ k < 0x202A0 then s.clmaxWrite ((k - 0x20200) / 4) v
  else if k = 0x202A0 then s.clmaxBc v
  else s.plainWrite k v

/-- The partition that owns a queue pair, and the queue's local number. -/
def State.queueOwner (s : State) (q : Nat) : Option (Nat × Nat) :=
  ((List.range 64).find? fun p => decide (s.qpBase p ≤ q) && decide (q < s.qpBase p + s.qpNum p)).map fun p => (p, q - s.qpBase p)

/-- The host interface (R567, R568, R576, R588-R590). A vector whose source comes due by a new assignment is sent. -/
def State.hiWrite (s : State) (k : Nat) (v : Word) : State :=
  let f := k / 0x2000000
  let o := k % 0x2000000
  if o < 0x50000 then
    match s.queueOwner ((o - 0x40000) / 8) with
    | none => s.badDoorbell 0 o
    | some (p, q) => if o % 8 = 0 then s.sqDoorbell p q v.toNat else s.cqDoorbell p q v.toNat
  else if o < 0x70000 then
    match s.queueOwner ((o - 0x50000) / 0x40) with
    | none => s
    | some (p, q) =>
      if o % 0x40 = 8 then s.sqCfgWrite p q v
      else if o % 0x40 = 0x14 then (s.plainWrite k v).sendDue p
      else s.plainWrite k v
  else if o < 0x78000 then if o < 0x70008 then (s.plainWrite k v).sendDue f else s.plainWrite k v
  else if o < 0x7F000 then
    let p := (o - 0x78000) / 0x20
    if o % 0x20 < 0xC then s.partWrite p (o % 0x20 / 4) v else s.plainWrite k v
  else s.plainWrite k v

/-- The step controller (R327). -/
def State.stWrite (s : State) (k : Nat) (v : Word) : State :=
  let p := (k - 0x80000) / 0x400
  let o := k % 0x400
  if o = 8 then s.stCmd p (fld v 0 4)
  else if o = 0xC ∨ o = 0x20 ∨ (0x30 ≤ o ∧ o < 0x6C) then if s.stepOpen p then s.cmdErr p else s.plainWrite k v
  else if o = 0 then (s.plainWrite k v).vote p
  else s.plainWrite k v

/-- The reduction channels (R398, R400): while EN is 1 a write of any register but CFG, SEED and CMD, status bits among them, is ignored
and sets CFGERR. -/
def State.rdRegWrite (s : State) (pf : Bool) (k : Nat) (v : Word) : State :=
  if k < 0x91000 then s.plainWrite k v
  else
    let c := (k - 0x91000) / 0x80
    let o := k % 0x80
    if o = 0 then s.rdCfgWrite pf c v
    else if o = 0x50 then s.rdCmd c v
    else if o = 0x44 then s.plainWrite k v
    else if s.rdEn c then s.rdCfgErr c
    else s.plainWrite k v

/-- Comet (R549-R554). -/
def State.cmRegWrite (s : State) (k : Nat) (v : Word) : State :=
  if k < 0xA8000 then
    let p := (k - 0xA0000) / 0x200
    let o := k % 0x200
    if o = 0 then s.cmCtlWrite p v
    else if o = 8 then if fld v 0 4 = 1 then s.restore p else s.cmStat p 16
    else if 0x40 ≤ o ∧ o < 0xC0 then s.cmWinWrite p ((o - 0x40) / 16) (o % 16 / 4) v
    else s.plainWrite k v
  else if 0xA8040 ≤ k ∧ k < 0xA8080 ∧ k % 8 = 0 then s.hbWatchWrite ((k - 0xA8040) / 8) v
  else if 0xA8100 ≤ k ∧ k < 0xA8500 ∧ (k - 0xA8100) % 0x40 < 16 then
    s.cmHostWrite ((k - 0xA8100) / 0x40) ((k - 0xA8100) % 0x40 / 4) v
  else s.plainWrite k v

/-- The serving unit (R595, R601, R608, R609): the write of SV_CMD3 performs the command. -/
def State.svRegWrite (s : State) (k : Nat) (v : Word) : State :=
  let p := (k - 0xB0000) / 0x400
  let o := k % 0x400
  if o = 0 then
    let s := s.plainWrite k v
    let s := if bit v 1 then s.svInit p else s
    if bit v 0 then s.formAll p else s
  else if o = 8 ∨ o = 0xC then s.svPartWrite p o v
  else if 0x40 ≤ o ∧ o < 0x4C then s.setReg k v
  else if o = 0x4C then s.svArrive p none ⟨s.reg (svKey p 0x40), s.reg (svKey p 0x44), s.reg (svKey p 0x48), v⟩
  else if 0x100 ≤ o ∧ o < 0x300 then s.smWrite p ((o - 0x100) / 0x40) (o % 0x40) v
  else s.plainWrite k v

/-- The feed channels (R487, R493): while EN is 1 only CFG, SEED and the counters are written. -/
def State.fdRegWrite (s : State) (pf : Bool) (k : Nat) (v : Word) : State :=
  let c := (k - 0xC0000) / 0x400
  let o := k % 0x400
  if o = 0 then s.fdCfgWrite c pf v
  else if o = 0x34 ∨ 0x100 ≤ o then s.plainWrite k v
  else if s.fdOn c then s.fdErr c
  else s.plainWrite k v

/-- The fabric (R471, R472, R488, R489, R492). -/
def State.fbRegWrite (s : State) (k : Nat) (v : Word) : State :=
  let g := (k - 0x100000) / 0x8000
  let o := (k - 0x100000) % 0x8000
  if k = 0x104018 then s.fbSwap (bit v 0) (bit v 31)
  else if 0x104100 ≤ k ∧ k < 0x104200 then s.domWrite ((k - 0x104100) / 4) v
  else if k = 0x104004 ∨ o = 4 ∨ o = 8 ∨ o = 12 then
    if bit (s.reg 0x10401C) 0 ∨ (k = 0x104004 ∧ fld v 0 16 = 0xFFFF) then s
    else s.putCode (bankKey (1 - s.devBank 0) k) v
  else if o = 0 then
    let s := s.plainWrite k v
    if bit v 3 then s.rstLrt g else s
  else s.plainWrite k v

/-- The ports (R428, R431, R443, R451-R457). -/
def State.macRegWrite (s : State) (k : Nat) (v : Word) : State :=
  let g := (k - 0x200000) / 0x8000
  let o := (k - 0x200000) % 0x8000
  if o = 0 then
    let s' := s.plainWrite k v
    let s := if bit v 0 != bit (s.reg k) 0 then s'.macEnable g (bit v 0) else s'
    if bit v 3 then s.flushQueues g else s
  else if o = 0x10 then if fld v 0 14 < 1518 ∨ 9600 < fld v 0 14 then s else s.plainWrite k v
  else if o = 0x20 then
    (s.plainWrite k v).pauseSet g
  else if o = 0x2C then
    let s := s.plainWrite k v
    if bit v 3 then s.anRestart g else s
  else if o = 0x30 then s.xmodeWrite (g / 8) v
  else if 0x80 ≤ o ∧ o < 0x100 then s.cbsWrite g ((o - 0x80) / 16) (o % 16 / 4) v
  else s.plainWrite k v

/-- The M-tiles (R502, R515). -/
def State.mtRegWrite (s : State) (k : Nat) (v : Word) : State :=
  let t := (k - 0x300000) / 0x20000
  let o := k % 0x20000
  if 0x400 ≤ o ∧ o < 0x500 then s.regionWrite t ((o - 0x400) / 16) (o % 16 / 4) v else s.plainWrite k v

/-- The update engine (R337, R343, R349, R358, R361-R364, R536). The row table is the PF's. -/
def State.ueRegWrite (s : State) (pf : Bool) (f k : Nat) (v : Word) : State :=
  let t := (k - 0x400000) / 0x20000
  let o := k % 0x20000
  if 0x100C ≤ o ∧ o < 0x1400 ∧ o % 16 = 12 then
    let p := (o - 0x1000) / 16
    let s := if bit v 4 then s.clrReg k 16 else s
    if bit v 0 then s.ueArm t p else s.ueDisarm t p
  else if 0x422000 ≤ k ∧ k < 0x423000 then
    let p := (k - 0x422000) / 0x40
    let q := k % 0x40
    if q = 0 then (if pf then s.pgrpWrite p v else s)
    else if q = 4 ∨ q = 8 then
      if s.ueSel p then s else s.putCode (bankKey (1 - s.devBank (crvKind p)) k) v
    else if q = 0xC then s.ueSwap p pf (bit v 0) (bit v 1) (bit v 31)
    else if q = 0x14 then
      if fld v 0 4 = 1 then s.reemit p (fld v 4 17) else if fld v 0 4 = 2 then s.reapply p else s
    else s.plainWrite k v
  else if 0x424000 ≤ k ∧ k < 0x426000 then
    let kind := grpKind ((k - 0x424000) / 0x20)
    if s.ueSel f then s else s.putCode (bankKey (1 - s.devBank kind) k) v
  else if 0x427000 ≤ k ∧ k < 0x427800 then
    if s.ueSel f then s else s.putCode (bankKey (1 - s.devBank 2) k) v
  else s.plainWrite k v

/-- The clusters (R141, R155, R541, R555). -/
def State.muRegWrite (s : State) (k : Nat) (v : Word) : State :=
  let cl := (k - 0x800000) / 0x1000
  let o := k % 0x1000
  if o < 0x40 then s.setAlias cl (o / 4) v else if o = 0x50 then s.clFenceWrite cl v else s.plainWrite k v

/-- A write of the register with key k by function f. -/
def State.barWrite (s : State) (f k : Nat) (v : Word) : State :=
  let o := k % 0x2000000
  let pf := f == 0
  -- a VF uses bits [5:0] and [17:12] of HI_FN_VEC only (R588)
  let v := if !pf && o == 0x70000 then v &&& 0x3F03F#32 else v
  if o < 0x10000 then s.shpWrite f o v
  else if o < 0x30000 then s.pwrWrite k v
  else if o < 0x80000 then s.hiWrite k v
  else if o < 0x90000 then s.stWrite k v
  else if o < 0xA0000 then s.rdRegWrite pf k v
  else if o < 0xB0000 then s.cmRegWrite k v
  else if o < 0xC0000 then s.svRegWrite k v
  else if o < 0x100000 then s.fdRegWrite pf k v
  else if o < 0x200000 then s.fbRegWrite k v
  else if o < 0x300000 then s.macRegWrite k v
  else if o < 0x400000 then s.mtRegWrite k v
  else if o < 0x500000 then s.ueRegWrite pf f k v
  else s.muRegWrite k v

/-! ### BAR0 accesses (R16, R41) -/

/-- One aligned 32-bit access of function f to BAR0. A 32-bit access of a doorbell is the only one it takes (R568). -/
def State.bar0One (s : State) (f off : Nat) (write : Bool) (v : Word) : State × Word :=
  if 0x1000000 ≤ off ∧ off < 0x1400000 then s.winOne f ((off - 0x1000000) / 0x40000) (off % 0x40000) write v
  else
    match s.barPlace f off with
    | .absent => (s.badAccess f off 4 write 2, 0)
    | .hidden => (s.badAccess f off 4 write 3, 0)
    | .found k ro => if write then (if ro then s else s.barWrite f k v, 0) else s.barRead f k

/-- An access of function f to BAR0. Doorbells take 32 bits only (R568). -/
def State.bar0 (s : State) (f off : Nat) (write : Bool) (size : Nat) (v : DWord) : State :=
  if size = 8 ∧ 0x40000 ≤ off ∧ off < 0x50000 then (s.badAccess f off size write 1).answer f write (List.replicate 8 0)
  else s.access f off write size v fun s o w => s.bar0One f o write w

/-! ### BAR4 and configuration space (R557, R559, R578, R582) -/

/-- A 32-bit word of BAR4: the MSI-X table, then the PBA (R559). -/
def State.bar4One (s : State) (f off : Nat) (write : Bool) (v : Word) : State × Word :=
  let x := s.fn f
  let n := State.vectors f
  let pba := if f = 0 then 0x8000 else 0x800
  if off < 16 * n then
    if write then
      let y := { x with table := x.table.set msixWord0 (off / 4) v }
      let s := s.setFn f y
      (if off % 16 = 12 ∧ x.vecMask (off / 16) ∧ !y.vecMask (off / 16) then s.unmask f (some (off / 16)) else s, 0)
    else (s, x.table.get msixWord0 (off / 4))
  else if pba ≤ off ∧ off < pba + n / 8 ∧ !write then (s, b32 ((List.range 32).map fun b => x.pbaBit (8 * (off - pba) + b)))
  else (s, 0)

/-- The host link has trained by the time a request arrives: its width and speed are free among those of R556 (R690). -/
def State.linkTrain (s : State) : State :=
  match s.hostLink with
  | some _ => s
  | none =>
    let (v, s) := s.freeVal
    { s with hostLink := some ([16, 8, 4, 2, 1].getD (v.toNat % 5) 16, v.toNat / 5 % 5 + 1) }

/-- The configuration registers (R557, R725), in words of the model's own numbers (log entry 23): 0 MSI-X control, 1 power management, 2 SR-IOV
control with VF Enable in bit 0 and NumVFs in [21:16], 3 IDs, 4 revision and class, 5 subsystem, 6 command with Bus Master in bit 2,
7 and 8 device capabilities and control, 9 and 10 the second pair, 11 link control and status, 12 to 14 AER uncorrectable status, mask and
severity, 15 and 16 correctable status and mask, 17 and 18 serial number, 19 TotalVFs and InitialVFs, 20 First VF Offset and VF Stride,
21 VF device ID, 22 ARI, 23 LTR latencies, 24 data link feature. -/
def State.cfgRead (s : State) (f w : Nat) : Word :=
  let x := s.fn f
  let pf := f == 0
  let dev := 0x4610 + s.fuse.variant
  let only : Bool → Nat → Word := fun on n => if on then BitVec.ofNat 32 n else 0
  match w with
  | 0 => BitVec.ofNat 32 (State.vectors f - 1 + b2n x.fnMask (2 ^ 14) + b2n x.msixEn (2 ^ 15))
  | 1 => BitVec.ofNat 32 (b2n x.d3hot 3 + 8 + b2n x.pmeEn (2 ^ 8) + b2n x.pmeStatus (2 ^ 15))
  | 2 => if pf then x.cfgWord 2 else 0
  | 3 => if pf then BitVec.ofNat 32 (0x1F6D + dev * 2 ^ 16) else 0xFFFFFFFF#32
  | 4 => BitVec.ofNat 32 (s.fuse.stepping % 256 + 0x120000 * 2 ^ 8)
  | 5 => BitVec.ofNat 32 (0x1F6D + s.objsBoot.get objReset (objKey 0x0106 1) * 2 ^ 16)
  | 6 => BitVec.ofNat 32 (b2n x.busMaster 4)
  | 7 => BitVec.ofNat 32 (2 + 2 ^ 5 + 2 ^ 15 + 2 ^ 28)
  | 8 => x.cfgWord 8
  | 9 => BitVec.ofNat 32 (0xF + 2 ^ 16 + 2 ^ 17 + b2n pf (2 ^ 11))
  | 10 => x.cfgWord 10
  | 11 => BitVec.ofNat 32 ((x.cfgWord 11).toNat + (match s.hostLink with
      | some (n, sp) => n * 2 ^ 20 + sp * 2 ^ 16
      | none => 2 ^ 27))
  | 12 | 13 | 14 | 15 | 16 => x.cfgWord w
  | 17 => BitVec.ofNat 32 Config.serial
  | 18 => BitVec.ofNat 32 (Config.serial / 2 ^ 32)
  | 19 => only pf (63 + 63 * 2 ^ 16)
  | 20 => only pf (1 + 2 ^ 16)
  | 21 => only pf ((dev + 8) * 2 ^ 16)
  | 23 => if pf then x.cfgWord 23 else 0
  | 24 => BitVec.ofNat 32 (1 + 2 ^ 31)
  | _ => 0

/-- VF Enable and NumVFs: NumVFs changes only while VF Enable is 0, and recovery refuses VF Enable (R582, R692). -/
def State.sriovWrite (s : State) (v : Word) : State :=
  let x := s.fn 0
  let on := bit (x.cfgWord 2) 0
  if !bit v 0 then
    let s := if on then s.vfDisable else s
    s.setFn 0 ((s.fn 0).setCfg 2 (if on then x.cfgWord 2 &&& 0x3F0000#32 else v &&& 0x3F0000#32))
  else if on ∨ bit (s.reg 0x2000) 5 then s
  else
    let s := s.setFn 0 (x.setCfg 2 (v &&& 0x3F0001#32))
    (List.range (fld v 16 6)).foldl (fun (s : State) i => s.setFn (i + 1) { s.fn (i + 1) with enabled := true }) s

def State.cfgWrite (s : State) (f w : Nat) (v : Word) : State :=
  let x := s.fn f
  let keep : Word → State := fun m => s.setFn f (x.setCfg w (v &&& m))
  let w1c : State := s.setFn f (x.setCfg w (x.cfgWord w &&& ~~~v))
  match w with
  | 0 =>
    let s := s.setFn f { x with msixEn := bit v 15, fnMask := bit v 14 }
    if x.fnMask && !bit v 14 then s.sendPba f else s.sendDue f
  | 1 =>
    let s := s.setFn f { x with pmeEn := bit v 8, pmeStatus := x.pmeStatus && !bit v 15 }
    if fld v 0 2 = 3 ∧ !x.d3hot then s.d3hot f
    else if fld v 0 2 = 0 ∧ x.d3hot then s.toD0 f
    else s
  | 2 => if f = 0 then s.sriovWrite v else s
  | 6 => s.setBusMaster f (bit v 2)
  | 8 =>
    let ctl := if 2 < fld v 5 3 then setFld v 5 3 (fld (x.cfgWord 8) 5 3) else v
    let ctl := if 5 < fld v 12 3 then setFld ctl 12 3 (fld (x.cfgWord 8) 12 3) else ctl
    if bit v 15 then s.fnReset f else s.setFn f (x.setCfg 8 (ctl &&& 0x7FFF#32))
  | 10 => keep (if f = 0 then 0x141F#32 else 0x101F#32)
  | 11 => keep 2
  | 12 | 15 => w1c
  | 13 | 14 | 16 => keep 0xFFFFFFFF#32
  | 23 => if f = 0 then keep 0x1FFF1FFF#32 else s
  | _ => s

/-- A configuration request: retried until the host interface opens (R690); a function that is not enabled takes none. -/
def State.cfgAccess (s : State) (f size : Nat) (act : State → State) : State :=
  let s := s.linkTrain
  if !s.hostOpen 0 then { s with out := s.out ++ [OutItem.retry f] }
  else if (s.fn f).enabled ∧ size = 4 then act s
  else s

/-! ### The commands -/

/-- A write of a register by function f: space 0 is BAR0, 1 BAR4, 2 configuration space. -/
def execRegisterWrite (f : BitVec 6) (space : BitVec 2) (off size : Nat) (v : DWord) (s : State) : Host.Outcome State Fault Refusal :=
  let f := f.toNat
  .next (match space.toNat with
    | 0 => if s.decodes f then s.bar0 f off true size v else s
    | 1 => if s.decodes f ∧ size = 4 ∧ off % 4 = 0 then (s.bar4One f off true (v.setWidth 32)).1 else s
    | _ => s.cfgAccess f size fun s => s.cfgWrite f off (v.setWidth 32))

/-- A read of a register by function f; its data is the newest of the outputs. -/
def execRegisterRead (f : BitVec 6) (space : BitVec 2) (off size : Nat) (s : State) : Host.Outcome State Fault Refusal :=
  let f := f.toNat
  .next (match space.toNat with
    | 0 => if s.decodes f then s.bar0 f off false size 0 else s
    | 1 => if s.decodes f ∧ size = 4 ∧ off % 4 = 0 then s.answer f false (leBytes 4 (s.bar4One f off false 0).2.toNat) else s
    | _ => s.cfgAccess f size fun s => s.answer f false (leBytes 4 (s.cfgRead f off).toNat))

end Sys2Proof.Machine
end

