-- ==== Sys2Proof/Machine/Objects.lean ====
section
/-!
DEFINITION. The objects of the Parameter Dictionary: which exist in a view, their attributes, and the values they read as (spec/18
R611-R617, R629, R641, R642, spec/09 R365, spec/14 R519, spec/16 R591, spec/17 R610, spec/19 R681, spec/20 R692, R697, R708).
-/

namespace Sys2Proof.Machine

/-- The attributes of an object (R612). ACCESS: 0 RO, 1 RW, 2 WO, 3 RWP; `lim` holds MIN and MAX where they apply. -/
structure Obj where
  typ : Nat
  acc : Nat
  size : Nat
  pfw : Bool := false
  part : Bool := false
  banked : Bool := false
  atReset : Bool := false
  unit : Option Nat := none
  dflt : Nat := 0
  lim : Option (Nat × Nat) := none
  deriving DecidableEq, Repr

/-- Bytes of a type of fixed size (R613). -/
def typeSize (t : Nat) : Nat :=
  if t = 1 ∨ t = 2 ∨ t = 6 then 1 else if t = 3 ∨ t = 7 then 2 else if t = 5 ∨ t = 9 then 8 else 4

def ro (t : Nat) (unit : Option Nat) : Obj := { typ := t, acc := 0, size := typeSize t, unit := unit }
def rwObj (t : Nat) (unit : Option Nat) (dflt : Nat) : Obj := { typ := t, acc := 1, size := typeSize t, unit := unit, dflt := dflt }
def woObj (t : Nat) : Obj := { typ := t, acc := 2, size := typeSize t, pfw := true }
def rwp (t : Nat) (unit : Option Nat) (k : Nat) (lim : Option (Nat × Nat)) : Obj :=
  { typ := t, acc := 3, size := typeSize t, pfw := true, unit := unit, dflt := objReset k, lim := lim }
def dom (acc size : Nat) : Obj := { typ := 12, acc := acc, size := size, pfw := acc != 0, unit := some 9 }

/-! ### Texts (R642, R725, R726) -/

def ascii (l : List Nat) : List Byte := l.map (BitVec.ofNat 8)
/-- "TK-4610" and the letter of the variant. -/
def Fuse.typeName (f : Fuse) : List Byte :=
  ascii ([0x54, 0x4B, 0x2D, 0x34, 0x36, 0x31, 0x30] ++ [([0x54, 0x46, 0x4D] : List Nat).getD f.variant 0x54])
/-- The ordering code without its packing. -/
def Fuse.orderName (f : Fuse) : List Byte := f.typeName ++ ascii [0x2D, 0x41 + f.stepping / 8, 0x30 + f.stepping % 8]
def objText (f : Fuse) (sub : Nat) : List Byte :=
  if sub = 1 then ascii [0x54, 0x61, 0x6D, 0x75, 0x6C, 0x6F, 0x20, 0x53, 0x69, 0x6C, 0x69, 0x63, 0x6F, 0x6E]
  else if sub = 2 then f.typeName else f.orderName
def textObj (f : Fuse) (sub : Nat) : Obj := { typ := 11, acc := 0, size := (objText f sub).length, unit := some 0 }

/-! ### Which objects the device has -/

/-- Identity and the Dictionary's own objects (R642, R708, R725). -/
def identityObj (f : Fuse) (i sub : Nat) : Option Obj :=
  let k := objKey i sub
  match i, sub with
  | 0x100, 1 | 0x100, 2 | 0x100, 3 => some (textObj f sub)
  | 0x101, 1 | 0x101, 3 => some (ro 2 (some 0))
  | 0x101, 2 => some (ro 3 (some 0))
  | 0x101, 4 | 0x104, 1 | 0x104, 2 => some (ro 4 (some 0))
  | 0x102, 1 | 0x103, 1 => some (ro 5 (some 0))
  | 0x105, 1 => some (ro 2 none)
  | 0x105, 2 => some (woObj 4)
  | 0x106, 1 => some { rwp 3 none k none with atReset := true }
  | 0x110, 1 => some { rwp 2 (some 0) k (some (1, 1)) with atReset := true, pfw := false }
  | 0x110, 2 | 0x110, 3 => some (ro 2 (some 0))
  | 0x120, 1 => some (ro 2 (some 11))
  | 0x120, 2 => some (ro 2 none)
  | 0x120, 3 => some (ro 4 none)
  | 0x121, 1 => some (ro 1 (some 0))
  | 0x130, 1 => some (dom 0 0x10000)
  | 0x130, 2 | 0x130, 4 | 0x140, 2 => some (woObj 1)
  | 0x130, 3 => some (ro 4 none)
  | 0x140, 1 => some (rwp 2 none k none)
  | 0x160, 1 | 0x160, 2 => some (dom 2 0x800000)
  | 0x180, 1 => some (rwp 3 (some 0) k (some (1, 65535)))
  | 0x180, 3 => some (rwp 2 (some 0) k (some (0, 32)))
  | 0x180, 9 => some (rwp 2 (some 0) k (some (0, 128)))
  | 0x180, 2 | 0x180, 4 | 0x180, 5 | 0x180, 6 | 0x180, 7 | 0x180, 8 => some (rwp 4 (some 0) k none)
  | 0x181, 1 | 0x181, 2 | 0x181, 3 => some (rwp 2 (some 0) k (some (0, 2)))
  | 0x182, 1 => some { rwp 2 (some 0) k (some (0x08, 0x77)) with atReset := true }
  | 0x182, 2 => some (ro 2 (some 0))
  | 0x183, 1 => some { woObj 4 with unit := some 0, lim := some (1, 1) }
  | 0x183, 2 => some (ro 4 (some 11))
  | 0x183, 3 => some (ro 5 (some 11))
  | 0x190, 1 | 0x190, 2 | 0x190, 3 | 0x190, 4 | 0x190, 5 => some (ro 4 none)
  | _, _ => none

/-- Power, thermal and clocks (R681). -/
def powerObj (f : Fuse) (i sub : Nat) : Option Obj :=
  let k := objKey i sub
  match i, sub with
  | 0x1000, 1 => some (rwp 3 (some 1) k (some (300, 700)))
  | 0x1000, 2 => some (ro 10 (some 1))
  | 0x1001, 1 => some (rwp 3 (some 10) k (some (450, 1000)))
  | 0x1001, 2 => some (ro 3 (some 10))
  | 0x1001, 3 => some (ro 2 (some 0))
  | 0x1002, 1 => some (ro 2 (some 0))
  | 0x1002, 2 => some { woObj 2 with unit := some 0, lim := some (1, 2) }
  | 0x1003, 1 => some (rwp 2 (some 2) k (some (85, 100)))
  | 0x1004, n => if 1 ≤ n ∧ n ≤ 4 + f.xdies.length then some (ro 10 (some 2)) else none
  | 0x1005, n => if 1 ≤ n ∧ n ≤ 4 then some (ro 5 (some 11)) else none
  | 0x1006, 1 => some { rwObj 4 (some 0) 0x4140A with pfw := true }
  | _, _ => none

/-- Objects of the ranges that are indexed by a tile, a partition, a row, a group or a link. -/
def unitObj (f : Fuse) (i sub : Nat) : Option Obj :=
  let some' := fun (b : Bool) (o : Obj) => if b then some o else none
  if 0x3000 ≤ i ∧ i < 0x3008 then
    if !f.hasTile (i - 0x3000) then none
    else if 1 ≤ sub ∧ sub ≤ 4 then some (ro 5 none)
    else if sub = 5 then some (ro 2 none)
    else some' (sub == 6) { rwObj 4 none 0x100 with pfw := true }
  else if 0x3100 ≤ i ∧ i < 0x3108 then some' (f.hasTile (i - 0x3100) && decide (1 ≤ sub ∧ sub ≤ 16)) (dom 0 12)
  else if 0x4000 ≤ i ∧ i < 0x4040 then
    let p0 := i == 0x4000
    if sub = 1 then some { rwObj 4 none (if p0 then 0x20140000 else 0) with pfw := true }
    else if sub = 2 then some { rwObj 4 none (if p0 then 0x1000000 else 0) with pfw := true }
    else if sub = 3 then some { rwObj 4 none (if p0 then 0x2000000 else 0) with pfw := true }
    else if sub = 4 then some { rwObj 2 none 1 with pfw := true }
    else some' (sub == 5) (ro 1 none)
  else if i = 0x40FF then some' (sub == 1) { rwp 2 none (objKey i 1) (some (28, 36)) with atReset := true, pfw := false }
  else if 0x5100 ≤ i ∧ i < 0x5120 then
    if 1 ≤ sub ∧ sub ≤ 11 then
      some { rwObj 10 none (if sub = 5 ∨ sub = 11 then 0x3F800000 else 0) with pfw := true, banked := true }
    else some' (sub == 12) (ro 1 none)
  else if 0x5200 ≤ i ∧ i < 0x5300 then
    let g := fun (t d : Nat) (b : Bool) => some ({ rwObj t none d with part := true, banked := b } : Obj)
    if sub = 1 then g 4 0xFF0001 true
    else if sub = 2 then g 10 0x3F800000 false
    else if sub = 3 then g 4 0xFF00FF true
    else if sub = 5 then g 10 0x3F800000 true
    else if 4 ≤ sub ∧ sub ≤ 8 then g 10 0 true
    else none
  else if i = 0x5300 then
    if sub = 1 then some { rwObj 5 none 0 with part := true, banked := true }
    else some' (sub == 2) { woObj 4 with pfw := false, part := true }
  else if 0x6200 ≤ i ∧ i < 0x6300 then
    if sub = 1 then some { ro 10 none with part := true }
    else some' (sub == 2 || sub == 3) { ro 5 none with part := true }
  else if 0x6300 ≤ i ∧ i < 0x6340 then some' (decide (1 ≤ sub ∧ sub ≤ 9)) { ro 5 none with part := true }
  else if i = 0x7000 then
    if sub = 1 then some (dom 0 0x4000) else if sub = 2 then some (ro 4 none) else some' (sub == 3) (ro 5 none)
  else if i = 0x7010 then some' (sub == 1 || sub == 2) (rwp 2 none (objKey i sub) none)
  else if 0x7100 ≤ i ∧ i < 0x710C then
    if sub = 1 then some (dom 0 528) else some' (sub == 2) (dom 0 18)
  else if i = 0x7200 then some' (sub == 1) (dom 3 512)
  else none

/-- An object of the device, sub-indices from 1. -/
def deviceObj (f : Fuse) (i sub : Nat) : Option Obj :=
  if sub = 0 then none
  else if i < 0x1000 then identityObj f i sub
  else if i < 0x2000 then powerObj f i sub
  else unitObj f i sub

/-! ### Views (R629, R692) -/

/-- The objects of recovery mode (R692). -/
def recoveryIndex (i : Nat) : Bool :=
  decide (0x100 ≤ i ∧ i ≤ 0x105) || i == 0x110 || i == 0x120 || i == 0x121 || i == 0x130 || i == 0x160 || i == 0x7000

/-- An object as the view of partition p shows it; `none` where the view lacks it. -/
def State.viewObj (s : State) (p i sub : Nat) : Option Obj :=
  match deviceObj s.fuse i sub with
  | none => none
  | some o =>
    if bit (s.reg 0x2000) 5 && !recoveryIndex i then none
    else if 0x5200 ≤ i ∧ i < 0x5300 ∧ s.grpNum p ≤ i - 0x5200 then none
    else if 0x6200 ≤ i ∧ i < 0x6300 ∧ s.grpNum p ≤ i - 0x6200 then none
    else if p = 0 then some o
    else if i < 0x1000 then
      if (0x180 ≤ i ∧ i ≤ 0x183) ∨ 0x200 ≤ i ∨ o.acc = 2 then none else some { o with acc := 0 }
    else if i < 0x2000 then if o.acc = 0 then some o else none
    else if i < 0x4000 then none
    else if i < 0x5000 then if i = 0x4000 then some { o with acc := 0 } else none
    else if i < 0x5200 then some { o with acc := 0 }
    else if i < 0x6300 then some o
    else if i < 0x7000 then if i = 0x6300 then some o else none
    else if i = 0x7000 ∧ sub = 1 then some o
    else none

/-- The highest sub-index an index has in a view; none where the view lacks the index (R611). Index 0 has sub-index 0 alone. -/
def State.viewTop (s : State) (p i : Nat) : Option Nat :=
  if i = 0 then some 0
  else ((List.range 17).filter fun sub => (s.viewObj p i sub).isSome).getLast?

/-- Indices at which the device can have objects, ascending. -/
def objIndices : List Nat :=
  [0x100, 0x101, 0x102, 0x103, 0x104, 0x105, 0x106, 0x110, 0x120, 0x121, 0x130, 0x140, 0x160, 0x180, 0x181, 0x182, 0x183, 0x190,
   0x1000, 0x1001, 0x1002, 0x1003, 0x1004, 0x1005, 0x1006] ++ (List.range 8).map (0x3000 + ·) ++ (List.range 8).map (0x3100 + ·) ++
  (List.range 64).map (0x4000 + ·) ++ [0x40FF] ++ (List.range 32).map (0x5100 + ·) ++ (List.range 256).map (0x5200 + ·) ++ [0x5300] ++
  (List.range 256).map (0x6200 + ·) ++ (List.range 64).map (0x6300 + ·) ++ [0x7000, 0x7010] ++ (List.range 12).map (0x7100 + ·) ++ [0x7200]

/-- The first object after one named by index and sub-index (R621). -/
def State.nextObj (s : State) (p i sub : Nat) : Option (Nat × Nat) :=
  let from' := fun (i n : Nat) => ((List.range 17).find? fun k => decide (n < k) && (s.viewObj p i k).isSome).map fun k => (i, k)
  match from' i sub with
  | some r => some r
  | none => (objIndices.filter (i < ·)).findSome? fun j => from' j 0

/-! ### Values (R616) -/

/-- A 64-bit counter, high half first, under the latch rule. -/
def State.read64 (s : State) (k : Nat) : State × Nat :=
  let (s, hi) := s.barRead 0 (k + 4)
  let (s, lo) := s.barRead 0 k
  (s, lo.toNat + 2 ^ 32 * hi.toNat)

def State.read32 (s : State) (k : Nat) : State × Nat :=
  let (s, v) := s.barRead 0 k
  (s, v.toNat)

/-- A reading in units of 2^-e as binary32. -/
def reading (v : Int) (e : Nat) : Nat := (roundTo fmt32 0 (.fin (decide (v < 0)) v.natAbs (-(e : Int)))).1
def reading16 (w : Word) : Nat := reading (w.setWidth 16 : BitVec 16).toInt 4

/-- The entries of the log as a view sees them: partition 0's by slot, another's renumbered from 0 (R697). -/
def State.logBytes (s : State) (p : Nat) : List Byte :=
  let bytes : Option LogEntry → List Byte := fun e => match e with
    | some e => (List.range 8).flatMap fun w => leBytes 4 (e.word w)
    | none => List.replicate 32 0
  if p = 0 then (List.range 512).flatMap fun i => bytes (s.elog.get none0 i)
  else
    let n := (s.reg 0x200C).toNat
    let m := min n 512
    let own := ((List.range m).map fun i => s.elog.get none0 ((n - m + 1 + i) % 512)).filterMap fun e =>
      e.bind fun e => if e.pvalid ∧ e.part = p then some e else none
    padTo 0x4000 ((List.range own.length).flatMap fun i => bytes ((own[i]?).map fun e => { e with seq := i }))

/-- Lane errors of a link, A to B then B to A (R708). -/
def State.laneErrors (s : State) (j : Nat) : List Byte :=
  let x := s.plink j
  ([false, true] : List Bool).flatMap fun ba => (List.range 66).flatMap fun l => beBytes 4 (x.err ba |>.get nat0 l)
def State.laneMaps (s : State) (j : Nat) : List Byte :=
  let x := s.plink j
  ([false, true] : List Bool).flatMap fun ba => leBytes 9 ((List.range 72).map fun l => if l ∈ x.out ba then 2 ^ l else 0).sum

/-- The content of a DOMAIN that can be read, or a text. -/
def State.longValue (s : State) (p i sub : Nat) : List Byte :=
  if i = 0x100 then objText s.fuse sub
  else if i = 0x130 then s.svc.capture.getD (List.replicate 0x10000 0)
  else if 0x3100 ≤ i ∧ i < 0x3108 then
    (List.range 3).flatMap fun w => beBytes 4 (s.barPeek 0 (mtKey (i - 0x3100) + 0x400 + 16 * (sub - 1) + 4 * w)).toNat
  else if i = 0x7000 then s.logBytes p
  else if 0x7100 ≤ i ∧ i < 0x710C then if sub = 1 then s.laneErrors (i - 0x7100) else s.laneMaps (i - 0x7100)
  else padTo 512 s.repairRec.flatten

/-- The value of a numeric object in the view of partition p. -/
def State.numValue (s : State) (p i sub : Nat) : State × Nat :=
  if i = 0x101 ∧ sub = 1 then (s, s.fuse.variant)
  else if i = 0x101 ∧ sub = 2 then (s, s.fuse.siteMap.toNat)
  else if i = 0x101 ∧ sub = 3 then (s, s.fuse.stepping)
  else if i = 0x101 ∧ sub = 4 then (s, s.fuse.repair)
  else if i = 0x102 ∧ sub = 1 then (s, Config.serial)
  else if i = 0x103 ∧ sub = 1 then (s, Config.baseMac % 2 ^ 48)
  else if i = 0x104 ∧ sub = 1 then (s, Config.firmware)
  else if i = 0x104 ∧ sub = 2 then (s, s.runSvn.getD 0)
  else if i = 0x105 ∧ sub = 1 then (s, s.svc.minSvn)
  else if (i = 0x110 ∧ sub = 2) ∨ (i = 0x110 ∧ sub = 3) then (s, 1)
  else if i = 0x120 ∧ sub = 1 then (s, s.svc.unlocks)
  else if i = 0x120 ∧ sub = 2 then (s, s.svc.provs)
  else if i = 0x120 ∧ sub = 3 then (s, s.respFails)
  else if i = 0x121 ∧ sub = 1 then (s, if s.svc.provs < s.svc.unlocks then 1 else 0)
  else if i = 0x130 ∧ sub = 3 then (s, s.capRefused)
  else if i = 0x182 ∧ sub = 2 then (s, s.mctpEid)
  else if i = 0x183 ∧ sub = 2 then (s, s.svc.rwpWrites)
  else if i = 0x183 ∧ sub = 3 then (s, s.dapDrop)
  else if i = 0x190 then (s, s.svc.life.get nat0 sub)
  else if i = 0x1000 ∧ sub = 2 then (s, reading (Int.ofNat (s.regFld 0x20024 0 16)) 3)
  else if i = 0x1001 ∧ sub = 2 then (s, s.regFld 0x20018 0 11)
  else if i = 0x1001 ∧ sub = 3 then (s, s.regFld 0x20018 16 5)
  else if i = 0x1002 ∧ sub = 1 then (s, s.regFld 0x20000 0 2)
  else if i = 0x1004 then (s, reading16 (s.reg (if sub ≤ 4 then 0x20030 + 4 * (sub - 1) else 0x20040 + 4 * (sub - 5))))
  else if i = 0x1005 then s.read64 (0x20400 + 8 * (sub - 1))
  else if i = 0x1006 then s.read32 0x2001C
  else if i = 0x5300 then
    let lo := s.read32 (uePart p 4)
    let hi := lo.1.read32 (uePart p 8)
    (hi.1, lo.2 + 2 ^ 32 * hi.2)
  else if i = 0x7000 ∧ sub = 2 then s.read32 0x200C
  else if i = 0x7000 ∧ sub = 3 then (s, s.elogOver)
  else if 0x3000 ≤ i ∧ i < 0x3008 then
    let k := mtKey (i % 8)
    if sub ≤ 4 then s.read64 (k + 0x100 + 8 * (sub - 1)) else if sub = 5 then (s, s.regFld (k + 4) 8 8) else s.read32 (k + 0x10)
  else if 0x4000 ≤ i ∧ i < 0x4040 then
    let q := if p = 0 then i % 0x40 else p
    let k := 0x78000 + 0x20 * q
    if sub ≤ 3 then s.read32 (k + 4 * (sub - 1)) else if sub = 4 then (s, s.regFld (k + 12) 0 8) else (s, if s.idle q then 1 else 0)
  else if 0x5100 ≤ i ∧ i < 0x5120 then
    let r := s.barRead p (rowKey (i % 0x20) (sub - 1))
    (r.1, if sub = 12 then r.2.toNat / 2 ^ 31 else r.2.toNat)
  else if 0x5200 ≤ i ∧ i < 0x5300 then
    let d := s.grpBase p + i % 0x100
    if sub = 2 then s.read32 (0x426000 + 4 * d)
    else
      let r := s.barRead p (grpWordKey d (if sub = 1 then 0 else sub - 2))
      (r.1, r.2.toNat)
  else if 0x6200 ≤ i ∧ i < 0x6300 then
    let k := 0x428000 + 0x20 * (s.grpBase p + i % 0x100)
    if sub = 1 then s.read32 (k + 0x10)
    else
      let lo := s.read32 (k + 8 * (sub - 2))
      let hi := lo.1.read32 (k + 8 * (sub - 2) + 4)
      (hi.1, lo.2 + 2 ^ 32 * hi.2)
  else if 0x6300 ≤ i ∧ i < 0x6340 then s.read64 (svKey (if p = 0 then i % 0x40 else p) (0x300 + 8 * (sub - 1)))
  else (s, s.obj i sub)

/-- The descriptor of an object (R623). -/
def objDescriptor (i sub : Nat) (o : Obj) : List Byte :=
  let num := fun n : Nat => beBytes 8 n
  let long := o.typ == 11 || o.typ == 12
  let d := if long then 0 else if o.acc = 0 then Config.objectDefault i sub else o.dflt
  let fl := b2n o.pfw 1 + b2n o.part 2 + b2n o.banked 4 + b2n o.atReset 8 + b2n o.lim.isSome 16
  let lim := o.lim.getD (0, 0)
  [BitVec.ofNat 8 o.typ, BitVec.ofNat 8 o.acc, BitVec.ofNat 8 fl, BitVec.ofNat 8 (o.unit.getD (Config.objectUnit i sub))] ++
    beBytes 4 o.size ++ num d ++ num lim.1 ++ num lim.2 ++ padTo 32 (Config.objectName i sub)

end Sys2Proof.Machine
end

