-- ==== Sys2Proof/Machine/Dictionary.lean ====
section
/-!
DEFINITION. The Dictionary Access Protocol and its transports: requests, their checks and effects, flash writes, kept responses, MCTP
control, and what the management Ethernet answers (spec/18 R614, R616-R640, spec/20 R685-R688, R693, R701, R708).
-/

namespace Sys2Proof.Machine

/-! ### Requests (R620) -/

/-- The fields of a DAP request, and its data. -/
structure Dap where
  op : Nat
  tid : Nat
  idx : Nat
  sub : Nat
  view : Nat
  last : Bool
  len : Nat
  off : Nat
  data : List Byte
  /-- A version, kind, operation, reserved bit or length that R622 refuses with PROTO. -/
  bad : Bool
  deriving DecidableEq, Repr

def parseDap (b : List Byte) : Dap :=
  let len := beAt b 10 2 % 2 ^ 11
  { op := byteAt b 1, tid := beAt b 2 2, idx := beAt b 4 2, sub := byteAt b 6, view := byteAt b 8 % 64, last := (byteAt b 9).testBit 0,
    len := len, off := beAt b 12 4, data := (b.drop 16).take len,
    bad := byteAt b 0 != 0x10 || !decide (1 ≤ byteAt b 1 ∧ byteAt b 1 ≤ 4) || decide (64 ≤ byteAt b 8) || decide (2 ≤ byteAt b 9) ||
      decide (2 ^ 11 ≤ beAt b 10 2) || decide (1024 < len) || decide (b.length < 16 + len) }

/-- A response (R620): the request's fields, a status, and data where it is OK. -/
def Dap.response (q : Dap) (status : Nat) (data : List Byte) : List Byte :=
  let d := if status = 0 then data else []
  [0x11, BitVec.ofNat 8 q.op] ++ beBytes 2 q.tid ++ beBytes 2 q.idx ++
    [BitVec.ofNat 8 q.sub, BitVec.ofNat 8 status, BitVec.ofNat 8 q.view, 0] ++ beBytes 2 d.length ++ beBytes 4 q.off ++ d

/-- A network transport: 0 the management Ethernet, 1 MCTP, 2 the fabric, with its source; none for a mailbox (R631). -/
def DapSrc.net : DapSrc → Option (Nat × Nat)
  | .mbx _ => none
  | .eth ip port => some (0, ip * 2 ^ 16 + port)
  | .mctp eid _ => some (1, eid)
  | .fabric w => some (2, w.src)

/-- The access level of a request's transport (R630). -/
def State.dapLevel (s : State) (src : DapSrc) : Nat :=
  match src.net with
  | some (k, _) => s.obj 0x181 (k + 1)
  | none => 2

def DapSrc.view (src : DapSrc) (q : Dap) : Nat := match src with
  | .mbx f => f % 64
  | _ => q.view

/-- PF privilege (R628, R629). -/
def DapSrc.pf (src : DapSrc) (q : Dap) : Bool := match src with
  | .mbx f => f == 0
  | _ => q.view == 0

/-- Who holds an assembly (R626): kind and source, 3 for a mailbox. -/
def DapSrc.who (src : DapSrc) : Nat × Nat := match src with
  | .mbx f => (3, f)
  | x => x.net.getD (3, 0)

def State.asmOf (s : State) (k : Nat) : Option DapAsm := s.dapAsm.get none0 k
def State.setAsm (s : State) (k : Nat) (a : Option DapAsm) : State := { s with dapAsm := s.dapAsm.set none0 k a }

/-! ### Checks (R614, R622, R626) -/

/-- Whether a value lies outside an object's limits. An F32 has limits nowhere. -/
def Obj.outOf (o : Obj) (v : Nat) : Bool :=
  (o.typ == 1 && decide (1 < v)) || match o.lim with
    | some (lo, hi) => decide (v < lo) || decide (hi < v)
    | none => false

/-- The total a final segment must reach: all of it, and for the repair record any number of whole entries (R626, R693). -/
def domShort (idx total size : Nat) : Bool := if idx = 0x7200 then total % 8 != 0 else decide (total < size)

/-- The checks of a WRITE from TYPE to LOCKED. -/
def State.writeStatus (s : State) (src : DapSrc) (q : Dap) (o : Obj) : Nat :=
  let v := beNat q.data
  if o.typ = 12 then
    let total := q.off + q.len
    let next := match s.asmOf (objKey q.idx q.sub) with
      | some a => decide ((a.kind, a.who) = src.who) && q.off == a.data.length
      | none => false
    if q.last ∧ domShort q.idx total o.size ∧ total ≤ o.size then 5
    else if o.size < total then 13
    else if q.off ≠ 0 ∧ !next then 10
    else if q.idx = 0x160 ∧ s.regFld 0x2000 4 1 = q.sub - 1 then 7
    else 0
  else if q.len ≠ o.size then 5
  else if o.outOf v ∨ (q.idx = 0x105 ∧ !s.svnOk v) then 6
  else if 0x4000 ≤ q.idx ∧ q.idx < 0x4040 ∧ q.sub ≤ 3 ∧
      (!s.idle (q.idx - 0x4000) ∨ s.partBad (q.idx - 0x4000) (q.sub - 1) (BitVec.ofNat 32 v)) then 7
  else 0

/-- The status of a request (R622): the first check of the table that fails. -/
def State.dapStatus (s : State) (src : DapSrc) (q : Dap) : Nat :=
  let p := src.view q
  let mbxView := match src with
    | .mbx _ => q.view != 0
    | _ => false
  let vendor := decide (0xF000 ≤ q.idx) && p == 0 && !s.unlocked
  if q.bad || mbxView then 12
  else if q.op = 4 then (if (s.nextObj p q.idx q.sub).isNone then 1 else 0)
  else if vendor then 11
  else
    match s.viewTop p q.idx with
    | none => 1
    | some _ =>
      let seen : Option Obj := if q.sub = 0 then some (ro 2 (some 0)) else s.viewObj p q.idx q.sub
      match seen with
      | none => if (deviceObj s.fuse q.idx q.sub).isSome then 1 else 2
      | some o =>
        if q.op = 1 then
          if o.acc = 2 then 3
          else if o.typ = 12 then
            if o.size ≤ q.off ∨ q.off % 4 ≠ 0 then 6 else 0
          else 0
        else if q.op = 3 then 0
        else if o.acc = 0 then 3
        else if s.dapLevel src < 2 ∨ (o.pfw ∧ !src.pf q) then 4
        else s.writeStatus src q o

/-! ### Effects -/

/-- What an object that takes its new value at once does with it: FMAX and THROTTLE (R675, R681). A power cap applies from the next governor
period, which loads it (R660). -/
def State.objTaken (s : State) (k v : Nat) : State :=
  if k = objKey 0x1001 1 then s.fmaxWrite (BitVec.ofNat 32 v)
  else if k = objKey 0x1003 1 then s.thrWrite (BitVec.ofNat 32 v)
  else s

/-- RWP objects with a numeric value, but for the compatibility level. -/
def rwpKeys : List Nat :=
  [objKey 0x106 1, objKey 0x140 1] ++ (List.range 9).map (fun i => objKey 0x180 (i + 1)) ++
    (List.range 3).map (fun i => objKey 0x181 (i + 1)) ++ [objKey 0x182 1, objKey 0x1000 1, objKey 0x1001 1, objKey 0x1003 1,
    objKey 0x40FF 1, objKey 0x7010 1, objKey 0x7010 2]

/-- RESTORE (R619): every RWP object but 0x0110.01 takes its DEFAULT, the repair record with them. -/
def State.dictRestore (s : State) : State :=
  let s := rwpKeys.foldl (fun (s : State) k => ({ s with objs := s.objs.set objReset k (objReset k) } : State).objTaken k (objReset k)) s
  { s with repairRec := [], svc := { s.svc with rwpWrites := s.svc.rwpWrites + rwpKeys.length + 1 } }

/-- Words of 8 bytes. -/
def entries8 (b : List Byte) : List (List Byte) := (List.range (min 64 (b.length / 8))).map fun i => sliceB b (8 * i) 8

/-- A value that flash has taken. -/
def State.flashTaken (s : State) (k : Nat) (v : List Byte) : State :=
  if k = objKey 0x183 1 then s.dictRestore
  else
    let s := { s with svc := { s.svc with rwpWrites := s.svc.rwpWrites + 1 } }
    if k = objKey 0x7200 1 then { s with repairRec := entries8 v }
    else ({ s with objs := s.objs.set objReset k (beNat v) } : State).objTaken k (beNat v)

/-- The SVN of an image that a slot may hold (R687, R688), if it is one. -/
def imageSvn (b : List Byte) : Option Nat :=
  let len := leAt b 12 4
  if leAt b 0 4 = 0x3142524B ∧ leAt b 4 2 = 1 ∧ leAt b 6 2 < 4 ∧ 4 ≤ len ∧ len ≤ 8388096 ∧
      (sliceB b 160 352).all (· == 0) ∧ Config.imageSigned b then some (leAt b 8 4)
  else none

/-- A final segment of an image: the slot takes it, or is left invalid, with STATE. -/
def State.imageTaken (s : State) (sub : Nat) (b : List Byte) : State × Nat :=
  let put : Option Nat → State := fun x => { s with svc := { s.svc with slots := s.svc.slots.set slot0 (sub - 1) x } }
  match imageSvn b with
  | some n => if s.svc.minSvn ≤ n then (put (some n), 0) else (put none, 7)
  | none => (put none, 7)

/-- A write of a numeric object that does not persist (R616, R617): the register write, in the view of partition p. -/
def State.objWrite (s : State) (p : Nat) (pf : Bool) (i sub v : Nat) : State :=
  let w : Word := BitVec.ofNat 32 v
  match i, sub with
  | 0x105, _ => s.svnRaise v
  | 0x130, 2 => if v = 1 then s.capClear else s
  | 0x130, _ => if v = 1 then s.freeze else s
  | 0x1002, _ => if v = 1 then s.orReg 0x20000 (2 ^ 10) else s.active
  | 0x1006, _ => s.plainWrite 0x2001C w
  | 0x5300, 1 =>
    let b := bankKey (1 - s.devBank (crvKind p))
    (s.putCode (b (uePart p 4)) w).putCode (b (uePart p 8)) (BitVec.ofNat 32 (v / 2 ^ 32))
  | 0x5300, _ => s.ueSwap p pf (bit w 0) (bit w 1) (bit w 31)
  | i, sub =>
    if 0x3000 ≤ i ∧ i < 0x3008 then s.plainWrite (mtKey (i - 0x3000) + 0x10) w
    else if 0x4000 ≤ i ∧ i < 0x4040 then
      if sub ≤ 3 then s.partWrite (i - 0x4000) (sub - 1) w else s.plainWrite (0x7800C + 0x20 * (i - 0x4000)) w
    else if 0x5100 ≤ i ∧ i < 0x5120 then s.putCode (bankKey (1 - s.devBank 2) (rowKey (i - 0x5100) (sub - 1))) w
    else if 0x5200 ≤ i ∧ i < 0x5300 then
      let d := s.grpBase p + (i - 0x5200)
      if sub = 2 then s.plainWrite (0x426000 + 4 * d) w
      else s.putCode (bankKey (1 - s.devBank (grpKind d)) (grpWordKey d (if sub = 1 then 0 else sub - 2))) w
    else s

/-! ### Responses (R631, R632, R634, R636, R640) -/

/-- A response leaves by the transport of its request. A mailbox whose function was reset gets none. -/
def State.respond (s : State) (src : DapSrc) (resp : List Byte) : State :=
  match src with
  | .mbx f =>
    if 64 ≤ f then s
    else
      let s := (List.range 260).foldl (fun (s : State) i =>
        if 4 * i < resp.length then s.setReg (fnKey f (0x9000 + 4 * i)) (BitVec.ofNat 32 (leAt resp (4 * i) 4)) else s) s
      let st := fnKey f 0x8004
      let s := ((s.setRegFld st 16 11 resp.length).orReg st 2).clrReg st 1
      if bit (s.reg (fnKey f 0x8000)) 13 then (s.setFn f { s.fn f with dueMbx := true }).trySend f (s.fnVec f 1) else s
  | .eth ip port => { s with out := s.out ++ [OutItem.udp ip port resp] }
  | .mctp eid tag => { s with out := s.out ++ [OutItem.mctp eid tag (beBytes 2 0x1F6D ++ [0x44] ++ resp)] }
  | .fabric w => s.reply w 0 resp

/-- Answer a request, keeping the response of a network transport (R631). -/
def State.answerDap (s : State) (src : DapSrc) (q : Dap) (status : Nat) (data : List Byte) : State :=
  let r := q.response status data
  let s : State := match src.net with
    | none => s
    | some (k, who) =>
      let others := s.dapKept.filter fun (x : DapKept) => x.kind != k
      let mine : List DapKept := (s.dapKept.filter fun (x : DapKept) => x.kind == k) ++ [⟨k, who, q.tid, r⟩]
      { s with dapKept := others ++ mine.drop (mine.length - 16) }
  s.respond src r

def State.kept (s : State) (src : DapSrc) (tid : Nat) : Option (List Byte) :=
  src.net.bind fun n => (s.dapKept.find? fun x => x.kind == n.1 && x.who == n.2 && x.tid == tid).map (·.resp)

/-! ### Performing a request -/

/-- A WRITE whose status is OK: a segment, a final segment, a flash write that begins, or a register write. -/
def State.dapWriteOk (s : State) (r : DapReq) (q : Dap) (o : Obj) : State :=
  let k := objKey q.idx q.sub
  let p := r.src.view q
  if o.typ = 12 then
    let old := if q.off = 0 then [] else ((s.asmOf k).map (·.data)).getD []
    let all := old ++ q.data
    if !q.last then (s.setAsm k (some ⟨r.src.who.1, r.src.who.2, all⟩)).answerDap r.src q 0 []
    else
      let s := s.setAsm k none
      if q.idx = 0x160 then
        let (s, st) := s.imageTaken q.sub all
        s.answerDap r.src q st []
      else { s with dapWrite := some ⟨r, k, all⟩ }
  else if o.acc = 3 ∨ k = objKey 0x183 1 then { s with dapWrite := some ⟨r, k, q.data⟩ }
  else if k = objKey 0x140 2 then
    let s := s.answerDap r.src q 0 []
    if beNat q.data = 1 then s.resetBy 2 else s
  else (s.objWrite p (r.src.pf q) q.idx q.sub (beNat q.data)).answerDap r.src q 0 []

/-- The request at the head of the queue is performed (R621, R622, R627, R630, R631). -/
def State.dapPerform (s : State) (r : DapReq) : State :=
  let q := parseDap r.bytes
  let p := r.src.view q
  if s.dapLevel r.src = 0 then { s with dapDrop := s.dapDrop + 1 }
  else
    match s.kept r.src q.tid with
    | some resp => s.respond r.src resp
    | none =>
      let st := s.dapStatus r.src q
      if st ≠ 0 then
        let s := if q.op = 2 ∧ (st = 10 ∨ (st = 5 ∧ q.last)) then s.setAsm (objKey q.idx q.sub) none else s
        let s := if q.op = 2 ∧ st = 7 ∧ 0x4000 ≤ q.idx then
            s.partWrite (q.idx - 0x4000) (q.sub - 1) (BitVec.ofNat 32 (beNat q.data)) else s
        s.answerDap r.src q st []
      else if q.op = 4 then
        match s.nextObj p q.idx q.sub with
        | some (i, n) => s.answerDap r.src q 0 (beBytes 2 i ++ [BitVec.ofNat 8 n])
        | none => s
      else if q.sub = 0 then
        s.answerDap r.src q 0 (if q.op = 1 then [BitVec.ofNat 8 ((s.viewTop p q.idx).getD 0)] else objDescriptor q.idx 0 (ro 2 (some 0)))
      else
        match s.viewObj p q.idx q.sub with
        | none => s
        | some o =>
          if q.op = 3 then s.answerDap r.src q 0 (objDescriptor q.idx q.sub o)
          else if q.op = 2 then s.dapWriteOk r q o
          else if o.typ = 12 then s.answerDap r.src q 0 (((s.longValue p q.idx q.sub).drop q.off).take 1024)
          else if o.typ = 11 then s.answerDap r.src q 0 (s.longValue p q.idx q.sub)
          else
            let (s, v) := s.numValue p q.idx q.sub
            s.answerDap r.src q 0 (beBytes o.size v)

/-- A command of one of the four operations: the request at the head of the queue, or one that has just arrived. A request with an
operation that no command names goes with any of them. -/
def State.dapRow (s : State) (op : Nat) (r : DapReq) : State :=
  let q := parseDap r.bytes
  let mbx := r.src.net.isNone
  if s.dapq.head? = some r then
    if s.dapWrite.isSome then s
    else if q.op = op ∨ q.op = 0 ∨ 4 < q.op then { s with dapq := s.dapq.tail }.dapPerform r else s
  else if mbx ∨ r ∈ s.dapq then s
  else if !s.dapq.isEmpty || s.dapWrite.isSome then s.dapArrive r
  else if q.op = op ∨ q.op = 0 ∨ 4 < q.op then s.dapPerform r
  else s

def execDapRead (r : DapReq) (s : State) : Host.Outcome State Fault Refusal := .next (s.dapRow 1 r)
def execDapWrite (r : DapReq) (s : State) : Host.Outcome State Fault Refusal := .next (s.dapRow 2 r)
def execDapDescribe (r : DapReq) (s : State) : Host.Outcome State Fault Refusal := .next (s.dapRow 3 r)
def execDapNext (r : DapReq) (s : State) : Host.Outcome State Fault Refusal := .next (s.dapRow 4 r)

/-- A WRITE of object 0x0183.01 (R619). -/
def execDictRestore (r : DapReq) (s : State) : Host.Outcome State Fault Refusal :=
  .next (if beAt r.bytes 4 2 = 0x183 ∧ byteAt r.bytes 6 = 1 then s.dapRow 2 r else s)

/-- The flash write under way ends, and the response is sent (R618, R622). -/
def State.flashDone (s : State) (ok : Bool) : State :=
  match s.dapWrite with
  | none => s
  | some w =>
    let s := { s with dapWrite := none }
    let s := if ok then s.flashTaken w.obj w.value else s
    s.answerDap w.req.src (parseDap w.req.bytes) (if ok then 0 else 9) []
def execFlashWriteDone (ok : Bool) (s : State) : Host.Outcome State Fault Refusal := .next (s.flashDone ok)

/-- An assembly has had no segment for 10 s (R626). -/
def execDapAssemblyTimeout (obj : Nat) (s : State) : Host.Outcome State Fault Refusal := .next (s.setAsm obj none)

/-- A write of SHP_MBX_CTL with GO (R640). -/
def execGo (f : BitVec 6) (v : Word) (s : State) : Host.Outcome State Fault Refusal := .next (s.mbxCtl f.toNat (setBit v 12 true))

/-! ### MCTP control messages (R635; formats of DSP0236, log entry 24) -/

/-- A response: message type 0, the request's instance id, the command code, a completion code and data. -/
def State.mctpReply (s : State) (inst : BitVec 5) (cmd code : Nat) (data : List Byte) : State :=
  { s with out := s.out ++ [OutItem.smbus ([0, inst.setWidth 8, BitVec.ofNat 8 cmd, BitVec.ofNat 8 code] ++ data)] }

/-- Set Endpoint ID: operations 0 and 1 assign an id; the others are refused. -/
def execSetEndpointId (inst : BitVec 5) (op : BitVec 2) (eid : Byte) (s : State) : Host.Outcome State Fault Refusal :=
  .next (if 2 ≤ op.toNat ∨ eid.toNat < 8 ∨ eid = 0xFF then s.mctpReply inst 1 2 []
    else { s with mctpEid := eid.toNat }.mctpReply inst 1 0 [0, eid, 0])
def execGetEndpointId (inst : BitVec 5) (s : State) : Host.Outcome State Fault Refusal :=
  .next (s.mctpReply inst 2 0 [BitVec.ofNat 8 s.mctpEid, 0, 0])
def execGetEndpointUuid (inst : BitVec 5) (s : State) : Host.Outcome State Fault Refusal :=
  .next (s.mctpReply inst 3 0 (beBytes 16 Config.uuid))
def execGetMctpVersionSupport (inst : BitVec 5) (typ : Byte) (s : State) : Host.Outcome State Fault Refusal :=
  .next (if typ = 0xFF ∨ typ = 0 ∨ typ = 0x7E then s.mctpReply inst 4 0 (1 :: beBytes 4 Config.mctpVersion)
    else s.mctpReply inst 4 0x80 [])
def execGetMessageTypeSupport (inst : BitVec 5) (s : State) : Host.Outcome State Fault Refusal :=
  .next (s.mctpReply inst 5 0 [1, 0x7E])
/-- The vendor's command set has no rule: a free value. -/
def execGetVendorDefinedMessageSupport (inst : BitVec 5) (selector : Byte) (s : State) : Host.Outcome State Fault Refusal :=
  .next (if selector ≠ 0 then s.mctpReply inst 6 2 []
    else
      let (w, s) := s.freeVal
      s.mctpReply inst 6 0 ([0xFF, 0] ++ beBytes 2 0x1F6D ++ beBytes 2 w.toNat))

/-! ### The management Ethernet (R632, R633; formats of the RFCs, log entry 24) -/

/-- Its MAC address: base + 32. -/
def mgmtMac : List Byte := beBytes 6 (Config.baseMac + 32)
/-- The link-local address, by modified EUI-64. -/
def linkLocal : Nat :=
  let m := Config.baseMac + 32
  0xFE80 * 2 ^ 112 + ((m / 2 ^ 24 % 2 ^ 24 * 2 ^ 40 + 0xFFFE * 2 ^ 24 + m % 2 ^ 24) ^^^ 2 ^ 57)
def State.mgmtIp4 (s : State) : Nat := s.obj 0x180 2
def State.mgmtIp6 (s : State) : Nat := (List.range 4).foldl (fun a i => a * 2 ^ 32 + s.obj 0x180 (5 + i)) 0
/-- Whether an address is one of the interface's; an address of 0 is not configured. -/
def State.mgmtOwns (s : State) (v6 : Bool) (a : Nat) : Bool :=
  if v6 then a == linkLocal || (a != 0 && a == s.mgmtIp6) else a != 0 && a == s.mgmtIp4

def State.mgmtSend (s : State) (b : List Byte) : State := { s with out := s.out ++ [OutItem.mgmt b] }

/-- An ICMPv6 message with its checksum. -/
def icmp6 (src dst : Nat) (b : List Byte) : List Byte :=
  let c := inetSum (beBytes 16 src ++ beBytes 16 dst ++ beBytes 4 b.length ++ beBytes 4 58 ++ evenBytes b)
  b.take 2 ++ beBytes 2 c ++ b.drop 4
def icmp4 (b : List Byte) : List Byte := b.take 2 ++ beBytes 2 (inetSum (evenBytes b)) ++ b.drop 4

/-- An ARP request for the interface's IPv4 address is answered. -/
def execArp (sha : BitVec 48) (spa tpa : BitVec 32) (s : State) : Host.Outcome State Fault Refusal :=
  .next (if s.mgmtOwns false tpa.toNat then
      s.mgmtSend (beBytes 2 1 ++ beBytes 2 0x800 ++ [6, 4] ++ beBytes 2 2 ++ mgmtMac ++ beBytes 4 tpa.toNat ++ beBytes 6 sha.toNat ++
        beBytes 4 spa.toNat)
    else s)

/-- A neighbour solicitation is answered by an advertisement. -/
def execNeighbourDiscovery (src target : BitVec 128) (s : State) : Host.Outcome State Fault Refusal :=
  .next (if s.mgmtOwns true target.toNat then
      s.mgmtSend (icmp6 target.toNat src.toNat ([136, 0, 0, 0, 0x60, 0, 0, 0] ++ beBytes 16 target.toNat ++ [2, 1] ++ mgmtMac))
    else s)

/-- An echo request is answered with its identifier, sequence number and data. -/
def execEcho (v6 : Bool) (src dst : BitVec 128) (body : List Byte) (s : State) : Host.Outcome State Fault Refusal :=
  .next (if s.mgmtOwns v6 dst.toNat then
      s.mgmtSend (if v6 then icmp6 dst.toNat src.toNat ([129, 0, 0, 0] ++ body) else icmp4 ([0, 0, 0, 0] ++ body))
    else s)

end Sys2Proof.Machine
end

