-- ==== Sys2Proof/Machine/Dispatch.lean ====
section
/-!
DEFINITION. What each command does: one call of its meaning per constructor.
-/

namespace Sys2Proof.Machine

def exec (cmd : Instr) (s : State) : Host.Outcome State Fault Refusal :=
  match cmd with
  | .alu core rd ra rb rc fn => Sys2Proof.Machine.execAlu core rd ra rb rc fn s
  | .addi core rd ra imm => Sys2Proof.Machine.execAddi core rd ra imm s
  | .andi core rd ra imm => Sys2Proof.Machine.execAndi core rd ra imm s
  | .ori core rd ra imm => Sys2Proof.Machine.execOri core rd ra imm s
  | .xori core rd ra imm => Sys2Proof.Machine.execXori core rd ra imm s
  | .slti core rd ra imm => Sys2Proof.Machine.execSlti core rd ra imm s
  | .sltiu core rd ra imm => Sys2Proof.Machine.execSltiu core rd ra imm s
  | .slli core rd ra imm => Sys2Proof.Machine.execSlli core rd ra imm s
  | .srli core rd ra imm => Sys2Proof.Machine.execSrli core rd ra imm s
  | .srai core rd ra imm => Sys2Proof.Machine.execSrai core rd ra imm s
  | .lui core rd ra imm => Sys2Proof.Machine.execLui core rd ra imm s
  | .fp core rd ra rb rc fn => Sys2Proof.Machine.execFp core rd ra rb rc fn s
  | .fma core rd ra rb rc fn => Sys2Proof.Machine.execFma core rd ra rb rc fn s
  | .lb core rd ra imm => Sys2Proof.Machine.execLb core rd ra imm s
  | .lbu core rd ra imm => Sys2Proof.Machine.execLbu core rd ra imm s
  | .lh core rd ra imm => Sys2Proof.Machine.execLh core rd ra imm s
  | .lhu core rd ra imm => Sys2Proof.Machine.execLhu core rd ra imm s
  | .lw core rd ra imm => Sys2Proof.Machine.execLw core rd ra imm s
  | .sb core rd ra imm => Sys2Proof.Machine.execSb core rd ra imm s
  | .sh core rd ra imm => Sys2Proof.Machine.execSh core rd ra imm s
  | .sw core rd ra imm => Sys2Proof.Machine.execSw core rd ra imm s
  | .beq core ra rb off => Sys2Proof.Machine.execBeq core ra rb off s
  | .bne core ra rb off => Sys2Proof.Machine.execBne core ra rb off s
  | .blt core ra rb off => Sys2Proof.Machine.execBlt core ra rb off s
  | .bge core ra rb off => Sys2Proof.Machine.execBge core ra rb off s
  | .bltu core ra rb off => Sys2Proof.Machine.execBltu core ra rb off s
  | .bgeu core ra rb off => Sys2Proof.Machine.execBgeu core ra rb off s
  | .jal core rd off => Sys2Proof.Machine.execJal core rd off s
  | .jalr core rd ra imm => Sys2Proof.Machine.execJalr core rd ra imm s
  | .send core rd ra rb rc fn => Sys2Proof.Machine.execSend core rd ra rb rc fn s
  | .recv core rd ra rb rc fn => Sys2Proof.Machine.execRecv core rd ra rb rc fn s
  | .waitq core rd ra rb rc fn => Sys2Proof.Machine.execWaitq core rd ra rb rc fn s
  | .pollq core rd ra rb rc fn => Sys2Proof.Machine.execPollq core rd ra rb rc fn s
  | .issue core rd ra rb rc fn => Sys2Proof.Machine.execIssue core rd ra rb rc fn s
  | .bar core rd ra imm => Sys2Proof.Machine.execBar core rd ra imm s
  | .fence core rd ra imm => Sys2Proof.Machine.execFence core rd ra imm s
  | .csrrw core rd ra num => Sys2Proof.Machine.execCsrrw core rd ra num s
  | .csrrs core rd ra num => Sys2Proof.Machine.execCsrrs core rd ra num s
  | .csrrc core rd ra num => Sys2Proof.Machine.execCsrrc core rd ra num s
  | .csrrwi core rd uimm num => Sys2Proof.Machine.execCsrrwi core rd uimm num s
  | .csrrsi core rd uimm num => Sys2Proof.Machine.execCsrrsi core rd uimm num s
  | .csrrci core rd uimm num => Sys2Proof.Machine.execCsrrci core rd uimm num s
  | .trap core rd ra imm => Sys2Proof.Machine.execTrap core rd ra imm s
  | .brk core rd ra imm => Sys2Proof.Machine.execBrk core rd ra imm s
  | .tret core rd ra imm => Sys2Proof.Machine.execTret core rd ra imm s
  | .halt core rd ra imm => Sys2Proof.Machine.execHalt core rd ra imm s
  | .interrupt core => Sys2Proof.Machine.execInterrupt core s
  | .waitqWake core => Sys2Proof.Machine.execWaitqWake core s
  | .fenceComplete core => Sys2Proof.Machine.execFenceComplete core s
  | .sendResume core => Sys2Proof.Machine.execSendResume core s
  | .issueResume core => Sys2Proof.Machine.execIssueResume core s
  | .run core => Sys2Proof.Machine.execRun core s
  | .runClear core => Sys2Proof.Machine.execRunClear core s
  | .step core => Sys2Proof.Machine.execStep core s
  | .load core => Sys2Proof.Machine.execLoad core s
  | .loadDone core => Sys2Proof.Machine.execLoadDone core s
  | .hint core => Sys2Proof.Machine.execHint core s
  | .unrecov core => Sys2Proof.Machine.execUnrecov core s
  | .timerExpiry core timer => Sys2Proof.Machine.execTimerExpiry core timer s
  | .wdogExpiry core => Sys2Proof.Machine.execWdogExpiry core s
  | .wdogKick core value => Sys2Proof.Machine.execWdogKick core value s
  | .nanrecClear core => Sys2Proof.Machine.execNanrecClear core s
  | .sendPayloadRead core => Sys2Proof.Machine.execSendPayloadRead core s
  | .messageArrival m => Sys2Proof.Machine.execMessageArrival m s
  | .refusal r => Sys2Proof.Machine.execRefusal r s
  | .grant g => Sys2Proof.Machine.execGrant g s
  | .streamClose c => Sys2Proof.Machine.execStreamClose c s
  | .rqTailWrite core q value => Sys2Proof.Machine.execRqTailWrite core q value s
  | .rqEnable core q cfg => Sys2Proof.Machine.execRqEnable core q cfg s
  | .rqDisable core q => Sys2Proof.Machine.execRqDisable core q s
  | .rqWmWrite core q value => Sys2Proof.Machine.execRqWmWrite core q value s
  | .semWrite core sem value => Sys2Proof.Machine.execSemWrite core sem value s
  | .semSignal core value => Sys2Proof.Machine.execSemSignal core value s
  | .remoteSpadRequest r => Sys2Proof.Machine.execRemoteSpadRequest r s
  | .responseArrival r => Sys2Proof.Machine.execResponseArrival r s
  | .responseTimeout core eng => Sys2Proof.Machine.execResponseTimeout core eng s
  | .coreWindowAccess fn win off write size value => Sys2Proof.Machine.execCoreWindowAccess fn win off write size value s
  | .aliasWrite cluster idx value => Sys2Proof.Machine.execAliasWrite cluster idx value s
  | .meshNak cluster flits eighth => Sys2Proof.Machine.execMeshNak cluster flits eighth s
  | .memToSpad core => Sys2Proof.Machine.execMemToSpad core s
  | .spadToMem core => Sys2Proof.Machine.execSpadToMem core s
  | .spadToCore core => Sys2Proof.Machine.execSpadToCore core s
  | .memToCore core => Sys2Proof.Machine.execMemToCore core s
  | .dmaComplete core => Sys2Proof.Machine.execDmaComplete core s
  | .gather core => Sys2Proof.Machine.execGather core s
  | .scatter core => Sys2Proof.Machine.execScatter core s
  | .scatterAdd core => Sys2Proof.Machine.execScatterAdd core s
  | .segReduce core => Sys2Proof.Machine.execSegReduce core s
  | .hashProbe core => Sys2Proof.Machine.execHashProbe core s
  | .hashInsert core => Sys2Proof.Machine.execHashInsert core s
  | .setIsect core => Sys2Proof.Machine.execSetIsect core s
  | .setUnion core => Sys2Proof.Machine.execSetUnion core s
  | .retrieverComplete core => Sys2Proof.Machine.execRetrieverComplete core s
  | .fwd core ge => Sys2Proof.Machine.execFwd core ge s
  | .dgrad core ge => Sys2Proof.Machine.execDgrad core ge s
  | .wgrad core ge => Sys2Proof.Machine.execWgrad core ge s
  | .matrixComputeEnd core ge => Sys2Proof.Machine.execMatrixComputeEnd core ge s
  | .matrixDescriptorComplete core ge => Sys2Proof.Machine.execMatrixDescriptorComplete core ge s
  | .handoffCredit core ge => Sys2Proof.Machine.execHandoffCredit core ge s
  | .holdrel core ge => Sys2Proof.Machine.execHoldrel core ge s
  | .map core => Sys2Proof.Machine.execMap core s
  | .reduce core => Sys2Proof.Machine.execReduce core s
  | .sort core => Sys2Proof.Machine.execSort core s
  | .merge core => Sys2Proof.Machine.execMerge core s
  | .veDescriptorComplete core => Sys2Proof.Machine.execVeDescriptorComplete core s
  | .veSwap core kinds => Sys2Proof.Machine.execVeSwap core kinds s
  | .veSwapCopy core kinds => Sys2Proof.Machine.execVeSwapCopy core kinds s
  | .veVrData core write value => Sys2Proof.Machine.execVeVrData core write value s
  | .tableDataAccess core num write value => Sys2Proof.Machine.execTableDataAccess core num write value s
  | .qzFmtshWrite core slot value => Sys2Proof.Machine.execQzFmtshWrite core slot value s
  | .qzSeCfgWrite core word value => Sys2Proof.Machine.execQzSeCfgWrite core word value s
  | .qzHrshWrite core entry value => Sys2Proof.Machine.execQzHrshWrite core entry value s
  | .qzLsGo core value => Sys2Proof.Machine.execQzLsGo core value s
  | .qzRollCommit core => Sys2Proof.Machine.execQzRollCommit core s
  | .qzRollSkip core => Sys2Proof.Machine.execQzRollSkip core s
  | .roll c => Sys2Proof.Machine.execRoll c s
  | .begin p => Sys2Proof.Machine.execBegin p s
  | .close p => Sys2Proof.Machine.execClose p s
  | .veto p => Sys2Proof.Machine.execVeto p s
  | .resume p => Sys2Proof.Machine.execResume p s
  | .breakStep p => Sys2Proof.Machine.execBreak p s
  | .abandon p => Sys2Proof.Machine.execAbandon p s
  | .ballot group step att flags count => Sys2Proof.Machine.execBallot group step att flags count s
  | .outcome group step att commit flags => Sys2Proof.Machine.execOutcome group step att commit flags s
  | .applied p => Sys2Proof.Machine.execApplied p s
  | .voteTimeout p newer => Sys2Proof.Machine.execVoteTimeout p newer s
  | .readerTake p i taker => Sys2Proof.Machine.execReaderTake p i taker s
  | .leaseTake p i taker => Sys2Proof.Machine.execLeaseTake p i taker s
  | .readerDrop p i ver => Sys2Proof.Machine.execReaderDrop p i ver s
  | .leaseDrop p i ver => Sys2Proof.Machine.execLeaseDrop p i ver s
  | .recordLineWrite p i off data => Sys2Proof.Machine.execRecordLineWrite p i off data s
  | .leaseExpiry p i => Sys2Proof.Machine.execLeaseExpiry p i s
  | .sweepVisit p i => Sys2Proof.Machine.execSweepVisit p i s
  | .ueArm t p => Sys2Proof.Machine.execUeArm t p s
  | .ueDisarm t p => Sys2Proof.Machine.execUeDisarm t p s
  | .ueBlockApply t p => Sys2Proof.Machine.execUeBlockApply t p s
  | .publishFinal t p => Sys2Proof.Machine.execPublishFinal t p s
  | .copyWriteAck t p => Sys2Proof.Machine.execCopyWriteAck t p s
  | .copyAckTimeout t p => Sys2Proof.Machine.execCopyAckTimeout t p s
  | .reemit p v => Sys2Proof.Machine.execReemit p v s
  | .reapply p => Sys2Proof.Machine.execReapply p s
  | .ueSwapGrp p => Sys2Proof.Machine.execUeSwapGrp p s
  | .ueSwapRow p pf => Sys2Proof.Machine.execUeSwapRow p pf s
  | .ueSwapCopy p pf grp row => Sys2Proof.Machine.execUeSwapCopy p pf grp row s
  | .uePgrpWrite p pf v => Sys2Proof.Machine.execUePgrpWrite p pf v s
  | .muRdOpen c i => Sys2Proof.Machine.execMuRdOpen c i s
  | .muRdClose c i => Sys2Proof.Machine.execMuRdClose c i s
  | .reductionPacket k => Sys2Proof.Machine.execReductionPacket k s
  | .rdInit c => Sys2Proof.Machine.execRdInit c s
  | .seal c area k => Sys2Proof.Machine.execSeal c area k s
  | .sealDone c area k => Sys2Proof.Machine.execSealDone c area k s
  | .rdClose c => Sys2Proof.Machine.execRdClose c s
  | .rdChannelEnable c pf v => Sys2Proof.Machine.execRdChannelEnable c pf v s
  | .frameReceive g data corr sym ue => Sys2Proof.Machine.execFrameReceive g data corr sym ue s
  | .frameTransmit g => Sys2Proof.Machine.execFrameTransmit g s
  | .pause g t => Sys2Proof.Machine.execPause g t s
  | .pfc g vec times => Sys2Proof.Machine.execPfc g vec times s
  | .pauseTimerExpiry g prio => Sys2Proof.Machine.execPauseTimerExpiry g prio s
  | .pauseResendExpiry g => Sys2Proof.Machine.execPauseResendExpiry g s
  | .cbsCreditRecovered g q => Sys2Proof.Machine.execCbsCreditRecovered g q s
  | .linkUp g => Sys2Proof.Machine.execLinkUp g s
  | .linkDown g receiving => Sys2Proof.Machine.execLinkDown g receiving s
  | .ldholdExpiry g => Sys2Proof.Machine.execLdholdExpiry g s
  | .anTimeout g => Sys2Proof.Machine.execAnTimeout g s
  | .anRestart g => Sys2Proof.Machine.execAnRestart g s
  | .macFlush g => Sys2Proof.Machine.execMacFlush g s
  | .macEnable g en => Sys2Proof.Machine.execMacEnable g en s
  | .macXmodeWrite x v => Sys2Proof.Machine.execMacXmodeWrite x v s
  | .macCbsWrite g q word v => Sys2Proof.Machine.execMacCbsWrite g q word v s
  | .wynFrame g => Sys2Proof.Machine.execWynFrame g s
  | .frameOriginate x => Sys2Proof.Machine.execFrameOriginate x s
  | .linkAck g link a => Sys2Proof.Machine.execLinkAck g link a s
  | .linkNak g link n ack => Sys2Proof.Machine.execLinkNak g link n ack s
  | .ackdlyExpiry g link => Sys2Proof.Machine.execAckdlyExpiry g link s
  | .replayTimeout g link => Sys2Proof.Machine.execReplayTimeout g link s
  | .rstlrt g => Sys2Proof.Machine.execRstlrt g s
  | .fbSwapFwd => Sys2Proof.Machine.execFbSwapFwd s
  | .fbSwapCopy => Sys2Proof.Machine.execFbSwapCopy s
  | .fbDomWrite p v => Sys2Proof.Machine.execFbDomWrite p v s
  | .feedPacket c payload => Sys2Proof.Machine.execFeedPacket c payload s
  | .recordPlace c => Sys2Proof.Machine.execRecordPlace c s
  | .slotRelease c e n => Sys2Proof.Machine.execSlotRelease c e n s
  | .fdEnable c pf v => Sys2Proof.Machine.execFdEnable c pf v s
  | .fdDisable c => Sys2Proof.Machine.execFdDisable c s
  | .memoryLineAccess t off n p unit data => Sys2Proof.Machine.execMemoryLineAccess t off n p unit data s
  | .read p w => Sys2Proof.Machine.execRead p w s
  | .write p w => Sys2Proof.Machine.execWrite p w s
  | .readRsp p w => Sys2Proof.Machine.execReadRsp p w s
  | .writeAck p w => Sys2Proof.Machine.execWriteAck p w s
  | .error p w => Sys2Proof.Machine.execError p w s
  | .patrolScrub t => Sys2Proof.Machine.execPatrolScrub t s
  | .selfRefreshEntry t commanded => Sys2Proof.Machine.execSelfRefreshEntry t commanded s
  | .selfRefreshExit t => Sys2Proof.Machine.execSelfRefreshExit t s
  | .mtRegionWrite t r w v => Sys2Proof.Machine.execMtRegionWrite t r w v s
  | .mirror p w => Sys2Proof.Machine.execMirror p w s
  | .mirrorAck p w => Sys2Proof.Machine.execMirrorAck p w s
  | .mark p w => Sys2Proof.Machine.execMark p w s
  | .markAck p w => Sys2Proof.Machine.execMarkAck p w s
  | .cometRead p w => Sys2Proof.Machine.execCometRead p w s
  | .cometReadRsp p w => Sys2Proof.Machine.execCometReadRsp p w s
  | .cometError p w => Sys2Proof.Machine.execCometError p w s
  | .mirrorTimeout p t seq => Sys2Proof.Machine.execMirrorTimeout p t seq s
  | .restore p => Sys2Proof.Machine.execRestore p s
  | .cmCtlWrite p v => Sys2Proof.Machine.execCmCtlWrite p v s
  | .cmWinWrite p k w v => Sys2Proof.Machine.execCmWinWrite p k w v s
  | .cmHostWrite h w v => Sys2Proof.Machine.execCmHostWrite h w v s
  | .clFence cl i => Sys2Proof.Machine.execClFence cl i s
  | .unfence cl i => Sys2Proof.Machine.execUnfence cl i s
  | .heartbeatSend => Sys2Proof.Machine.execHeartbeatSend s
  | .heartbeat w => Sys2Proof.Machine.execHeartbeat w s
  | .heartbeatTimeout w => Sys2Proof.Machine.execHeartbeatTimeout w s
  | .hbWatchWrite w v => Sys2Proof.Machine.execHbWatchWrite w v s
  | .sqDoorbell p q v => Sys2Proof.Machine.execSqDoorbell p q v s
  | .cqDoorbell p q v => Sys2Proof.Machine.execCqDoorbell p q v s
  | .sqEnable p q v => Sys2Proof.Machine.execSqEnable p q v s
  | .sqDisable p q v => Sys2Proof.Machine.execSqDisable p q v s
  | .sqFetch p q entry ok => Sys2Proof.Machine.execSqFetch p q entry ok s
  | .nop p q cid => Sys2Proof.Machine.execNop p q cid s
  | .h2d p q cid data err => Sys2Proof.Machine.execH2d p q cid data err s
  | .d2h p q cid => Sys2Proof.Machine.execD2h p q cid s
  | .h2s p q cid data err => Sys2Proof.Machine.execH2s p q cid data err s
  | .s2h p q cid => Sys2Proof.Machine.execS2h p q cid s
  | .fill p q cid => Sys2Proof.Machine.execFill p q cid s
  | .commandComplete p q => Sys2Proof.Machine.execCommandComplete p q s
  | .moderationTimerExpiry p q => Sys2Proof.Machine.execModerationTimerExpiry p q s
  | .vectorUnmask f v => Sys2Proof.Machine.execVectorUnmask f v s
  | .flr p => Sys2Proof.Machine.execFlr p s
  | .vfDisable => Sys2Proof.Machine.execVfDisable s
  | .d3hot f => Sys2Proof.Machine.execD3hot f s
  | .d0 f => Sys2Proof.Machine.execD0 f s
  | .busMasterEnableWrite f on => Sys2Proof.Machine.execBusMasterEnableWrite f on s
  | .bar2Access f off n data => Sys2Proof.Machine.execBar2Access f off n data s
  | .hiPartWrite p which v => Sys2Proof.Machine.execHiPartWrite p which v s
  | .admitReq p src w0 w1 a b => Sys2Proof.Machine.execAdmit p src w0 w1 a b s
  | .start p src w0 w1 a b => Sys2Proof.Machine.execStart p src w0 w1 a b s
  | .token p src w0 w1 a b => Sys2Proof.Machine.execToken p src w0 w1 a b s
  | .hold p src w0 w1 a b => Sys2Proof.Machine.execHold p src w0 w1 a b s
  | .svResume p src w0 w1 a b => Sys2Proof.Machine.execSvResume p src w0 w1 a b s
  | .abort p src w0 w1 a b => Sys2Proof.Machine.execAbort p src w0 w1 a b s
  | .release p src w0 w1 a b => Sys2Proof.Machine.execRelease p src w0 w1 a b s
  | .setprio p src w0 w1 a b => Sys2Proof.Machine.execSetprio p src w0 w1 a b s
  | .select p src w0 w1 a b => Sys2Proof.Machine.execSelect p src w0 w1 a b s
  | .flush p src w0 w1 a b => Sys2Proof.Machine.execFlush p src w0 w1 a b s
  | .fillTimeout p m => Sys2Proof.Machine.execFillTimeout p m s
  | .batchNotify p m => Sys2Proof.Machine.execBatchNotify p m s
  | .svInit p => Sys2Proof.Machine.execSvInit p s
  | .svPartWrite p num v => Sys2Proof.Machine.execSvPartWrite p num v s
  | .svModelEnable p m v => Sys2Proof.Machine.execSvModelEnable p m v s
  | .dapRead r => Sys2Proof.Machine.execDapRead r s
  | .dapWrite r => Sys2Proof.Machine.execDapWrite r s
  | .dapDescribe r => Sys2Proof.Machine.execDapDescribe r s
  | .dapNext r => Sys2Proof.Machine.execDapNext r s
  | .flashWriteDone ok => Sys2Proof.Machine.execFlashWriteDone ok s
  | .dapAssemblyTimeout obj => Sys2Proof.Machine.execDapAssemblyTimeout obj s
  | .dictRestore r => Sys2Proof.Machine.execDictRestore r s
  | .go f v => Sys2Proof.Machine.execGo f v s
  | .setEndpointId inst op eid => Sys2Proof.Machine.execSetEndpointId inst op eid s
  | .getEndpointId inst => Sys2Proof.Machine.execGetEndpointId inst s
  | .getEndpointUuid inst => Sys2Proof.Machine.execGetEndpointUuid inst s
  | .getMctpVersionSupport inst typ => Sys2Proof.Machine.execGetMctpVersionSupport inst typ s
  | .getMessageTypeSupport inst => Sys2Proof.Machine.execGetMessageTypeSupport inst s
  | .getVendorDefinedMessageSupport inst selector => Sys2Proof.Machine.execGetVendorDefinedMessageSupport inst selector s
  | .arp sha spa tpa => Sys2Proof.Machine.execArp sha spa tpa s
  | .neighbourDiscovery src target => Sys2Proof.Machine.execNeighbourDiscovery src target s
  | .echo v6 src dst body => Sys2Proof.Machine.execEcho v6 src dst body s
  | .governorPeriod power dies xdies => Sys2Proof.Machine.execGovernorPeriod power dies xdies s
  | .clusterC0ToC1 cl => Sys2Proof.Machine.execClusterC0ToC1 cl s
  | .clusterC1ToC2 cl => Sys2Proof.Machine.execClusterC1ToC2 cl s
  | .clusterC2ToC3 cl => Sys2Proof.Machine.execClusterC2ToC3 cl s
  | .clusterC1ToC0 cl => Sys2Proof.Machine.execClusterC1ToC0 cl s
  | .clusterC2ToC0 cl => Sys2Proof.Machine.execClusterC2ToC0 cl s
  | .clusterC3ToC0 cl => Sys2Proof.Machine.execClusterC3ToC0 cl s
  | .dieDiToDs d => Sys2Proof.Machine.execDieDiToDs d s
  | .dieDsToDi d => Sys2Proof.Machine.execDieDsToDi d s
  | .deviceP0ToP1 => Sys2Proof.Machine.execDeviceP0ToP1 s
  | .deviceP1ToP2 => Sys2Proof.Machine.execDeviceP1ToP2 s
  | .deviceP2ToP0 => Sys2Proof.Machine.execDeviceP2ToP0 s
  | .powerTransitionComplete row unit => Sys2Proof.Machine.execPowerTransitionComplete row unit s
  | .standby => Sys2Proof.Machine.execStandby s
  | .active => Sys2Proof.Machine.execActive s
  | .pwrSwapPst => Sys2Proof.Machine.execPwrSwapPst s
  | .pwrSwapCopy => Sys2Proof.Machine.execPwrSwapCopy s
  | .clmaxWrite w v => Sys2Proof.Machine.execClmaxWrite w v s
  | .clmaxBc v => Sys2Proof.Machine.execClmaxBc v s
  | .thermalTrip => Sys2Proof.Machine.execThermalTrip s
  | .pllLoss d => Sys2Proof.Machine.execPllLoss d s
  | .pllRelock d ok => Sys2Proof.Machine.execPllRelock d ok s
  | .shepherdIdleExpiry => Sys2Proof.Machine.execShepherdIdleExpiry s
  | .evcClaim => Sys2Proof.Machine.execEvcClaim s
  | .evcComplete n => Sys2Proof.Machine.execEvcComplete n s
  | .eventPin n level => Sys2Proof.Machine.execEventPin n level s
  | .nak j ba lane flits fourth => Sys2Proof.Machine.execNak j ba lane flits fourth s
  | .retrain j => Sys2Proof.Machine.execRetrain j s
  | .retrainingComplete j failAB failBA => Sys2Proof.Machine.execRetrainingComplete j failAB failBA s
  | .powerOn => Sys2Proof.Machine.execPowerOn s
  | .porstN => Sys2Proof.Machine.execPorstN s
  | .shpRst v => Sys2Proof.Machine.execShpRst v s
  | .packageResetObject => Sys2Proof.Machine.execPackageResetObject s
  | .perst => Sys2Proof.Machine.execPerst s
  | .bootStageComplete err bad => Sys2Proof.Machine.execBootStageComplete err bad s
  | .bootWatchdog => Sys2Proof.Machine.execBootWatchdog s
  | .extest => Sys2Proof.Machine.execExtest s
  | .idcode => Sys2Proof.Machine.execIdcode s
  | .samplePreload => Sys2Proof.Machine.execSamplePreload s
  | .clamp => Sys2Proof.Machine.execClamp s
  | .highz => Sys2Proof.Machine.execHighz s
  | .extestPulse => Sys2Proof.Machine.execExtestPulse s
  | .extestTrain => Sys2Proof.Machine.execExtestTrain s
  | .bypass code => Sys2Proof.Machine.execBypass code s
  | .tchal => Sys2Proof.Machine.execTchal s
  | .tresp ok fuse => Sys2Proof.Machine.execTresp ok fuse s
  | .captureFreeze => Sys2Proof.Machine.execCaptureFreeze s
  | .captureClear => Sys2Proof.Machine.execCaptureClear s
  | .captureFlashWrite => Sys2Proof.Machine.execCaptureFlashWrite s
  | .svnRaise v => Sys2Proof.Machine.execSvnRaise v s
  | .lifetimeHour => Sys2Proof.Machine.execLifetimeHour s
  | .registerWrite f space off size v => Sys2Proof.Machine.execRegisterWrite f space off size v s
  | .registerRead f space off size => Sys2Proof.Machine.execRegisterRead f space off size s
  | .powerLoss => Sys2Proof.Machine.execPowerLoss s
  | .shepherdPllLocked => Sys2Proof.Machine.execShepherdPllLocked s
  | .tlastAgeLimit p r => Sys2Proof.Machine.execTlastAgeLimit p r s
  | .dramTemperatureReport t temp x2 => Sys2Proof.Machine.execDramTemperatureReport t temp x2 s

end Sys2Proof.Machine
end

