-- ==== Sys2Proof/Machine/Storage.lean ====
section
/-!
DEFINITION. Storage that fails, and a cycle in which no command is performed (spec/02 R52; spec/03 R109; spec/14 R503; spec/19 R644).
-/

namespace Sys2Proof.Machine

/-- The failed symbols or bits of a unit of storage when `new` more fail beside `old`: how many the unit holds, and whether its contents
are no longer what was stored. A code that corrects one and detects up to `top` may see a larger pattern as uncorrectable, as a single
error, or not at all: `pick` chooses (R109, R503). -/
def failTotal (top old new pick : Nat) : Nat × Bool :=
  if old + new ≤ top then (old + new, false)
  else if pick = 0 then (1, true)
  else if pick = 1 then (0, true)
  else (top + 1, false)

/-- Symbols of a line of device memory fail (R503). -/
def State.lineFail (s : State) (t line new pick : Nat) : State :=
  let k := t * 2 ^ 30 + line
  let (n, wrong) := failTotal 3 (s.memErr.get nat0 k) new pick
  let s := { s with memErr := s.memErr.set nat0 k n }
  if wrong then
    let r := freeBytes 16 s
    { r.1 with mem := Map.setN byte0 r.1.mem (memIdx t (64 * line)) r.2 }
  else s

/-- Bits of a scratchpad word fail (R109). -/
def State.spadFail (s : State) (c w new pick : Nat) : State :=
  let (n, wrong) := failTotal 2 ((s.core c).spadErr.get nat0 w) new pick
  let s := s.modCore c fun k => { k with spadErr := k.spadErr.set nat0 w n }
  if wrong then
    let r := freeBytes 2 s
    r.1.modCore c fun k => { k with spad := Map.setN byte0 k.spad (8 * w) r.2 }
  else s

/-- Bits of an instruction-memory word fail; the code is that of R109 on 32 bits (R52). -/
def State.imemFail (s : State) (c w new pick : Nat) : State :=
  let (n, wrong) := failTotal 2 ((s.core c).imemErr.get nat0 w) new pick
  let s := s.modCore c fun k => { k with imemErr := k.imemErr.set nat0 w n }
  if wrong then
    let r := freeBytes 1 s
    r.1.modCore c fun k => { k with imem := Map.setN byte0 k.imem (4 * w) r.2 }
  else s

/-- What fails in a cycle is free: nothing, or one unit of some storage (log entry 30); or the package level, to which no rule gives a
trigger, orders a core's fence (R31, R537, log entry 109). -/
def State.decay (s : State) : State :=
  let (a, s) := s.freeVal
  let (b, s) := s.freeVal
  let new := 1 + fld a 3 2
  let pick := fld a 5 2
  let core := fld a 8 14 % 10240
  match fld a 0 3 with
  | 1 =>
    let ts := s.fuse.tiles
    if ts.isEmpty then s else s.lineFail (ts.getD (fld a 8 3 % ts.length) 0) (b.toNat % 2 ^ 30) new pick
  | 2 => s.spadFail core (b.toNat % 24576) new pick
  | 3 => s.imemFail core (b.toNat % 6144) new pick
  | 4 => if s.isFenced core then s else s.fence core 5
  | _ => s

/-- A cycle of SCLK in which no command is performed (R644, log entries 2 and 30). -/
def State.tick (s : State) : State := { s with sclk := s.sclk + 1 }.decay

end Sys2Proof.Machine
end

