-- ==== Sys2Proof/Machine/CoreWord.lean ====
section
/-!
DEFINITION. Instruction words of a control core: the formats, the allocation of operation codes and what a reserved word does
(spec/02 R54, R55, R83, R92). The commands of the table carry the fields of a word; this file says which word they stand for.
-/

namespace Sys2Proof.Machine

/-- The fields of the formats R, I, B, J and C (R54). -/
def opOf (w : Word) : BitVec 6 := w.extractLsb' 26 6
def rdOf (w : Word) : Reg := w.extractLsb' 21 5
def raOf (w : Word) : Reg := w.extractLsb' 16 5
def rbOf (w : Word) : Reg := w.extractLsb' 11 5
def rcOf (w : Word) : Reg := w.extractLsb' 6 5
def fnOf (w : Word) : BitVec 6 := w.extractLsb' 0 6
def immOf (w : Word) : BitVec 16 := w.extractLsb' 0 16
def off21Of (w : Word) : BitVec 21 := w.extractLsb' 0 21
/-- In B form RA and RB stand one place higher. -/
def braOf (w : Word) : Reg := w.extractLsb' 21 5
def brbOf (w : Word) : Reg := w.extractLsb' 16 5
def csrOf (w : Word) : BitVec 12 := w.extractLsb' 4 12
def cfnOf (w : Word) : Nat := (w.extractLsb' 0 4).toNat

/-- CSR instructions by FN (R83). -/
def csrWord (c : Nat) (w : Word) : Option Instr :=
  match cfnOf w with
  | 0 => some (.csrrw c (rdOf w) (raOf w) (csrOf w))
  | 1 => some (.csrrs c (rdOf w) (raOf w) (csrOf w))
  | 2 => some (.csrrc c (rdOf w) (raOf w) (csrOf w))
  | 4 => some (.csrrwi c (rdOf w) (raOf w) (csrOf w))
  | 5 => some (.csrrsi c (rdOf w) (raOf w) (csrOf w))
  | 6 => some (.csrrci c (rdOf w) (raOf w) (csrOf w))
  | _ => none

/-- SYS instructions by IMM16[7:0] (R92). -/
def sysWord (c : Nat) (w : Word) : Option Instr :=
  match (immOf w).toNat % 256 with
  | 0 => some (.trap c (rdOf w) (raOf w) (immOf w))
  | 1 => some (.brk c (rdOf w) (raOf w) (immOf w))
  | 2 => some (.tret c (rdOf w) (raOf w) (immOf w))
  | 3 => some (.halt c (rdOf w) (raOf w) (immOf w))
  | _ => none

/-- The instruction of a word by its operation code; `none` for a reserved OP, or a reserved FN of CSR or selector of SYS (R55). Other
reserved fields are judged by the instruction. -/
def coreWord (c : Nat) (w : Word) : Option Instr :=
  let r (f : Nat → Reg → Reg → Reg → Reg → BitVec 6 → Instr) : Option Instr := some (f c (rdOf w) (raOf w) (rbOf w) (rcOf w) (fnOf w))
  let i (f : Nat → Reg → Reg → BitVec 16 → Instr) : Option Instr := some (f c (rdOf w) (raOf w) (immOf w))
  let b (f : Nat → Reg → Reg → BitVec 16 → Instr) : Option Instr := some (f c (braOf w) (brbOf w) (immOf w))
  match (opOf w).toNat with
  | 0x01 => r .alu
  | 0x02 => i .addi
  | 0x03 => i .andi
  | 0x04 => i .ori
  | 0x05 => i .xori
  | 0x06 => i .slti
  | 0x07 => i .sltiu
  | 0x08 => i .slli
  | 0x09 => i .srli
  | 0x0A => i .srai
  | 0x0B => i .lui
  | 0x0C => r .fp
  | 0x0D => r .fma
  | 0x10 => i .lb
  | 0x11 => i .lbu
  | 0x12 => i .lh
  | 0x13 => i .lhu
  | 0x14 => i .lw
  | 0x18 => i .sb
  | 0x19 => i .sh
  | 0x1A => i .sw
  | 0x20 => b .beq
  | 0x21 => b .bne
  | 0x22 => b .blt
  | 0x23 => b .bge
  | 0x24 => b .bltu
  | 0x25 => b .bgeu
  | 0x26 => some (.jal c (rdOf w) (off21Of w))
  | 0x27 => i .jalr
  | 0x30 => r .send
  | 0x31 => r .recv
  | 0x32 => r .waitq
  | 0x33 => r .pollq
  | 0x34 => r .issue
  | 0x38 => i .bar
  | 0x39 => i .fence
  | 0x3A => csrWord c w
  | 0x3B => sysWord c w
  | _ => none

/-- Execute a fetched word: the instruction it holds, or ILLEGAL (R55). -/
def State.runWord (s : State) (c : Nat) (w : Word) : Host.Outcome State Fault Refusal :=
  match coreWord c w with
  | some i => exec i s
  | none => .next (s.instr c fun _ s => .exc s ILLEGAL 0)

end Sys2Proof.Machine
end

