-- ==== Sys2Proof/Safety.lean ====
section
/-!
DEFINITION. What counts as a safe step and a safe run of the block, and the words the statements use: which core is
ready for an instruction, how an instruction retires, what stays as it was.
-/

namespace Sys2Proof.Machine

/-- The memories that hold bytes have their canonical form: equal memories are equal data. -/
def Memory.wf (s : State) : Bool := Map.wf byte0 s.mem

/-- A command completes from a state: its effect is a next state. -/
def Completes (c : Instr) (s : State) : Prop := ∃ t, exec c s = .next t

/-- A run of `k` steps that neither faults nor is refused. -/
def SafeRun (k : Nat) (s : State) : Prop := ∃ t, Host.Core.run ⟨State, Fault, Refusal, step, State.reset⟩ k s = .next t

/-! ### Control cores -/

/-- A core that fetches and executes the instruction at its PC: it exists, is in RUN, its clock runs, and the PC names a
readable word of instruction memory (R50, R52, R53). -/
structure State.Ready (s : State) (c : Nat) : Prop where
  core : isCore c = true
  run : (s.core c).rs = 1
  clock : s.clocked c = true
  fetch : (s.core c).pc.toNat < 0x6000
  word : (s.core c).imemErr.get nat0 ((s.core c).pc.toNat / 4) = 0

/-- A core that stands in a wait (R53). -/
structure State.Waits (s : State) (c : Nat) (w : Wait) : Prop where
  rs : (s.core c).rs = 2
  wait : (s.core c).wait = some w

/-- Nothing outside core c has changed. -/
structure State.OnlyCore (s t : State) (c : Nat) : Prop where
  state : t = { s with cores := t.cores }
  others : ∀ x, x ≠ c → t.core x = s.core x

/-- CC_INSTRET as a number (R85). -/
def Core.instret (k : Core) : Nat := (k.get 0x24).toNat + 2 ^ 32 * (k.get 0x25).toNat

/-- An instruction has retired: the PC, the run state after it (HALT ends a single step), CC_INSTRET (R53, R85, R88). -/
structure Core.Retired (k k' : Core) (npc : Word) : Prop where
  pc : k'.pc = npc
  wait : k'.wait = none
  stepping : k'.stepping = false
  rs : k'.rs = if k.stepping then 0 else 1
  instret : k'.instret = (k.instret + 1) % 2 ^ 64

/-- CSRs of which `may` does not hold read as before; of CC_STATUS only the run state may have changed. -/
structure Core.CsrsKept (k k' : Core) (may : Nat → Prop) : Prop where
  csrs : ∀ n, n ≠ 1 → n ≠ 0x24 → n ≠ 0x25 → ¬ may n → k'.get n = k.get n
  status : ∀ i, 3 ≤ i → bit (k'.get 1) i = bit (k.get 1) i

/-- Scalar register `rd` has taken `v`, or a write of s0 was discarded; every other register is as before (R49). -/
structure Core.Wrote (k k' : Core) (rd : Reg) (v : Word) : Prop where
  dest : rd ≠ 0 → k'.s rd = v
  zero : k'.s 0 = 0
  regs : ∀ r, r ≠ rd → k'.s r = k.s r

/-- An instruction of core c has retired that writes one scalar register and, of the CSRs, only those of which `may` holds. -/
structure State.WritesBut (s t : State) (c : Nat) (npc : Word) (rd : Reg) (v : Word) (may : Nat → Prop) : Prop where
  only : s.OnlyCore t c
  retired : (s.core c).Retired (t.core c) npc
  wrote : (s.core c).Wrote (t.core c) rd v
  csrs : (s.core c).CsrsKept (t.core c) may
  rest : t.core c = { s.core c with regs := (t.core c).regs, csr := (t.core c).csr, pc := npc, wait := none, stepping := false }

/-- An instruction of core c that writes one scalar register and nothing else has retired. -/
abbrev State.Writes (s t : State) (c : Nat) (npc : Word) (rd : Reg) (v : Word) : Prop := s.WritesBut t c npc rd v fun _ => False

/-- An exception of core c has been taken in one step (R94): the trap CSRs, the status, the vector. -/
structure State.Trapped (s t : State) (c code : Nat) (tpc tval : Word) : Prop where
  only : s.OnlyCore t c
  cause : (t.core c).get 0x11 = BitVec.ofNat 32 code
  tpc : (t.core c).get 0x12 = tpc &&& 0x7FFC#32
  tval : (t.core c).get 0x13 = tval
  pie : bit ((t.core c).get 0x14) 4 = (s.core c).ie
  ie : (t.core c).ie = false
  tm : (t.core c).tm = true
  pc : (t.core c).pc = ((s.core c).get 0x10 &&& 0x7F80#32) +
    if bit ((s.core c).get 0x10) 0 then BitVec.ofNat 32 (4 * (code % 2 ^ 31)) else 0
  rs : (t.core c).rs = if (s.core c).stepping then 0 else 1
  regs : ∀ r, (t.core c).s r = (s.core c).s r
  spad : (t.core c).spad = (s.core c).spad

/-- A byte of a core's scratchpad, and little-endian values of it (R12, R107). -/
def Core.spadByte (k : Core) (a : Nat) : Byte := k.spad.get byte0 a
def Core.spadHalf (k : Core) (a : Nat) : BitVec 16 := k.spadByte (a + 1) ++ k.spadByte a
def Core.spadWord (k : Core) (a : Nat) : Word := k.spadByte (a + 3) ++ k.spadByte (a + 2) ++ k.spadByte (a + 1) ++ k.spadByte a

/-- An instruction of core c has retired that stored the `n` low bytes of `v` at `a` and changed nothing else. -/
structure State.Stores (s t : State) (c : Nat) (npc : Word) (a n : Nat) (v : Word) : Prop where
  only : s.OnlyCore t c
  retired : (s.core c).Retired (t.core c) npc
  regs : ∀ r, (t.core c).s r = (s.core c).s r
  csrs : (s.core c).CsrsKept (t.core c) fun _ => False
  stored : ∀ i, i < n → (t.core c).spadByte (a + i) = BitVec.ofNat 8 (v.toNat >>> (8 * i))
  frame : ∀ x, x < a ∨ a + n ≤ x → (t.core c).spadByte x = (s.core c).spadByte x
  rest : t.core c = { s.core c with spad := (t.core c).spad, csr := (t.core c).csr, pc := npc, wait := none, stepping := false }

/-- Core c of `t` waits as `w` says, its instruction not done: the PC and the registers are as before (R53). -/
structure State.NowWaits (s t : State) (c : Nat) (w : Wait) : Prop where
  only : s.OnlyCore t c
  rs : (t.core c).rs = 2
  wait : (t.core c).wait = some w
  pc : (t.core c).pc = (s.core c).pc
  regs : ∀ r, (t.core c).s r = (s.core c).s r
  spad : (t.core c).spad = (s.core c).spad

/-- ISSUE of core c has retired: the descriptor at `a` stands at the end of the queue of engine fn[2:0] under the next ticket, which
RD holds; an ISSUE to VE took s24 to s31 with it (R68, R69, R71). -/
structure State.Issued (s t : State) (c : Nat) (rd ra : Reg) (fn : Nat) : Prop where
  only : s.OnlyCore t c
  wrote : (s.core c).Wrote (t.core c) rd (BitVec.ofNat 32 ((s.core c).eng (fn % 8)).next)
  pc : (t.core c).pc = (s.core c).pc + 4
  wait : (t.core c).wait = none
  eng : (t.core c).eng (fn % 8) =
    { (s.core c).eng (fn % 8) with
      queue := ((s.core c).eng (fn % 8)).queue ++
        [{ ticket := ((s.core c).eng (fn % 8)).next, addr := ((s.core c).s ra).toNat, recd := fn.testBit 4,
           bytes := (s.core c).spad.getN byte0 ((s.core c).s ra).toNat 32,
           bcast := if fn % 8 = 2 then [24, 25, 26, 27, 28, 29, 30, 31].map (s.core c).s else [],
           mb := fld ((s.core c).get 0x802) 0 16, iaddr := (s.core c).pc.toNat }]
      next := if ((s.core c).eng (fn % 8)).next = 0xFFFF then 1 else ((s.core c).eng (fn % 8)).next + 1 }
  engs : ∀ e, e ≠ fn % 8 → (t.core c).eng e = (s.core c).eng e
  spad : (t.core c).spad = (s.core c).spad

/-- Whether some queue that a mask selects holds a record (R67, R76). -/
def Core.SomeReady (k : Core) (mask : Nat) : Prop := ∃ q, q < 13 ∧ mask.testBit q = true ∧ k.queueRecs q ≠ []

/-- `v` is the mask of selected queues that are not empty (R76). -/
def Core.IsReady (k : Core) (mask : Nat) (v : Word) : Prop :=
  v.toNat < 2 ^ 13 ∧ ∀ q, q < 13 → v.toNat.testBit q = (mask.testBit q && !(k.queueRecs q).isEmpty)

/-! ### Events and the error log -/

/-- The registers in which an event or a log entry is noted on its way to firmware and to a host: pending bits of the event
controller, the saturation record, the log's count, completion-queue notices, a function's event bits and its count of messages. -/
def eventReg (k : Nat) : Prop :=
  (0x10400 ≤ k % 0x2000000 ∧ k % 0x2000000 < 0x10440) ∨ k % 0x2000000 = 0x1010 ∨ k % 0x2000000 = 0x1014 ∨
    k % 0x2000000 = 0x200C ∨ (0x50000 ≤ k % 0x2000000 ∧ k % 0x2000000 < 0x68000 ∧ k % 0x40 = 0x24) ∨
    k % 0x2000000 = 0x70008 ∨ k % 0x2000000 = 0x70110 ∨ k % 0x2000000 = 0x70114

/-- `t` is `s` but for the reporting of events: event registers, host function bookkeeping, the error log, and what the device
sends to a host. -/
structure State.Quiet (s t : State) : Prop where
  state : t = { s with regs := t.regs, fns := t.fns, out := t.out, elog := t.elog, elogOver := t.elogOver }
  regs : ∀ k, ¬ eventReg k → t.reg k = s.reg k
  out : ∃ l, t.out = s.out ++ l

/-- `t` is `s` but for device registers of which `may` holds and the reporting of events. -/
structure State.RegsBut (s t : State) (may : Nat → Prop) : Prop where
  state : t = { s with regs := t.regs, fns := t.fns, out := t.out, elog := t.elog, elogOver := t.elogOver }
  regs : ∀ k, ¬ may k → ¬ eventReg k → t.reg k = s.reg k

/-- Registers in which an access to device memory is counted and its errors are noted (R505, R515). -/
def tileReg (k : Nat) : Prop := 0x300000 ≤ k ∧ k < 0x400000

/-! ### Messages -/

/-- No C-die is in deep standby: a packet wakes none on its way (R27, R653). -/
def State.DiesUp (s : State) : Prop := ∀ d, d < 4 → s.dieState d ≠ 2

/-- The cluster of a core and every die on the way to it are awake: nothing has to wake for a packet (R130, R648, R651, R653). -/
def State.Awake (s : State) (c : Nat) : Prop := s.clState (coreCluster c) = 0 ∧ s.DiesUp

/-- `u` is `s` once the waits under way in core c have counted: only MU_TXSTALL and MU_RXWAIT may have risen, and their saturation may have been
reported (R412, R413). By how much they rise is the model's free value (log entry 5). -/
structure State.Counted (s u : State) (c : Nat) : Prop where
  state : u = { s with cores := u.cores, freeCtr := u.freeCtr, regs := u.regs, fns := u.fns, out := u.out, elog := u.elog, elogOver := u.elogOver }
  regs : ∀ k, ¬ eventReg k → u.reg k = s.reg k
  core : u.core c = { s.core c with csr := (u.core c).csr }
  csrs : ∀ n, n < 0x2B0 ∨ 0x2B4 ≤ n → (u.core c).get n = (s.core c).get n
  others : ∀ x, x ≠ c → u.core x = s.core x

/-- The registers of a core that an instruction names, its PC, its instruction memory, its run state and its wait are as before. -/
structure Core.RunKept (k k' : Core) : Prop where
  regs : ∀ r, k'.s r = k.s r
  pc : k'.pc = k.pc
  imem : k'.imem = k.imem
  wait : k'.wait = k.wait
  rs : k'.rs = k.rs

/-! ### Engines -/

/-- The oldest job of engine e of core c has ended with a fault code, 0 for none: CC_DONE holds its ticket, its record is queued where one
is asked for or the code is not 0, its semaphore has counted, and nothing else of the core has changed (R70, R91, R116). -/
structure State.Ended (s t : State) (c e : Nat) (j : Job) (fault detail : Nat) : Prop where
  run : (s.core c).RunKept (t.core c)
  spad : (t.core c).spad = (s.core c).spad
  eng : (t.core c).eng e = { (s.core c).eng e with
    jobs := ((s.core c).eng e).jobs.drop 1
    comp := ((s.core c).eng e).comp ++
      if j.desc.recd || fault != 0 then [compRecord j.desc.ticket e fault j.desc.addr detail] else [] }
  engs : ∀ f, f ≠ e → (t.core c).eng f = (s.core c).eng f
  done : (t.core c).get (0x48 + e) = BitVec.ofNat 32 j.desc.ticket
  faults : (t.core c).faults = (s.core c).faults ++ if fault ≠ 0 then [(e, j.desc.ticket)] else []
  sem : ∀ n, j.desc.ssem = some n → fault = 0 → (t.core c).sem n = (s.core c).sem n + 1
  others : ∀ x, x ≠ c → t.core x = s.core x
  mem : t.mem = s.mem
  net : t.net = s.net

/-- The job may end so: the completion queue has room, no record waits, the semaphore it signals is below 255 (R70, R116). -/
structure State.MayEnd (s : State) (c e : Nat) (j : Job) (fault detail : Nat) : Prop where
  room : ((s.core c).eng e).comp.length < 8
  held : ((s.core c).eng e).heldRec = none
  ticket : j.desc.ticket < 65536
  code : fault < 256
  plain : fault = 0 → detail = 0
  sem : ∀ n, j.desc.ssem = some n → (s.core c).sem n < 255

/-! ### Device memory -/

/-- `n` bytes at partition address `a` lie in one page, at offset `o` of tile `t`; no version record, release page or command port is
there, no region refuses an access to them, and none of their lines fails (R37-R39, R299, R485, R500, R504, R595). -/
structure State.Plain (s : State) (p a n t o : Nat) : Prop where
  map : s.chunks p a n = some [⟨t, o, n⟩]
  recs : s.recsIn p a n = []
  page : s.pageAt p a n = none
  port : s.cportAt p a n = none
  regions : ∀ who write, s.regionRefuses p who write ⟨t, o, n⟩ = false
  clean : errIn s.memErr 64 (memIdx t o) n = []

/-- A byte of an M-tile's storage. -/
def State.memByte (s : State) (t o : Nat) : Byte := s.mem.get byte0 (memIdx t o)

/-! ### Version records -/

/-- Record i of partition p lies at offset `o` of tile `t`; its lines 0 and 1 read without error, and no region refuses an access to it
(R297, R298, R500, R504). -/
structure State.RecordAt (s : State) (p i t o : Nat) : Prop where
  part : p < 64
  num : i < s.vrNum p
  place : s.recPlace p i = some (t, o)
  clean : ∀ l, l < 2 → errIn s.memErr 64 (memIdx t o + 32 * l) 32 = []
  regions : ∀ a n w, s.vrBase p + 128 * i ≤ a → a + n ≤ s.vrBase p + 128 * i + 128 → s.regionsRefuse p a n .ordinary w = none

/-- Line 0 of the record at offset `o` of tile `t` (R298). -/
def State.record (s : State) (t o : Nat) : VRec := VRec.parse (s.mem.getN byte0 (memIdx t o) 32)

/-- Line 0 of that record has been written as `r`; no other byte of memory, no core and no message has changed. -/
structure State.RecordSet (s u : State) (t o : Nat) (r : VRec) : Prop where
  mem : u.mem = Map.setN byte0 s.mem (memIdx t o) r.bytes
  memErr : u.memErr = s.memErr
  cores : u.cores = s.cores
  net : u.net = s.net

/-! ### Tables of the instruction chapter -/

/-- The two-operand operations of R56 with the value each writes (R56, R57). -/
def aluTable (a b : Word) : List (BitVec 6 × Word) :=
  [(0x00, a + b), (0x01, a - b), (0x02, a &&& b), (0x03, a ||| b), (0x04, a ^^^ b),
   (0x05, a <<< (b.toNat % 32)), (0x06, a >>> (b.toNat % 32)), (0x07, a.sshiftRight (b.toNat % 32)),
   (0x08, if a.toInt < b.toInt then 1 else 0), (0x09, if a.toNat < b.toNat then 1 else 0),
   (0x0A, if a.toInt ≤ b.toInt then a else b), (0x0B, if a.toInt ≤ b.toInt then b else a),
   (0x0C, if a.toNat ≤ b.toNat then a else b), (0x0D, if a.toNat ≤ b.toNat then b else a),
   (0x10, a * b), (0x11, BitVec.ofInt 32 (a.toInt * b.toInt / 2 ^ 32)),
   (0x12, BitVec.ofNat 32 (a.toNat * b.toNat / 2 ^ 32)),
   (0x14, if b = 0 then 0xFFFFFFFF#32 else BitVec.ofInt 32 (a.toInt.tdiv b.toInt)),
   (0x15, if b = 0 then 0xFFFFFFFF#32 else a / b),
   (0x16, if b = 0 then a else BitVec.ofInt 32 (a.toInt.tmod b.toInt)),
   (0x17, if b = 0 then a else a % b)]

/-- CSRs of the control core that a write changes by their access codes alone, with their RW bits, which are also the bits a read
returns (R85, R98). -/
def plainCsrs : List (BitVec 12 × Word) :=
  [(0x005, 0xFFFFFFFF#32), (0x006, 0xFFFF#32), (0x010, 0x7F81#32), (0x012, 0x7FFC#32), (0x014, 0x10#32), (0x015, 0xFFFFFFFF#32),
   (0x016, 0xFF#32), (0x018, 0xFF#32)]

/-- The FP functions that round, and those that take RB (R61). -/
def fpRounds : List (BitVec 6) := [0, 1, 2, 3, 4, 0x10, 0x11, 0x12, 0x13]
def fpUnary : List (BitVec 6) := [4, 0x0C, 0x0D, 0x0E, 0x10, 0x11, 0x12, 0x13]

/-- The rounding mode a code selects: 7 takes CC_FCSR.RM (R61). -/
def Core.roundingMode (k : Core) (code : Nat) : Nat := if code = 7 then fld (k.get 4) 8 3 else code

/-- A result with its flags makes the core trap on a NaN: NP is set, the first-NaN record is empty, its capture is enabled (R65, R183). -/
def Core.NanTrap (k : Core) (fl : FFlags) : Prop := fl.getLsbD 5 = true ∧ bit (k.get 0x60) 3 = false ∧ bit (k.get 0x800) 4 = true

/-- A binary32 pattern that is a NaN. -/
def IsNan32 (w : Word) : Prop := 0x7F800000 < w.toNat % 2 ^ 31

/-! ### Memory requests -/

/-- The answer of device `dev` to a frame: same class, channel, SEQ and TAG, to its sender (R465, R466). -/
def Wyn.answer (w : Wyn) (dev sub : Nat) (b : List Byte) : Wyn :=
  { cls := w.cls, nf := false, rg := false, rsp := true, lv := false, av := false, sub := sub, ch := w.ch, seq := w.seq, dst := w.src,
    src := devAddr dev, tag := w.tag, hops := 0, pri := 0, lseq := 0, lack := 0, ck := 0, payload := b }

/-! ### Reset -/

/-- The three stores every command reads and writes hold their canonical form: equal contents are equal data. -/
structure State.Canonical (s : State) : Prop where
  mem : Memory.wf s = true
  regs : Map.wf regReset s.regs = true
  cores : Map.wf core0 s.cores = true

/-- What a device may use up in its life: 64 raises of the minimum SVN (R708), 15 test unlocks (R704), 64 repair entries (R693). -/
structure State.ServiceBounds (s : State) : Prop where
  raises : s.svc.raises ≤ 64
  unlocks : s.svc.unlocks ≤ 15
  repair : s.repairRec.length ≤ 64

/-- Device registers of the PF whose writes act through their access codes alone, with their RW bits, which are also the bits a read
returns (R13, R155, R327, R341, R400, R451, R490, R493, R515, R549, R588, R608, R675, R680). -/
def plainRegs : List (Nat × Word) :=
  [(0x10000, 0xFFFFFFFF#32), (0x20008, 0xFF#32), (0x2005C, 0x1#32), (0x70014, 0xFFFF#32), (0x80080, 0x801F0FFF#32), (0x91044, 0xFFFFFFFF#32),
   (0xA000C, 0xFFFFFFFF#32), (0xA8010, 0x8000FFFF#32), (0xB0010, 0xFFFFC000#32), (0xC0034, 0xFFFFFFFF#32), (0x104010, 0x3FFFFFFF#32),
   (0x200008, 0xFFFFFFFF#32), (0x320010, 0xFFFFFF#32), (0x426000, 0xFFFFFFFF#32), (0x800040, 0xFF#32)]

/-- Device registers whose Reset column is not 0, in their first copy, with the value it gives (R48, R155, R327, R328, R341, R361-R364, R400, R451-R455, R488-R493, R515, R516, R549-R553, R590, R608, R674-R680). -/
def resetValues : List (Nat × Word) :=
  [(0x104, 0x10#32), (0x1008, 0x3E80000#32), (0x10508, 0x1#32), (0x10600, 0x4#32), (0x10604, 0x3FF#32), (0x10700, 0x8#32)] ++
  [(0x2001C, 0x4140A#32), (0x20100, 0x1000120#32), (0x20108, 0x320144#32), (0x20110, 0x640168#32), (0x20118, 0x104#32), (0x20120, 0x108#32)] ++
  [(0x20128, 0x10C#32), (0x20130, 0x121#32), (0x20138, 0x105#32), (0x20140, 0x3E80145#32), (0x20148, 0x129#32), (0x20150, 0xA0122#32)] ++
  [(0x20154, 0x1#32), (0x20158, 0x106#32), (0x20160, 0x146#32), (0x20164, 0x7#32), (0x20168, 0x10A#32), (0x20200, 0xAAAAAAAA#32)] ++
  [(0x78000, 0x20140000#32), (0x78004, 0x1000000#32), (0x78008, 0x2000000#32), (0x7800C, 0x1#32), (0x80000, 0x800#32), (0x8000C, 0x1#32)] ++
  [(0x80038, 0x1#32), (0x8003C, 0xC350#32), (0x8006C, 0xEE7#32), (0x91040, 0x4#32), (0x91048, 0x63#32), (0xA0000, 0x4000#32)] ++
  [(0xA0004, 0x1#32), (0xA0028, 0x2710#32), (0xA8000, 0x3E8#32), (0xA8004, 0x2710#32), (0xB000C, 0x10000#32), (0xC000C, 0x3F800000#32)] ++
  [(0xC0014, 0xFFFFFFFF#32), (0xC0030, 0xBE00#32), (0x100000, 0x1#32), (0x100004, 0xFFFF#32), (0x100010, 0x8032032#32), (0x104000, 0xFF#32)] ++
  [(0x104008, 0x88B5#32), (0x10400C, 0xBDEC#32), (0x104010, 0x34C53B64#32), (0x104014, 0x6#32), (0x200000, 0xA06#32), (0x200010, 0x2400#32)] ++
  [(0x200014, 0x2#32), (0x20001C, 0xFAC688#32), (0x200020, 0xFF302000#32), (0x200024, 0xFFFF#32), (0x20002C, 0x3#32), (0x200100, 0x1#32)] ++
  [(0x200140, 0x1010101#32), (0x200180, 0x10#32), (0x300000, 0x640001#32), (0x300008, 0x1801#32), (0x300010, 0x100#32), (0x300200, 0x1010101#32)] ++
  [(0x400020, 0x1000#32), (0x422000, 0x10000#32), (0x424000, 0xFF0001#32), (0x424004, 0xFF00FF#32), (0x42400C, 0x3F800000#32), (0x426000, 0x3F800000#32)] ++
  [(0x427010, 0x3F800000#32), (0x427028, 0x3F800000#32), (0x42702C, 0x80000000#32), (0x800040, 0x40#32)]

/-- CSRs whose Reset column is not 0 (R85, R102, R151, R152, R186, R188, R247, R415). -/
def resetCsrs : List (Nat × Word) :=
  [(0x30, 0x17D79#32), (0x31, 0x17D79#32), (0x40, 0xFFFF#32), (0x41, 0x1#32), (0x141, 0x20#32), (0x200, 0x406203FF#32)] ++
  [(0x2A8, 0x40000000#32), (0x300, 0x40#32), (0x800, 0x1F#32), (0x841, 0xFFFF#32), (0x8A1, 0x3F800000#32)]

end Sys2Proof.Machine
end

