-- ==== Sys2Proof/Certificates/Slice0/Obligations.lean ====
section
/-!
DEFINITION. What is claimed of the block: one statement for each group of commands, with what each command leaves unchanged, and statements about
every step. A statement says of each command named in it what its next state is, under hypotheses on the state and the operands alone.
-/

open Sys2Proof Sys2Proof.Machine

/-- R58: an immediate instruction of a ready core writes its result to RD and retires; a required-zero field that is not 0
raises ILLEGAL (R55). -/
def Obligations.ImmediateInstructionsWriteTheirResult : Prop :=
  ∀ (s : State) (c : Nat) (rd ra : Reg) (imm : BitVec 16), s.Ready c →
    let a := (s.core c).s ra
    let n := (s.core c).pc + 4
    (∃ t, exec (.addi c rd ra imm) s = .next t ∧ s.Writes t c n rd (a + imm.signExtend 32)) ∧
    (∃ t, exec (.andi c rd ra imm) s = .next t ∧ s.Writes t c n rd (a &&& imm.zeroExtend 32)) ∧
    (∃ t, exec (.ori c rd ra imm) s = .next t ∧ s.Writes t c n rd (a ||| imm.zeroExtend 32)) ∧
    (∃ t, exec (.xori c rd ra imm) s = .next t ∧ s.Writes t c n rd (a ^^^ imm.zeroExtend 32)) ∧
    (∃ t, exec (.slti c rd ra imm) s = .next t ∧ s.Writes t c n rd (if a.toInt < imm.toInt then 1 else 0)) ∧
    (∃ t, exec (.sltiu c rd ra imm) s = .next t ∧ s.Writes t c n rd (if a.toNat < (imm.signExtend 32).toNat then 1 else 0)) ∧
    (imm.toNat < 32 →
      (∃ t, exec (.slli c rd ra imm) s = .next t ∧ s.Writes t c n rd (a <<< imm.toNat)) ∧
      (∃ t, exec (.srli c rd ra imm) s = .next t ∧ s.Writes t c n rd (a >>> imm.toNat)) ∧
      (∃ t, exec (.srai c rd ra imm) s = .next t ∧ s.Writes t c n rd (a.sshiftRight imm.toNat))) ∧
    (∃ t, exec (.lui c rd 0 imm) s = .next t ∧ s.Writes t c n rd (BitVec.ofNat 32 (imm.toNat * 2 ^ 16))) ∧
    ((s.core c).tm = false →
      (32 ≤ imm.toNat →
        (∃ t, exec (.slli c rd ra imm) s = .next t ∧ s.Trapped t c 1 (s.core c).pc 0) ∧
        (∃ t, exec (.srli c rd ra imm) s = .next t ∧ s.Trapped t c 1 (s.core c).pc 0) ∧
        (∃ t, exec (.srai c rd ra imm) s = .next t ∧ s.Trapped t c 1 (s.core c).pc 0)) ∧
      (ra ≠ 0 → ∃ t, exec (.lui c rd ra imm) s = .next t ∧ s.Trapped t c 1 (s.core c).pc 0))

/-- R56, R57: an ALU operation of a ready core writes its result to RD and retires, and never traps; a reserved FN, a nonzero RC,
or a nonzero RB where it must be 0 raises ILLEGAL. CLZ, CTZ and POPC are said by what they count. -/
def Obligations.AluOperationsWriteTheirResult : Prop :=
  ∀ (s : State) (c : Nat) (rd ra rb rc : Reg), s.Ready c →
    let a := (s.core c).s ra
    let n := (s.core c).pc + 4
    (∀ e ∈ aluTable a ((s.core c).s rb), ∃ t, exec (.alu c rd ra rb 0 e.1) s = .next t ∧ s.Writes t c n rd e.2) ∧
    (∃ t v, exec (.alu c rd ra 0 0 0x18) s = .next t ∧ s.Writes t c n rd v ∧ v.toNat ≤ 32 ∧
      (∀ i, 32 - v.toNat ≤ i → i < 32 → a.toNat.testBit i = false) ∧ (v.toNat < 32 → a.toNat.testBit (31 - v.toNat) = true)) ∧
    (∃ t v, exec (.alu c rd ra 0 0 0x19) s = .next t ∧ s.Writes t c n rd v ∧ v.toNat ≤ 32 ∧
      (∀ i, i < v.toNat → a.toNat.testBit i = false) ∧ (v.toNat < 32 → a.toNat.testBit v.toNat = true)) ∧
    (∃ t v, exec (.alu c rd ra 0 0 0x1A) s = .next t ∧ s.Writes t c n rd v ∧
      v.toNat = ((List.range 32).filter a.toNat.testBit).length) ∧
    ((s.core c).tm = false →
      (∀ fn : BitVec 6, fn ∈ [0x0E, 0x0F, 0x13] ∨ 0x1B ≤ fn.toNat →
        ∃ t, exec (.alu c rd ra rb rc fn) s = .next t ∧ s.Trapped t c 1 (s.core c).pc 0) ∧
      (∀ fn : BitVec 6, rc ≠ 0 → ∃ t, exec (.alu c rd ra rb rc fn) s = .next t ∧ s.Trapped t c 1 (s.core c).pc 0) ∧
      (∀ fn : BitVec 6, fn ∈ [0x18, 0x19, 0x1A] → rb ≠ 0 →
        ∃ t, exec (.alu c rd ra rb 0 fn) s = .next t ∧ s.Trapped t c 1 (s.core c).pc 0))

/-- R61, R65: an fp32 instruction of a ready core writes its result to RD, ORs its exception flags into CC_FCSR.FLAGS and retires;
where NP is set, the first-NaN record is empty and its capture is enabled, the record is captured and NAN_CC is raised after the
result is written. A reserved FN, rounding code 5 or 6 in an instruction that rounds, or a required-zero field raises ILLEGAL. -/
def Obligations.Fp32InstructionsWriteResultAndFlags : Prop :=
  ∀ (s : State) (c : Nat) (rd ra rb rc : Reg) (fn : BitVec 6), s.Ready c →
    let k := s.core c
    let run (i : Instr) (r : Word × FFlags) : Prop :=
      (¬ k.NanTrap r.2 → ∃ t, exec i s = .next t ∧ s.WritesBut t c (k.pc + 4) rd r.1 (· = 4) ∧
        (t.core c).get 4 = (k.get 4 ||| BitVec.ofNat 32 r.2.toNat)) ∧
      (k.NanTrap r.2 → k.tm = false → ∃ t, exec i s = .next t ∧ s.OnlyCore t c ∧ k.Wrote (t.core c) rd r.1 ∧
        (t.core c).get 4 = (k.get 4 ||| BitVec.ofNat 32 r.2.toNat) ∧ bit ((t.core c).get 0x60) 3 = true ∧
        (t.core c).get 0x11 = 9 ∧ (t.core c).get 0x12 = ((k.pc + 4) &&& 0x7FFC#32) ∧ (t.core c).tm = true)
    (fn.toNat ≤ 0x13 → rc.toNat < 8 → (fn ∈ fpUnary → rb = 0) → (fn ∈ fpRounds → rc ≠ 5 ∧ rc ≠ 6) →
      run (.fp c rd ra rb rc fn) (fpOp fn.toNat (if fn ∈ fpRounds then k.roundingMode rc.toNat else 0) (k.s ra) (k.s rb))) ∧
    (fn.toNat < 32 → fn.toNat / 4 ≠ 5 → fn.toNat / 4 ≠ 6 →
      run (.fma c rd ra rb rc fn) (fmaOp (fn.toNat % 4) (k.roundingMode (fn.toNat / 4)) (k.s ra) (k.s rb) (k.s rc))) ∧
    (k.tm = false →
      ((0x13 < fn.toNat ∨ 8 ≤ rc.toNat ∨ (fn ∈ fpUnary ∧ rb ≠ 0) ∨ (fn ∈ fpRounds ∧ (rc = 5 ∨ rc = 6))) →
        ∃ t, exec (.fp c rd ra rb rc fn) s = .next t ∧ s.Trapped t c 1 k.pc 0) ∧
      ((32 ≤ fn.toNat ∨ fn.toNat / 4 = 5 ∨ fn.toNat / 4 = 6) →
        ∃ t, exec (.fma c rd ra rb rc fn) s = .next t ∧ s.Trapped t c 1 k.pc 0))

/-- R61-R64: what the fp32 operations give where the rules name the bits. A NaN operand gives the first NaN operand with its quiet
bit set; a comparison with a NaN gives 0; a NaN converts to 0 with the invalid flag; FNEG, FABS and FCPYS change only the sign. -/
def Obligations.Fp32SpecialValues : Prop :=
  ∀ (mode : RMode) (a b d : Word),
    fpOp 0x0D mode a b = (a ^^^ 0x80000000#32, 0) ∧
    fpOp 0x0E mode a b = (a &&& 0x7FFFFFFF#32, 0) ∧
    fpOp 0x0F mode a b = (a &&& 0x7FFFFFFF#32 ||| b &&& 0x80000000#32, 0) ∧
    (IsNan32 a →
      (∀ fn ∈ [0x00, 0x01, 0x02, 0x03, 0x04, 0x05, 0x06], (fpOp fn mode a b).1 = a ||| 0x400000#32) ∧
      (∀ fn ∈ [0x09, 0x0A, 0x0B], (fpOp fn mode a b).1 = 0) ∧ (fpOp 0x0A mode a b).2 = flNV ∧ (fpOp 0x0B mode a b).2 = flNV ∧
      fpOp 0x12 mode a b = (0, flNV) ∧ fpOp 0x13 mode a b = (0, flNV) ∧
      (∀ var, (fmaOp var mode a b d).1 = a ||| 0x400000#32)) ∧
    (¬ IsNan32 a → IsNan32 b →
      (∀ fn ∈ [0x00, 0x01, 0x02, 0x03, 0x05, 0x06], (fpOp fn mode a b).1 = b ||| 0x400000#32) ∧
      (∀ fn ∈ [0x09, 0x0A, 0x0B], (fpOp fn mode a b).1 = 0) ∧ (fpOp 0x0A mode a b).2 = flNV ∧ (fpOp 0x0B mode a b).2 = flNV ∧
      (∀ var, (fmaOp var mode a b d).1 = b ||| 0x400000#32))

/-- R59: a load of a ready core from an aligned address in the scratchpad writes the bytes, extended as its mnemonic says, to RD and
retires. A correctable word does not disturb it; an uncorrectable one raises SPAD_UE; a misaligned address raises MISALIGN before
an address outside the scratchpad raises ACCESS (R90). -/
def Obligations.LoadsReadTheScratchpad : Prop :=
  ∀ (s : State) (c : Nat) (rd ra : Reg) (imm : BitVec 16), s.Ready c →
    let k := s.core c
    let a := k.s ra + imm.signExtend 32
    let x := a.toNat
    let load (i : Instr) (n : Nat) (v : Word) : Prop :=
      (x % n = 0 → x + n ≤ 0x30000 →
        (errIn k.spadErr 8 x n = [] → ∃ t, exec i s = .next t ∧ s.Writes t c (k.pc + 4) rd v) ∧
        ((∀ e ∈ errIn k.spadErr 8 x n, e.2 = 1) → ∃ t, exec i s = .next t ∧ k.Wrote (t.core c) rd v ∧ (t.core c).pc = k.pc + 4) ∧
        ((∃ e ∈ errIn k.spadErr 8 x n, e.2 ≠ 1) → k.tm = false →
          ∃ t, exec i s = .next t ∧ (t.core c).get 0x11 = 6 ∧ (t.core c).get 0x12 = (k.pc &&& 0x7FFC#32) ∧ (t.core c).get 0x13 = a ∧
            (t.core c).tm = true ∧ (∀ r, (t.core c).s r = k.s r) ∧ (t.core c).spad = k.spad)) ∧
      (k.tm = false → x % n ≠ 0 → ∃ t, exec i s = .next t ∧ s.Trapped t c 4 k.pc a) ∧
      (k.tm = false → x % n = 0 → 0x30000 < x + n → ∃ t, exec i s = .next t ∧ s.Trapped t c 5 k.pc a)
    load (.lb c rd ra imm) 1 ((k.spadByte x).signExtend 32) ∧
    load (.lbu c rd ra imm) 1 ((k.spadByte x).zeroExtend 32) ∧
    load (.lh c rd ra imm) 2 ((k.spadHalf x).signExtend 32) ∧
    load (.lhu c rd ra imm) 2 ((k.spadHalf x).zeroExtend 32) ∧
    load (.lw c rd ra imm) 4 (k.spadWord x)

/-- R59: a store of a ready core to an aligned address in the scratchpad writes the low bytes of the register its RD field names,
changes no other byte, and retires; a faulting store does not write. -/
def Obligations.StoresWriteTheScratchpad : Prop :=
  ∀ (s : State) (c : Nat) (rd ra : Reg) (imm : BitVec 16), s.Ready c →
    let k := s.core c
    let a := k.s ra + imm.signExtend 32
    let x := a.toNat
    let store (i : Instr) (n : Nat) : Prop :=
      (x % n = 0 → x + n ≤ 0x30000 → errIn k.spadErr 8 x n = [] → ∃ t, exec i s = .next t ∧ s.Stores t c (k.pc + 4) x n (k.s rd)) ∧
      (k.tm = false → x % n ≠ 0 → ∃ t, exec i s = .next t ∧ s.Trapped t c 4 k.pc a) ∧
      (k.tm = false → x % n = 0 → 0x30000 < x + n → ∃ t, exec i s = .next t ∧ s.Trapped t c 5 k.pc a)
    store (.sb c rd ra imm) 1 ∧ store (.sh c rd ra imm) 2 ∧ store (.sw c rd ra imm) 4

/-- R60: a branch of a ready core moves the PC by four times its offset if its condition holds, else to the next instruction, and
writes no register; JAL and JALR write PC + 4 to RD and jump. The target may lie outside instruction memory: the next instruction, an ADDI
for instance, then raises FETCH there. -/
def Obligations.BranchesAndJumpsMoveThePc : Prop :=
  ∀ (s : State) (c : Nat) (rd ra rb : Reg) (off imm : BitVec 16) (joff : BitVec 21), s.Ready c →
    let k := s.core c
    let a := k.s ra
    let b := k.s rb
    let target (p : Prop) [Decidable p] : Word := if p then k.pc + 4 * off.signExtend 32 else k.pc + 4
    let go (i : Instr) (npc : Word) (r : Reg) (v : Word) : Prop :=
      ∃ t, exec i s = .next t ∧ s.Writes t c npc r v ∧
        (0x6000 ≤ npc.toNat → k.tm = false → k.stepping = false → ∃ u, exec (.addi c 0 0 0) t = .next u ∧ t.Trapped u c 2 npc npc)
    go (.beq c ra rb off) (target (a = b)) 0 0 ∧
    go (.bne c ra rb off) (target (a ≠ b)) 0 0 ∧
    go (.blt c ra rb off) (target (a.toInt < b.toInt)) 0 0 ∧
    go (.bge c ra rb off) (target (b.toInt ≤ a.toInt)) 0 0 ∧
    go (.bltu c ra rb off) (target (a.toNat < b.toNat)) 0 0 ∧
    go (.bgeu c ra rb off) (target (b.toNat ≤ a.toNat)) 0 0 ∧
    go (.jal c rd joff) (k.pc + 4 * joff.signExtend 32) rd (k.pc + 4) ∧
    go (.jalr c rd ra imm) ((a + imm.signExtend 32) &&& 0xFFFFFFFC#32) rd (k.pc + 4)

/-- R83: a CSR instruction of a ready core reads the CSR into RD and then writes the operand, the CSR OR the operand, or the CSR AND
NOT the operand, by access codes (R13); the RS and RC forms with s0 or 0 make no write and give any register's value, a high half noting
its low half (R86), a count of time a value the model leaves free (log entry 5); a number with no register raises ILLEGAL. -/
def Obligations.CsrInstructionsReadThenWrite : Prop :=
  ∀ (s : State) (c : Nat) (rd ra : Reg) (u : BitVec 5) (num : BitVec 12), s.Ready c →
    let k := s.core c
    (findCsr num.toNat = none → k.tm = false →
      (∃ t, exec (.csrrw c rd ra num) s = .next t ∧ s.Trapped t c 1 k.pc 0) ∧
      (∃ t, exec (.csrrs c rd ra num) s = .next t ∧ s.Trapped t c 1 k.pc 0) ∧
      (∃ t, exec (.csrrc c rd ra num) s = .next t ∧ s.Trapped t c 1 k.pc 0) ∧
      (∃ t, exec (.csrrwi c rd u num) s = .next t ∧ s.Trapped t c 1 k.pc 0) ∧
      (∃ t, exec (.csrrsi c rd u num) s = .next t ∧ s.Trapped t c 1 k.pc 0) ∧
      (∃ t, exec (.csrrci c rd u num) s = .next t ∧ s.Trapped t c 1 k.pc 0)) ∧
    (∀ r, findCsr num.toNat = some r → k.latch.get none0 num.toNat = none →
      ∀ i ∈ [Instr.csrrs c rd 0 num, Instr.csrrc c rd 0 num, Instr.csrrsi c rd 0 num, Instr.csrrci c rd 0 num],
        (k.timed num.toNat = false →
          ∃ t u, exec i s = .next t ∧ s.Counted u c ∧ (num.toNat < 0x2B0 ∨ 0x2B4 ≤ num.toNat → u = s) ∧
            k.Wrote (t.core c) rd (u.csrPeek c num.toNat &&& BitVec.ofNat 32 r.rd) ∧ (t.core c).pc = k.pc + 4 ∧
            (csrHiHalf num.toNat = true → rd ≠ 0 → (t.core c).latch.get none0 (num.toNat - 1) = some (u.csrPeek c (num.toNat - 1)))) ∧
        (k.timed num.toNat = true →
          ∃ t v, exec i s = .next t ∧ k.Wrote (t.core c) rd v ∧ (t.core c).pc = k.pc + 4 ∧
            (tickBit num.toNat ≠ none → v.toNat ≤ (k.get num.toNat).toNat))) ∧
    (∀ mask, (num, mask) ∈ plainCsrs → k.latch.get none0 num.toNat = none →
      let old := k.get num.toNat &&& mask
      let run (i : Instr) (v : Word) : Prop :=
        ∃ t, exec i s = .next t ∧ s.WritesBut t c (k.pc + 4) rd old (· = num.toNat) ∧
          (t.core c).get num.toNat = (k.get num.toNat &&& ~~~mask) ||| (v &&& mask)
      run (.csrrw c rd ra num) (k.s ra) ∧ run (.csrrs c rd ra num) (old ||| k.s ra) ∧ run (.csrrc c rd ra num) (old &&& ~~~(k.s ra)) ∧
      run (.csrrwi c rd u num) (u.zeroExtend 32) ∧ run (.csrrsi c rd u num) (old ||| u.zeroExtend 32) ∧
      run (.csrrci c rd u num) (old &&& ~~~(u.zeroExtend 32)))

/-- R92, R94, R95: TRAP and BRK take the trap they name, TRET returns from one, HALT retires and halts; TRET outside a handler and any
nonzero field that must be 0 raise ILLEGAL. TRAP's CC_TPC is the next instruction, BRK's is BRK itself. -/
def Obligations.SystemInstructionsTrapReturnAndHalt : Prop :=
  ∀ (s : State) (c : Nat) (rd ra : Reg) (imm : BitVec 16), s.Ready c →
    let k := s.core c
    (k.tm = false → ∀ n : Nat, n < 256 → ∃ t, exec (.trap c 0 0 (BitVec.ofNat 16 (256 * n))) s = .next t ∧ s.OnlyCore t c ∧
      (t.core c).get 0x11 = 7 ∧ (t.core c).get 0x12 = ((k.pc + 4) &&& 0x7FFC#32) ∧ (t.core c).get 0x13 = BitVec.ofNat 32 n ∧
      bit ((t.core c).get 0x14) 4 = k.ie ∧ (t.core c).ie = false ∧ (t.core c).tm = true ∧ (∀ r, (t.core c).s r = k.s r)) ∧
    (k.tm = false → ∃ t, exec (.brk c 0 0 1) s = .next t ∧ s.Trapped t c 8 k.pc 0) ∧
    (k.tm = true → ∃ t, exec (.tret c 0 0 2) s = .next t ∧ s.OnlyCore t c ∧ k.Retired (t.core c) (k.get 0x12) ∧
      (t.core c).ie = bit (k.get 0x14) 4 ∧ (t.core c).tm = false ∧ (∀ r, (t.core c).s r = k.s r) ∧
      (∀ n, n ≠ 1 → n ≠ 0x24 → n ≠ 0x25 → (t.core c).get n = k.get n)) ∧
    (∃ t, exec (.halt c 0 0 3) s = .next t ∧ s.OnlyCore t c ∧ (t.core c).rs = 0 ∧ (t.core c).pc = k.pc + 4 ∧ (t.core c).wait = none ∧
      (∀ r, (t.core c).s r = k.s r) ∧ (∀ n, n ≠ 1 → n ≠ 0x24 → n ≠ 0x25 → (t.core c).get n = k.get n)) ∧
    (k.tm = false → ∃ t, exec (.tret c 0 0 2) s = .next t ∧ s.Trapped t c 1 k.pc 0) ∧
    (k.tm = false → (rd ≠ 0 ∨ ra ≠ 0 ∨ 256 ≤ imm.toNat) →
      (∃ t, exec (.brk c rd ra imm) s = .next t ∧ s.Trapped t c 1 k.pc 0) ∧
      (∃ t, exec (.tret c rd ra imm) s = .next t ∧ s.Trapped t c 1 k.pc 0) ∧
      (∃ t, exec (.halt c rd ra imm) s = .next t ∧ s.Trapped t c 1 k.pc 0)) ∧
    (k.tm = false → (rd ≠ 0 ∨ ra ≠ 0 ∨ imm.toNat % 256 ≠ 0) → ∃ t, exec (.trap c rd ra imm) s = .next t ∧ s.Trapped t c 1 k.pc 0)

/-- R55: where ILLEGAL, FETCH, IMEM_UE and their like come from before an instruction runs: a ready core's PC outside instruction
memory raises FETCH with the PC, whatever the command; a word that reads uncorrectable raises IMEM_UE (R50, R52). -/
def Obligations.FetchingRaisesFetchAndImemUe : Prop :=
  ∀ (s : State) (c : Nat) (rd ra : Reg) (imm : BitVec 16), isCore c = true → (s.core c).rs = 1 → s.clocked c = true →
    (s.core c).tm = false →
    let k := s.core c
    (0x6000 ≤ k.pc.toNat → ∃ t, exec (.addi c rd ra imm) s = .next t ∧ s.Trapped t c 2 k.pc k.pc) ∧
    (k.pc.toNat < 0x6000 → 2 ≤ k.imemErr.get nat0 (k.pc.toNat / 4) →
      ∃ t, exec (.addi c rd ra imm) s = .next t ∧ (t.core c).get 0x11 = 3 ∧ (t.core c).get 0x12 = (k.pc &&& 0x7FFC#32) ∧
        (t.core c).get 0x13 = k.pc ∧ (t.core c).tm = true ∧ (∀ r, (t.core c).s r = k.s r) ∧ (∀ x, x ≠ c → t.core x = s.core x))

/-- R93, R94: a core in RUN or WAIT with an enabled pending interrupt takes the lowest one: the handler's address, CC_TCAUSE with bit 31
and code 0x10 + n, CC_TPC at the interrupted instruction, and the wait is left, its count of time kept; without one nothing else changes. -/
def Obligations.AnInterruptIsTakenLowestFirst : Prop :=
  ∀ (s : State) (c n : Nat), isCore c = true → ((s.core c).rs = 1 ∨ (s.core c).rs = 2) →
    let k := s.core c
    (n < 8 → k.ie = true → k.tm = false → bit k.tpend n = true → bit (k.get 0x16) n = true →
      (∀ m, m < n → bit k.tpend m = false ∨ bit (k.get 0x16) m = false) →
      ∃ t u, exec (.interrupt c) s = .next t ∧ s.Counted u c ∧ u.Trapped t c (16 + n + 2 ^ 31) k.pc (k.irqVal n) ∧ (t.core c).wait = none) ∧
    ((k.ie = false ∨ k.tm = true ∨ ∀ m, m < 8 → bit k.tpend m = false ∨ bit (k.get 0x16) m = false) →
      ∃ t, exec (.interrupt c) s = .next t ∧ s.Counted t c)

/-- R76: POLLQ gives the mask of selected queues that are not empty and never waits; WAITQ does the same if there is one, and otherwise
enters WAIT until one is; the wake-up then ends it with that mask. -/
def Obligations.PollqAndWaitqSelectNonEmptyQueues : Prop :=
  ∀ (s : State) (c : Nat) (rd ra rb rc : Reg) (fn : BitVec 6), s.Ready c →
    let k := s.core c
    let mask := fld (k.s ra) 0 13
    (∃ t v, exec (.pollq c rd ra 0 0 0) s = .next t ∧ k.IsReady mask v ∧ s.Writes t c (k.pc + 4) rd v) ∧
    (k.SomeReady mask → ∃ t v, exec (.waitq c rd ra 0 0 0) s = .next t ∧ k.IsReady mask v ∧ s.Writes t c (k.pc + 4) rd v) ∧
    (¬ k.SomeReady mask → ∃ t, exec (.waitq c rd ra 0 0 0) s = .next t ∧ s.NowWaits t c (.waitq rd mask)) ∧
    (k.tm = false → (rb ≠ 0 ∨ rc ≠ 0 ∨ fn ≠ 0) →
      (∃ t, exec (.pollq c rd ra rb rc fn) s = .next t ∧ s.Trapped t c 1 k.pc 0) ∧
      (∃ t, exec (.waitq c rd ra rb rc fn) s = .next t ∧ s.Trapped t c 1 k.pc 0))

/-- R53, R68, R76, R78, R126: what a waiting core's instruction waits for ends it as the instruction would have ended: WAITQ with its mask,
FENCE once its conditions hold, where the command says that other devices have accepted what they were sent (the model's choice, log
entry 61); until then, and for a core that does not wait so, nothing changes. -/
def Obligations.WaitsEndWhenTheirConditionHolds : Prop :=
  ∀ (s : State) (c : Nat),
    let k := s.core c
    (∀ rd mask, s.Waits c (.waitq rd mask) → k.SomeReady mask →
      ∃ t u v, exec (.waitqWake c) s = .next t ∧ s.Counted u c ∧ k.IsReady mask v ∧ u.Writes t c (k.pc + 4) rd v) ∧
    (∀ rd mask, s.Waits c (.waitq rd mask) → ¬ k.SomeReady mask → exec (.waitqWake c) s = .next s) ∧
    (∀ mask, s.Waits c (.fence mask) → (k.farAccepted mask).fenceDone mask = true →
      ∃ t, exec (.fenceComplete c) s = .next t ∧ (s.setCore c (k.farAccepted mask)).Writes t c (k.pc + 4) 0 0) ∧
    (∀ mask, s.Waits c (.fence mask) → (k.farAccepted mask).fenceDone mask = false → exec (.fenceComplete c) s = .next s) ∧
    (k.wait = none → exec (.waitqWake c) s = .next s ∧ exec (.fenceComplete c) s = .next s ∧ exec (.sendResume c) s = .next s ∧
      exec (.issueResume c) s = .next s)

/-- R78: FENCE of a ready core retires at once where every selected condition holds, and otherwise waits; a zero mask has no effect.
A nonzero field that must be 0 raises ILLEGAL. -/
def Obligations.FenceWaitsForItsConditions : Prop :=
  ∀ (s : State) (c : Nat) (rd ra : Reg) (imm : BitVec 16), s.Ready c →
    let k := s.core c
    let m := imm.toNat
    let holds : Prop := (m.testBit 0 → k.sendq = []) ∧ (m.testBit 1 → k.sacc = [] ∧ k.saccFar = []) ∧
      (m.testBit 2 → ∀ e, e < 4 → (k.eng e).queue = [] ∧ (k.eng e).jobs = []) ∧ (m.testBit 3 → (k.eng 4).queue = [] ∧ (k.eng 4).jobs = [])
    (m < 16 → holds → ∃ t, exec (.fence c 0 0 imm) s = .next t ∧ s.Writes t c (k.pc + 4) 0 0) ∧
    (m < 16 → ¬ holds → ∃ t, exec (.fence c 0 0 imm) s = .next t ∧ s.NowWaits t c (.fence m)) ∧
    (k.tm = false → (rd ≠ 0 ∨ ra ≠ 0 ∨ 16 ≤ m) → ∃ t, exec (.fence c rd ra imm) s = .next t ∧ s.Trapped t c 1 k.pc 0)

/-- R74: RECV of a ready core removes the oldest record of the selected queue, writes it to rb and 1 plus the number of records left to
RD; an empty queue gives 0 and writes nothing; a reserved queue is ILLEGAL before a bad rb is ACCESS, and a faulting RECV removes
nothing. That a completion record held back for want of room is not counted as left is the model's choice (log entry 88). -/
def Obligations.RecvRemovesTheOldestRecord : Prop :=
  ∀ (s : State) (c : Nat) (rd ra rb rc : Reg) (fn : BitVec 6), s.Ready c →
    let k := s.core c
    let q := fld (k.s ra) 0 4
    let a := (k.s rb).toNat
    (q ≤ 12 → a % 16 = 0 → a + 16 ≤ 0x30000 →
      (k.queueRecs q = [] → ∃ t, exec (.recv c rd ra rb 0 0) s = .next t ∧ s.Writes t c (k.pc + 4) rd 0) ∧
      (∀ r tl, k.queueRecs q = r :: tl → r.length = 4 → errIn k.spadErr 8 a 16 = [] →
        ∃ t, exec (.recv c rd ra rb 0 0) s = .next t ∧ k.Wrote (t.core c) rd (BitVec.ofNat 32 (1 + tl.length)) ∧
          (t.core c).pc = k.pc + 4 ∧
          (∀ i, i < 16 → (t.core c).spadByte (a + i) = (r.flatMap fun w => leBytes 4 w.toNat).getD i 0) ∧
          (∀ x, x < a ∨ a + 16 ≤ x → (t.core c).spadByte x = k.spadByte x) ∧
          ((k.eng (q - 8)).heldRec = none → (t.core c).queueRecs q = tl) ∧
          (∀ x, x ≠ c → t.core x = s.core x) ∧ t.mem = s.mem)) ∧
    (k.tm = false → (rc ≠ 0 ∨ fn ≠ 0 ∨ 12 < q) → ∃ t, exec (.recv c rd ra rb rc fn) s = .next t ∧ s.Trapped t c 1 k.pc 0) ∧
    (k.tm = false → q ≤ 12 → (a % 16 ≠ 0 ∨ 0x30000 < a + 16) →
      ∃ t, exec (.recv c rd ra rb 0 0) s = .next t ∧ s.Trapped t c 5 k.pc (k.s rb))

/-- R68, R69, R71: ISSUE of a ready core copies the 32-byte descriptor into the selected engine's queue and writes its ticket to RD; a
full queue makes it wait, or with NB write 0; a waiting ISSUE goes on once there is room; a misaligned or outside address raises
ISSUE_FAULT and queues nothing; engines 5 to 7 and required-zero fields are ILLEGAL. -/
def Obligations.IssueQueuesADescriptor : Prop :=
  ∀ (s : State) (c : Nat) (rd ra rb rc : Reg) (fn : BitVec 6),
    let k := s.core c
    let a := (k.s ra).toNat
    let e := fn.toNat % 8
    (s.Ready c → e < 5 → fn.toNat < 32 → a % 32 = 0 → a + 32 ≤ 0x30000 →
      ((k.eng e).queue.length < 8 → errIn k.spadErr 8 a 32 = [] →
        ∃ t, exec (.issue c rd ra 0 0 fn) s = .next t ∧ s.Issued t c rd ra fn.toNat) ∧
      (8 ≤ (k.eng e).queue.length → fn.toNat.testBit 3 = true →
        ∃ t, exec (.issue c rd ra 0 0 fn) s = .next t ∧ s.Writes t c (k.pc + 4) rd 0) ∧
      (8 ≤ (k.eng e).queue.length → fn.toNat.testBit 3 = false →
        ∃ t, exec (.issue c rd ra 0 0 fn) s = .next t ∧ s.NowWaits t c (.issue rd ra fn.toNat))) ∧
    (s.Waits c (.issue rd ra fn.toNat) →
      ((k.eng e).queue.length < 8 → errIn k.spadErr 8 a 32 = [] →
        ∃ t, exec (.issueResume c) s = .next t ∧ s.Issued t c rd ra fn.toNat) ∧
      (8 ≤ (k.eng e).queue.length → exec (.issueResume c) s = .next s)) ∧
    (s.Ready c → k.tm = false →
      (e < 5 → fn.toNat < 32 → (a % 32 ≠ 0 ∨ 0x30000 < a + 32) →
        ∃ t, exec (.issue c rd ra 0 0 fn) s = .next t ∧ s.Trapped t c 0xB k.pc (k.s ra)) ∧
      ((rb ≠ 0 ∨ rc ≠ 0 ∨ 5 ≤ e ∨ 32 ≤ fn.toNat) →
        ∃ t, exec (.issue c rd ra rb rc fn) s = .next t ∧ s.Trapped t c 1 k.pc 0))

/-- R72, R73, R126, R142: a datagram SEND of a ready core without a fault takes the next send ticket, which it writes to RD, and joins the
payload queue and the list of sends not yet accepted; the message unit then reads the oldest payload, CC_SENT takes its ticket and
the message is on its way with the payload's bytes. A SEND with a fault raises SEND_FAULT and sends nothing; class 3 and reserved
FN bits are ILLEGAL. -/
def Obligations.SendTakesATicketAndItsPayloadIsRead : Prop :=
  ∀ (s : State) (c : Nat) (rd ra rb rc : Reg) (fn : BitVec 6),
    let k := s.core c
    let w := k.s rc
    let item : SendItem :=
      { ticket := k.sendNext, live := true, addr := (k.s rb).toNat, len := fld w 0 14, dst := (k.s ra).toNat, src := s.relAddr c, cls := 0,
        ch := fld w 16 12, units := 0, posBefore := 0 }
    (s.Ready c → fn.toNat % 4 = 0 → fn.toNat < 8 → s.sendFault c (k.s ra) (k.s rb) w = none → bit (k.get 0x202) 4 = false →
      (∀ x ∈ k.sendq, x.live = true) →
      ∃ t, exec (.send c rd ra rb rc fn) s = .next t ∧ s.OnlyCore t c ∧ k.Wrote (t.core c) rd (BitVec.ofNat 32 k.sendNext) ∧
        (t.core c).pc = k.pc + 4 ∧ (t.core c).sendq = k.sendq ++ [item] ∧ (t.core c).sacc = k.sacc ++ [k.sendNext] ∧
        (t.core c).sendNext = (if k.sendNext = 0xFFFF then 1 else k.sendNext + 1) ∧ (t.core c).spad = k.spad) ∧
    (∀ x rest, isCore c = true → s.clocked c = true → k.sendq = x :: rest → x.cls = 0 → (∀ y ∈ rest, y.live = true) →
      errIn k.spadErr 8 x.addr x.len = [] →
      ∃ t, exec (.sendPayloadRead c) s = .next t ∧ (t.core c).sendq = rest ∧ (t.core c).get 0x4E = BitVec.ofNat 32 x.ticket ∧
        (t.core c).spad = k.spad ∧ (∀ y, y ≠ c → t.core y = s.core y) ∧
        t.net = s.net ++ [.msg { part := s.corePart c, src := x.src, dst := x.dst, cls := 0, ch := x.ch, seq := x.ticket,
                                 ticket := x.ticket, origin := 0, orig := c, payload := k.spad.getN byte0 x.addr x.len }]) ∧
    (k.sendq = [] → exec (.sendPayloadRead c) s = .next s) ∧
    (s.Ready c → k.tm = false →
      (∀ v, fn.toNat % 4 ≠ 3 → fn.toNat < 8 → s.sendFault c (k.s ra) (k.s rb) w = some v →
        ∃ t, exec (.send c rd ra rb rc fn) s = .next t ∧ s.Trapped t c 0xC k.pc v) ∧
      ((fn.toNat % 4 = 3 ∨ 8 ≤ fn.toNat) → ∃ t, exec (.send c rd ra rb rc fn) s = .next t ∧ s.Trapped t c 1 k.pc 0))

/-- R68, R126, R127: a stream or rotate SEND spends the credit of its transmit entry and takes its ticket; short of credit it waits, or
with NB writes 0; a waiting SEND goes on once the credit is there. A stream payload that does not wrap costs its units and one
record, a rotate payload one zone. -/
def Obligations.StreamAndRotateSendsSpendCredit : Prop :=
  ∀ (s : State) (c : Nat) (rd ra rb rc : Reg) (fn : BitVec 6) (i : Nat) (e : TxEntry),
    let k := s.core c
    let w := k.s rc
    let cls := fn.toNat % 4
    let n := (fld w 0 14 + 31) / 32
    let enough : Prop := if cls = 1 then e.pos + n ≤ e.cap + 1 ∧ n ≤ e.cred ∧ 0 < e.recs else 0 < e.cred
    let spent : TxEntry := if cls = 1 then { e with cred := e.cred - n, recs := e.recs - 1, pos := (e.pos + n) % (e.cap + 1) }
      else { e with cred := e.cred - 1 }
    let sent (s t : State) : Prop :=
      s.OnlyCore t c ∧ k.Wrote (t.core c) rd (BitVec.ofNat 32 k.sendNext) ∧ (t.core c).pc = k.pc + 4 ∧ (t.core c).wait = none ∧
        (t.core c).tx.get none0 i = some spent ∧ (∀ j, j ≠ i → (t.core c).tx.get none0 j = k.tx.get none0 j) ∧
        (t.core c).sacc = k.sacc ++ [k.sendNext] ∧ (t.core c).spad = k.spad
    (cls = 1 ∨ cls = 2) → bit (k.get 0x202) 4 = false → addrDev (k.s ra).toNat ≠ 0xFFFF →
    s.txFind c (k.s ra).toNat (fld w 16 12) (cls == 2) = some (i, e) → n ≤ e.cap → (∀ x ∈ k.sendq, x.live = true) →
      (s.Ready c → fn.toNat < 8 → s.sendFault c (k.s ra) (k.s rb) w = none →
        (enough → ∃ t, exec (.send c rd ra rb rc fn) s = .next t ∧ sent s t) ∧
        (e.cred = 0 → fn.toNat.testBit 2 = true → 0 < n → ∃ t, exec (.send c rd ra rb rc fn) s = .next t ∧ s.Writes t c (k.pc + 4) rd 0) ∧
        (e.cred = 0 → fn.toNat.testBit 2 = false → 0 < n →
          ∃ t, exec (.send c rd ra rb rc fn) s = .next t ∧ s.NowWaits t c (.send rd ra rb rc fn.toNat))) ∧
      (s.Waits c (.send rd ra rb rc fn.toNat) →
        (enough → ∃ t u, exec (.sendResume c) s = .next t ∧ s.Counted u c ∧ sent u t) ∧
        (e.cred = 0 → 0 < n → exec (.sendResume c) s = .next s))

/-- R79-R81: BAR arrives once its fence is complete and waits until every participant has arrived; the last arrival releases them all; a
core whose barrier released while it was away finds BARD set and goes on at once. A mask that differs from the phase's, or a core
that takes no part, raises BAR_FAULT and does not arrive. For the cluster barrier. -/
def Obligations.ClusterBarriersReleaseTogether : Prop :=
  ∀ (s : State) (c : Nat) (imm : BitVec 16), s.Ready c → imm.toNat / 2 % 2 ^ 11 = 0 → imm.toNat.testBit 0 = false →
    (∀ b, s.barC.get none0 (coreCluster c) = some b → b.arrived ≠ [] ∧ ∃ x ∈ b.parts, x ∉ b.arrived) →
    let k := s.core c
    let cl := coreCluster c
    (k.bard = true → ∃ t, exec (.bar c 0 0 imm) s = .next t ∧ (t.core c).pc = k.pc + 4 ∧ (t.core c).bard = false) ∧
    (k.bard = false → k.barw = false → k.fenceDone (imm.toNat / 2 ^ 12) = false →
      ∃ t, exec (.bar c 0 0 imm) s = .next t ∧ (t.core c).rs = 2 ∧ (t.core c).wait = some (.bar imm.toNat) ∧ (t.core c).pc = k.pc) ∧
    (k.bard = false → k.barw = false → k.fenceDone (imm.toNat / 2 ^ 12) = true →
      (s.barC.get none0 cl = none → c ∈ s.barParts c false → (∃ x ∈ s.barParts c false, x ≠ c) →
        ∃ t, exec (.bar c 0 0 imm) s = .next t ∧ (t.core c).rs = 2 ∧ (t.core c).wait = some (.bar imm.toNat) ∧ (t.core c).pc = k.pc ∧
          (t.core c).barw = true ∧ t.barC.get none0 cl = some ⟨fld (k.get 0x40) 0 16, s.barParts c false, [c]⟩) ∧
      (∀ b, s.barC.get none0 cl = some b → b.mask = fld (k.get 0x40) 0 16 → c ∈ b.parts → (∀ x ∈ b.parts, x ∈ b.arrived ∨ x = c) →
        ∃ t, exec (.bar c 0 0 imm) s = .next t ∧ (t.core c).pc = k.pc + 4 ∧ (t.core c).wait = none ∧ (t.core c).barw = false ∧
          t.barC.get none0 cl = none ∧
          (∀ x i, x ∈ b.arrived → x ≠ c → (s.core x).barw = true → (s.core x).rs = 2 → (s.core x).wait = some (.bar i) →
            (t.core x).pc = (s.core x).pc + 4 ∧ (t.core x).wait = none ∧ (t.core x).barw = false)) ∧
      (k.tm = false → ∀ b, s.barC.get none0 cl = some b → b.mask ≠ fld (k.get 0x40) 0 16 →
        ∃ t, exec (.bar c 0 0 imm) s = .next t ∧ (t.core c).get 0x11 = 0xA ∧ (t.core c).get 0x13 = 2 ∧ (t.core c).tm = true ∧
          t.barC.get none0 cl = some b))

/-- R53, R88, R91, R97, R105: run, step and load act on a halted core alone, a load only with nothing outstanding; clearing RUN halts a
running or waiting core; HINT makes HOST pending; UNRECOV fences the core, its trap CSRs, registers, scratchpad and instruction memory
kept; the registers of a fenced core are frozen (R538). -/
def Obligations.RunControlMovesTheRunState : Prop :=
  ∀ (s : State) (c : Nat), isCore c = true →
    let k := s.core c
    let halts : Prop := (k.rs = 1 ∨ k.rs = 2) ∧ fld (k.get 2) 0 1 = 0
    let kept (t : State) : Prop := ∃ u, s.Counted u c ∧ u.OnlyCore t c ∧ (∀ r, (t.core c).s r = k.s r) ∧ (t.core c).pc = k.pc ∧
      (t.core c).spad = k.spad ∧ (t.core c).imem = k.imem ∧ (t.core c).engs = k.engs ∧
      ∀ n, n ≠ 1 → n ≠ 2 → n ≠ 0x17 → n < 0x2B0 ∨ 0x2B4 ≤ n → (t.core c).get n = k.get n
    (k.rs = 4 → ∀ i ∈ [Instr.run c, .runClear c, .step c, .load c, .hint c, .unrecov c], exec i s = .next s) ∧ (k.rs ≠ 4 →
    (∃ t, exec (.run c) s = .next t ∧ kept t ∧ bit ((t.core c).get 2) 0 = true ∧ (t.core c).rs = if k.rs = 0 then 1 else k.rs) ∧
    (∃ t, exec (.runClear c) s = .next t ∧ kept t ∧ bit ((t.core c).get 2) 0 = false ∧
      (t.core c).rs = if k.rs = 1 ∨ k.rs = 2 then 0 else k.rs) ∧
    (∃ t, exec (.step c) s = .next t ∧ kept t ∧ (t.core c).rs = (if k.rs = 0 then 1 else if halts then 0 else k.rs) ∧
      (k.rs = 0 → (t.core c).stepping = true)) ∧
    (∃ t, exec (.load c) s = .next t ∧ kept t ∧
      (t.core c).rs = (if k.rs = 0 ∧ k.outstanding = false then 3 else if halts then 0 else k.rs) ∧
      (k.rs = 0 → k.outstanding = true → fld ((t.core c).get 1) 8 4 = 7)) ∧
    (∃ t, exec (.hint c) s = .next t ∧ kept t ∧ bit ((t.core c).get 0x17) 7 = true ∧
      (k.rs ≠ 0 → (t.core c).rs = if halts then 0 else k.rs)) ∧
    (∃ t, exec (.unrecov c) s = .next t ∧ (t.core c).rs = 4 ∧ (t.core c).wait = none ∧ (t.core c).sendq = [] ∧
      (∀ e, ((t.core c).eng e).queue = [] ∧ ((t.core c).eng e).jobs = []) ∧ (∀ r, (t.core c).s r = k.s r) ∧
      (t.core c).spad = k.spad ∧ (t.core c).imem = k.imem ∧ (∀ n, 0x10 ≤ n → n ≤ 0x16 → (t.core c).get n = k.get n) ∧
      t.isFenced c = true ∧ t.fcause c = 2))

/-- R103-R105: a load whose image reads and checks well puts its code at instruction address 0 and its data at SPAD_BASE, clears the
scalar registers and LOADERR, and starts at ENTRY if GO is set; everything else in the two memories is as before. A load that fails the
header check or the CRC halts with its LOADERR. -/
def Obligations.ALoadStartsTheImageOrHalts : Prop :=
  ∀ (s : State) (c : Nat), isCore c = true → (s.core c).rs = 3 →
    let k := s.core c
    let p := s.corePart c
    let a := (k.get 5).toNat + 2 ^ 32 * fld (k.get 6) 0 16
    let halts (code : Nat) : Prop := ∃ t, exec (.loadDone c) s = .next t ∧ (t.core c).rs = 0 ∧ fld ((t.core c).get 1) 8 4 = code % 16 ∧
      (∀ d, d ≠ c → t.core d = s.core d) ∧ t.mem = s.mem ∧ t.net = s.net
    (a % 32 ≠ 0 → halts 5) ∧
    (∀ ti o, a % 32 = 0 → s.DiesUp → s.Plain p a 32 ti o →
      let h := s.mem.getN byte0 (memIdx ti o) 32
      (∀ e, imageHeader h = .error e → halts e) ∧
      (∀ x tj o2, imageHeader h = .ok x → s.Plain p (a + 32) (x.ilen + x.slen) tj o2 →
        let b := s.mem.getN byte0 (memIdx tj o2) (x.ilen + x.slen)
        (crc32 b ≠ x.crc → halts 4) ∧
        (crc32 b = x.crc → errIn k.spadErr 8 x.sbase x.slen = [] →
          ∃ t, exec (.loadDone c) s = .next t ∧ (t.core c).pc = BitVec.ofNat 32 x.entry ∧ (∀ r, (t.core c).s r = 0) ∧
            fld ((t.core c).get 1) 8 4 = 0 ∧ (t.core c).rs = (if fld (k.get 2) 3 1 = 1 then 1 else 0) ∧
            (∀ i, (t.core c).imem.get byte0 i = if i < x.ilen then b.getD i 0 else k.imem.get byte0 i) ∧
            (∀ i, (t.core c).spadByte i = if x.sbase ≤ i ∧ i < x.sbase + x.slen then b.getD (x.ilen + (i - x.sbase)) 0 else k.spadByte i) ∧
            (∀ n, n ≠ 1 → (t.core c).get n = k.get n) ∧ (∀ d, d ≠ c → t.core d = s.core d) ∧ t.mem = s.mem ∧ t.net = s.net)))

/-- R99-R102, R185: a timer that counts and ticks sets its pending bit at expiry, OVR if it was set, then reloads or stops; the first expiry
of the watchdog warns and reloads, the second fences; a kick restores it; a write of 1 to VALID empties the first-NaN record. In a fenced core
neither write acts (R538). -/
def Obligations.TimersAndWatchdogExpireAsConfigured : Prop :=
  ∀ (s : State) (c : Nat), isCore c = true →
    let k := s.core c
    let kept (t : State) (may : Nat → Prop) : Prop := (∀ r, (t.core c).s r = k.s r) ∧ (t.core c).pc = k.pc ∧ (t.core c).spad = k.spad ∧
      ∀ n, ¬ may n → (t.core c).get n = k.get n
    (∀ (tm : Bool) (n b : Nat), n = (if tm then 1 else 0) → b = 0x28 + 4 * n →
      fld (k.get b) 0 1 = 1 → k.get (b + 1) ≠ 0 → (k.rs = 1 ∨ k.rs = 2) → s.clocked c = true →
        ∃ t, exec (.timerExpiry c tm) s = .next t ∧ kept t (fun j => j = 0x17 ∨ j = b ∨ j = b + 1) ∧ bit ((t.core c).get 0x17) (3 + n) = true ∧
          (bit (k.get 0x17) (3 + n) = true → bit ((t.core c).get b) 3 = true) ∧
          (fld (k.get b) 1 1 = 1 → (t.core c).get (b + 1) = k.get (b + 2)) ∧
          (fld (k.get b) 1 1 = 0 → (t.core c).get (b + 1) = 0 ∧ bit ((t.core c).get b) 0 = false)) ∧
    (bit (k.get 0x30) 31 = true → (k.rs = 1 ∨ k.rs = 2) →
      (bit (k.get 0x30) 29 = false → ∃ t, exec (.wdogExpiry c) s = .next t ∧ kept t (fun j => j = 0x30 ∨ j = 0x31) ∧
        bit ((t.core c).get 0x30) 29 = true ∧ (t.core c).get 0x31 = BitVec.ofNat 32 (max 1 (fld (k.get 0x30) 0 24)) ∧
        bit (t.core c).tpend 5 = true) ∧
      (bit (k.get 0x30) 29 = true → ∃ t, exec (.wdogExpiry c) s = .next t ∧ (t.core c).rs = 4 ∧ t.isFenced c = true ∧ t.fcause c = 3)) ∧
    (k.rs = 4 → (∀ v, exec (.wdogKick c v) s = .next s) ∧ exec (.nanrecClear c) s = .next s) ∧
    (k.rs ≠ 4 → ∃ t, exec (.wdogKick c 0xA5) s = .next t ∧ kept t (fun j => j = 0x30 ∨ j = 0x31) ∧ bit ((t.core c).get 0x30) 29 = false ∧
      (t.core c).get 0x31 = BitVec.ofNat 32 (max 1 (fld (k.get 0x30) 0 24))) ∧
    (∀ v : Word, k.rs ≠ 4 → v ≠ 0xA5 → ∃ t, exec (.wdogKick c v) s = .next t ∧ kept t (fun j => j = 0x30) ∧ bit ((t.core c).get 0x30) 30 = true ∧
      bit ((t.core c).get 0x30) 29 = bit (k.get 0x30) 29) ∧
    (k.rs ≠ 4 → ∃ t, exec (.nanrecClear c) s = .next t ∧ kept t (fun j => 0x60 ≤ j ∧ j < 0x64) ∧ (∀ j, 0x60 ≤ j → j < 0x64 → (t.core c).get j = 0) ∧
      ∀ e, ((t.core c).eng e).stopped = false)

/-- R120-R123, R127, R129: the oldest message of its kind to an awake core leaves the network; a datagram or stream payload goes to the ring
at HEAD, a rotate payload to the zone of its sequence number, and its record joins the queue; one no queue takes is answered by a
refusal or a close and counted in RXREF. A rotate message whose zone is filled, or which finds no free record, stays the oldest of its kind at its
node: the model's choice, log entry 87. -/
def Obligations.MessagesArriveInTheirQueue : Prop :=
  ∀ (s : State) (m : Msg) (c : Nat), s.firstMsg m = true → s.isOwn (addrDev m.dst) = true → s.toCore m.part m.dst = some c →
    s.Awake c → s.redirect c = none →
    let k := s.core c
    let n := m.payload.length
    let placed (t : State) (q addr : Nat) : Prop :=
      k.RunKept (t.core c) ∧ t.net = s.net.erase (.msg m) ∧
        ((t.core c).rxq q).recs = (k.rxq q).recs ++ [recvRecord m n addr] ∧ (∀ r, r ≠ q → (t.core c).rxq r = k.rxq r) ∧
        (∀ i, i < n → (t.core c).spadByte (addr + i) = m.payload.getD i 0) ∧
        (∀ i, i < addr ∨ addr + n ≤ i → (t.core c).spadByte i = k.spadByte i) ∧
        (bit (k.get (0x210 + 8 * q)) 22 = true →
          (t.core c).sem (fld (k.get (0x210 + 8 * q)) 16 6) = min 255 (k.sem (fld (k.get (0x210 + 8 * q)) 16 6) + 1))
    let refuses : Prop :=
      ∃ t, exec (.messageArrival m) s = .next t ∧ bit ((t.core c).get 0x201) 3 = true ∧ (t.core c).rx = k.rx ∧ (t.core c).spad = k.spad ∧
        k.RunKept (t.core c) ∧
        (m.cls = 0 → t.net = s.net.erase (.msg m) ++
          [.refusal { part := m.part, dst := m.src, src := m.dst, ch := m.ch, ticket := m.ticket, origin := 0, orig := m.orig }]) ∧
        (m.cls ≠ 0 → t.net = s.net.erase (.msg m) ++
          [.close { part := m.part, dst := m.src, src := m.dst, ch := m.ch, rot := m.cls == 2, refused := true, ticket := m.ticket, origin := 0,
                    orig := m.orig }])
    (∀ q, q < 8 → s.matchQueue c m = some q → fld (k.get (0x2A8 + q)) 0 14 = 0 →
      (∀ addr head tail, (k.rqMode q = 1 ∨ k.rqMode q = 2) → (k.rxq q).recs.length < k.rqDepth q → k.ringPlace q n = some (addr, head, tail) →
        errIn k.spadErr 8 addr n = [] →
        ∃ t, exec (.messageArrival m) s = .next t ∧ placed t q addr ∧ (t.core c).rqHead q = head % 2 ^ 32 ∧
          (t.core c).rqTail q = tail % 2 ^ 32) ∧
      (k.rqMode q = 3 → n ≤ k.rqSize q / 2 → (k.rxq q).recs.length < k.rqDepth q → m.seq % 2 ∉ (k.rxq q).zones →
        errIn k.spadErr 8 (k.rqBase q + m.seq % 2 * (k.rqSize q / 2)) n = [] →
        ∃ t, exec (.messageArrival m) s = .next t ∧ placed t q (k.rqBase q + m.seq % 2 * (k.rqSize q / 2)) ∧
          ((t.core c).rxq q).zones = (k.rxq q).zones ++ [m.seq % 2]) ∧
      (k.rqMode q = 3 → n ≤ k.rqSize q / 2 → (k.rqDepth q ≤ (k.rxq q).recs.length ∨ m.seq % 2 ∈ (k.rxq q).zones) →
        exec (.messageArrival m) s = .next { s with net := .msg m :: s.net.erase (.msg m) }) ∧
      (k.rqMode q = 3 → k.rqSize q / 2 < n → m.origin = 0 → refuses)) ∧
    (s.matchQueue c m = none → m.origin = 0 → refuses)

/-- R120, R123-R125, R128, R130: at its source core a refusal of a SEND is counted, its ticket noted and no longer awaited; a first grant
makes or renews the transmit entry of its source and channel, a further grant adds to it, one for no entry is ignored; a close removes
the entry. Nothing else of the core changes. -/
def Obligations.RefusalsGrantsAndClosesReachTheirSource : Prop :=
  ∀ (s : State) (c : Nat),
    let k := s.core c
    (∀ r : Refused, .refusal r ∈ s.net → s.isOwn (addrDev r.dst) = true → s.waiter r.orig = some c → s.Awake c → r.origin = 0 →
      ∃ t, exec (.refusal r) s = .next t ∧ t.net = s.net.erase (.refusal r) ∧ (t.core c).sacc = k.sacc.filter (· ≠ r.ticket) ∧
        (t.core c).get 0x203 = BitVec.ofNat 32 (r.ticket % 65536) ∧ bit ((t.core c).get 0x201) 2 = true ∧
        (bit (k.get 0x205) 31 = false → (k.get 0x204).toNat + 1 < 2 ^ 32 → ((t.core c).get 0x204).toNat = (k.get 0x204).toNat + 1) ∧
        k.RunKept (t.core c) ∧ (t.core c).spad = k.spad ∧ (t.core c).rx = k.rx ∧ (t.core c).tx = k.tx) ∧
    (∀ g : Grant, .grant g ∈ s.net → s.isOwn (addrDev g.dst) = true → s.toUnit g.part g.dst = some c → s.Awake c → (k.eng 4).jobs = [] →
      let mine (e : TxEntry) : Prop := s.normAddr e.dst = s.normAddr g.src ∧ e.ch = g.ch
      let fresh : TxEntry := { dst := g.src, ch := g.ch, rot := g.rot, seq := 0, cred := g.units, cap := g.cap, recs := g.recs, pos := 0 }
      let entry (t : State) (i : Nat) (e : TxEntry) : Prop :=
        t.net = s.net.erase (.grant g) ∧ (∀ j, (t.core c).tx.get none0 j = if j = i then some e else k.tx.get none0 j) ∧
          ∃ u, s.Counted u c ∧ t.core c = { u.core c with tx := (t.core c).tx }
      (∀ i e, i < 16 → k.tx.get none0 i = some e → mine e → (∀ j x, j < i → k.tx.get none0 j = some x → ¬ mine x) →
        ∃ t, exec (.grant g) s = .next t ∧
          entry t i (if g.first then fresh else { e with cred := e.cred + g.units, recs := e.recs + g.recs })) ∧
      ((∀ j x, j < 16 → k.tx.get none0 j = some x → ¬ mine x) →
        (g.first = false → ∃ t u, exec (.grant g) s = .next t ∧ s.Counted u c ∧ t = { u with net := s.net.erase (.grant g) }) ∧
        (∀ i, g.first = true → i < 16 → k.tx.get none0 i = none → (∀ j, j < i → (k.tx.get none0 j).isSome = true) →
          ∃ t, exec (.grant g) s = .next t ∧ entry t i fresh))) ∧
    (∀ (x : Close) (i : Nat) (e : TxEntry), .close x ∈ s.net → s.isOwn (addrDev x.dst) = true → s.toUnit x.part x.dst = some c →
      s.Awake c → (k.eng 4).jobs = [] → k.wait = none → s.txFind c x.src x.ch x.rot = some (i, e) →
        ∃ t, exec (.streamClose x) s = .next t ∧ t.net = s.net.erase (.close x) ∧
          (∀ j, (t.core c).tx.get none0 j = if j = i then none else k.tx.get none0 j) ∧ (t.core c).rx = k.rx ∧ (t.core c).spad = k.spad ∧
          k.RunKept (t.core c) ∧
          (x.refused = true → bit ((t.core c).get 0x201) 0 = true ∧ (x.origin = 0 → x.orig = c → (t.core c).sacc = k.sacc.filter (· ≠ x.ticket))) ∧
          (x.refused = false → (t.core c).sacc = k.sacc ∧ (t.core c).csr = k.csr))

/-- R112, R118, R130, R133, R140, R146, R152: the oldest request of its source to an awake core is served in its scratchpad, read, write or
add, and answered; a response lands at the place its request named, or ends the descriptor with REMOTE if it reports an error; a wait
longer than MU_CTL.TMO ends it at the oldest request outstanding. -/
def Obligations.RemoteRequestsAreServedAndAnswered : Prop :=
  (∀ (s : State) (r : Rq) (c : Nat), r.space = 0 →
    (s.net.find? fun x => match x with
      | .req q => q.space == 0 && q.part == r.part && q.src == r.src && q.dst == r.dst
      | _ => false) = some (.req r) →
    s.toCore r.part r.dst = some c → s.Awake c → s.redirect c = none → (s.core c).spadErr = [] →
    let k := s.core c
    let old := k.spad.getN byte0 r.addr r.len
    let new := if r.op = 1 then r.data else (lanesOp (r.op - 2) 0 old r.data).1
    (r.op = 0 → ∃ t, exec (.remoteSpadRequest r) s = .next t ∧ t.net = s.net.erase (.req r) ++ [r.answer false old] ∧ ∀ x, t.core x = s.core x) ∧
    (r.op ≠ 0 → ∃ t, exec (.remoteSpadRequest r) s = .next t ∧ t.net = s.net.erase (.req r) ++ [r.answer false []] ∧ s.OnlyCore { t with net := s.net } c ∧
      t.core c = { k with spad := (t.core c).spad } ∧ (∀ i, i < new.length → (t.core c).spadByte (r.addr + i) = new.getD i 0) ∧
      (∀ i, i < r.addr ∨ r.addr + new.length ≤ i → (t.core c).spadByte i = k.spadByte i))) ∧
  (∀ (s : State) (r : Rsp) (c : Nat) (j : Job) (rest : List Job) (q : Rq), .rsp r ∈ s.net → r.eng = 4 → s.toCore r.part r.dst = some c →
    s.clState (coreCluster c) ≠ 3 → s.isFenced c = false → ((s.core c).eng 4).jobs = j :: rest → j.desc.ticket = r.ticket → j.fault = 0 → j.request r.pos = some q → q.op = 0 →
    (s.core c).spadErr = [] →
    let k := s.core c
    (r.err = true → ∃ t, exec (.responseArrival r) s = .next t ∧ t.net = s.net.erase (.rsp r) ∧ (t.core c).spad = k.spad ∧
      ∃ j', ((t.core c).eng 4).jobs = [j'] ∧ j'.fault = 0xF5 ∧ j'.detail = r.pos) ∧
    (r.err = false → j.todo = [] → (j.out.filter fun x => x.pos ≠ r.pos) = [] →
      ∃ t, exec (.responseArrival r) s = .next t ∧ t.net = s.net.erase (.rsp r) ∧ k.RunKept (t.core c) ∧
        (∀ i, i < r.data.length → (t.core c).spadByte (q.land + i) = r.data.getD i 0) ∧
        (∀ i, i < q.land ∨ q.land + r.data.length ≤ i → (t.core c).spadByte i = k.spadByte i) ∧
        ((t.core c).eng 4).jobs = [{ j with out := [], stage := 3 }])) ∧
  (∀ (s : State) (c : Nat) (e : Bool) (j : Job) (rest : List Job) (q : Rq) (out : List Rq),
    let n := if e then 4 else 3
    ((s.core c).eng n).jobs = j :: rest → fld ((s.core c).get 0x200) 16 8 ≠ 0 → j.fault = 0 → j.out = q :: out →
    ∃ t, exec (.responseTimeout c e) s = .next t ∧ s.OnlyCore t c ∧ ((t.core c).eng n).jobs = [j.failed 0xF5 q.pos] ∧
      (t.core c).spad = (s.core c).spad)

/-- R115, R131-R133: the head of the DMA queue is taken and, if it checks well, a copy inside the device moves its bytes at once, and a
transfer to a core of one message sends it against credit and waits for its acceptance; a descriptor that fails a check holds its fault code and moves
nothing. A finished descriptor of the DMA or the Retriever completes. -/
def Obligations.TransfersMoveTheirBytesOrFault : Prop :=
  (∀ (s s1 : State) (c : Nat) (d : Desc), ((s.core c).eng 4).jobs = [] → s.takeDesc c 4 = some (d, s1) → (s.core c).spadErr = [] →
    let k := s.core c
    let x := dmaDesc d.bytes
    let job (t : State) (j : Job) : Prop := k.RunKept (t.core c) ∧ (∀ y, y ≠ c → t.core y = s.core y) ∧
      (t.core c).eng 4 = { (s1.core c).eng 4 with jobs := [j] } ∧ ∀ e, e ≠ 4 → (t.core c).eng e = k.eng e
    let fresh : Job := { Job.fresh d (s.stepNo (s.corePart c)) 0 with stage := 1 }
    (∀ (kind : Nat) (i : Instr), (kind, i) ∈ [(0, .memToSpad c), (1, .spadToMem c), (2, .spadToCore c), (3, .memToCore c)] → x.kind = kind →
      ∀ code det, s1.dmaCheck c d.bytes = (code, det) → code ≠ 0 →
        ∃ t, exec i s = .next t ∧ job t (fresh.failed code det) ∧ (t.core c).spad = k.spad ∧ t.mem = s.mem ∧ t.net = s.net) ∧
    (s1.dmaCheck c d.bytes = (0, 0) →
      (∀ tile o, x.kind < 2 → s1.isOwn (x.dest / 65536) = true → s1.Plain (s.corePart c) x.mem x.len tile o →
        (x.kind = 0 → ∃ t, exec (.memToSpad c) s = .next t ∧ job t { fresh with stage := 3 } ∧ t.mem = s.mem ∧
          (∀ b, b < x.len → (t.core c).spadByte (x.spad + b) = s.memByte tile (o + b)) ∧
          (∀ b, b < x.spad ∨ x.spad + x.len ≤ b → (t.core c).spadByte b = k.spadByte b)) ∧
        (x.kind = 1 → ∃ t, exec (.spadToMem c) s = .next t ∧ job t { fresh with stage := 3 } ∧ (t.core c).spad = k.spad ∧
          (∀ b, b < x.len → t.memByte tile (o + b) = k.spadByte (x.spad + b)) ∧
          (∀ a, a < memIdx tile o ∨ memIdx tile o + x.len ≤ a → t.mem.get byte0 a = s.mem.get byte0 a))) ∧
      (∀ i e src, 2 ≤ x.kind → (x.cls = 1 ∧ 0 < e.recs ∧ x.len ≤ 8192 ∨ x.cls = 2) → 0 < x.len →
        s1.txFind c x.dest x.ch (x.cls == 2) = some (i, e) → s1.sourceAddr c = some src →
        let u := if x.cls = 2 then (1, e.pos) else e.charge ((x.len + 31) / 32)
        let sent (t : State) (data : List Byte) : Prop :=
          job t { fresh with sent := x.len, msgs := 1 } ∧ (t.core c).spad = k.spad ∧ t.mem = s.mem ∧
            t.net = s.net ++ [.msg { part := s.corePart c, src := src, dst := x.dest, cls := x.cls, ch := x.ch, seq := e.seq,
                                     ticket := d.ticket, origin := 1, orig := c, payload := data }] ∧
            (t.core c).tx.get none0 i = some { e with cred := e.cred - u.1, recs := if x.cls = 1 then e.recs - 1 else e.recs,
                                                      pos := u.2, seq := (e.seq + 1) % 65536 }
        u.1 ≤ e.cred →
        (x.kind = 2 → ∃ t, exec (.spadToCore c) s = .next t ∧ sent t (k.spad.getN byte0 x.spad x.len)) ∧
        (∀ tile o, x.kind = 3 → s1.Plain (s.corePart c) x.mem x.len tile o →
          ∃ t, exec (.memToCore c) s = .next t ∧ sent t (s.mem.getN byte0 (memIdx tile o) x.len))))) ∧
  (∀ (s : State) (c : Nat) (j : Job) (rest : List Job),
    (((s.core c).eng 4).jobs = j :: rest → j.finished = true → s.MayEnd c 4 j j.fault j.detail →
      ∃ t, exec (.dmaComplete c) s = .next t ∧ s.Ended t c 4 j j.fault j.detail) ∧
    (((s.core c).eng 3).jobs = j :: rest → j.rvDone = true → s.MayEnd c 3 j j.fault j.detail →
      ∃ t, exec (.retrieverComplete c) s = .next t ∧ s.Ended t c 3 j j.fault j.detail))

/-- R116, R117: a write of a semaphore sets its count, a signal adds one and at 255 sets its overflow bit. R410: a write of a watermark arms
it. R128: enabling a queue that fits makes it empty at its base and grants its units; disabling one closes its stream. R121, R124, R127: a
write of TAIL frees units, which are granted at the threshold, or a zone, and an impossible one changes nothing. -/
def Obligations.QueueAndSemaphoreWritesActAsTheRulesSay : Prop :=
  ∀ (s : State) (c : Nat), isCore c = true →
    let k := s.core c
    let only (t : State) (may : Nat → Prop) : Prop := s.OnlyCore t c ∧ t.core c = { k with csr := (t.core c).csr } ∧
      ∀ n, ¬ may n → (t.core c).get n = k.get n
    (∀ n v, ∃ t, exec (.semWrite c n v) s = .next t ∧ only t (· = 0x100 + n.toNat) ∧ (t.core c).sem n.toNat = v.toNat % 256) ∧
    (∀ v n, n = fld v 0 6 → ∃ t, exec (.semSignal c v) s = .next t ∧ only t (fun j => j = 0x100 + n ∨ j = 0x145 + n / 32) ∧
      (t.core c).sem n = min 255 (k.sem n + 1) ∧ (k.sem n = 255 → bit ((t.core c).get (0x145 + n / 32)) (n % 32) = true)) ∧
    (∀ q v n, n = 0x2A8 + BitVec.toNat q → ∃ t, exec (.rqWmWrite c q v) s = .next t ∧ only t (· = n) ∧ bit ((t.core c).get n) 30 = true ∧
      fld ((t.core c).get n) 0 14 = fld v 0 14 ∧ fld ((t.core c).get n) 16 14 = fld v 16 14) ∧
    (∀ (qb : BitVec 3) (q : Nat), q = qb.toNat → bit (k.get (0x2A8 + q)) 30 = true → fld (k.get (0x2A8 + q)) 0 14 = 0 →
      (∀ cfg, k.rqMode q = 0 → fld cfg 0 2 ≠ 0 → k.rqBase q + k.rqSize q ≤ spadSize → k.rqBase q % 32 = 0 → k.rqSize q % 64 = 0 →
        64 ≤ k.rqSize q → 1 ≤ fld cfg 8 6 → fld cfg 8 6 ≤ 32 →
        fld cfg 8 6 + (((List.range 8).filter fun r => r ≠ q ∧ k.rqMode r ≠ 0).map k.rqDepth).sum ≤ 128 →
        (fld cfg 0 2 = 1 → k.rqChLo q ≤ k.rqChHi q) →
        (fld cfg 0 2 ≠ 1 → addrBad (k.rqSrc q) = false ∧ ∀ r, r < 8 → r ≠ q → 2 ≤ k.rqMode r →
          s.normAddr (k.rqSrc r) = s.normAddr (k.rqSrc q) → k.rqChLo r ≠ k.rqChLo q) →
        ∃ t, exec (.rqEnable c qb cfg) s = .next t ∧ (t.core c).rqMode q = fld cfg 0 2 ∧ (t.core c).rqDepth q = fld cfg 8 6 ∧
          (t.core c).rqHead q = k.rqBase q ∧ (t.core c).rqTail q = k.rqBase q ∧ ((t.core c).rxq q).recs = [] ∧ ((t.core c).rxq q).zones = [] ∧
          k.RunKept (t.core c) ∧ (∀ x, x ≠ c → t.core x = s.core x) ∧
          (fld cfg 0 2 = 1 → t.net = s.net) ∧
          (2 ≤ fld cfg 0 2 → ∃ g, t.net = s.net ++ [.grant g] ∧ g.part = s.corePart c ∧ g.dst = k.rqSrc q ∧ g.ch = k.rqChLo q ∧
            g.first = true ∧ (fld cfg 0 2 = 2 → g.rot = false ∧ g.units = (k.rqSize q - 32) / 32 ∧ g.recs = fld cfg 8 6) ∧
            (fld cfg 0 2 = 3 → g.rot = true ∧ g.units = 2 ∧ g.recs = 0))) ∧
      (k.rqMode q ≠ 0 → ∃ t, exec (.rqDisable c qb) s = .next t ∧ (t.core c).rqMode q = 0 ∧ (t.core c).spad = k.spad ∧
        k.RunKept (t.core c) ∧ (∀ x, x ≠ c → t.core x = s.core x) ∧
        (k.rqMode q = 1 → t.net = s.net) ∧
        (2 ≤ k.rqMode q → ∃ x, t.net = s.net ++ [.close x] ∧ x.part = s.corePart c ∧ x.dst = k.rqSrc q ∧ x.ch = k.rqChLo q ∧
          x.rot = (k.rqMode q == 3) ∧ x.refused = false)) ∧
      (∀ v : Word, 1 ≤ k.rqMode q → k.rqMode q ≤ 2 →
        let newTail := if v.toNat = k.rqBase q + k.rqSize q then k.rqBase q else v.toNat
        let freed := (newTail + k.rqSize q - k.rqTail q) % k.rqSize q
        let units := (k.rxq q).ungrU + freed / 32
        let bad : Prop := v.toNat < k.rqBase q ∨ k.rqBase q + k.rqSize q < v.toNat ∨ (v.toNat - k.rqBase q) % 32 ≠ 0 ∨ k.ringUsed q < freed
        (0 < k.rqSize q → bad → ∃ t, exec (.rqTailWrite c qb v) s = .next t ∧ only t (fun j => j = 0x17 ∨ j = 0x201) ∧
          bit ((t.core c).get 0x201) 5 = true) ∧
        (0 < k.rqSize q → ¬ bad → ∃ t, exec (.rqTailWrite c qb v) s = .next t ∧ (t.core c).rqTail q = newTail ∧ (t.core c).rqHead q = k.rqHead q ∧
          ((t.core c).rxq q).recs = (k.rxq q).recs ∧ k.RunKept (t.core c) ∧ (∀ x, x ≠ c → t.core x = s.core x) ∧
          (k.rqMode q = 1 → t.net = s.net) ∧
          (k.rqMode q = 2 → max 1 (fld (k.get 0x200) 24 8) ≤ units → ((t.core c).rxq q).ungrU = 0 ∧ ((t.core c).rxq q).ungrR = 0 ∧
            ∃ g, t.net = s.net ++ [.grant g] ∧ g.dst = k.rqSrc q ∧ g.ch = k.rqChLo q ∧ g.first = false ∧ g.units = units ∧ g.recs = (k.rxq q).ungrR) ∧
          (k.rqMode q = 2 → units < max 1 (fld (k.get 0x200) 24 8) → (k.rxq q).ungrR = 0 → k.rqHead q ≠ newTail →
            t.net = s.net ∧ ((t.core c).rxq q).ungrU = units))) ∧
      (∀ v z rest, k.rqMode q = 3 → (k.rxq q).zones = z :: rest → ∃ t, exec (.rqTailWrite c qb v) s = .next t ∧
        ((t.core c).rxq q).zones = rest ∧ k.RunKept (t.core c) ∧ (∀ x, x ≠ c → t.core x = s.core x) ∧
        ∃ g, t.net = s.net ++ [.grant g] ∧ g.dst = k.rqSrc q ∧ g.ch = k.rqChLo q ∧ g.rot = true ∧ g.first = false ∧ g.units = 1 ∧ g.recs = 0))

/-- R139: failed flits of a mesh link are counted, an eighth replay is fatal. R141: an alias write sets its entry, or sets AL_ERR and changes
nothing else. R42, R106, R110: a window that selects a core reads and writes its scratchpad and its CSRs; one that does not sets ERR and a
read returns 0. -/
def Obligations.AliasesWindowsAndMeshLinksActAsTheRulesSay : Prop :=
  (∀ (s : State) (cl : Nat) (idx : BitVec 4) (v : Word) (key other : Nat), cl < 640 → key = clKey cl + 4 * idx.toNat → other = clKey cl + 4 * fld v 0 4 →
    let good : Prop := bit v 8 = false ∨ (s.isFenced (clusterCore cl idx.toNat) = true ∧ fld v 0 4 ≠ idx.toNat ∧
      s.isFenced (clusterCore cl (fld v 0 4)) = false ∧ bit (s.reg other) 8 = false)
    ∃ t, exec (.aliasWrite cl idx v) s = .next t ∧ t = { s with regs := t.regs } ∧ (∀ j, j ≠ key → t.reg j = s.reg j) ∧
      (good → fld (t.reg key) 0 7 = fld v 0 7 ∧ bit (t.reg key) 8 = bit v 8 ∧ bit (t.reg key) 9 = bit (s.reg key) 9) ∧
      (¬ good → bit (t.reg key) 10 = true ∧ ∀ i, i < 10 → bit (t.reg key) i = bit (s.reg key) i)) ∧
  (∀ (s : State) (cl n key : Nat), cl < 640 → key = clKey cl + 0x48 →
    (bit (s.reg (key + 4)) 31 = false → (s.reg key).toNat + 2 ^ 32 * ((s.reg (key + 4)).toNat % 2 ^ 16) + n < 2 ^ 48 →
      ∃ t, exec (.meshNak cl n false) s = .next t ∧ t.cores = s.cores ∧ (∀ j, j ≠ key → j ≠ key + 4 → ¬ eventReg j → t.reg j = s.reg j) ∧
        t.reg64 key = (s.reg key).toNat + 2 ^ 32 * ((s.reg (key + 4)).toNat % 2 ^ 16) + n) ∧
    (∃ t, exec (.meshNak cl n true) s = .next t ∧ t.cores = s.cores ∧ bit (t.reg 0x2004) 0 = true ∧ t.hourFatals = s.hourFatals + 1)) ∧
  (∀ (s : State) (f : BitVec 6) (n : BitVec 4) (off : BitVec 18) (v : DWord) (sel : Word), s.decodes f.toNat = true → sel = s.reg (selKey f.toNat n.toNat) →
    (∀ c a, bit sel 31 = true → s.toCore f.toNat (fld sel 0 7 + fld sel 8 7 * 256) = some c → s.Awake c →
      bit (s.reg (clKey (coreCluster c) + 4 * coreIdx c)) 8 = false → (s.core c).rs ≠ 4 →
      (off.toNat = 0x10000 + a → a % 4 = 0 → errIn (s.core c).spadErr 8 a 4 = [] →
        (∃ t, exec (.coreWindowAccess f n off true 4 v) s = .next t ∧ s.OnlyCore t c ∧ (s.core c).RunKept (t.core c) ∧
          (t.core c).spadWord a = v.setWidth 32 ∧ ∀ x, x < a ∨ a + 4 ≤ x → (t.core c).spadByte x = (s.core c).spadByte x) ∧
        (exec (.coreWindowAccess f n off false 4 v) s =
          .next { s with out := s.out ++ [.completion f.toNat (leBytes 4 ((s.core c).spadWord a).toNat) false] })) ∧
      (off.toNat < 0x4000 → off.toNat % 4 = 0 → findCsr (off.toNat / 4) ≠ none → off.toNat / 4 ≠ 0x8A0 →
        exec (.coreWindowAccess f n off true 4 v) s = .next (s.csrWrite c (off.toNat / 4) (v.setWidth 32)).1) ∧
      (off.toNat = 0x8000 + a → a < 0x6000 → a % 4 = 0 → (s.core c).rs = 1 ∨ (s.core c).rs = 2 →
        ∃ t, exec (.coreWindowAccess f n off true 4 v) s = .next t ∧ bit (t.reg (selKey f.toNat n.toNat)) 30 = true ∧ t.cores = s.cores)) ∧
    (bit sel 31 = false → 0x10000 ≤ off.toNat → off.toNat % 4 = 0 →
      ∃ t, exec (.coreWindowAccess f n off false 4 v) s = .next t ∧ bit (t.reg (selKey f.toNat n.toNat)) 30 = true ∧ t.cores = s.cores ∧
        t.out = s.out ++ [.completion f.toNat [0, 0, 0, 0] false]) ∧
    (∀ size, size ≠ 4 → size ≠ 8 → ∃ t, exec (.coreWindowAccess f n off true size v) s = .next t ∧ s.Quiet t))

/-- R143-R150: the head of the Retriever's queue is taken by the command of its OP, and a descriptor that fails the check holds its fault. With
everything in the core's own scratchpad: GATHER copies the indexed rows, SCATTER writes one, SCATTER_ADD adds to it, SEG_REDUCE of one row
reduces it, which copies integers, of none gives 0, of a falling offset faults, HASH_PROBE and HASH_INSERT find or fill the slot a key hashes to and count misses,
SET_ISECT and SET_UNION write the common or joint elements of two ascending lists in ascending order and their number. -/
def Obligations.RetrieverOperationsDoTheirWork : Prop :=
  ∀ (s s1 : State) (c : Nat) (d : Desc), ((s.core c).eng 3).jobs = [] → s.takeDesc c 3 = some (d, s1) → (s.core c).spadErr = [] →
    let k := s.core c
    let x := rvDesc d.bytes
    let fresh : Job := { Job.fresh d (s.stepNo (s.corePart c)) 0 with stage := 1 }
    let left (t : State) (j : Job) : Prop := k.RunKept (t.core c) ∧ (∀ y, y ≠ c → t.core y = s.core y) ∧ t.mem = s.mem ∧ t.net = s.net ∧
      (t.core c).eng 3 = { (s1.core c).eng 3 with jobs := [j] } ∧ ∀ e, e ≠ 3 → (t.core c).eng e = k.eng e
    let done (t : State) : Prop := left t { fresh with stage := 3 }
    let word (a : Nat) : Nat := (k.spadWord a).toNat
    let inside (i : Nat) : Prop := x.aux = 0 ∨ word (x.idx + 4 * i) < x.aux
    let row (i : Nat) : Nat := x.base + word (x.idx + 4 * i) * x.stride
    let slot : Nat := hashOf (word x.idx) (x.aux % 32) % 2 ^ (x.aux % 32)
    let at' : Nat := x.base + 8 * slot
    let kept (t : State) (l : List (Nat × Nat)) : Prop := ∀ b, (∀ r ∈ l, b < r.1 ∨ r.1 + r.2 ≤ b) → (t.core c).spadByte b = k.spadByte b
    let apart (a n b m : Nat) : Prop := a + n ≤ b ∨ b + m ≤ a
    (∀ op i, (op, i) ∈ [(0, Instr.gather c), (1, .scatter c), (2, .scatterAdd c), (3, .segReduce c), (4, .hashProbe c), (5, .hashInsert c),
        (6, .setIsect c), (7, .setUnion c)] → x.op = op → rvCheck d.bytes ≠ 0 →
      ∃ t, exec i s = .next t ∧ left t (fresh.failed (rvCheck d.bytes) 0) ∧ (t.core c).spad = k.spad) ∧
    (rvCheck d.bytes = 0 → x.space = 0 →
      (x.op = 0 → x.idx + 4 * x.count ≤ spadSize → x.data + x.count * x.e ≤ spadSize → apart x.idx (4 * x.count) x.data (x.count * x.e) →
        (∀ i, i < x.count → inside i ∧ row i + x.e ≤ spadSize ∧ apart (row i) x.e x.data (x.count * x.e)) →
        ∃ t, exec (.gather c) s = .next t ∧ done t ∧ kept t [(x.data, x.count * x.e)] ∧
          ∀ i b, i < x.count → b < x.e → (t.core c).spadByte (x.data + i * x.e + b) = k.spadByte (row i + b)) ∧
      (x.count = 1 → x.idx + 4 ≤ spadSize → x.data + x.e ≤ spadSize → inside 0 → row 0 + x.e ≤ spadSize →
        (x.op = 1 → ∃ t, exec (.scatter c) s = .next t ∧ done t ∧ kept t [(row 0, x.e)] ∧
          ∀ b, b < x.e → (t.core c).spadByte (row 0 + b) = k.spadByte (x.data + b)) ∧
        (x.op = 2 → x.dtype = 1 → x.e = 4 → ∃ t, exec (.scatterAdd c) s = .next t ∧ done t ∧ kept t [(row 0, 4)] ∧
          (t.core c).spadWord (row 0) = k.spadWord (row 0) + k.spadWord x.data)) ∧
      (x.op = 3 → x.count = 1 → x.idx + 8 ≤ spadSize → x.data + x.e ≤ spadSize →
        (word (x.idx + 4) < word x.idx → ∃ t, exec (.segReduce c) s = .next t ∧ left t (fresh.failed 3 1) ∧ (t.core c).spad = k.spad) ∧
        (word (x.idx + 4) = word x.idx + 1 → row 0 + x.e ≤ spadSize →
          (segReduce x.dtype x.aux x.e [k.spad.getN byte0 (row 0) x.e]).2 &&& flNP = 0 → ∃ t, exec (.segReduce c) s = .next t ∧ done t ∧ kept t [(x.data, x.e)] ∧
          ∀ b, b < x.e →
            (t.core c).spadByte (x.data + b) = (segReduce x.dtype x.aux x.e [k.spad.getN byte0 (row 0) x.e]).1.getD b 0 ∧
            (x.dtype ≠ 0 → (t.core c).spadByte (x.data + b) = k.spadByte (row 0 + b))) ∧
        (word (x.idx + 4) = word x.idx → x.aux = 0 → ∃ t, exec (.segReduce c) s = .next t ∧ done t ∧ kept t [(x.data, x.e)] ∧
          ∀ b, b < x.e → (t.core c).spadByte (x.data + b) = 0)) ∧
      (x.count = 1 → x.idx + 8 ≤ spadSize → x.data + 4 ≤ spadSize → x.stride + 4 ≤ spadSize → at' + 8 ≤ spadSize → apart x.data 4 x.stride 4 →
        (x.op = 4 →
          (word x.idx ≠ 0xFFFFFFFF → word at' = word x.idx → ∃ t, exec (.hashProbe c) s = .next t ∧ done t ∧ kept t [(x.data, 4), (x.stride, 4)] ∧
            (t.core c).spadWord x.data = k.spadWord (at' + 4) ∧ (t.core c).spadWord x.stride = 0) ∧
          (word x.idx = 0xFFFFFFFF ∨ word at' = 0xFFFFFFFF → ∃ t, exec (.hashProbe c) s = .next t ∧ done t ∧ kept t [(x.data, 4), (x.stride, 4)] ∧
            (t.core c).spadWord x.data = 0xFFFFFFFF#32 ∧ (t.core c).spadWord x.stride = 1)) ∧
        (x.op = 5 → word x.idx ≠ 0xFFFFFFFF → word at' = 0xFFFFFFFF → apart at' 8 x.data 4 → apart at' 8 x.stride 4 →
          ∃ t, exec (.hashInsert c) s = .next t ∧ done t ∧ kept t [(x.data, 4), (x.stride, 4), (at', 8)] ∧
            (t.core c).spadWord at' = k.spadWord x.idx ∧ (t.core c).spadWord (at' + 4) = k.spadWord (x.idx + 4) ∧
            (t.core c).spadWord x.data = BitVec.ofNat 32 slot ∧ (t.core c).spadWord x.stride = 0)) ∧
      (∀ na nb, na = x.count → nb = x.aux % 2 ^ 24 → x.idx + 4 * na ≤ spadSize → x.base + 4 * nb ≤ spadSize → x.stride + 4 ≤ spadSize →
        x.data + 4 * (na + nb) ≤ spadSize → apart x.data (4 * (na + nb)) x.idx (4 * na) → apart x.data (4 * (na + nb)) x.base (4 * nb) →
        apart x.data (4 * (na + nb)) x.stride 4 →
        (∀ i, i + 1 < na → word (x.idx + 4 * i) < word (x.idx + 4 * (i + 1))) → (∀ i, i + 1 < nb → word (x.base + 4 * i) < word (x.base + 4 * (i + 1))) →
        ∀ i, (x.op = 6 ∧ i = .setIsect c ∨ x.op = 7 ∧ i = .setUnion c) →
          ∃ (t : State) (l : List Nat), exec i s = .next t ∧ done t ∧ kept t [(x.data, 4 * l.length), (x.stride, 4)] ∧ ((t.core c).spadWord x.stride).toNat = l.length ∧
            (∀ n, n < l.length → ((t.core c).spadWord (x.data + 4 * n)).toNat = l.getD n 0) ∧ l.Pairwise (· < ·) ∧
            ∀ v, v ∈ l ↔ (if x.op = 6 then (∃ i, i < na ∧ word (x.idx + 4 * i) = v) ∧ ∃ i, i < nb ∧ word (x.base + 4 * i) = v
              else (∃ i, i < na ∧ word (x.idx + 4 * i) = v) ∨ ∃ i, i < nb ∧ word (x.base + 4 * i) = v)))

/-- R199-R205, R211-R220, R385: a matrix command starts the head of the queue: a bit that must be 0 ends it with ZERO, a descriptor that
passes enters compute. At the end of compute each accumulator is the sum of its exact products in ascending order, and a descriptor that
holds its half keeps it. A finished descriptor completes with its status, a drained one with none. A hand-off sends its blocks in one packet
against the open context. HOLDREL discards a held half while nothing computes. -/
def Obligations.MatrixEnginesStartComputeAndComplete : Prop :=
  ∀ (s : State) (c : Nat) (ge : Bool) (e : Nat), e = (if ge then 1 else 0) →
    let k := s.core c
    let kept (t : State) : Prop := k.RunKept (t.core c) ∧ (t.core c).spad = k.spad ∧ (∀ y, y ≠ c → t.core y = s.core y) ∧ t.mem = s.mem
    (∀ op i d s1, (op, i) ∈ [(0, Instr.fwd c ge), (1, .dgrad c ge), (2, .wgrad c ge)] → (k.eng e).jobs = [] → s.takeDesc c e = some (d, s1) →
      (mdesc d.bytes).op = op →
      let x := mdesc d.bytes
      let fresh := s1.startJob c d x.sct
      (∀ n, firstNonzero (mdescMask x) d.bytes = some n →
        ∃ t, exec i s = .next t ∧ kept t ∧ t.net = s.net ∧ ((t.core c).eng e).jobs = [fresh.failed 8 n]) ∧
      (∀ fa fb fc, firstNonzero (mdescMask x) d.bytes = none → (e = 0 → op = 0) → (e = 1 → op = 0 → bit (k.get 0x500) 0 = true) →
        k.fmtSel k.act x.fa = some fa → k.fmtSel k.act x.fb = some fb → k.fmtSel k.act (x.ocv % 256) = some fc →
        fa.1.rate ≠ 3 → fb.1.rate ≠ 3 → fa.1.block = false → fb.1.block = false → fc.1.block = false → rndOk fc.1 (x.ocv / 256 % 8) = true →
        fc.1.kind ≠ 4 → x.m * x.n ≤ halfSize e → x.mask = 0 → x.reden = false → x.chain < 2 → (k.eng e).half = none → x.cen = false →
        (∀ a ∈ x.areas fa.1 fb.1 fc.1, a.1 + a.2 ≤ spadSize) →
        ∃ t, exec i s = .next t ∧ kept t ∧ t.net = s.net ∧ ((t.core c).eng e).jobs = [{ fresh with stage := 1 }])) ∧
    (∀ (j : Job) (fa fb : Fmt × List Nat), (k.eng e).jobs = [j] → j.stage = 1 → j.drop = false → k.spadErr = [] →
      let x := mdesc j.desc.bytes
      x.chain < 2 → x.mask = 0 → x.reden = false → (k.mFmts j.banks x).1 = fa → (k.mFmts j.banks x).2.1 = fb →
      let A := k.operandRows fa.1 fa.2 x.aAt x.shapeA.1 x.shapeA.2
      let B := k.operandRows fb.1 fb.2 x.bAt x.shapeB.1 x.shapeB.2
      let row (m : Nat) : List Fv := if x.ta then A.map (·.getD m Fv.zero) else A.getD m []
      let col (n : Nat) : List Fv := if x.tb then B.getD n [] else B.map (·.getD n Fv.zero)
      ∃ t acc, exec (.matrixComputeEnd c ge) s = .next t ∧ kept t ∧ t.net = s.net ∧
        (∀ m n, m < x.m → n < x.n → acc.getD (m * x.n + n) 0 = (macElem 0x80000000#32 (row m) (col n)).1) ∧
        (x.chain = 0 → ((t.core c).eng e).jobs = [{ j with acc := acc, stage := 2 }] ∧ ((t.core c).eng e).half = none) ∧
        (x.chain = 1 → ((t.core c).eng e).jobs = [{ j with acc := [], stage := 3 }] ∧
          ((t.core c).eng e).half = some { m := x.m, n := x.n, acc := acc })) ∧
    (∀ j rest, (k.eng e).jobs = j :: rest → j.stage = 3 → s.MayEnd c e j j.fault j.detail →
      ∃ t, exec (.matrixDescriptorComplete c ge) s = .next t ∧ s.Ended t c e j j.fault j.detail) ∧
    (∀ j rest u, (k.eng e).jobs = j :: rest → j.stage = 2 → (mdesc j.desc.bytes).reden = false →
      (k.eng e).heldRec = none → s.drain c e j = (u, none) → ((u.core c).mFmts j.banks (mdesc j.desc.bytes)).2.2.1.block = false →
      u.MayEnd c e j 0 0 →
      ∃ t, exec (.matrixDescriptorComplete c ge) s = .next t ∧ u.Ended t c e j 0 0) ∧
    (∀ j rest n (x : RdCtx), (k.eng e).jobs = j :: rest → j.stage = 2 → j.fault = 0 → j.blocks = 0 → k.spadErr = [] →
      (∀ i ∈ rest, i.desc.ticket ≠ j.desc.ticket) →
      let d := mdesc j.desc.bytes
      let blocks := d.blocksOf (if d.mask = 0 then 0 else k.spadW d.mkAt d.maskBytes)
      d.reden = true → d.ben = false → k.otherHandoff e d.rch = false → k.redCtx d j.step = some (n, x) → s.redPending c x.ch < 8 →
      blocks ≠ [] → blocks.length ≤ 16 →
      (∀ q ∈ blocks, let jj := x.cbase + (d.tag + 65536 - x.tag0) % 65536 * x.tblk + q.2.2
        (k.spadByte (32 * x.eln + 2 * (jj - x.ebase) + 1)).toNat = (x.step + jj) % 256) →
      ∃ t p, exec (.handoffCredit c ge) s = .next t ∧ kept t ∧ t.net = s.net ++ [.red p] ∧ p.core = c ∧ p.part = s.corePart c ∧ p.ch = x.ch ∧
        p.step = x.step ∧ p.attempt = x.attempt ∧
        p.recs.map (·.j) = blocks.map (fun q => x.cbase + (d.tag + 65536 - x.tag0) % 65536 * x.tblk + q.2.2)) ∧
    (isCore c = true → ∃ t, exec (.holdrel c ge) s = .next t ∧ s.OnlyCore t c ∧
      (t.core c).eng e = (if (k.eng e).jobs.any (fun j => j.stage == 1) then k.eng e else { k.eng e with half := none }) ∧
      ∀ f, f ≠ e → (t.core c).eng f = k.eng f)

/-- R255-R259, R272-R279, R281-R286: a vector command starts the head of the queue: a bit that must be 0 ends it with ZERO, an illegal
combination with OP, and a descriptor that passes every check runs. A sorted or merged block of 32 keys is written whole. A finished
descriptor completes with its status. A swap exchanges the banks of the named kinds and writes no banked word; a copy makes each shadow that is not
busy equal to its active bank and notes a busy one. The vector registers are written while no descriptor runs. -/
def Obligations.VectorCommandsStartCompleteSwapAndCopy : Prop :=
  ∀ (s : State) (c : Nat),
    let k := s.core c
    let kept (t : State) : Prop := k.RunKept (t.core c) ∧ (∀ y, y ≠ c → t.core y = s.core y) ∧ t.mem = s.mem ∧ t.net = s.net
    (∀ op i d s1, (op, i) ∈ [(0, Instr.map c), (1, .reduce c), (2, .sort c), (3, .merge c)] → (k.eng 2).jobs = [] →
      s.takeDesc c 2 = some (d, s1) → (vdesc d.bytes).op = op →
      let x := vdesc d.bytes
      let fresh := s1.startJob c d x.sct
      let starts (j : Job) : Prop := ∃ t, exec i s = .next t ∧ kept t ∧ (t.core c).spad = k.spad ∧ ((t.core c).eng 2).jobs = [j]
      (∀ n, firstNonzero (vdescMask x) d.bytes = some n → starts (fresh.failed 8 n)) ∧
      (firstNonzero (vdescMask x) d.bytes = none → x.opBad = true → starts (fresh.failed 1 op)) ∧
      (firstNonzero (vdescMask x) d.bytes = none → x.opBad = false → k.vFormat k.act x = none → k.vShape k.act x = none →
        (op < 2 → k.epValid (k.bank 1) x.prog = true ∧
          ∀ slot ∈ (k.progWords k.act x.prog).filterMap ftSlot, k.ftValid (k.bank 0) slot = true) →
        (∀ n, n < 3 → (k.vFmt k.act (x.sel n)).1.block = false) → (k.vFmt k.act (x.ocp % 256)).1.block = false →
        (∀ a ∈ k.vAreas k.act x, a.1 + a.2 ≤ spadSize) → starts { fresh with stage := 1 })) ∧
    (∀ j, (k.eng 2).jobs = [j] → j.stage = 3 → s.MayEnd c 2 j j.fault j.detail →
      ∃ t, exec (.veDescriptorComplete c) s = .next t ∧ s.Ended t c 2 j j.fault j.detail) ∧
    (∀ j, (k.eng 2).jobs = [j] → j.stage = 1 → s.MayEnd c 2 j 0 0 → k.spadErr = [] → 2 ≤ (vdesc j.desc.bytes).op →
      (vdesc j.desc.bytes).rows = 1 → (vdesc j.desc.bytes).cols = 32 → (vdesc j.desc.bytes).qen = false →
      (k.vFmt j.banks ((vdesc j.desc.bytes).ocp % 256)).1.block = false →
      let x := vdesc j.desc.bytes
      let l := (List.range 32).map fun i => (k.spadWord (x.addr 0 + 4 * i), (0 : Word))
      let l := if x.op = 2 then bitSort x.key l else bitMerge x.key l
      let l := if x.desc then l.reverse else l
      ∃ t, exec (.veDescriptorComplete c) s = .next t ∧ kept t ∧ (t.core c).get 0x4A = BitVec.ofNat 32 j.desc.ticket ∧
        ((t.core c).eng 2).jobs = [] ∧
        (∀ i, i < 32 → (t.core c).spadWord (x.addr 3 + 4 * i) = (l.getD i (0, 0)).1) ∧
        ∀ a, a < x.addr 3 ∨ x.addr 3 + 128 ≤ a → (t.core c).spadByte a = k.spadByte a) ∧
    (∀ kinds : BitVec 10, isCore c = true →
      ∃ t, exec (.veSwap c kinds) s = .next t ∧ s.OnlyCore t c ∧ k.RunKept (t.core c) ∧ (t.core c).act = k.act ^^^ kinds.toNat ∧
        (∀ x, x < 0x200000 → (t.core c).t x = k.t x) ∧
        (kinds.getLsbD 6 = false → t.core c = { k with act := k.act ^^^ kinds.toNat })) ∧
    (∀ kinds : BitVec 10, isCore c = true → Map.wf tabReset k.tab = true →
      let copies (kind j : Nat) : Prop := kind < 10 ∧ kinds.getLsbD kind = true ∧ k.busy kind = false ∧ (kindRange kind).1 ≤ j ∧
        j < (kindRange kind).1 + (kindRange kind).2
      ∃ t, exec (.veSwapCopy c kinds) s = .next t ∧ s.OnlyCore t c ∧ k.RunKept (t.core c) ∧ (t.core c).act = k.act ∧
        (∀ kind j, copies kind j → (t.core c).t (bkt (1 - k.bank kind) j) = k.t (bkt (k.bank kind) j)) ∧
        (∀ x, (∀ kind j, copies kind j → x ≠ bkt (1 - k.bank kind) j) → (t.core c).t x = k.t x) ∧
        ((∃ kind, kind < 10 ∧ kinds.getLsbD kind = true ∧ k.busy kind = true) → bit ((t.core c).get 0x621) 16 = true)) ∧
    (∀ v, isCore c = true →
      let key := if bit (k.get 0x628) 10 then vmaskKey (k.cf 0x628 0 3) else vregKey (k.cf 0x628 0 5) (k.cf 0x628 5 5)
      ∃ t, exec (.veVrData c true v) s = .next t ∧ s.OnlyCore t c ∧ k.RunKept (t.core c) ∧
        (k.veIdle = true → (t.core c).t key = v ∧ ∀ x, x ≠ key → (t.core c).t x = k.t x) ∧
        (k.veIdle = false → (t.core c).tab = k.tab ∧ bit ((t.core c).get 0x600) 10 = true)) ∧
    (∀ v, isCore c = true → ∃ t, exec (.veVrData c false v) s = .next t ∧ (t.core c).tab = k.tab ∧ k.RunKept (t.core c) ∧
      ∀ y, y ≠ c → t.core y = s.core y)

/-- R236-R241, R243, R247-R252, R275-R279: a write of a table word changes the shadow bank, is ignored in the active bank, and is noted where
the shadow is busy; a headroom value that is not allowed sets CFGERR. A learned-scale command fills a shadow rescale table, or writes nothing where
a scale is not allowed. A roll acts on every valid entry of its source: it clears the current statistics, and a commit keeps them as the last ones
and moves READY on. -/
def Obligations.TableWritesAndRollsActOnTheScaleEntries : Prop :=
  ∀ (s : State) (c : Nat), isCore c = true →
    let k := s.core c
    (∀ i n m v, (i, n, m) ∈ ([(.tableDataAccess c 0x619#12 true v, 0x619, 0xFFFFFFFF#32), (.tableDataAccess c 0x701#12 true v, 0x701, 0xFFFFFFFF#32),
        (.tableDataAccess c 0x702#12 true v, 0x702, 0xFFFFFFFF#32), (.tableDataAccess c 0x891#12 true v, 0x891, 0xFFFFFFFF#32),
        (.qzFmtshWrite c 0 v, 0x830, 0x1FFFFFFF#32), (.qzFmtshWrite c 1 v, 0x831, 0x1FFFFFFF#32), (.qzFmtshWrite c 2 v, 0x832, 0x1FFFFFFF#32),
        (.qzFmtshWrite c 3 v, 0x833, 0x1FFFFFFF#32), (.qzSeCfgWrite c 0 v, 0x851, 0xFFFFFF#32), (.qzSeCfgWrite c 1 v, 0x852, 0xFF0FFF#32),
        (.qzSeCfgWrite c 2 v, 0x853, 0xFFFFFF#32), (.qzSeCfgWrite c 3 v, 0x854, 0xFFFF#32)] : List (Instr × Nat × Word)) →
      ∃ t kind b j, exec i s = .next t ∧ k.tableWord n = some (kind, b, j) ∧ s.OnlyCore t c ∧ k.RunKept (t.core c) ∧ (t.core c).act = k.act ∧
        (b = k.bank kind → (t.core c).tab = k.tab) ∧
        (b ≠ k.bank kind → k.busy kind = true → (t.core c).tab = k.tab ∧ bit ((t.core c).get 0x621) 16 = true) ∧
        (b ≠ k.bank kind → k.busy kind = false →
          ∀ x, (t.core c).t x = if x = bkt b j then (k.t x &&& ~~~m) ||| (v &&& m) else k.t x)) ∧
    (∀ v, ∃ t, exec (.tableDataAccess c 0x899#12 true v) s = .next t ∧ s.OnlyCore t c ∧ k.RunKept (t.core c) ∧
      ∀ x, (t.core c).t x = if x = histKey (k.cf 0x898 0 12) then v else k.t x) ∧
    (∀ (e : BitVec 4) v, ∃ t, exec (.qzHrshWrite c e v) s = .next t ∧ s.OnlyCore t c ∧ k.RunKept (t.core c) ∧
      (hrOk (fld v 0 16) = false → (t.core c).tab = k.tab ∧ bit ((t.core c).get 0x8B2) 0 = true) ∧
      (hrOk (fld v 0 16) = true → k.busy 7 = true → (t.core c).tab = k.tab ∧ bit ((t.core c).get 0x621) 16 = true) ∧
      (hrOk (fld v 0 16) = true → k.busy 7 = false →
        ∀ x, (t.core c).t x = if x = bkt (1 - k.bank 7) (0x3800 + e.toNat) then v &&& 0xFFFF else k.t x)) ∧
    (∀ v, let a := 32 * fld v 0 13
      let tbl := 2 + fld v 13 2
      let m := f32 (k.get 0x8A1)
      let n := if bit v 16 then 1 else 512
      let sigma (i : Nat) : Word := k.spadWord (a + 4 * (if bit v 16 then 0 else i))
      a + 4 * n ≤ spadSize → k.spadErr = [] →
      ∃ t, exec (.qzLsGo c v) s = .next t ∧ s.OnlyCore t c ∧ k.RunKept (t.core c) ∧
        ((∃ i, i < n ∧ sigmaOk (sigma i) = false) → (t.core c).tab = k.tab ∧ bit ((t.core c).get 0x8B2) 1 = true) ∧
        ((∀ i, i < n → sigmaOk (sigma i) = true) → k.busy tbl = false → ∀ i, i < 512 →
          (t.core c).t (bkt (1 - k.bank tbl) (0x2000 + 512 * fld v 13 2 + i)) =
            BitVec.ofNat 32 (if bit v 15 then fDiv fmt32 0 m (f32 (sigma i)) else fMul fmt32 0 m (f32 (sigma i))).1)) ∧
    (let rolled (t : State) (u : Word) (commit : Bool) (src : Nat) : Prop :=
        k.RunKept (t.core c) ∧ (t.core c).spad = k.spad ∧ (∀ y, y ≠ c → t.core y = s.core y) ∧ t.mem = s.mem ∧ t.net = s.net ∧
        (∀ x, x < 0x200000 → (t.core c).t x = k.t x) ∧
        ∀ e, e < 64 → (k.seCfg (k.bank 6) e).valid = true → (k.seCfg (k.bank 6) e).rollsrc = src →
          (∀ f, 3 ≤ f → f < 9 → (t.core c).seS e f = 0) ∧ bit ((t.core c).seS e 1) 1 = false ∧
          (commit = true → (t.core c).seS e 2 = u + 1 + BitVec.ofNat 32 (k.seCfg (k.bank 6) e).lag ∧ bit ((t.core c).seS e 1) 0 = false ∧
            ∀ f, 3 ≤ f → f < 9 → (t.core c).seS e (f + 6) = k.seS e f) ∧
          (commit = false → (t.core c).seS e 2 = k.seS e 2 ∧ bit ((t.core c).seS e 1) 0 = bit (k.seS e 1) 0 ∧
            ∀ f, 3 ≤ f → f < 9 → (t.core c).seS e (f + 6) = k.seS e (f + 6))
     (∀ e, e < 3 → ∀ j ∈ (k.eng e).jobs, j.rollWait = false) →
      (∃ t, exec (.qzRollCommit c) s = .next t ∧ rolled t (k.get 0x8A8) true 1) ∧
      (∃ t, exec (.qzRollSkip c) s = .next t ∧ rolled t (k.get 0x8A8) false 1) ∧
      (∀ r, s.rolls.find? (fun r => r.core == c) = some r →
        (k.startedOf r.step = true → exec (.roll c) s = .next s) ∧
        (k.startedOf r.step = false → ∃ t, exec (.roll c) s = .next t ∧ t.rolls = s.rolls.erase r ∧
          rolled t (BitVec.ofNat 32 r.step) r.commit 0)))

/-- R290-R292, R306, R313-R322, R329, R536: an accepted BEGIN opens a step under the next number, a refused one sets CMDERR. CLOSE and VETO mark
the oldest step in RUN. RESUME clears HALTED and its reasons. A child's ballot is merged or discarded. An outcome is applied to step A in VOTING,
held for step B, or discarded: a skip keeps the number and counts the attempt, a commit advances ST_NEXT and ST_OPTSTEP. A step that is applied, or
abandoned, leaves. -/
def Obligations.StepControllerOpensDecidesAndClosesSteps : Prop :=
  ∀ (s : State) (p : Nat), p < 64 →
    let c := s.stCtl p
    let same (t : State) : Prop := t.cores = s.cores ∧ t.mem = s.mem ∧ t.net = s.net
    let cmdErr := s.orReg (stKey p 4) (2 ^ 9)
    let open' (n a : Nat) : OpenStep := { num := n, att := a, hclosed := false, veto := false, ready := false, vtmo := false, held := none }
    (c.a = none ∧ bit (s.reg (stKey p 0)) 0 = false ∨ bit (s.reg (stKey p 4)) 5 = true ∨ c.b ≠ none ∨
      c.a ≠ none ∧ (bit (s.reg (stKey p 0)) 2 = false ∨ s.sa p < 2) → exec (.begin p) s = .next cmdErr) ∧
    (bit (s.reg (stKey p 4)) 5 = false → c.b = none → bit (s.reg (stKey p 0x80)) 31 = false → bit (s.reg (stKey p 0)) 1 = true →
      (c.a = none → bit (s.reg (stKey p 0)) 0 = true → ∃ t, exec (.begin p) s = .next t ∧ same t ∧ t.sa p = 1 ∧ t.reg (stKey p 0x10) = s.reg (stKey p 0xC) ∧
        t.stCtl p = { c with a := some (open' (s.stNext p) (s.stAttempt p)) }) ∧
      (∀ a, c.a = some a → s.sa p = 3 → bit (s.reg (stKey p 0)) 2 = true →
        ∃ t, exec (.begin p) s = .next t ∧ same t ∧ t.sa p = 3 ∧ t.sb p = 1 ∧ (t.reg (stKey p 0x10)).toNat = (a.num + 1) % 2 ^ 32 ∧
          t.stCtl p = { c with b := some (open' ((a.num + 1) % 2 ^ 32) 0) })) ∧
    (c.b = none → bit (s.reg (stKey p 0)) 1 = false → exec (.close p) s = .next cmdErr) ∧
    (∀ b, c.b = some b → s.sb p = 4 → ∃ t, exec (.close p) s = .next t ∧ same t ∧ t.sb p = 0 ∧
      t.stCtl p = { c with b := none, reports := c.reports.filter fun r => r.step != b.num } ∧
      t.rolls = s.rolls ++ (s.partCores p).map fun x => { core := x, step := b.num, commit := false }) ∧
    (∀ a ch, c.a = some a → c.b = none → bit (s.reg (stKey p 0)) 1 = true → s.sa p = 1 → a.hclosed = false → a.ready = false →
      ch ∈ s.voteChs p → (∀ r ∈ c.reports, r.ch ≠ ch) →
      ∃ t, exec (.close p) s = .next t ∧ same t ∧ t.regs = s.regs ∧ t.stCtl p = { c with a := some { a with hclosed := true } }) ∧
    (∀ a, c.a = some a → s.sa p = 1 → exec (.veto p) s = .next (s.setStCtl p { c with a := some { a with veto := true } })) ∧
    (c.a = none → exec (.veto p) s = .next (s.orReg (stKey p 4) (2 ^ 10))) ∧
    exec (.resume p) s = .next (s.clrReg (stKey p 4) 0x8E0) ∧
    (s.vrNum p ≠ 0 → ∃ t, exec (.breakStep p) s = .next t ∧ same t ∧ bit (t.reg (stKey p 4)) 8 = true) ∧
    (s.apply p = none → exec (.abandon p) s = .next cmdErr) ∧
    (∀ a, s.apply p = some a → s.sa p = 3 → a.lost = true → bit (s.reg (cmKey p 4)) 1 = false → a.copies = [] → a.disarm = false → c.b = none →
      s.rdChans p = [] →
      ∃ t, exec (.abandon p) s = .next t ∧ same t ∧ t.sa p = 0 ∧ (t.stCtl p).a = none ∧ t.apply p = none ∧ bit (t.reg (stKey p 4)) 5 = true ∧
        bit (t.reg (stKey p 4)) 11 = true) ∧
    (∀ g step att flags count, s.voteParts g = [p] → c.a = none → c.b = none →
      exec (.ballot g step att flags count) s = .next
        (if s.inWindow p step att then
          let old := (c.ballots.find? fun b => b.step == step && b.att == att).getD ⟨step, att, 0, 0, 0⟩
          s.setStCtl p { c with ballots := (c.ballots.filter fun b => !(b.step == step && b.att == att)) ++
            [{ old with flags := old.flags ||| flags, count := old.count + count, children := old.children + 1 }] }
        else s.bump (stKey p 0x158) 1)) ∧
    (∀ g step att commit flags, s.voteParts g = [p] →
      (c.a = none → exec (.outcome g step att commit flags) s = .next (s.bump (stKey p 0x158) 1)) ∧
      (∀ a b, c.a = some a → a.num ≠ step → c.b = some b → b.num = step → b.att = att → s.sb p ≤ 2 →
        ∃ t, exec (.outcome g step att commit flags) s = .next t ∧ same t ∧ t.sb p = 3 ∧
          t.stCtl p = { c with b := some { b with held := some (commit, flags) } }) ∧
      (∀ a, c.a = some a → a.num = step → a.att = att → s.sa p = 2 → c.b = none → s.rdChans p = [] → bit (s.reg (stKey p 0x80)) 31 = false →
        s.regFld (stKey p 0) 8 8 = 0 → s.grpNum p = 0 → bit (s.reg (cmKey p 0)) 0 = false →
        ∃ t, exec (.outcome g step att commit flags) s = .next t ∧ (commit = true → same t) ∧ t.mem = s.mem ∧
          t.net = (if commit then s.net else s.net.map (NetItem.markStale p step)) ∧ (∀ x, t.core x = { s.core x with ctxs := (t.core x).ctxs }) ∧ t.reg (stKey p 0x14) = BitVec.ofNat 32 step ∧
          t.reg (stKey p 0x18) = BitVec.ofNat 32 ((if commit then 1 else 0) + flags % 256 * 2 ^ 4 + att * 2 ^ 16) ∧
          t.rolls = s.rolls ++ (s.partCores p).map (fun x => { core := x, step := step, commit := commit }) ∧
          (commit = false → t.sa p = 0 ∧ (t.stCtl p).a = none ∧ t.reg (stKey p 0xC) = BitVec.ofNat 32 step ∧
            t.reg (stKey p 0x24) = BitVec.ofNat 32 ((s.stAttempt p + 1) % 256)) ∧
          (commit = true → t.sa p = 3 ∧ ((t.stCtl p).a.map (·.num)) = some step ∧ t.reg (stKey p 0xC) = BitVec.ofNat 32 (step + 1) ∧
            t.reg (stKey p 0x24) = 0 ∧ t.reg (stKey p 0x20) = s.reg (stKey p 0x20) + 1 ∧ (t.apply p).map (·.step) = some step))) ∧
    (∀ a x, s.apply p = some a → c.a = some x → s.sa p = 3 → s.step4 p a = true → a.copies = [] → a.facs = [] → a.disarm = false → c.b = none →
      s.rdChans p = [] → bit (s.reg (stKey p 0x80)) 31 = false →
      ∃ t, exec (.applied p) s = .next t ∧ same t ∧ t.sa p = 0 ∧ (t.stCtl p).a = none ∧ t.apply p = none ∧
        t.reg (stKey p 0x1C) = BitVec.ofNat 32 a.step ∧ bit (t.reg (stKey p 0x84)) 2 = true) ∧
    (∀ a, c.a = some a → s.regFld (stKey p 0x3C) 0 24 ≠ 0 → a.ready = true → a.vtmo = false → s.sa p ≠ 3 →
      ∃ t, exec (.voteTimeout p false) s = .next t ∧ same t ∧ t.stCtl p = { c with a := some { a with vtmo := true } } ∧
        bit (t.reg (stKey p 0x84)) 3 = true)

/-- R299-R302, R305, R306: a take adds a hold on the current slot, records the time and the taker, and is refused (nothing changes) while the
record is not valid, its only slot is being published, or the count is full. A drop takes one hold off the slot that holds the version, or raises
BADDROP. Lines 0 and 1 are written while the record is idle, and are left as they are while it is not. A slot whose holds have stood for the time limit expires: EXP is set and the
partition is HALTED. A sweep visit during BREAK clears the counts of expired slots. -/
def Obligations.VersionRecordsCountHoldersAndExpire : Prop :=
  ∀ (s : State) (p i t o : Nat), s.RecordAt p i t o →
    let r := s.record t o
    let gone (r : VRec) (k : Nat) : VRec := if r.holds k then r else r.setCtrl (4 + k) false
    let clear (k : Nat) (r : VRec) : VRec := if r.exp k then { r with rd := putAt r.rd k 0, ls := putAt r.ls k 0 }.setCtrl (4 + k) false else r
    ((∀ k, k < 2 → s.slotDue p r k = false) →
      (∀ taker,
        (r.valid = true → (r.two = true ∨ r.pub = false) →
          (pick r.rd r.cur ≠ 0xFFFF → ∃ u, exec (.readerTake p i taker) s = .next u ∧
            s.RecordSet u t o { r with rd := putAt r.rd r.cur (pick r.rd r.cur + 1), t := putAt r.t r.cur s.time32, last := taker % 2 ^ 32 }) ∧
          (pick r.ls r.cur ≠ 0xFFFF → ∃ u, exec (.leaseTake p i taker) s = .next u ∧
            s.RecordSet u t o { r with ls := putAt r.ls r.cur (pick r.ls r.cur + 1), t := putAt r.t r.cur s.time32, last := taker % 2 ^ 32 })) ∧
        ((r.valid = false ∨ r.two = false ∧ r.pub = true) →
          (∃ u, exec (.readerTake p i taker) s = .next u ∧ s.RecordSet u t o r) ∧ (∃ u, exec (.leaseTake p i taker) s = .next u ∧ s.RecordSet u t o r))) ∧
      (∀ (ver : Word) (k : Nat), r.slotOf ver.toNat = some k →
        (0 < pick r.rd k → ∃ u, exec (.readerDrop p i ver) s = .next u ∧
          s.RecordSet u t o (gone { r with rd := putAt r.rd k (pick r.rd k - 1), t := putAt r.t k s.time32 } k)) ∧
        (0 < pick r.ls k → ∃ u, exec (.leaseDrop p i ver) s = .next u ∧
          s.RecordSet u t o (gone { r with ls := putAt r.ls k (pick r.ls k - 1), t := putAt r.t k s.time32 } k))) ∧
      (∀ ver : Word, r.slotOf ver.toNat = none →
        (∃ u, exec (.readerDrop p i ver) s = .next u ∧ s.RecordSet u t o r ∧ bit (u.reg (stKey p 0x84)) 5 = true) ∧
        (∃ u, exec (.leaseDrop p i ver) s = .next u ∧ s.RecordSet u t o r ∧ bit (u.reg (stKey p 0x84)) 5 = true)) ∧
      (∃ u, exec (.leaseExpiry p i) s = .next u ∧ s.RecordSet u t o r) ∧
      (∃ u, exec (.sweepVisit p i) s = .next u ∧ s.RecordSet u t o (if bit (s.reg (stKey p 4)) 8 then clear 1 (clear 0 r) else r))) ∧
    (∀ k, k < 2 → s.slotDue p r k = true → s.slotDue p r (1 - k) = false →
      ∃ u, exec (.leaseExpiry p i) s = .next u ∧ s.RecordSet u t o (r.setCtrl (4 + k) true) ∧ bit (u.reg (stKey p 4)) 5 = true ∧
        bit (u.reg (stKey p 4)) 6 = true ∧ bit (u.reg (stKey p 0x84)) 4 = true) ∧
    (r.idle = false → ∀ off data, data ≠ [] → off + data.length ≤ 0x40 →
      ∃ u, exec (.recordLineWrite p i off data) s = .next u ∧ u.mem = s.mem ∧ u.cores = s.cores ∧ u.net = s.net) ∧
    (r.idle = true → ∀ off data, data ≠ [] → off + data.length ≤ 0x40 →
      s.chunks p (s.vrBase p + 128 * i + off) data.length = some [⟨t, o + off, data.length⟩] →
      ∃ u, exec (.recordLineWrite p i off data) s = .next u ∧ u.mem = Map.setN byte0 s.mem (memIdx t (o + off)) data ∧ u.cores = s.cores ∧
        u.net = s.net)

/-- R337, R338, R343, R349-R352, R356-R358, R536: ARM loads a run table, or is refused while a step is open; a disarm frees it. A block of a frozen
group is written back as it was read; a block whose gradient is absent takes the recurrence with gradient 0. A copy write lands and is counted, or
its copy fails. The final operation publishes the version. REEMIT and REAPPLY are refused, or start over. A swap waits for the next snapshot, whose
start flips the banks of its kind alone (of two requests before one the second undoes the first: the model's choice, log entry 54); a copy fills the
shadow bank. A group range is assigned only while its partition is idle. -/
def Obligations.UpdateEnginesArmApplyPublishAndSwap : Prop :=
  ∀ (s : State) (t p : Nat), p < 64 →
    let refused (k : Nat) := s.setReg k (BitVec.ofNat 32 (s.regFld k 0 1 + 2 + 16))
    (s.fuse.hasTile t = true →
      (s.stepOpen p = true → exec (.ueArm t p) s = .next (refused (ueKey t (0x100C + 0x10 * p))) ∧
        exec (.ueDisarm t p) s = .next (refused (ueKey t (0x100C + 0x10 * p)))) ∧
      (s.stepOpen p = false →
        exec (.ueDisarm t p) s = .next ((s.setRegFld (ueKey t (0x100C + 0x10 * p)) 0 1 0).setRunTab t p []) ∧
        ∀ (s1 : State) (ds : List (List Byte)), let n := s.regFld (ueKey t (0x1008 + 0x10 * p)) 0 13
          n ≤ s.runFree t + (s.runTab t p).length →
          (List.range n).foldl (fun (acc : State × List (Option (List Byte))) i =>
            match acc.1.ueRead t p (s.reg64 (ueKey t (0x1000 + 0x10 * p)) % 2 ^ 48 + 32 * i) 32 with
            | (s, .ok d) => (s, acc.2 ++ [some d])
            | (s, _) => (s, acc.2 ++ [none])) (s, []) = (s1, ds.map some) →
          (∀ d ∈ ds, s1.runBad p d = false ∧ s1.runPlaced p t (parseRun d) = true) → runChainBad (ds.map parseRun) = none →
          ∃ u, exec (.ueArm t p) s = .next u ∧ u.runTab t p = ds.map parseRun ∧ bit (u.reg (ueKey t (0x100C + 0x10 * p))) 0 = true) ∧
      (∀ a u r o, s.sa p = 3 → s.apply p = some a → a.tiles.find? (fun u => u.tile == t) = some u → u.tile = t → u.ended = false → s.reemits.get none0 p = none →
        (s.runTab t p)[u.run]? = some r → s.xlate p (r.state + u.blk * layoutSize r.layout) = some (t, o) →
        errIn s.memErr 64 (memIdx t o) (layoutSize r.layout) = [] → bit (s.reg (cmKey p 0)) 0 = false →
        let old := s.mem.getN byte0 (memIdx t o) (layoutSize r.layout)
        (a.facs.find? (fun x => x.group == r.group) = none →
          ∃ v, exec (.ueBlockApply t p) s = .next v ∧ v.mem = Map.setN byte0 s.mem (memIdx t o) old ∧ v.cores = s.cores ∧ v.net = s.net ∧
            v.apply p = some { a with tiles := a.tiles.map fun x => if x.tile = t then u.next (s.runTab t p) else x }) ∧
        (∀ x, a.facs.find? (fun x => x.group == r.group) = some x → r.norec = true → r.layout < 4 → r.rch < 256 → bit (s.reg (rdKey r.rch 0)) 0 = false →
          let new := (List.range 32).map fun i => x.step (elemOf r.layout old i) 0
          new.all (fun e => e.finite r.layout) = true →
          ∃ v, exec (.ueBlockApply t p) s = .next v ∧ v.mem = Map.setN byte0 s.mem (memIdx t o) (elemsBytes r.layout new) ∧ v.cores = s.cores ∧ v.net = s.net))) ∧
    (∀ c x o, s.reemits.get none0 p = some c → c.tile = t → c.phase = 2 → c.out = 0 → s.RecordAt p c.vrec x o → c.slot < 2 →
      let r := s.record x o
      (∀ k, k < 2 → s.slotDue p r k = false) →
      let published : VRec := if r.two then { r with ver := putAt r.ver c.slot c.ver }.setCtrl 3 true else { r with ver := putAt r.ver c.slot c.ver }
      ∃ u, exec (.publishFinal t p) s = .next u ∧ u.reemits.get none0 p = none ∧ bit (u.reg (uePart p 0x1C)) 6 = true ∧
        s.RecordSet u x o ((if c.failed then (if r.two then r.setCtrl 3 false else r.setCtrl 0 false) else published.setCtrl 2 (c.slot == 1)).setCtrl 6 false)) ∧
    (∀ w c, s.popCopy p t = some (w, { s with copyq := s.copyq.erase w }) → w.part = p → w.reemit = true → s.reemits.get none0 p = some c →
      c.reemit = true → w.tile = c.tile → c.tile < 8 →
      (c.failed = false →
        ∃ u, exec (.copyAckTimeout t p) s = .next u ∧ u.mem = s.mem ∧ u.cores = s.cores ∧ u.copyq = s.copyq.erase w ∧
          u.reemits.get none0 p = some { c with out := c.out - 1, failed := true } ∧ bit (u.reg (uePart p 0x1C)) 4 = true) ∧
      (∀ q d x o, w.loc / 2 ^ 62 % 4 = 1 → w.pieces = [(q, d)] → s.Plain p (w.loc % 2 ^ 48 + q) d.length x o →
        ∃ u, exec (.copyWriteAck t p) s = .next u ∧ u.mem = Map.setN byte0 s.mem (memIdx x o) d ∧ u.cores = s.cores ∧ u.copyq = s.copyq.erase w ∧
          u.reemits.get none0 p = some { c with out := c.out - 1 })) ∧
    (∀ v, (s.sa p = 3 ∨ (s.reemits.get none0 p).isSome = true → exec (.reemit p v) s = .next (s.orReg (uePart p 0x18) 2)) ∧
      (s.sa p ≠ 3 → s.reemits.get none0 p = none → (∀ t ∈ s.fuse.tiles, ∀ r ∈ s.runTab t p, r.norec = true ∨ r.vrec ≠ v) →
        exec (.reemit p v) s = .next (s.orReg (uePart p 0x18) 4)) ∧
      (∀ tl x o, s.sa p ≠ 3 → s.reemits.get none0 p = none →
        s.fuse.tiles.find? (fun t => (s.runTab t p).any fun r => !r.norec && r.vrec == v) = some tl → s.RecordAt p v x o →
        let r := s.record x o
        let k := if r.two then 1 - r.cur else 0
        r.valid = true → (∀ k, k < 2 → s.slotDue p r k = false) →
        ∃ u c, exec (.reemit p v) s = .next u ∧ u.reemits.get none0 p = some c ∧ c.tile = tl ∧ c.vrec = v ∧ c.slot = k ∧ c.reemit = true ∧
          c.ver = (s.reg (stKey p 0x1C)).toNat ∧ c.phase = (if r.holds k then 0 else 2) ∧ bit (u.reg (uePart p 0x18)) 0 = true ∧
          u.mem = Map.setN byte0 s.mem (memIdx x o) (r.setCtrl 6 true).bytes ∧ u.cores = s.cores ∧ u.net = s.net)) ∧
    (s.apply p = none → exec (.reapply p) s = .next (s.orReg (uePart p 0x18) 2)) ∧
    (∀ a, s.apply p = some a → s.sa p = 3 → a.lost = true → a.restored = true →
      ∃ u, exec (.reapply p) s = .next u ∧ u = { s with applies := u.applies, copyq := u.copyq } ∧
        ∃ b, u.apply p = some b ∧ b.facs = a.facs ∧ b.step = a.step ∧ b.mirFailed = false ∧ b.marked = false ∧
          ∀ x ∈ b.tiles, x.run = 0 ∧ x.blk = 0 ∧ x.lost = false ∧ x.ended = false) ∧
    (∃ u, exec (.ueSwapGrp p) s = .next u ∧ u = { s with devAct := u.devAct } ∧ u.devBank (grpSwapKind p) = 1 - s.devBank (grpSwapKind p) ∧
      ∀ k, k ≠ grpSwapKind p → u.devBank k = s.devBank k) ∧
    (∀ pf, ∃ u, exec (.ueSwapRow p pf) s = .next u ∧ u = { s with devAct := u.devAct } ∧
      u.devBank rowSwapKind = (if pf then 1 - s.devBank rowSwapKind else s.devBank rowSwapKind) ∧ ∀ k, k ≠ rowSwapKind → u.devBank k = s.devBank k) ∧
    (let u := s.swapsDue p
      let flips (due : Nat) (k : Nat) : Prop := u.devBank k = if s.devBank due = 0 then s.devBank k else 1 - s.devBank k
      u = { s with devAct := u.devAct } ∧ u.devBank (grpSwapKind p) = 0 ∧ u.devBank rowSwapKind = 0 ∧ flips rowSwapKind 2 ∧
      flips (grpSwapKind p) (crvKind p) ∧
      (s.grpBase p + s.grpNum p ≤ 256 → ∀ i, i < s.grpNum p → flips (grpSwapKind p) (grpKind (s.grpBase p + i)))) ∧
    (∃ u, exec (.ueSwapCopy p true false true) s = .next u ∧ u = { s with regs := u.regs } ∧
      ∀ r i, r < 32 → i < 11 → u.reg (bankKey (1 - s.devBank 2) (rowKey r i)) = s.reg (bankKey (s.devBank 2) (rowKey r i))) ∧
    (exec (.ueSwapCopy p false false true) s = .next s) ∧
    (∀ v : Word, exec (.uePgrpWrite p false v) s = .next s ∧
      (bit v 31 = false → (s.stepOpen p = true ∨ ∃ t ∈ s.fuse.tiles, s.regFld (ueKey t (0x100C + 0x10 * p)) 0 1 = 1) →
        exec (.uePgrpWrite p true v) s = .next (s.orReg (uePart p 0) (2 ^ 31))) ∧
      (bit v 31 = false → s.stepOpen p = false → (∀ t ∈ s.fuse.tiles, s.regFld (ueKey t (0x100C + 0x10 * p)) 0 1 = 0) →
        (∀ q, q < 64 → q ≠ p → rangesOverlap (fld v 0 8) (fld v 8 9) (s.grpBase q) (s.grpNum q) = false) →
        exec (.uePgrpWrite p true v) s = .next (s.setRegFld (uePart p 0) 0 17 (fld v 0 17))))

/-- R374, R377, R383, R387, R392, R393, R398: a context opens on an enabled stream channel, or the open is refused; closing it sends an END record.
A packet outside the window, or of a step that was skipped or cancelled, is discarded as late; a record of an accepted step starts its block or is added to it. INIT writes the exponent arrays
and histories. SEAL starts the conversion of a bucket and, on a device that is not the channel's owner, asks the owner for
the exponents; its end adds the block and clears the area's busy bit; CLOSE marks the step. A channel is
enabled only in a legal configuration and disabled only while no step is open. -/
def Obligations.ReductionChannelsCombineRecordsAndBuckets : Prop :=
  ∀ (s : State) (c : Nat),
    let clean (ch par j : Nat) : Prop := ∃ l, s.chunks (s.rdPart ch) (s.rdAddr ch 0x10 + (par * s.rdNblk ch + j) * 288) 288 = some l ∧
      ∀ x ∈ l, s.regionRefuses (s.rdPart ch) .ordinary true x = false ∧ errIn s.memErr 64 (memIdx x.tile x.off) x.len = []
    (∀ i : BitVec 4, isCore c = true →
      let k := s.core c
      let p := s.corePart c
      let a := 32 * k.cf 0x2C0 0 13 + 32 * i.toNat
      (k.cf 0x2C0 16 5 ≤ i.toNat → exec (.muRdOpen c i) s = .next (s.modCore c fun k => k.rdErr 1 i.toNat)) ∧
      (i.toNat < k.cf 0x2C0 16 5 → k.ctxs.get none0 i.toNat = none → errIn k.spadErr 8 a 32 = [] → inSpad a 32 = true →
        ∀ x, parseCtx (k.spad.getN byte0 a 32) = some x → bit (s.reg (rdKey x.ch 0)) 0 = true → bit (s.reg (rdKey x.ch 0)) 1 = false → s.stepOpen p = true →
        (∀ e ∈ k.ctxs, ∀ y, e.2 = some y → y.ch ≠ x.ch) →
        let y : RdCtx := { x with step := (s.stepNo p).toNat, attempt := if s.sb p = 0 then s.regFld (stKey p 0x24) 0 8 else 0 }
        exec (.muRdOpen c i) s = .next (s.modCore c fun k => { k with ctxs := k.ctxs.set none0 i.toNat (some y) })) ∧
      (k.ctxs.get none0 i.toNat = none → exec (.muRdClose c i) s = .next (s.modCore c fun k => k.rdErr 2 i.toNat)) ∧
      (∀ x, k.ctxs.get none0 i.toNat = some x →
        ∃ t, exec (.muRdClose c i) s = .next t ∧ (t.core c).ctxs.get none0 i.toNat = none ∧ (∀ y, y ≠ c → t.core y = s.core y) ∧ t.mem = s.mem ∧
          t.net = s.net ++ [.red { part := p, ch := x.ch, step := x.step, attempt := x.attempt, src := 0, core := c, nf := x.nf, rg := x.rg,
                                   ck := 0, stale := x.stale, recs := [endRec x.nf x.rg] }])) ∧
    (∀ k : RedPkt,
      s.net.find? (fun x => match x with
        | .red q => q.ch == k.ch && q.src == k.src && q.core == k.core && q.part == k.part
        | _ => false) = some (.red k) →
      (s.rdEn k.ch = false ∨ s.rdPart k.ch ≠ k.part ∨ s.inWindow k.part k.step k.attempt = false ∨ k.stale = true ∨
        s.cancelled k.part k.step = true → k.recs ≠ [] →
        ∃ t, exec (.reductionPacket k) s = .next t ∧ t.net = s.net.erase (.red k) ∧ t.comb = s.comb ∧ t.cores = s.cores ∧ t.mem = s.mem ∧
          bit (t.reg 0x90000) 4 = true) ∧
      (∀ r x, k.ch < 256 → s.rdEn k.ch = true → s.rdPart k.ch = k.part → s.inWindow k.part k.step k.attempt = true → k.stale = false →
        s.cancelled k.part k.step = false → s.redWaits k.part k.step = false → k.recs = [r] → k.nf = false → k.rg = false → k.ck = r.sum % 2 ^ 64 → r.kind < 3 → r.j < s.rdNblk k.ch → r.tag = (k.step + r.j) % 256 →
        r.nf = false → r.rg = false → r.ck = false → s.redStep k.ch (k.step % 2) = some x → x.step = k.step → x.att = k.attempt →
        x.ends < s.rdNlocal k.ch + s.rdNchild k.ch → clean k.ch (k.step % 2) r.j →
        ∀ b, (s.combAt k.ch (k.step % 2) r.j = none ∧ b = { r with kind := 1 } ∨
            ∃ o, s.combAt k.ch (k.step % 2) r.j = some o ∧ o.s = r.s ∧ o.add r = (b, 0)) →
        ∃ t, exec (.reductionPacket k) s = .next t ∧ t.net = s.net.erase (.red k) ∧ t.combAt k.ch (k.step % 2) r.j = some b ∧
          t.cores = s.cores ∧ (Memory.wf s = true → t.mem = s.mem))) ∧
    (c < 256 →
      let p := s.rdPart c
      let v := (s.stepNo p).toNat
      let cmdErr := s.orReg (rdKey c 0x54) (2 ^ 9)
      (s.stepOpen p = true ∨ s.rdOwner c = false → exec (.rdInit c) s = .next cmdErr) ∧
      (s.stepOpen p = false → s.rdOwner c = true →
        let w := (s.reg (rdKey c 0x4C)).toNat
        let ini := s.regFld (rdKey c 0x48) 0 8
        let e := s.rdAddr c 0x20
        let n := expSize (s.rdNblk c)
        exec (.rdInit c) s = .next ((List.range (s.rdNblk c)).foldl (fun u j =>
          ((u.rdWrite p (e + w % 2 * n + 2 * j) [BitVec.ofNat 8 ini, BitVec.ofNat 8 (w + j)]).rdWrite p (e + (w + 1) % 2 * n + 2 * j)
            [BitVec.ofNat 8 ini, BitVec.ofNat 8 (w + 1 + j)]).rdWrite p (e + 2 * n + 16 * j) (List.replicate 16 0)) s)) ∧
      (∀ (area : Bool) (k : BitVec 24), let a := if area then 1 else 0
        (bit (s.reg (rdKey c 0x54)) a = true ∨ s.rdNblk c ≤ k.toNat * s.bucketBB c ∨ s.stepOpen p = false →
          exec (.seal c area k) s = .next cmdErr) ∧
        (∀ x, bit (s.reg (rdKey c 0x54)) a = false → k.toNat * s.bucketBB c < s.rdNblk c → s.stepOpen p = true → s.rdEn c = true →
          bit (s.reg (rdKey c 0)) 1 = true → s.redStep c (v % 2) = some x → x.step = v → x.att = s.curAttempt p → x.closed = false →
          k.toNat ∉ x.sealed →
          let reads := s.sealReads c a k.toNat v
          ∃ t, exec (.seal c area k) s = .next t ∧ t.net = s.net ++ reads.map NetItem.req ∧
            t.seals = s.seals ++ [{ ch := c, area := a, k := k.toNat, step := v, att := x.att, need := reads.length, exps := [] }] ∧
            t.redStep c (v % 2) = some { x with sealed := x.sealed ++ [k.toNat] } ∧ bit (t.reg (rdKey c 0x54)) a = true ∧
            t.mem = s.mem ∧ t.cores = s.cores)) ∧
      (∀ area k, s.sealAt c area k.toNat = none → exec (.sealDone c area k) s = .next s) ∧
      (∀ area k x, s.sealAt c area k.toNat = some x → x.exps.length < x.need →
        exec (.sealDone c area k) s = .next s) ∧
      (s.stepOpen p = false ∨ s.rdEn c = false ∨ bit (s.reg (rdKey c 0)) 1 = false → exec (.rdClose c) s = .next cmdErr) ∧
      (∀ x y, s.stepOpen p = true → s.rdEn c = true → bit (s.reg (rdKey c 0)) 1 = true → s.redStep c (v % 2) = some x → x.step = v →
        x.att = s.curAttempt p → x.closing = false → s.regFld (rdKey c 0x40) 8 4 = 0 → y ∈ s.seals → y.ch = c → y.step = v →
        ∃ t, exec (.rdClose c) s = .next t ∧ t = { s with redSteps := t.redSteps } ∧ t.redStep c (v % 2) = some { x with closing := true }) ∧
      (∀ w : Word, s.rdEn c = false → bit w 0 = true →
        let u := s.setReg (rdKey c 0) (w &&& 0x3F3F3E#32)
        (u.rdEnableBad c = true → exec (.rdChannelEnable c true w) s = .next (u.orReg (rdKey c 0x54) (2 ^ 8))) ∧
        (u.rdEnableBad c = false → ∃ t, exec (.rdChannelEnable c true w) s = .next t ∧ t = { s with regs := t.regs } ∧ t.rdEn c = true ∧
          ∀ k, k ≠ rdKey c 0 → t.reg k = s.reg k)) ∧
      (∀ w : Word, s.rdEn c = true → bit w 0 = false →
        (s.stepOpen p = true → exec (.rdChannelEnable c false w) s = .next (s.orReg (rdKey c 0x54) (2 ^ 8))) ∧
        (s.stepOpen p = false → ∃ t, exec (.rdChannelEnable c false w) s = .next t ∧ t.rdEn c = false ∧ t.redStep c 0 = none ∧ t.redStep c 1 = none ∧
          t.mem = s.mem ∧ t.cores = s.cores))) ∧
    (∀ (area : Bool) (k : BitVec 24) (exps : List Byte) (x : Seal) (y : RedStep) (j ti o : Nat) (d : List Byte),
      s.sealAt c area k.toNat = some x → x.area < 2 → c < 256 → x.need ≤ 1 → x.exps = [(0, exps)] → exps ≠ [] →
      let p := s.rdPart c
      let par := x.step % 2
      s.bucketBlocks c x.k = [j] → s.rdOwner c = false → s.regFld (rdKey c 0x40) 8 4 = 0 → bit (s.reg (rdKey c 0x40)) 7 = false → x.ch = c →
      s.Plain p (s.rdAddr c (0x28 + 8 * x.area) + 128 * (j - x.k * s.bucketBB c)) 128 ti o → d = s.mem.getN byte0 (memIdx ti o) 128 →
      let xs := (List.range 32).map fun i => BitVec.ofNat 32 (leAt d (4 * i) 4)
      let q := s.bucketRec c x.step j (byteAt exps 0, byteAt exps 1) xs none
      s.cancelled p x.step = false → q.1.nf = false → q.1.rg = false → q.2 = (0, 0) → j < s.rdNblk c → byteAt exps 1 = (x.step + j) % 256 → s.combAt c par j = none →
      clean c par j → s.redStep c par = some y → y.closing = false →
      ∃ t, exec (.sealDone c area k) s = .next t ∧ t.combAt c par j = some { q.1 with kind := 1 } ∧ t.seals = s.seals.erase x ∧
        bit (t.reg (rdKey c 0x54)) x.area = false ∧ (Memory.wf s = true → t.mem = s.mem) ∧ t.cores = s.cores)

/-- R428-R431, R433, R436, R439-R443, R448-R450: a good frame that the filter accepts joins the receive buffer, any other is discarded and counted.
PAUSE and PFC hold the port or its priorities until their timers end. A pause frame that is due leaves first, then the frame of the highest eligible
queue. A link that falls drops what was in transmission, and its queues when the hold time ends. Credit that recovers reads 0. -/
def Obligations.EthernetPortsReceiveTransmitPauseAndLink : Prop :=
  ∀ (s : State) (g : Nat), g < 64 →
    let mac (j : Nat) : Prop := macKey g 0 ≤ j ∧ j < macKey g 0x8000
    let quiet (t : State) : Prop := t = { s with regs := t.regs, fns := t.fns, out := t.out, elog := t.elog, elogOver := t.elogOver, ports := t.ports,
                                                 freeCtr := t.freeCtr } ∧
      (∀ j, ¬ mac j → ¬ eventReg j → t.reg j = s.reg j) ∧ ∀ h, h ≠ g → t.port h = s.port h
    let pc := s.reg (macKey g 0x20)
    (∀ data corr sym ue,
      let n := data.length
      let d := data.take (n - 4)
      (g ∉ s.portList ∨ s.linkUp g = false → exec (.frameReceive g data corr sym ue) s = .next s) ∧
      (g ∈ s.portList → s.linkUp g = true →
        (ue.2 = true ∨ n < 64 ∨ leNat (data.drop (n - 4)) ≠ crc32 d ∨ s.regFld (macKey g 0x10) 0 14 < n ∨
          (bit (s.reg (macKey g 0)) 2 = false ∨ beAt d 12 2 ≠ 0x8808 ∧ s.accepts g d = false) →
          ∃ t, exec (.frameReceive g data corr sym ue) s = .next t ∧ quiet t ∧ t.ports = s.ports) ∧
        (ue.2 = false → 64 ≤ n → leNat (data.drop (n - 4)) = crc32 d → n ≤ s.regFld (macKey g 0x10) 0 14 → bit (s.reg (macKey g 0)) 2 = true →
          beAt d 12 2 ≠ 0x8808 → s.accepts g d = true → (s.port g).occ 8 + n ≤ s.bufSize g → bit pc 2 = false →
          ∃ t, exec (.frameReceive g data corr sym ue) s = .next t ∧ quiet t ∧
            t.port g = { s.port g with rx := (s.port g).rx ++
              [⟨if beAt d 12 2 = 0x8100 then beAt d 14 2 / 2 ^ 13 else s.regFld (macKey g 0x18) 13 3, d⟩] }))) ∧
    (g ∈ s.portList → s.linkUp g = true → (s.port g).now = none →
      (s.pauseTx g = false → (s.port g).due ≠ [] → bit (s.reg (macKey g 0)) 1 = false → exec (.frameTransmit g) s = .next s) ∧
      (∀ t' rest, (s.port g).due = (8, t') :: rest → s.pauseTx g = true →
        ∃ t, exec (.frameTransmit g) s = .next t ∧ t = { s with ports := t.ports } ∧
          t.port g = { s.port g with due := rest, now := some ⟨s.controlFrame g 1 (beBytes 2 t'), 8⟩ }) ∧
      ((s.port g).due = [] → bit (s.reg (macKey g 0)) 1 = false ∨ (s.port g).pause ≠ 0 → exec (.frameTransmit g) s = .next s) ∧
      (∀ q rest f x, (s.port g).due = [] → bit (s.reg (macKey g 0)) 1 = true → (s.port g).pause = 0 → s.replayNext g = none → s.lrt g = false →
        (List.range 8).reverse.filter (s.eligible g) = q :: rest → s.queuePick g q = some (f, x) → s.cbsOn g q = false →
        ∃ t, exec (.frameTransmit g) s = .next t ∧ t = { s with ports := t.ports } ∧
          (t.port g).now = some ⟨s.frameBytes g f.hop { f.wyn with lv := false, lseq := if f.wyn.linkControl then f.wyn.lseq else 0, av := false, lack := 0 }, q⟩ ∧
          (t.port g).queues = x.queues)) ∧
    (∀ tx, s.linkUp g = false → (s.port g).now = some tx → tx.queue ≤ 8 →
      ∃ t, exec (.frameTransmit g) s = .next t ∧ quiet t ∧ OutItem.frame g tx.bytes ∈ t.out ∧ (t.port g).now = none ∧
        (t.port g).rx = (s.port g).rx ∧ ((s.port g).ctlq = [] → (t.port g).queues = (s.port g).queues)) ∧
    (∀ v : BitVec 16,
      (s.pauseMode g = 1 → ∃ t, exec (.pause g v) s = .next t ∧ quiet t ∧ t.port g = { s.port g with pause := v.toNat }) ∧
      (s.pauseMode g ≠ 1 → ∃ t, exec (.pause g v) s = .next t ∧ quiet t ∧ t.ports = s.ports)) ∧
    (∀ (vec : Byte) (times : List (BitVec 16)),
      (s.pauseMode g = 2 → ∃ t, exec (.pfc g vec times) s = .next t ∧ quiet t ∧ ∀ p, p < 8 →
        (t.port g).pfc.get nat0 p = if vec.toNat.testBit p then (times.map (·.toNat)).getD p 0 else (s.port g).pfc.get nat0 p) ∧
      (s.pauseMode g ≠ 2 → ∃ t, exec (.pfc g vec times) s = .next t ∧ quiet t ∧ t.ports = s.ports)) ∧
    (∃ t, exec (.pauseTimerExpiry g none) s = .next t ∧ quiet t ∧ t.port g = { s.port g with pause := 0 }) ∧
    (∀ p : BitVec 3, ∃ t, exec (.pauseTimerExpiry g (some p)) s = .next t ∧ quiet t ∧ (t.port g).pfc.get nat0 p.toNat = 0 ∧
      ∀ r, r ≠ p.toNat → (t.port g).pfc.get nat0 r = (s.port g).pfc.get nat0 r) ∧
    (bit pc 2 = false ∨ fld pc 16 8 ≤ fld pc 8 8 → exec (.pauseResendExpiry g) s = .next s) ∧
    (bit pc 2 = true → fld pc 8 8 < fld pc 16 8 → s.pauseMode g = 1 → (s.port g).xoff = [8] → fld pc 8 8 * 4096 < (s.port g).occ 8 →
      ∃ t, exec (.pauseResendExpiry g) s = .next t ∧ t = { s with ports := t.ports } ∧ t.port g = (s.port g).addDue 8 (s.regFld (macKey g 0x24) 0 16)) ∧
    (∀ q : BitVec 3,
      (s.credits g q.toNat = false ∨ 0 ≤ (s.port g).credit.get int0 q.toNat → exec (.cbsCreditRecovered g q) s = .next s) ∧
      (s.credits g q.toNat = true → (s.port g).credit.get int0 q.toNat < 0 →
        ∃ t, exec (.cbsCreditRecovered g q) s = .next t ∧ t = { s with ports := t.ports } ∧ (t.port g).credit.get int0 q.toNat = 0)) ∧
    (g ∉ s.portList ∨ s.linkUp g = true ∨ bit (s.reg (macKey g 0)) 0 = false → exec (.linkUp g) s = .next s) ∧
    (g ∈ s.portList → s.linkUp g = false → bit (s.reg (macKey g 0)) 0 = true → s.pwrHeld.testBit 1 = false → s.lrt g = false →
      ∃ t, exec (.linkUp g) s = .next t ∧ quiet t ∧ t.port g = { s.port g with hold := false } ∧ t.linkUp g = true ∧ bit (t.reg (macKey g 0x38)) 0 = true) ∧
    (s.linkUp g = false → ∀ rx, exec (.linkDown g rx) s = .next s) ∧
    (s.linkUp g = true → (s.port g).now = none → s.regFld (macKey g 0) 8 8 ≠ 0 →
      ∃ t, exec (.linkDown g false) s = .next t ∧ quiet t ∧ t.port g = { s.port g with hold := true } ∧ t.linkUp g = false ∧ bit (t.reg (macKey g 0x38)) 0 = true) ∧
    (s.linkUp g = true → exec (.ldholdExpiry g) s = .next s ∧ exec (.anTimeout g) s = .next s) ∧
    ((s.port g).hold = false → exec (.ldholdExpiry g) s = .next s) ∧
    (s.linkUp g = false → (s.port g).hold = true → (∀ l ∈ (s.port g).links, l.2.sent = []) →
      ((s.port g).waiting = [] → ∃ t, exec (.ldholdExpiry g) s = .next t ∧ t = { s with ports := t.ports } ∧
        t.port g = { s.port g with links := [], ctlq := [], hold := false }) ∧
      ((s.port g).waiting ≠ [] → ∃ t, exec (.ldholdExpiry g) s = .next t ∧ quiet t ∧ (t.port g).waiting = [] ∧ (t.port g).links = [] ∧
        (t.port g).hold = false ∧ bit (t.reg (macKey g 0x38)) 4 = true)) ∧
    (s.negotiates g = false → exec (.anRestart g) s = .next s ∧ exec (.anTimeout g) s = .next s) ∧
    (g ∈ s.portList → bit (s.reg (macKey g 0)) 0 = true → s.negotiates g = true → s.linkUp g = false →
      ∃ t, exec (.anRestart g) s = .next t ∧ quiet t ∧ t.ports = s.ports ∧ bit (t.reg (macKey g 0x38)) 1 = true ∧
        (bit (s.reg (macKey g 4)) 1 = false → exec (.anTimeout g) s = .next t)) ∧
    ((s.port g).waiting = [] → exec (.macFlush g) s = .next s) ∧
    ((s.port g).waiting ≠ [] → ∃ t, exec (.macFlush g) s = .next t ∧ quiet t ∧ bit (t.reg (macKey g 0x38)) 4 = true ∧
      (t.port g).rx = (s.port g).rx ∧ (t.port g).now = (s.port g).now ∧ ((s.port g).ctlq = [] → (t.port g).waiting = [])) ∧
    (g ∈ s.portList → exec (.macEnable g true) s = .next (s.setReg (macKey g 0) (setBit (s.reg (macKey g 0)) 0 true)) ∧
      (s.linkUp g = false → exec (.macEnable g false) s = .next (s.setReg (macKey g 0) (setBit (s.reg (macKey g 0)) 0 false))) ∧
      (s.linkUp g = true → s.regFld (macKey g 0) 8 8 ≠ 0 → ∃ t, exec (.macEnable g false) s = .next t ∧ quiet t ∧ t.linkUp g = false ∧
        t.port g = { s.port g with now := none, hold := true } ∧ bit (t.reg (macKey g 0)) 0 = false)) ∧
    (∀ x v, x < s.fuse.xdies.length →
      ((∃ i, i < 8 ∧ bit (s.reg (macKey (8 * x + i) 0)) 0 = true) → exec (.macXmodeWrite x v) s = .next (s.orReg (macKey (8 * x) 0x30) (2 ^ 31))) ∧
      ((∀ i, i < 8 → bit (s.reg (macKey (8 * x + i) 0)) 0 = false) → exec (.macXmodeWrite x v) s = .next (s.putCode (macKey (8 * x) 0x30) v))) ∧
    (∀ (q : BitVec 3) (v : Word), g ∈ s.portList →
      let k := macKey g (0x80 + 0x10 * q.toNat)
      exec (.macCbsWrite g q true v) s = .next (s.putCode (k + 4) v) ∧
      ((s.putCode k v).cbsOn g q.toNat = false → exec (.macCbsWrite g q false v) s = .next (s.putCode k v)) ∧
      ((s.putCode k v).cbsOn g q.toNat = true → (s.putCode k v).regFld k 0 20 = 0 →
        exec (.macCbsWrite g q false v) s = .next ((s.putCode k v).orReg k (2 ^ 30))))

/-- R460, R461, R465, R467-R472, R475-R478, R489, R492: the oldest received frame leaves its port's buffer and is counted where it is bad, has no
route, no hops left or no domain, forwarded with one hop less, or delivered. What the device sends waits in its item, joins a port's queue, or finds
no route. An acknowledgement releases the frames up to its number, a LINK_NAK has the frames from its number sent again, a replay timeout replays or
fails the link. A swap flips the forwarding table alone. -/
def Obligations.FabricFramesAreForwardedRetriedAndCounted : Prop :=
  ∀ (s : State) (g : Nat), g < 32 → s.fuse.xdies.length ≤ 4 →
    let fabOf (u t : State) : Prop := t = { u with regs := t.regs, fns := t.fns, out := t.out, elog := t.elog, elogOver := t.elogOver,
                                                   freeCtr := t.freeCtr, ports := t.ports, net := t.net } ∧
      ∀ j, ¬ (0x100000 ≤ j ∧ j < 0x400000) → ¬ eventReg j → t.reg j = u.reg j
    let fab (t : State) : Prop := fabOf s t
    let event (t : State) (b : Nat) : Prop := bit (t.reg 0x104020) b = true
    let joins (t : State) (o flow : Nat) (w : Wyn) : Prop :=
      ∀ q, s.queueFor o flow w.pri = some q → s.frameLen o w ≤ s.regFld (macKey o 0x10) 0 14 → s.lrt o = false ∨ w.linkControl = true →
        s.guaranteed o q + s.frameLen o w ≤ (if s.xmode o then 0x8000 else 0x4000) →
        fab t ∧ (t.port o).queue q = (s.port o).queue q ++ [⟨flow, false, 0, none, w⟩]
    ((s.port g).rx = [] → exec (.wynFrame g) s = .next s) ∧
    (∀ f rest, (s.port g).rx = f :: rest →
      (s.carried g f.bytes = .other → ∃ t, exec (.wynFrame g) s = .next t ∧ fab t ∧ t.net = s.net ∧ (t.port g).rx = rest) ∧
      (s.carried g f.bytes = .bad ∨ (∃ l b, s.carried g f.bytes = .wyn l b ∧ parseWyn b = none) →
        ∃ t, exec (.wynFrame g) s = .next t ∧ fab t ∧ t.net = s.net ∧ (t.port g).rx = rest ∧ event t 5) ∧
      (∀ l b w, s.carried g f.bytes = .wyn l b → parseWyn b = some w → s.lrt g = false → w.linkControl = false →
        let d := w.dst / 65536
        let away : Prop := d ≠ 0 ∧ d ≠ 0xFFFF ∧ (s.devId = 0 ∨ d ≠ s.devId)
        (d = 0 ∨ d = 0xFFFF ∧ s.devId ≠ d ∧ w.cls ≠ 0 ∧ w.cls ≠ 7 ∧ w.cls ≠ 9 →
          ∃ t, exec (.wynFrame g) s = .next t ∧ fab t ∧ t.net = s.net ∧ (t.port g).rx = rest ∧ event t 5) ∧
        (away → s.fwdPorts d = [] → s.orbPorts = [] →
          ∃ t, exec (.wynFrame g) s = .next t ∧ fab t ∧ (w.cls ≠ 0 → w.cls ≠ 4 → t.net = s.net) ∧ (t.port g).rx = rest ∧ event t 2) ∧
        (∀ o, away → s.fwdPorts d = [o] → w.hops = 0 →
          ∃ t, exec (.wynFrame g) s = .next t ∧ fab t ∧ t.net = s.net ∧ (t.port g).rx = rest ∧ event t 3) ∧
        (∀ o, away → s.fwdPorts d = [o] → w.hops ≠ 0 → s.udp o = false →
          ∀ q, s.queueFor o 64 w.pri = some q → s.frameLen o w ≤ s.regFld (macKey o 0x10) 0 14 → s.lrt o = false →
          s.guaranteed o q + s.frameLen o w ≤ (if s.xmode o then 0x8000 else 0x4000) →
          ∃ t, exec (.wynFrame g) s = .next t ∧ fabOf (s.crossWake g [o]) t ∧ t.net = s.net ∧ (t.port g).rx = rest ∧
            (t.port o).queue q = (s.port o).queue q ++ [⟨64, false, 0, none, w.onward⟩]) ∧
        (d = s.devId → s.devId ≠ 0 → w.cls ≠ 7 → w.cls ≠ 9 → s.domPart w.tag = none →
          ∃ t, exec (.wynFrame g) s = .next t ∧ fab t ∧ (w.cls ≠ 0 → w.cls ≠ 4 → t.net = s.net) ∧ (t.port g).rx = rest ∧ event t 4) ∧
        (∀ p, d = s.devId → s.devId ≠ 0 → s.domPart w.tag = some p → w.cls ≤ 1 → w.sub = 0 →
          ∃ t, exec (.wynFrame g) s = .next t ∧ fabOf (s.enterWake g p w) t ∧ (t.port g).rx = rest ∧
            t.net = s.net ++ [.msg { part := p, src := w.src, dst := w.dst % 65536, cls := w.cls, ch := w.ch, seq := w.seq, ticket := w.seq,
                                     origin := 0, orig := noCore, payload := w.payload }]))) ∧
    (∀ x, (s.leaves x = false ∨ (s.net.find? fun y => y.path == x.path) ≠ some x → exec (.frameOriginate x) s = .next s) ∧
      (∀ w o, x = .wyn w → s.net.find? (fun y => y.path == x.path) = some x → w.dst / 65536 ≠ 0 → w.dst / 65536 ≠ 0xFFFF →
        s.devId ≠ 0 → w.dst / 65536 ≠ s.devId → s.fwdPorts (w.dst / 65536) = [o] → s.udp o = false →
        let v := { w with hops := s.regFld 0x104000 0 8, pri := s.priOf w }
        let p := (s.domPart w.tag).getD 64
        ∀ q, s.queueFor o p v.pri = some q → s.frameLen o v ≤ s.regFld (macKey o 0x10) 0 14 → s.lrt o = false →
        s.guaranteed o q + s.frameLen o v ≤ (if s.xmode o then 0x8000 else 0x4000) →
        ∃ t, exec (.frameOriginate x) s = .next t ∧ fabOf (s.leaveWake p w [o]) t ∧ t.net = s.net.erase x ∧
          (t.port o).queue q = (s.port o).queue q ++ [⟨p, false, 0, none, v⟩]) ∧
      (∀ m, x = .msg m → s.net.find? (fun y => y.path == x.path) = some x → s.isOwn (addrDev m.dst) = false → m.cls ≤ 1 → s.devId = 0 →
        ∃ t, exec (.frameOriginate x) s = .next t ∧ fab t ∧ event t 2 ∧
          t.net = s.net.erase x ++ if m.cls = 0 then
            [.refusal { part := m.part, dst := m.src, src := m.dst, ch := m.ch, ticket := m.ticket, origin := m.origin,
                        orig := m.orig }] else [])) ∧
    (∀ h (a : BitVec 16) (n : BitVec 16) (ack : Option (BitVec 16)),
      let l := (s.port g).link h
      let keep (k : Nat) := l.sent.filter fun f => decide (32768 ≤ (k + 65536 - f.lseq.getD 0) % 65536)
      let later (k : Nat) (z : List TxFrame) := (z.filter fun f => decide ((f.lseq.getD 0 + 65536 - k) % 65536 < 32768)).length
      (s.lrt g = false → exec (.linkAck g h a) s = .next s ∧ exec (.linkNak g h n ack) s = .next s ∧ exec (.ackdlyExpiry g h) s = .next s ∧
        exec (.replayTimeout g h) s = .next s) ∧
      (s.lrt g = true →
        (∃ t, exec (.linkAck g h a) s = .next t ∧ t = { s with ports := t.ports } ∧ ((t.port g).link h).sent = keep a.toNat ∧
          ((t.port g).link h).expect = l.expect ∧ ((keep a.toNat).length < l.sent.length → ((t.port g).link h).replays = 0)) ∧
        (∃ t, exec (.linkNak g h n none) s = .next t ∧ t = { s with ports := t.ports } ∧ (t.port g).link h = { l with todo := later n.toNat l.sent }) ∧
        (∃ t, exec (.linkNak g h n (some a)) s = .next t ∧ t = { s with ports := t.ports } ∧ ((t.port g).link h).sent = keep a.toNat ∧
          ((t.port g).link h).todo = later n.toNat (keep a.toNat)) ∧
        (l.owed = false → exec (.ackdlyExpiry g h) s = .next s) ∧
        (l.owed = true → h = 0 → (s.port g).ctlq = [] →
          ∃ t, exec (.ackdlyExpiry g h) s = .next t ∧
            joins t g 64 { cls := 7, nf := false, rg := false, rsp := false, lv := false, av := false, sub := 1, ch := 0, seq := 0,
                           dst := devAddr (Config.neighbourDev g % 65536), src := devAddr s.devId, tag := 0, hops := s.regFld 0x104000 0 8, pri := 7,
                           lseq := 0, lack := 0, ck := 0, payload := [] }) ∧
        (l.sent = [] ∨ s.linkUp g = false ∨ s.held g (s.regFld (macKey g 0x1C) 21 3) = true → exec (.replayTimeout g h) s = .next s) ∧
        (l.sent ≠ [] → s.linkUp g = true → s.held g (s.regFld (macKey g 0x1C) 21 3) = false →
          (l.replays < max 1 (s.regFld (fbKey g 0x10) 24 4) →
            ∃ t, exec (.replayTimeout g h) s = .next t ∧ fab t ∧ (t.port g).link h = { l with todo := l.sent.length, replays := l.replays + 1 }) ∧
          (max 1 (s.regFld (fbKey g 0x10) 24 4) ≤ l.replays →
            ∃ t, exec (.replayTimeout g h) s = .next t ∧ fab t ∧ (t.port g).link h = { RetryLink.reset with failed := true } ∧
              bit (t.reg (fbKey g 0x14)) 0 = true)))) ∧
    exec (.rstlrt g) s = .next ((s.clrReg (fbKey g 0x14) 1).setPort g { s.port g with links := [], ctlq := [] }) ∧
    (∃ t, exec .fbSwapFwd s = .next t ∧ t = { s with devAct := t.devAct } ∧ t.devBank 0 = 1 - s.devBank 0 ∧ ∀ k, k ≠ 0 → t.devBank k = s.devBank k) ∧
    (∃ t, exec .fbSwapCopy s = .next t ∧ t = { s with regs := t.regs } ∧
      ∀ k ∈ fwdKeys, t.reg (bankKey (1 - s.devBank 0) k) = s.reg (bankKey (s.devBank 0) k)) ∧
    (∀ (p : BitVec 6) (v : Word), let k := 0x104100 + 4 * p.toNat
      ((∃ q, q < 64 ∧ q ≠ p.toNat ∧ s.domOf q = fld v 0 16 ∧ fld v 0 16 ≠ 0) → exec (.fbDomWrite p v) s = .next (s.orReg k (2 ^ 31))) ∧
      ((∀ q, q < 64 → q ≠ p.toNat → s.domOf q ≠ fld v 0 16) → exec (.fbDomWrite p v) s = .next (s.putCode k v)))

/-- R480-R487, R494, R495: a packet in order extends its record or completes it, a bad or late one is counted; the oldest complete record is placed
when its slots are free: its piece stands in the destination's scratchpad behind its head, the semaphore counts, the slot is in use. Software gives
slots back through the release page. A channel is enabled only with a legal table; disabling it discards what it holds. -/
def Obligations.FeedChannelsAssemblePlaceAndReleaseRecords : Prop :=
  ∀ (s : State) (c : BitVec 6),
    let k := fdKey c.toNat
    let x := s.feed c.toNat
    let feed (t : State) : Prop := t = { s with regs := t.regs, fns := t.fns, out := t.out, elog := t.elog, elogOver := t.elogOver, feeds := t.feeds } ∧
      ∀ j, ¬ (k 0 ≤ j ∧ j < k 0x400) → ¬ eventReg j → t.reg j = s.reg j
    (∀ b : List Byte,
      let n := beAt b 0 4
      let data := sliceB b 16 (beAt b 8 2)
      let r := x.part.getD ⟨n, (s.stepNo (s.fdPart c.toNat)).toNat, []⟩
      let bad : Prop := b.length < 16 + beAt b 8 2 ∨ beAt b 8 2 % elemSize (s.fdKind c.toNat) ≠ 0 ∨ byteAt b 10 ≠ s.fdKind c.toNat ∨ 2 ≤ byteAt b 11 ∨
        beAt b 12 4 ≠ 0
      (s.fdOn c.toNat = false → exec (.feedPacket c b) s = .next s) ∧
      (s.fdOn c.toNat = true → bad → exec (.feedPacket c b) s = .next (s.bump (k 0x118) 1)) ∧
      (s.fdOn c.toNat = true → ¬ bad → x.started = true →
        (2 ^ 31 ≤ (n + 2 ^ 32 - s.nextRec c.toNat) % 2 ^ 32 → exec (.feedPacket c b) s = .next (s.bump (k 0x118) 1)) ∧
        (n = s.nextRec c.toNat → beAt b 4 4 = r.data.length / elemSize (s.fdKind c.toNat) →
          (byteAt b 11 = 0 →
            exec (.feedPacket c b) s = .next (s.setFeed c.toNat { x with part := some { r with data := r.data ++ data } })) ∧
          (byteAt b 11 = 1 → (r.data.length + data.length) / elemSize (s.fdKind c.toNat) = s.fdReclen c.toNat →
            x.waiting = [] → s.canPlace c.toNat r.num = true →
            exec (.feedPacket c b) s = .next ((s.setReg (k 0x40) (BitVec.ofNat 32 (r.num + 1))).setFeed c.toNat
              { x with part := none, waiting := [{ r with data := r.data ++ data }] }))))) ∧
    (s.fdOn c.toNat = false ∨ x.waiting = [] ∨ (∃ r rest, x.waiting = r :: rest ∧ s.canPlace c.toNat r.num = false) →
      exec (.recordPlace c) s = .next s) ∧
    (∀ r rest i e core f tbl data fl voc nblk, s.fdOn c.toNat = true → x.waiting = r :: rest → s.canPlace c.toNat r.num = true →
      s.fdGroup c.toNat r.num = [(i, e)] → s.toCore (s.fdPart c.toNat) e.dest = some core → isCore core = true → s.Awake core → s.servedBy core = core →
      s.fdFmt c.toNat core = some (f, tbl) → s.fdKind c.toNat ≠ 4 → s.pieceBytes c.toNat r e f tbl = (data, fl, voc, nblk) →
      (s.core core).spadErr = [] →
      let head := leBytes 4 r.num ++ leBytes 4 e.first ++ leBytes 4 e.count ++
        [BitVec.ofNat 8 ((if i ∈ x.gaps then 1 else 0) + if voc then 2 else 0), fl.setWidth 8] ++ List.replicate 18 0
      let a := 32 * (e.base + r.num / s.fdGroups c.toNat % e.nslot * e.slotln)
      ∃ t, exec (.recordPlace c) s = .next t ∧ (t.core core).spad = Map.setN byte0 (s.core core).spad a (head ++ data) ∧
        (∀ y, y ≠ core → t.core y = s.core y) ∧
        (e.semen = true → e.sem < 64 → (t.core core).sem e.sem = min 255 ((s.core core).sem e.sem + 1)) ∧
        t.feed c.toNat = { x with waiting := rest, used := x.used.set nat0 i (x.used.get nat0 i + 1), gaps := x.gaps.filter (· ≠ i) } ∧
        t.mem = s.mem ∧ t.net = s.net) ∧
    (∀ (e : BitVec 10) (n : Word),
      let p := s.fdPart c.toNat
      let a := s.reg64 (k 0x28) % 2 ^ 48 / 4096 * 4096 + 4 * e.toNat
      let u := x.used.get nat0 e.toNat
      (s.fdOn c.toNat = false → exec (.slotRelease c e n) s = .next s) ∧
      (s.fdOn c.toNat = true → s.recsIn p a 4 = [] → s.pageAt p a 4 = some (c.toNat, some (4 * e.toNat)) →
        s.regionsRefuse p a 4 .ordinary true = none → e.toNat < x.table.length →
        (n = 0 ∨ 256 < n.toNat ∨ u < n.toNat → exec (.slotRelease c e n) s = .next (s.bump (k 0x130) 1)) ∧
        (n ≠ 0 → n.toNat ≤ 256 → n.toNat ≤ u →
          exec (.slotRelease c e n) s = .next (s.setFeed c.toNat { x with used := x.used.set nat0 e.toNat (u - n.toNat) })))) ∧
    (∀ v : Word,
      let cfg (pf : Bool) := s.putCode (k 0) (setBit (if pf then setBit v 0 true else setFld (setBit v 0 true) 8 6 (s.fdPart c.toNat)) 0 false)
      let word (pf : Bool) := if pf then setBit v 0 true else setFld (setBit v 0 true) 8 6 (s.fdPart c.toNat)
      let kept (pf : Bool) : Prop := fld (word pf) 1 5 = fld (s.reg (k 0)) 1 5 ∧ fld (word pf) 8 6 = fld (s.reg (k 0)) 8 6
      (∀ pf, (s.fdOn c.toNat = true →
          (kept pf → exec (.fdEnable c pf v) s = .next s) ∧ (¬ kept pf → exec (.fdEnable c pf v) s = .next (s.orReg (k 0x38) 4))) ∧
        (s.fdOn c.toNat = false →
          ((cfg pf).fdGroups c.toNat = 0 ∨ 6 ≤ (cfg pf).fdKind c.toNat ∨ (cfg pf).fdReclen c.toNat = 0 →
            exec (.fdEnable c pf v) s = .next ((cfg pf).orReg (k 0x38) 4)) ∧
          (∀ u es, (cfg pf).fdTable c.toNat = (u, some es) →
            exec (.fdEnable c pf v) s = .next (((u.orReg (k 0) 1).orReg (k 0x38) 1).setFeed c.toNat { FdCh.reset with table := es }))))) ∧
    (s.fdOn c.toNat = false → exec (.fdDisable c) s = .next (s.putCode (k 0) (setBit (setBit (s.reg (k 0)) 0 false) 0 false))) ∧
    (s.fdOn c.toNat = true → ∃ t, exec (.fdDisable c) s = .next t ∧ feed t ∧ t.feed c.toNat = FdCh.reset ∧ t.fdOn c.toNat = false ∧
      bit (t.reg (k 0x38)) 0 = false)

/-- R466, R499-R502, R504-R508, R510-R512, R516-R518: an access to a line reads or writes its bytes alone and is counted, or is refused. A memory request
of another device is answered with its bytes, with an acknowledgement once its write is visible, or with an error where its header is not well formed;
an answer ends the wait for its request. The patrol scrub passes one line. A tile enters self-refresh only while nothing uses it. A region entry
is written unless the entry would break a rule. -/
def Obligations.MemoryTilesServeLinesRequestsAndScrub : Prop :=
  ∀ (s : State) (t : BitVec 3),
    let k := mtKey t.toNat
    let tile (u : State) : Prop := u = { s with regs := u.regs, fns := u.fns, out := u.out, elog := u.elog, elogOver := u.elogOver, mem := u.mem, net := u.net,
                                                freeCtr := u.freeCtr } ∧
      ∀ j, ¬ (0x300000 ≤ j ∧ j < 0x400000) → ¬ eventReg j → u.reg j = s.reg j
    (∀ off n p unit data,
      (s.fuse.hasTile t.toNat = false ∨ n = 0 ∨ 2 ^ 36 < off + n ∨ off / 64 ≠ (off + n - 1) / 64 → exec (.memoryLineAccess t off n p unit data) s = .next s) ∧
      (s.fuse.hasTile t.toNat = true → n ≠ 0 → off + n ≤ 2 ^ 36 → off / 64 = (off + n - 1) / 64 →
        (∀ a, s.lineAddr p t.toNat off n = some a → s.recsIn p a n = [] ∧ s.pageAt p a n = none ∧ s.cportAt p a n = none ∧
          s.chunks p a n = some [⟨t.toNat, off, n⟩]) →
        (s.regionRefuses p .ordinary data.isSome ⟨t.toNat, off, n⟩ = true →
          ∃ u, exec (.memoryLineAccess t off n p unit data) s = .next u ∧ tile u ∧ u.mem = s.mem ∧ u.net = s.net ∧ bit (u.reg (k + 0x28)) 3 = true) ∧
        (s.regionRefuses p .ordinary data.isSome ⟨t.toNat, off, n⟩ = false → errIn s.memErr 64 (memIdx t.toNat off) n = [] →
          ∃ u, exec (.memoryLineAccess t off n p unit data) s = .next u ∧ tile u ∧ u.net = s.net ∧
            u.mem = match data with
              | none => s.mem
              | some d => Map.setN byte0 s.mem (memIdx t.toNat off) (sliceB d 0 n)))) ∧
    (∀ (p : BitVec 6) (w : Wyn),
      let rest := s.net.erase (.inw p.toNat w)
      let answer (sub : Nat) (b : List Byte) : NetItem := .wyn (w.answer s.devId sub b)
      (memHeader w.payload = none →
        exec (.read p w) s = .next { s with net := rest ++ [answer 4 (leBytes 4 1)] } ∧
        exec (.write p w) s = .next { s with net := rest ++ [answer 4 (leBytes 4 1)] }) ∧
      (∀ a n x o, memHeader w.payload = some (a, n) → s.Plain p.toNat a n x o →
        (∃ u, exec (.read p w) s = .next u ∧ tile u ∧ u.mem = s.mem ∧ u.net = rest ++ [answer 2 (s.mem.getN byte0 (memIdx x o) n)]) ∧
        (∃ u, exec (.write p w) s = .next u ∧ tile u ∧ u.mem = Map.setN byte0 s.mem (memIdx x o) (sliceB w.payload 16 n) ∧
          u.net = rest ++ [answer 3 []])) ∧
      ((∀ q ∈ s.rqOut, q.1 ≠ w.seq ∨ q.2.part ≠ p.toNat) →
        exec (.readRsp p w) s = .next { s with net := rest } ∧ exec (.writeAck p w) s = .next { s with net := rest } ∧
        exec (.error p w) s = .next { s with net := rest }) ∧
      (∀ n q c j js r, s.rqOut.find? (fun q => q.1 == w.seq && q.2.part == p.toNat) = some (n, q) → s.toCore p.toNat q.src = some c →
        s.Awake c → q.eng ≠ 5 → ((s.core c).eng q.eng).jobs = j :: js → j.request q.pos = some r → j.desc.ticket = q.ticket → j.fault = 0 → s.isFenced c = false →
        (∃ u, exec (.error p w) s = .next u ∧ u.rqOut = s.rqOut.erase (n, q) ∧ u.net = rest ∧ s.OnlyCore { u with net := s.net, rqOut := s.rqOut } c ∧
          ∃ j', ((u.core c).eng q.eng).jobs = [j'] ∧ j'.fault = 0xF5 ∧ j'.detail = q.pos) ∧
        (q.eng = 4 → j.todo = [] → (j.out.filter fun x => x.pos ≠ q.pos) = [] →
          (r.op ≠ 0 → ∃ u, exec (.writeAck p w) s = .next u ∧ u.rqOut = s.rqOut.erase (n, q) ∧ u.net = rest ∧
            ((u.core c).eng 4).jobs = [{ j with out := [], stage := 3 }]) ∧
          (r.op = 0 → (s.core c).spadErr = [] → ∃ u, exec (.readRsp p w) s = .next u ∧ u.rqOut = s.rqOut.erase (n, q) ∧ u.net = rest ∧
            (u.core c).spad = Map.setN byte0 (s.core c).spad r.land w.payload ∧ ((u.core c).eng 4).jobs = [{ j with out := [], stage := 3 }])))) ∧
    (s.fuse.hasTile t.toNat = false ∨ bit (s.reg (k + 8)) 0 = false ∨ s.regFld (k + 4) 1 2 ≠ 0 → exec (.patrolScrub t) s = .next s) ∧
    (let line := s.scrub.get nat0 t.toNat
     s.fuse.hasTile t.toNat = true → bit (s.reg (k + 8)) 0 = true → s.regFld (k + 4) 1 2 = 0 →
      (s.memErr.get nat0 (t.toNat * 2 ^ 30 + line) = 0 →
        exec (.patrolScrub t) s = .next { s.setReg (k + 0xC) (BitVec.ofNat 32 ((line + 1) % 2 ^ 30 / 64)) with
          scrub := s.scrub.set nat0 t.toNat ((line + 1) % 2 ^ 30) }) ∧
      (2 ≤ s.memErr.get nat0 (t.toNat * 2 ^ 30 + line) →
        ∃ u, exec (.patrolScrub t) s = .next u ∧ u.mem = s.mem ∧ u.memErr = s.memErr ∧ u.cores = s.cores ∧ u.net = s.net ∧
          u.scrub = s.scrub.set nat0 t.toNat ((line + 1) % 2 ^ 30) ∧ bit (u.reg (k + 0x28)) 0 = true ∧ bit (u.reg (k + 0x28)) 2 = true)) ∧
    (∀ b, s.fuse.hasTile t.toNat = false ∨ s.regFld (k + 4) 1 2 ≠ 0 ∨ (if b then s.pwrHeld.testBit 0 else bit (s.reg k) 0) = false ∨
        s.tileBusy t.toNat = true ∨ s.tileHolds t.toNat = true → exec (.selfRefreshEntry t b) s = .next s) ∧
    (∀ b, s.fuse.hasTile t.toNat = true → s.regFld (k + 4) 1 2 = 0 → (if b then s.pwrHeld.testBit 0 else bit (s.reg k) 0) = true →
        s.tileBusy t.toNat = false → s.tileHolds t.toNat = false →
        ∃ u, exec (.selfRefreshEntry t b) s = .next u ∧ tile u ∧ u.mem = s.mem ∧ u.net = s.net ∧ u.regFld (k + 4) 1 2 = 2) ∧
    (s.regFld (k + 4) 1 2 = 0 → exec (.selfRefreshExit t) s = .next s) ∧
    (s.regFld (k + 4) 1 2 ≠ 0 → ∃ u, exec (.selfRefreshExit t) s = .next u ∧ tile u ∧ u.mem = s.mem ∧ u.net = s.net ∧ u.regFld (k + 4) 1 2 = 0) ∧
    (∀ (r : BitVec 4) (w : BitVec 2) (v : Word),
      let e := k + 0x400 + 0x10 * r.toNat
      let s' := s.putCode (e + 4 * w.toNat) v
      (s.fuse.hasTile t.toNat = false ∨ w = 3 → exec (.mtRegionWrite t r w v) s = .next s) ∧
      (s.fuse.hasTile t.toNat = true → w ≠ 3 →
        (s.regionHeld t.toNat (s.region t.toNat r.toNat) = true ∨ s.regionHeld t.toNat (s'.region t.toNat r.toNat) = true ∨
          s.regionBad t.toNat r.toNat (s'.region t.toNat r.toNat) = true → exec (.mtRegionWrite t r w v) s = .next (s.orReg (e + 8) (2 ^ 30))) ∧
        (s.regionHeld t.toNat (s.region t.toNat r.toNat) = false → s.regionHeld t.toNat (s'.region t.toNat r.toNat) = false →
          s.regionBad t.toNat r.toNat (s'.region t.toNat r.toNat) = false → exec (.mtRegionWrite t r w v) s = .next s'))) ∧
    (∀ (c : Byte) b, (s.fuse.hasTile t.toNat = false → exec (.dramTemperatureReport t c b) s = .next s) ∧
      (s.fuse.hasTile t.toNat = true → ∃ u, exec (.dramTemperatureReport t c b) s = .next u ∧ u = { s with regs := u.regs } ∧
        u.regFld (k + 4) 8 8 = c.toNat ∧ u.regFld (k + 4) 16 1 = (if b then 1 else 0) ∧ u.regFld (k + 4) 1 2 = s.regFld (k + 4) 1 2 ∧
        ∀ j, j ≠ k + 4 → u.reg j = s.reg j))

/-- Every command at the front of the queue is executed on the state without it. -/
def Obligations.StepRunsTheFrontCommand : Prop :=
  ∀ (c : Instr) (s : State), Machine.step { s with pending := c :: s.pending } = exec c s

/-- The model's choice for an empty queue (log entries 2 and 30): SCLK counts one cycle, and what fails in storage meanwhile is a matter of free
values; of device memory at most one line is touched. -/
def Obligations.AnEmptyQueueCountsOneCycle : Prop :=
  ∀ s : State, s.pending = [] → ∃ t, Machine.step s = .next t ∧ t.sclk = s.sclk + 1 ∧ t.pending = [] ∧ t.fuse = s.fuse ∧
    ∃ line, ∀ a, a / 64 ≠ line → t.mem.get byte0 a = s.mem.get byte0 a

/-- R341, R361-R364, R400, R451-R455, R488-R493, R549-R553, R674-R680: right after reset every register of the tables holds its reset value, every
core is halted and as at its own reset, every port's link is down, no step is open and no command waits; the stores are canonical and nothing of the
service limits is used. What no rule gives a reset value for is the model's (log 20). -/
def Obligations.ResetLeavesTheStatedState : Prop :=
  let s := State.reset
  s.pending = [] ∧ s.net = [] ∧ s.mem = [] ∧ s.Canonical ∧ s.ServiceBounds ∧ s.svc.minSvn = 0 ∧
    (∀ e ∈ resetValues, s.reg e.1 = e.2) ∧
    (∀ c, s.core c = Core.reset ∧ (s.core c).rs = 0 ∧ ∀ e ∈ resetCsrs, (s.core c).get e.1 = e.2) ∧
    (∀ g, g < 32 → s.linkUp g = false) ∧ (∀ p, p < 64 → s.stepOpen p = false)

/-- Every command has a next state and takes exactly one command off the queue, the oldest; no command changes a fuse (R45). -/
def Obligations.EveryStepAnswersAndTakesTheOldestCommand : Prop :=
  ∀ s : State, ∃ t, Machine.step s = .next t ∧ t.pending = s.pending.tail ∧ t.fuse = s.fuse

/-- Every step keeps the canonical form of device memory, of the registers and of the cores: no entry equals what an unlisted address reads as,
and equal contents are equal data. -/
def Obligations.EveryStepKeepsTheCanonicalForms : Prop :=
  ∀ s t : State, s.Canonical → Machine.step s = .next t → t.Canonical

/-- R688, R690, R693, R703, R704: no step lowers the minimum SVN; at most 64 raises and 15 test unlocks are made in a device's life, and the repair
record stays within its 64 entries. -/
def Obligations.NoStepLowersTheMinimumSvn : Prop :=
  ∀ s t : State, Machine.step s = .next t → s.svc.minSvn ≤ t.svc.minSvn ∧ (s.ServiceBounds → t.ServiceBounds)

/-- R92, R94, R95: with the fields that must be 0 at 0, TRAP's number in IMM16[15:8] and nothing else in it, BRK, TRET and HALT, each of a ready
core outside a handler but TRET inside one, do what the rules give: TRAP n and BRK enter the handler, TRET leaves it, HALT retires and halts. -/
def Obligations.SystemInstructionsCompleteWithTheirFields : Prop :=
  ∀ (s : State) (c : Nat) (rd ra : Reg) (imm : BitVec 16), s.Ready c → rd = 0 → ra = 0 →
    let k := s.core c
    (k.tm = false → imm.toNat % 256 = 0 → ∃ t, exec (.trap c rd ra imm) s = .next t ∧ s.OnlyCore t c ∧ (t.core c).get 0x11 = 7 ∧
      (t.core c).get 0x12 = ((k.pc + 4) &&& 0x7FFC#32) ∧ (t.core c).get 0x13 = BitVec.ofNat 32 (imm.toNat / 256) ∧ (t.core c).tm = true ∧
      (t.core c).ie = false ∧ bit ((t.core c).get 0x14) 4 = k.ie ∧ (t.core c).wait = none ∧
      (t.core c).pc = (k.get 0x10 &&& 0x7F80#32) + (if bit (k.get 0x10) 0 then 28 else 0) ∧
      (∀ r, (t.core c).s r = k.s r) ∧ (t.core c).spad = k.spad) ∧
    (k.tm = false → imm = 1 → ∃ t, exec (.brk c rd ra imm) s = .next t ∧ s.Trapped t c 8 k.pc 0) ∧
    (k.tm = true → imm = 2 → ∃ t, exec (.tret c rd ra imm) s = .next t ∧ s.OnlyCore t c ∧ k.Retired (t.core c) (k.get 0x12) ∧
      (t.core c).ie = bit (k.get 0x14) 4 ∧ (t.core c).tm = false ∧ (∀ r, (t.core c).s r = k.s r) ∧ (t.core c).spad = k.spad) ∧
    (imm = 3 → ∃ t, exec (.halt c rd ra imm) s = .next t ∧ s.OnlyCore t c ∧ (t.core c).rs = 0 ∧ (t.core c).pc = k.pc + 4 ∧
      (t.core c).wait = none ∧ (t.core c).stepping = false ∧ (t.core c).tm = k.tm ∧ (∀ r, (t.core c).s r = k.s r) ∧ (t.core c).spad = k.spad)

/-- R54, R55, R83, R92: a word stands for the instruction its OP names, with the fields where its format puts them; a word with a reserved OP,
0x00000000 and 0xFFFFFFFF among them, a reserved FN of CSR or a reserved selector of SYS raises ILLEGAL. -/
def Obligations.InstructionWordsStandForTheirInstruction : Prop :=
  ∀ (s : State) (c : Nat) (rd ra rb rc : Reg) (fn : BitVec 6) (imm : BitVec 16) (off : BitVec 21) (csr : BitVec 12) (w : Word),
    let r (op : BitVec 6) : Word := op ++ rd ++ ra ++ rb ++ rc ++ fn
    let i (op : BitVec 6) : Word := op ++ rd ++ ra ++ imm
    let j (op : BitVec 6) : Word := op ++ rd ++ off
    let z (f : BitVec 4) : Word := (0x3A#6) ++ rd ++ ra ++ csr ++ f
    let y (n b : Byte) : Word := (0x3B#6) ++ rd ++ ra ++ n ++ b
    coreWord c (r 0x01) = some (.alu c rd ra rb rc fn) ∧ coreWord c (r 0x0C) = some (.fp c rd ra rb rc fn) ∧
    coreWord c (r 0x0D) = some (.fma c rd ra rb rc fn) ∧ coreWord c (r 0x30) = some (.send c rd ra rb rc fn) ∧
    coreWord c (r 0x31) = some (.recv c rd ra rb rc fn) ∧ coreWord c (r 0x32) = some (.waitq c rd ra rb rc fn) ∧
    coreWord c (r 0x33) = some (.pollq c rd ra rb rc fn) ∧ coreWord c (r 0x34) = some (.issue c rd ra rb rc fn) ∧
    coreWord c (i 0x02) = some (.addi c rd ra imm) ∧ coreWord c (i 0x03) = some (.andi c rd ra imm) ∧
    coreWord c (i 0x04) = some (.ori c rd ra imm) ∧ coreWord c (i 0x05) = some (.xori c rd ra imm) ∧
    coreWord c (i 0x06) = some (.slti c rd ra imm) ∧ coreWord c (i 0x07) = some (.sltiu c rd ra imm) ∧
    coreWord c (i 0x08) = some (.slli c rd ra imm) ∧ coreWord c (i 0x09) = some (.srli c rd ra imm) ∧
    coreWord c (i 0x0A) = some (.srai c rd ra imm) ∧ coreWord c (i 0x0B) = some (.lui c rd ra imm) ∧
    coreWord c (i 0x10) = some (.lb c rd ra imm) ∧ coreWord c (i 0x11) = some (.lbu c rd ra imm) ∧
    coreWord c (i 0x12) = some (.lh c rd ra imm) ∧ coreWord c (i 0x13) = some (.lhu c rd ra imm) ∧
    coreWord c (i 0x14) = some (.lw c rd ra imm) ∧ coreWord c (i 0x18) = some (.sb c rd ra imm) ∧
    coreWord c (i 0x19) = some (.sh c rd ra imm) ∧ coreWord c (i 0x1A) = some (.sw c rd ra imm) ∧
    coreWord c (i 0x20) = some (.beq c rd ra imm) ∧ coreWord c (i 0x21) = some (.bne c rd ra imm) ∧
    coreWord c (i 0x22) = some (.blt c rd ra imm) ∧ coreWord c (i 0x23) = some (.bge c rd ra imm) ∧
    coreWord c (i 0x24) = some (.bltu c rd ra imm) ∧ coreWord c (i 0x25) = some (.bgeu c rd ra imm) ∧
    coreWord c (j 0x26) = some (.jal c rd off) ∧ coreWord c (i 0x27) = some (.jalr c rd ra imm) ∧
    coreWord c (i 0x38) = some (.bar c rd ra imm) ∧ coreWord c (i 0x39) = some (.fence c rd ra imm) ∧
    coreWord c (z 0) = some (.csrrw c rd ra csr) ∧ coreWord c (z 1) = some (.csrrs c rd ra csr) ∧
    coreWord c (z 2) = some (.csrrc c rd ra csr) ∧ coreWord c (z 4) = some (.csrrwi c rd ra csr) ∧
    coreWord c (z 5) = some (.csrrsi c rd ra csr) ∧ coreWord c (z 6) = some (.csrrci c rd ra csr) ∧
    (∀ n, coreWord c (y n 0) = some (.trap c rd ra (n ++ (0 : Byte))) ∧ coreWord c (y n 1) = some (.brk c rd ra (n ++ (1 : Byte))) ∧
      coreWord c (y n 2) = some (.tret c rd ra (n ++ (2 : Byte))) ∧ coreWord c (y n 3) = some (.halt c rd ra (n ++ (3 : Byte)))) ∧
    (∀ e, coreWord c w = some e → s.runWord c w = exec e s) ∧
    (s.Ready c → (s.core c).tm = false →
      (w = 0 ∨ w = 0xFFFFFFFF ∨ (w.toNat / 2 ^ 26 ∈ [0x00, 0x0E, 0x0F, 0x15, 0x16, 0x17, 0x35, 0x36, 0x37]) ∨
          (0x1B ≤ w.toNat / 2 ^ 26 ∧ w.toNat / 2 ^ 26 ≤ 0x1F) ∨ (0x28 ≤ w.toNat / 2 ^ 26 ∧ w.toNat / 2 ^ 26 ≤ 0x2F) ∨
          0x3C ≤ w.toNat / 2 ^ 26 ∨ (w.toNat / 2 ^ 26 = 0x3A ∧ (w.toNat % 16 = 3 ∨ 7 ≤ w.toNat % 16)) ∨
          (w.toNat / 2 ^ 26 = 0x3B ∧ 4 ≤ w.toNat % 256) →
        ∃ t, s.runWord c w = .next t ∧ s.Trapped t c 1 (s.core c).pc 0))

/-- R524-R530, R533, R534: a MIRROR is placed in a generation of its step and acknowledged, a MARK commits it, a READ gives its lines; each is refused with
code 1 where no hosting entry matches. At the source an acknowledgement ends the wait of its request, the last one sends the MARK, and MARK_ACK
ends STALE; a refusal or a timeout fails the step's mirror or stops the restore with its cause. A restore asks for its lines and writes them. -/
def Obligations.CometMirrorsMarksAndRestores : Prop :=
  ∀ (s : State) (p : BitVec 6) (w : Wyn),
    let x := p.toNat
    let rest := s.net.erase (.inw x w)
    let step := leAt w.payload 4 4
    let line := leAt w.payload 8 4
    let data := w.payload.drop 16
    let dev := w.src / 65536
    let host := s.hostFind x dev (leAt w.payload 0 4)
    let answered (u : State) (sub : Nat) (b : List Byte) (may : Nat → Prop) : Prop :=
      u.net = rest ++ [.wyn (w.answer s.devId sub b)] ∧ s.RegsBut { u with net := s.net, mem := s.mem } may
    let refused (u : State) (code : Nat) : Prop :=
      answered u 6 (leBytes 4 code) (fun k => k = 0xA8608 ∨ k = 0xA860C ∨ k = 0xA8008) ∧ u.mem = s.mem ∧ bit (u.reg 0xA8008) 2 = true
    let mine (u : State) : Prop := u.net = rest ∧ u.mem = s.mem ∧ u.cores = s.cores
    (s.hostsOf x dev = [] →
      (∃ u, exec (.mirror p w) s = .next u ∧ refused u 1) ∧ (∃ u, exec (.mark p w) s = .next u ∧ refused u 1) ∧
      (∃ u, exec (.cometRead p w) s = .next u ∧ refused u 1)) ∧
    (∀ h g, leAt w.payload 0 4 < 8 → line < 2 ^ 30 → host = some h →
      let k := (s.genPlace h g line).1
      let o := (s.genPlace h g line).2
      (leAt w.payload 12 4 = 0 → data ≠ [] → data.length % 64 = 0 → line + data.length / 64 ≤ 64 * s.regFld (hostKey h 4) 0 25 →
        errIn s.memErr 64 (memIdx k o) data.length = [] →
        (g < 2 → s.genState h g = 1 → s.genStep h g = step → (g = 1 → s.genState h 0 ≠ 1 ∨ s.genStep h 0 ≠ step) →
          ∃ u, exec (.mirror p w) s = .next u ∧ answered u 1 [] (fun k => k = 0xA8600 ∨ k = 0xA8604 ∨ tileReg k) ∧
            u.mem = Map.setN byte0 s.mem (memIdx k o) data) ∧
        (g = 0 → s.genState h 0 = 0 → s.genState h 1 = 0 →
          ∃ u, exec (.mirror p w) s = .next u ∧ u.mem = Map.setN byte0 s.mem (memIdx k o) data ∧ u.genState h 0 = 1 ∧ u.genStep h 0 = step ∧
            u.net = rest ++ [.wyn (w.answer s.devId 1 [])] ∧ u.cores = s.cores)) ∧
      (let n := leAt w.payload 12 4
       g < 2 → 2 ≤ s.genState h g → s.genStep h g = step → (g = 1 → s.genState h 0 < 2 ∨ s.genStep h 0 ≠ step) → 64 ≤ n → n ≤ 8128 → n % 64 = 0 →
        line + n / 64 ≤ 64 * s.regFld (hostKey h 4) 0 25 → errIn s.memErr 64 (memIdx k o) n = [] →
        ∃ u, exec (.cometRead p w) s = .next u ∧ u.mem = s.mem ∧
          answered u 5 (words4 (s.reg (hostKey h (0x1C + 4 * g))).toNat step 0 0 ++ s.mem.getN byte0 (memIdx k o) n) tileReg)) ∧
    (∀ h g, s.hostsOf x dev = [h] → g < 2 → s.genState h g ≠ 0 → s.genStep h g = step → (g = 1 → s.genState h 0 = 0 ∨ s.genStep h 0 ≠ step) →
      leAt w.payload 0 4 < 256 → leAt w.payload 12 4 = 0 →
      ∃ u, exec (.mark p w) s = .next u ∧ answered u 3 [] (fun k => k = hostKey h 0x10 ∨ k = hostKey h (0x1C + 4 * g)) ∧ u.mem = s.mem ∧
        u.genState h g = 2 ∧ (u.reg (hostKey h (0x1C + 4 * g))).toNat = line ∧
        u.genState h (1 - g) =
          if s.genState h (1 - g) = 2 ∧ stepBefore (s.genStep h (1 - g)) step = true then 3
          else if stepBefore step (s.genStep h (1 - g)) = true then 0 else s.genState h (1 - g)) ∧
    ((∀ r ∈ s.cmReqs, r.part ≠ x ∨ r.seq ≠ w.seq) →
      exec (.mirrorAck p w) s = .next { s with net := rest } ∧ exec (.markAck p w) s = .next { s with net := rest } ∧
      exec (.cometReadRsp p w) s = .next { s with net := rest } ∧ exec (.cometError p w) s = .next { s with net := rest }) ∧
    (∀ r l, s.cmReqs = r :: l → r.part = x → r.seq = w.seq →
      (r.kind = 0 → r.line / 128 % 4096 = w.ch →
        (s.apply x = none ∨ (∃ a q, s.apply x = some a ∧ q ∈ l ∧ q.part = x ∧ q.kind = 0 ∧ q.step = a.step) →
          ∃ u, exec (.mirrorAck p w) s = .next u ∧ mine u ∧ u.cmReqs = l ∧ s.RegsBut { u with net := s.net, cmReqs := s.cmReqs }
            fun k => k = cmKey x 0x100 ∨ k = cmKey x 0x104) ∧
        (∀ a, s.apply x = some a → bit (s.reg (cmKey x 0)) 0 = true → a.reported = true → a.mirFailed = false → a.markSent = false →
          (∀ q ∈ l, q.part ≠ x ∨ q.kind ≠ 0 ∨ q.step ≠ a.step) →
          ∃ u f, exec (.mirrorAck p w) s = .next u ∧ u.net = rest ++ [.wyn f] ∧ f.cls = 5 ∧ f.sub = 2 ∧ f.ch = 0 ∧ f.rsp = false ∧
            f.dst = devAddr (s.regFld (cmKey x 0) 16 16) ∧ f.payload = words4 a.att a.step a.opt 0 ∧
            u.apply x = some { a with markSent := true } ∧ u.mem = s.mem ∧ u.cores = s.cores)) ∧
      (r.kind = 1 → w.ch = 0 →
        ∃ u, exec (.markAck p w) s = .next u ∧ mine u ∧ u.cmReqs = l ∧ u.reg (cmKey x 0x14) = BitVec.ofNat 32 r.step ∧
          bit (u.reg (cmKey x 4)) 0 = false ∧
          ∀ a, s.apply x = some a → u.apply x = some (if a.step = r.step ∧ a.mirFailed = false then { a with marked := true } else a)) ∧
      (r.kind = 2 → r.line / 128 % 4096 = w.ch → ∀ q base n, s.restores.get none0 x = some q → s.cmWin x r.tile = some (base, n) →
        (q.opt = none ∨ q.opt = some (leAt w.payload 0 4)) →
        s.regionRefuses x (.updateEngine r.tile) true ⟨r.tile, base * 4096 + 64 * r.line, r.len⟩ = false →
        errIn s.memErr 64 (memIdx r.tile (base * 4096 + 64 * r.line)) r.len = [] →
        ∃ u, exec (.cometReadRsp p w) s = .next u ∧ u.cores = s.cores ∧
          u.mem = Map.setN byte0 s.mem (memIdx r.tile (base * 4096 + 64 * r.line)) (sliceB data 0 r.len)) ∧
      (let chan : Prop := (if r.kind = 0 ∨ r.kind = 2 then r.line / 128 % 4096 else 0) = w.ch
       (r.kind ≤ 1 → ∀ a, s.apply x = some a → a.step = r.step → a.mirFailed = false →
        (chan → ∃ u, exec (.cometError p w) s = .next u ∧ mine u ∧ u.cmReqs = l ∧ u.apply x = some { a with mirFailed := true } ∧
          bit (u.reg (cmKey x 4)) 0 = true ∧ bit (u.reg (cmKey x 0x20)) 0 = true) ∧
        (∀ t : BitVec 3, ∀ seq : BitVec 16, r.tile = t.toNat → r.seq = seq.toNat →
          ∃ u, exec (.mirrorTimeout p t seq) s = .next u ∧ u.net = s.net ∧ u.mem = s.mem ∧ u.cores = s.cores ∧ u.cmReqs = l ∧
            u.apply x = some { a with mirFailed := true } ∧ bit (u.reg (cmKey x 4)) 0 = true)) ∧
       (2 ≤ r.kind → r.kind < 4 → ∀ q, s.restores.get none0 x = some q →
        (chan → ∃ u, exec (.cometError p w) s = .next u ∧ mine u ∧ u.restores.get none0 x = none ∧ bit (u.reg (cmKey x 4)) 1 = false ∧
          u.regFld (cmKey x 4) 2 4 = leAt w.payload 0 4 % 16 ∧ bit (u.reg (cmKey x 0x20)) 2 = true ∧ ∀ y ∈ u.cmReqs, y.part ≠ x ∨ y.kind < 2) ∧
        (∀ t : BitVec 3, ∀ seq : BitVec 16, r.tile = t.toNat → r.seq = seq.toNat →
          ∃ u, exec (.mirrorTimeout p t seq) s = .next u ∧ u.mem = s.mem ∧ u.restores.get none0 x = none ∧ bit (u.reg (cmKey x 4)) 1 = false ∧
            u.regFld (cmKey x 4) 2 4 = 6)))) ∧
    (∀ t seq, (∀ r ∈ s.cmReqs, r.part ≠ x ∨ r.tile ≠ t.toNat ∨ r.seq ≠ seq.toNat) → exec (.mirrorTimeout p t seq) s = .next s) ∧
    (let lost : Prop := s.sa x = 3 ∧ ∃ a, s.apply x = some a ∧ a.lost = true
     let wins := (List.range 8).filter fun k => (s.cmWin x k).isSome
     ((s.stepOpen x = true ∧ ¬ lost) ∨ bit (s.reg (cmKey x 0)) 0 = false ∨ (s.restores.get none0 x).isSome = true ∨ wins = [] →
        exec (.restore p) s = .next (s.orReg (cmKey x 4) (2 ^ 16))) ∧
     (∀ k l base n, s.stepOpen x = false ∨ lost → bit (s.reg (cmKey x 0)) 0 = true → s.restores.get none0 x = none → wins = k :: l →
        s.cmWin x k = some (base, n) → n ≠ 0 → (∀ r ∈ s.cmReqs, r.part ≠ x ∨ r.kind < 2) →
        let goal := (s.reg (cmKey x 0xC)).toNat
        ∃ u f, exec (.restore p) s = .next u ∧ u.net = s.net ++ [.wyn f] ∧ f.cls = 5 ∧ f.sub = 4 ∧ f.dst = devAddr (s.regFld (cmKey x 0) 16 16) ∧
          f.payload = words4 k goal 0 (64 * min 127 (64 * n)) ∧
          u.restores.get none0 x = some { step := goal, opt := none, wins := k :: l, line := min 127 (64 * n), marking := false } ∧
          bit (u.reg (cmKey x 4)) 1 = true ∧ u.regFld (cmKey x 4) 2 4 = 0 ∧ u.mem = s.mem ∧ u.cores = s.cores))

/-- R531, R537, R541-R544, R550-R555: CM_CTL, windows and hosting entries take a write unless a rule bars it; a fence by command stops its core and is logged,
and an UNFENCE resets it unless an alias names it; heartbeats go to every valid target, and a watch entry follows the heartbeats of its device. -/
def Obligations.CometRegistersFencesAndHeartbeats : Prop :=
  ∀ (s : State) (p : BitVec 6) (v : Word),
    let x := p.toNat
    let ctl := cmKey x 0
    let stat := cmKey x 4
    let b := fld v 16 16
    (s.stepOpen x = true →
      (bit v 0 = bit (s.reg ctl) 0 → b = fld (s.reg ctl) 16 16 →
        exec (.cmCtlWrite p v) s = .next (s.putCode ctl (setFld (s.reg ctl) 8 8 (fld v 8 8)))) ∧
      (bit v 0 ≠ bit (s.reg ctl) 0 ∨ b ≠ fld (s.reg ctl) 16 16 →
        ∃ u, exec (.cmCtlWrite p v) s = .next u ∧ s.RegsBut u (fun k => k = ctl ∨ k = stat) ∧ bit (u.reg stat) 16 = true ∧
          bit (u.reg ctl) 0 = bit (s.reg ctl) 0 ∧ u.regFld ctl 16 16 = s.regFld ctl 16 16 ∧ u.regFld ctl 8 8 = fld v 8 8) ∧
      (∀ (k : BitVec 3) (i : BitVec 2), i.toNat < 3 → exec (.cmWinWrite p k i v) s = .next (s.orReg stat (2 ^ 16)))) ∧
    (s.stepOpen x = false →
      (bit v 0 = true → (b = 0 ∨ b = 0xFFFF ∨ b = s.devId) → exec (.cmCtlWrite p v) s = .next (s.orReg stat (2 ^ 17))) ∧
      (bit v 0 = true → b ≠ 0 → b ≠ 0xFFFF → b ≠ s.devId → (bit (s.reg ctl) 0 = false ∨ b ≠ fld (s.reg ctl) 16 16) →
        ∃ u, exec (.cmCtlWrite p v) s = .next u ∧ s.RegsBut u (fun k => k = ctl ∨ k = stat) ∧ bit (u.reg ctl) 0 = true ∧ u.regFld ctl 16 16 = b ∧
          u.regFld ctl 8 8 = fld v 8 8 ∧ bit (u.reg stat) 0 = true) ∧
      (bit v 0 = false → exec (.cmCtlWrite p v) s = .next (s.putCode ctl v)) ∧
      (∀ (k : BitVec 3) (i : BitVec 2), i.toNat < 3 →
        let s' := s.putCode (cmKey x (0x40 + 0x10 * k.toNat + 4 * i.toNat)) v
        (s'.cmWin x k.toNat = none → exec (.cmWinWrite p k i v) s = .next s') ∧
        (∀ base n, s'.cmWin x k.toNat = some (base, n) →
          (s.fuse.hasTile k.toNat = true → n ≠ 0 →
            (∃ r, r < 16 ∧ (s.region k.toNat r).valid = true ∧ (s.region k.toNat r).kind = 2 ∧ (s.region k.toNat r).part = x ∧
              (s.region k.toNat r).base ≤ base ∧ base + n ≤ (s.region k.toNat r).base + (s.region k.toNat r).pages) →
            exec (.cmWinWrite p k i v) s = .next s') ∧
          (s.fuse.hasTile k.toNat = false ∨ n = 0 → exec (.cmWinWrite p k i v) s = .next (s.orReg stat (2 ^ 17)))))) ∧
    (∀ (k : BitVec 3) (i : BitVec 2), i = 3 → exec (.cmWinWrite p k i v) s = .next s) ∧
    (∀ (h : BitVec 4) (i : BitVec 2),
      let e := hostKey h.toNat 0
      let s' := s.putCode (e + 4 * i.toNat) v
      (s.hostValid h.toNat = true →
        (i ≠ 0 → exec (.cmHostWrite h i v) s = .next s) ∧
        (i = 0 → ∃ u, exec (.cmHostWrite h i v) s = .next u ∧ u = { s with regs := u.regs } ∧ (∀ k, k ≠ e → u.reg k = s.reg k) ∧
          u.hostValid h.toNat = bit v 31 ∧ u.regFld e 0 30 = s.regFld e 0 30)) ∧
      (s.hostValid h.toNat = false →
        (i ≠ 0 ∨ bit v 31 = false → exec (.cmHostWrite h i v) s = .next s') ∧
        (i = 0 → bit v 31 = true → s'.hostBad h.toNat = true → exec (.cmHostWrite h i v) s = .next (s.setReg e (setBit (s.reg e) 30 true))) ∧
        (i = 0 → bit v 31 = true → s'.hostBad h.toNat = false → exec (.cmHostWrite h i v) s = .next (s'.setReg (hostKey h.toNat 0x10) 0)))) ∧
    (∀ (cl : Nat) (i : BitVec 4), cl < 640 →
      let c := clusterCore cl i.toNat
      let named : Prop := ∃ j, j < 16 ∧ bit (s.reg (clKey cl + 4 * j)) 8 = true ∧ (j = i.toNat ∨ fld (s.reg (clKey cl + 4 * j)) 0 4 = i.toNat)
      (s.isFenced c = true →
        (∃ u, exec (.clFence cl i) s = .next u ∧ u = { s with regs := u.regs } ∧ ∀ k, k ≠ clKey cl + 0x50 → u.reg k = s.reg k) ∧
        (¬ named → ∃ u, exec (.unfence cl i) s = .next u ∧ u.isFenced c = false ∧ u.fcause c = 0 ∧ u.core c = Core.reset ∧
          (∀ y, y ≠ c → u.core y = s.core y) ∧ u.mem = s.mem)) ∧
      (s.isFenced c = false → ∃ u, exec (.clFence cl i) s = .next u ∧ u.isFenced c = true ∧ u.fcause c = 4 ∧ (u.core c).rs = 4 ∧
        (u.core c).sendq = [] ∧ (u.core c).ctxs = [] ∧ (∀ e, ((u.core c).eng e).queue = [] ∧ ((u.core c).eng e).jobs = []) ∧
        (u.core c).spad = (s.core c).spad ∧ u.mem = s.mem) ∧
      (s.isFenced c = false ∨ named → ∃ u, exec (.unfence cl i) s = .next u ∧ u = { s with regs := u.regs } ∧
        bit (u.reg (clKey cl + 0x50)) 16 = true ∧ ∀ k, k ≠ clKey cl + 0x50 → u.reg k = s.reg k)) ∧
    (∀ (cl : Nat) (i : BitVec 4), 640 ≤ cl → exec (.clFence cl i) s = .next s ∧ exec (.unfence cl i) s = .next s) ∧
    (s.regFld 0xA8000 0 16 = 0 ∨ s.devId = 0 ∨ (∀ t, t < 4 → bit (s.reg (0xA8010 + 4 * t)) 31 = false) → exec .heartbeatSend s = .next s) ∧
    (∀ t, s.regFld 0xA8000 0 16 ≠ 0 → s.devId ≠ 0 → t < 4 → bit (s.reg (0xA8010 + 4 * t)) 31 = true →
      (∀ j, j < 4 → j ≠ t → bit (s.reg (0xA8010 + 4 * j)) 31 = false) →
      ∃ u f, exec .heartbeatSend s = .next u ∧ u.net = s.net ++ [.wyn f] ∧ s.RegsBut { u with net := s.net } (fun k => k = 0xA8610 ∨ k = 0xA8614) ∧
        f.cls = 7 ∧ f.sub = 3 ∧ f.dst = devAddr (s.regFld (0xA8010 + 4 * t) 0 16) ∧ f.src = devAddr s.devId ∧
        f.payload = words4 (s.devId + (if bit (s.reg 0x2004) 0 then 2 else 0) * 2 ^ 16) (u.reg 0xA8610).toNat s.time32 0) ∧
    (∀ (w : Wyn) (i : BitVec 3),
      let a := leAt w.payload 0 4
      let k := hbKey i.toNat
      let rest := s.net.erase (.inw 0 w)
      let on (j : Nat) : Prop := bit (s.reg (hbKey j)) 31 = true ∧ s.regFld (hbKey j) 0 16 = a % 2 ^ 16
      ((∀ j, j < 8 → ¬ on j) → exec (.heartbeat w) s = .next { s with net := rest }) ∧
      (on i.toNat → (∀ j, j < 8 → j ≠ i.toNat → ¬ on j) →
        ∃ u, exec (.heartbeat w) s = .next u ∧ u.net = rest ∧ s.RegsBut { u with net := s.net } (fun j => j = k ∨ j = k + 4 ∨ j = 0xA8008) ∧
          u.regFld k 16 2 = a / 2 ^ 16 % 4 ∧ u.regFld k 0 16 = s.regFld k 0 16 ∧ (u.reg (k + 4)).toNat = s.time32 ∧
          (a / 2 ^ 16 % 4 = 2 → s.regFld k 16 2 < 2 → bit (u.reg 0xA8008) 1 = true) ∧
          (a / 2 ^ 16 % 4 ≠ 2 ∨ 2 ≤ s.regFld k 16 2 → u.reg 0xA8008 = s.reg 0xA8008)) ∧
      (s.regFld 0xA8004 0 24 = 0 ∨ bit (s.reg k) 31 = false ∨ s.regFld k 16 2 ≠ 0 → exec (.heartbeatTimeout i) s = .next s) ∧
      (s.regFld 0xA8004 0 24 ≠ 0 → bit (s.reg k) 31 = true → s.regFld k 16 2 = 0 →
        ∃ u, exec (.heartbeatTimeout i) s = .next u ∧ s.RegsBut u (fun j => j = k ∨ j = 0xA8008) ∧ u.regFld k 16 2 = 3 ∧ bit (u.reg 0xA8008) 0 = true) ∧
      (bit v 31 = true → ∃ u, exec (.hbWatchWrite i v) s = .next u ∧ u = { s with regs := u.regs } ∧ (∀ j, j ≠ k → j ≠ k + 4 → u.reg j = s.reg j) ∧
        bit (u.reg k) 31 = true ∧ u.regFld k 0 16 = fld v 0 16 ∧ u.regFld k 16 2 = 0 ∧ (u.reg (k + 4)).toNat = s.time32) ∧
      (bit v 31 = false → exec (.hbWatchWrite i v) s = .next (s.putCode k v)))

/-- R566-R579, R586, R589: a doorbell moves the tail or the head of an enabled queue, a wrong one puts the queue in ERROR, one of a queue that takes none is
discarded and logged. A queue is enabled with legal registers and disabled; a fetched entry joins the queue's commands; a segment in
progress moves its bytes; a completed command's entry is written where there is room, and an interrupt moderated or not. -/
def Obligations.HostQueuesFetchMoveAndComplete : Prop :=
  ∀ (s : State) (p : BitVec 6) (q k : Nat),
    let x := p.toNat
    let h := s.hq k
    let key := qKey k
    let here : Prop := s.queueOf x q = some k
    let inError (u : State) (code : Nat) : Prop :=
      s.RegsBut u (fun j => j = key + 0x1C) ∧ u.qState k = 2 ∧ u.regFld (key + 0x1C) 28 4 = code ∧ bit (u.reg (fnKey x 0x70008)) 0 = true
    let logged (u : State) : Prop := s.RegsBut { u with freeCtr := s.freeCtr } (fun _ => False) ∧ u.reg 0x200C = s.reg 0x200C + 1 ∧
      ∃ e, u.elog.get none0 (((s.reg 0x200C).toNat + 1) % 512) = some e ∧ e.unit = 17 ∧ e.level = 0x44 ∧ e.part = x ∧ e.pvalid = true
    (∀ v : Word,
      (s.decodes x = false ∨ s.queueOf x q = none → exec (.sqDoorbell p q v) s = .next s ∧ exec (.cqDoorbell p q v) s = .next s ∧
        exec (.sqEnable p q v) s = .next s ∧ exec (.sqDisable p q v) s = .next s) ∧
      (s.decodes x = true → here →
        ((s.qState k = 0 ∨ s.qState k = 2) →
          (∃ u, exec (.sqDoorbell p q v) s = .next u ∧ logged u) ∧ (∃ u, exec (.cqDoorbell p q v) s = .next u ∧ logged u)) ∧
        (s.qState k ≠ 0 → s.qState k ≠ 2 →
          (v.toNat < s.sqSize k → exec (.sqDoorbell p q v) s = .next (s.setHq k { h with tail := v.toNat })) ∧
          (s.sqSize k ≤ v.toNat → ∃ u, exec (.sqDoorbell p q v) s = .next u ∧ inError u 1) ∧
          (s.cqSize k ≤ v.toNat → ∃ u, exec (.cqDoorbell p q v) s = .next u ∧ inError u 2) ∧
          (v.toNat < s.cqSize k → (v.toNat + s.cqSize k - h.cqHead) % s.cqSize k ≤ (s.cqTail k + s.cqSize k - h.cqHead) % s.cqSize k →
            (v.toNat ≠ s.cqTail k → exec (.cqDoorbell p q v) s = .next (s.setHq k { h with cqHead := v.toNat })) ∧
            (v.toNat = s.cqTail k → ∃ u, exec (.cqDoorbell p q v) s = .next u ∧ u = { s with regs := u.regs, hostqs := u.hostqs, fns := u.fns } ∧
              u.hq k = { h with cqHead := v.toNat } ∧ u.reg (key + 0x24) = 0 ∧ ∀ j, j ≠ key + 0x24 → u.reg j = s.reg j))) ∧
        (s.qState k = 0 → bit (s.reg (key + 8)) 31 = false → s.regFld key 0 12 = 0 → s.regFld (key + 12) 0 12 = 0 →
          let n := fld v 0 4
          let m := s.regFld (key + 0x14) 0 4
          (1 ≤ n → n ≤ 12 → 1 ≤ m → m ≤ 12 → s.regFld (key + 0x14) 4 11 < (if x = 0 then 2048 else 64) →
            ∃ u, exec (.sqEnable p q v) s = .next u ∧ u = { s with regs := u.regs, hostqs := u.hostqs } ∧ u.hq k = HostQ.reset ∧ u.qState k = 1 ∧
              bit (u.reg (key + 8)) 31 = true ∧ u.regFld (key + 8) 0 4 = n ∧ u.regFld (key + 0x1C) 12 1 = 1 ∧ u.sqHead k = 0 ∧ u.cqTail k = 0 ∧
              ∀ j, j ≠ key + 8 → j ≠ key + 0x1C → j ≠ key + 0x24 → u.reg j = s.reg j) ∧
          (n = 0 ∨ 12 < n ∨ m = 0 ∨ 12 < m →
            ∃ u, exec (.sqEnable p q v) s = .next u ∧ s.RegsBut u (fun j => j = key + 8 ∨ j = key + 0x1C) ∧ u.qState k = 2 ∧
              u.regFld (key + 0x1C) 28 4 = 3 ∧ bit (u.reg (key + 8)) 31 = false)) ∧
        (∃ u, exec (.sqDisable p q v) s = .next u ∧ u = { s with regs := u.regs } ∧ bit (u.reg (key + 8)) 31 = false ∧
          u.qState k = (if h.cmds = [] then 0 else 3) ∧ ∀ j, j ≠ key + 8 → j ≠ key + 0x1C → u.reg j = s.reg j))) ∧
    (∀ (b : List Byte) (ok : Bool), here →
      (s.qState k ≠ 1 ∨ s.sqHead k = h.tail ∨ s.hostOk x = false ∨ bit (s.reg 0x2004) 0 = true → exec (.sqFetch p q b ok) s = .next s) ∧
      (s.qState k = 1 → s.sqHead k ≠ h.tail → s.hostOk x = true → bit (s.reg 0x2004) 0 = false →
        (ok = false → ∃ u, exec (.sqFetch p q b ok) s = .next u ∧ inError u 4) ∧
        (ok = true → ∃ u c, exec (.sqFetch p q b ok) s = .next u ∧ u = { s with regs := u.regs, hostqs := u.hostqs, hostSeq := s.hostSeq + 1 } ∧
          u.hq k = { h with cmds := h.cmds ++ [c] } ∧ c.bytes = sliceB b 0 64 ∧ c.head = (s.sqHead k + 1) % s.sqSize k ∧ c.moved = 0 ∧ c.issued = 0 ∧
          (s.sqSize k ≤ 4096 → u.sqHead k = c.head) ∧ (∀ o, cmdBad (sliceB b 0 64) = some o → c.done = some (2, o, 0)) ∧
          (cmdBad (sliceB b 0 64) = none → c.conv = false → c.done = none) ∧ ∀ j, j ≠ key + 0x1C → u.reg j = s.reg j))) ∧
    (∀ (cid : BitVec 16) (data : List Byte) (err : Option Nat),
      (s.queueOf x q = none ∨ (∃ j, s.queueOf x q = some j ∧ ∀ c ∈ (s.hq j).cmds, c.done ≠ none ∨ c.cid ≠ cid.toNat) →
        exec (.nop p q cid) s = .next s ∧ exec (.h2d p q cid data err) s = .next s ∧ exec (.d2h p q cid) s = .next s ∧
        exec (.h2s p q cid data err) s = .next s ∧ exec (.s2h p q cid) s = .next s ∧ exec (.fill p q cid) s = .next s) ∧
      (∀ c, here → h.cmds = [c] → c.done = none → c.cid = cid.toNat → c.moved < c.issued → c.conv = false → c.carry = [] → s.DiesUp →
        let o := (c.seg c.moved).1
        let m := (c.seg c.moved).2
        let moved (u : State) (n : Nat) (bad : Option (Nat × Nat)) : Prop := ∃ c', (u.hq k) = { h with cmds := [c'] } ∧ c'.moved = c.moved + 1 ∧
          c'.dst = c.dst + n ∧ c'.bytes = c.bytes ∧ c'.done = match bad with
            | some e => some (e.1, e.2, c.fl.toNat)
            | none => if c.segCount ≤ c.moved + 1 then some (0, 0, c.fl.toNat) else none
        let regs (u : State) : Prop := s.RegsBut { u with mem := s.mem, cores := s.cores, hostqs := s.hostqs, out := s.out }
          fun j => j = key + 0x20 ∨ j = fnKey x 0x70100 ∨ j = fnKey x 0x70104 ∨ j = fnKey x 0x70108 ∨ j = fnKey x 0x7010C ∨ tileReg j
        (c.opc = 0 → ∃ u, exec (.nop p q cid) s = .next u ∧ regs u ∧ u.mem = s.mem ∧ u.cores = s.cores ∧ moved u 0 none) ∧
        (∀ t a, 0 < m → m ≤ 64 → (c.daddr + c.dst) / 64 = (c.daddr + c.dst + m - 1) / 64 → s.Plain x (c.daddr + c.dst) m t a →
          (c.opc = 1 → err = none → ∃ u, exec (.h2d p q cid data err) s = .next u ∧ regs u ∧ u.cores = s.cores ∧
            u.mem = Map.setN byte0 s.mem (memIdx t a) (sliceB data 0 m) ∧ moved u m none) ∧
          (c.opc = 5 → ∃ u, exec (.fill p q cid) s = .next u ∧ regs u ∧ u.cores = s.cores ∧
            u.mem = Map.setN byte0 s.mem (memIdx t a) (sliceB ((List.replicate 1024 (sliceB c.bytes 8 4)).flatten) 0 m) ∧ moved u m none)) ∧
        (c.opc = 1 → err = some 0 → ∃ u, exec (.h2d p q cid data err) s = .next u ∧ regs u ∧ u.cores = s.cores ∧ u.mem = s.mem ∧ moved u 0 (some (6, o))) ∧
        (c.opc = 2 → s.hostOk x = true → ∀ t a, 0 < m → m ≤ 64 → (c.daddr + o) / 64 = (c.daddr + o + m - 1) / 64 → s.Plain x (c.daddr + o) m t a →
          ∃ u, exec (.d2h p q cid) s = .next u ∧ regs u ∧ u.mem = s.mem ∧ u.cores = s.cores ∧ moved u m none ∧
            .hostWrite x (c.haddr + o) (s.mem.getN byte0 (memIdx t a) m) ∈ u.out) ∧
        (∀ y, addrDev (leAt c.bytes 16 4) = 0 → s.toCore x (leAt c.bytes 16 4) = some y → isCore y = true → s.Awake y → s.servedBy y = y →
          bit (s.reg 0x2004) 0 = false → (s.core y).spadErr = [] → 0 < m →
          let z := leAt c.bytes 20 4 % 2 ^ 18
          (c.opc = 3 → err = none → z + c.dstLen ≤ 0x30000 →
            ∃ u, exec (.h2s p q cid data err) s = .next u ∧ regs u ∧ u.mem = s.mem ∧ moved u m none ∧
              u.core y = { s.core y with spad := Map.setN byte0 (s.core y).spad (z + c.dst) (sliceB data 0 m) } ∧ ∀ j, j ≠ y → u.core j = s.core j) ∧
          (c.opc = 4 → s.hostOk x = true → z + c.len ≤ 0x30000 → m ≤ 8 → (z + o) / 8 = (z + o + m - 1) / 8 →
            ∃ u, exec (.s2h p q cid) s = .next u ∧ regs u ∧ u.mem = s.mem ∧ u.cores = s.cores ∧ moved u m none ∧
              .hostWrite x (c.haddr + o) ((s.core y).spad.getN byte0 (z + o) m) ∈ u.out)) ∧
        ((c.opc = 2 ∨ c.opc = 4) → s.hostOk x = false → exec (.d2h p q cid) s = .next s ∧ exec (.s2h p q cid) s = .next s))) ∧
    (∀ c l, here → h.cmds = c :: l →
      (c.done = none → exec (.commandComplete p q) s = .next s) ∧
      (∀ st det fl, c.done = some (st, det, fl) →
        (st = 0 → (byteAt c.bytes 1).testBit 1 = true → s.qState k ≠ 3 ∨ l ≠ [] → exec (.commandComplete p q) s = .next (s.setHq k { h with cmds := l })) ∧
        (st ≠ 0 ∨ (byteAt c.bytes 1).testBit 1 = false →
          (s.hostOk x = false ∨ (s.cqTail k + 1) % s.cqSize k = h.cqHead → exec (.commandComplete p q) s = .next s) ∧
          (s.hostOk x = true → (s.cqTail k + 1) % s.cqSize k ≠ h.cqHead → bit (s.reg (key + 0x14)) 15 = false → s.qState k ≠ 3 ∨ l ≠ [] →
            s.cqSize k ≤ 4096 →
            let ph := s.regFld (key + 0x1C) 12 1
            ∃ u, exec (.commandComplete p q) s = .next u ∧ u = { s with regs := u.regs, hostqs := u.hostqs, out := u.out } ∧
              u.hq k = { h with cmds := l } ∧ u.cqTail k = (s.cqTail k + 1) % s.cqSize k ∧
              u.regFld (key + 0x1C) 12 1 = (if (s.cqTail k + 1) % s.cqSize k = 0 then 1 - ph else ph) ∧ (∀ j, j ≠ key + 0x1C → u.reg j = s.reg j) ∧
              u.out = s.out ++ [.hostWrite x (s.reg64 (key + 12) + 16 * s.cqTail k)
                (leBytes 2 c.cid ++ leBytes 2 c.head ++ leBytes 1 st ++ leBytes 1 fl ++ leBytes 2 q ++ leBytes 4 det ++ leBytes 4 ph)])))) ∧
    (here → h.cmds = [] → exec (.commandComplete p q) s = .next s) ∧
    (here → (bit (s.reg (key + 0x14)) 15 = false ∨ s.regFld (key + 0x24) 0 13 = 0) → exec (.moderationTimerExpiry p q) s = .next s) ∧
    (here → bit (s.reg (key + 0x14)) 15 = true → s.regFld (key + 0x24) 0 13 ≠ 0 →
      let vec := s.regFld (key + 0x14) 4 11
      let f := s.fn x
      ((f.d3hot = false ∧ (f.msixEn = false ∨ f.busMaster = false)) →
        exec (.moderationTimerExpiry p q) s = .next (s.setRegFld (key + 0x24) 13 1 1)) ∧
      (f.d3hot = false → f.msixEn = true → f.busMaster = true → f.fnMask = true → exec (.moderationTimerExpiry p q) s =
        .next ((s.setRegFld (key + 0x24) 13 1 1).setFn x (f.setPba vec true))) ∧
      (f.d3hot = false → f.msixEn = true → f.busMaster = true → f.fnMask = false → f.vecMask vec = false →
        ∃ u, exec (.moderationTimerExpiry p q) s = .next u ∧ u.out = s.out ++ [.msix x vec] ∧ u.reg (key + 0x24) = 0 ∧ u.mem = s.mem ∧ u.cores = s.cores))

/-- R324, R557-R565, R578, R580-R587, R590: a cleared mask, a return to D0 and an enabled bus master send what is pending; a function reset ends the partition's
commands, steps, cores and queues; VFs are disabled with theirs; BAR2 reaches mapped memory; a partition is assigned only while it is idle. -/
def Obligations.HostFunctionsResetMaskAndMapMemory : Prop :=
  ∀ (s : State) (p : BitVec 6),
    let x := p.toNat
    let f := s.fn x
    let vecs := State.vectors x
    let quiet (v : Nat) : Prop := s.vecDue x v = false ∧ f.pbaBit v = false
    let free : Prop := f.msixEn = true ∧ f.busMaster = true ∧ f.fnMask = false
    let fnOnly (u : State) : Prop := u = { s with fns := u.fns } ∧ ∀ y, y ≠ x → u.fn y = s.fn y
    let ownsNone : Prop := ∀ c, c < 256 → s.rdEn c = true → s.rdOwner c = false
    (∀ v : BitVec 11,
      (quiet v.toNat → ∃ u, exec (.vectorUnmask p (some v)) s = .next u ∧ fnOnly u ∧ (u.fn x).vecMask v.toNat = false ∧
        ∀ j, j ≠ v.toNat → (u.fn x).vecMask j = f.vecMask j) ∧
      (¬ quiet v.toNat → free → f.d3hot = false → ∃ u, exec (.vectorUnmask p (some v)) s = .next u ∧ u.out = s.out ++ [.msix x v.toNat] ∧
        (u.fn x).vecMask v.toNat = false ∧ (u.fn x).pbaBit v.toNat = false ∧ u.mem = s.mem ∧ u.cores = s.cores)) ∧
    ((∀ v, v < vecs → quiet v) → exec (.vectorUnmask p none) s = .next (s.setFn x { f with fnMask := false }) ∧
      exec (.d0 p) s = .next (s.setFn x { f with d3hot := false })) ∧
    (∀ v, v < vecs → ¬ quiet v → (∀ j, j < vecs → j ≠ v → quiet j) → f.msixEn = true → f.busMaster = true → f.vecMask v = false →
      (f.d3hot = false → ∃ u, exec (.vectorUnmask p none) s = .next u ∧ u.out = s.out ++ [.msix x v] ∧ (u.fn x).fnMask = false ∧
        (u.fn x).pbaBit v = false ∧ u.mem = s.mem ∧ u.cores = s.cores) ∧
      (f.fnMask = false → ∃ u, exec (.d0 p) s = .next u ∧ u.out = s.out ++ [.msix x v] ∧ (u.fn x).d3hot = false ∧ (u.fn x).pbaBit v = false ∧
        u.mem = s.mem ∧ u.cores = s.cores)) ∧
    (∃ u, exec (.d3hot p) s = .next u ∧ (u.fn x).d3hot = true ∧ u.decodes x = false ∧ u.hostqs = s.hostqs ∧ u.mem = s.mem ∧ u.cores = s.cores ∧
      (∀ y, y ≠ x → u.fn y = s.fn y) ∧
      ∀ k, s.qpBase x ≤ k → k < s.qpBase x + s.qpNum x → bit (s.reg (qKey k + 0x14)) 15 = true → s.regFld (qKey k + 0x24) 0 13 ≠ 0 →
        bit (u.reg (qKey k + 0x24)) 13 = true) ∧
    (exec (.busMasterEnableWrite p false) s = .next (s.setFn x { f with busMaster := false })) ∧
    ((∀ v, v < vecs → s.vecDue x v = false) → exec (.busMasterEnableWrite p true) s = .next (s.setFn x { f with busMaster := true })) ∧
    (x ≠ 0 → ∃ u, exec (.flr p) s = .next u ∧ ((∀ c ∈ s.rdChans x, s.rdOwner c = false) → u.mem = s.mem) ∧ u.fn x = { fn0 x with enabled := f.enabled } ∧
      (u.reg (0x78010 + 0x20 * x)).toNat = min 0xFFFF ((List.range (s.qpNum x)).map fun i => (s.hq (s.qpBase x + i)).cmds.length).sum ∧
      (∀ k, s.qpBase x ≤ k → k < s.qpBase x + s.qpNum x → u.hq k = HostQ.reset ∧ u.qState k = 0 ∧ bit (u.reg (qKey k + 8)) 31 = false) ∧
      (s.apply x = none → u.stepOpen x = false) ∧
      ∀ c ∈ s.partCores x, s.isFenced c = false → u.core c = Core.reset) ∧
    (x = 0 → ∃ u, exec (.flr p) s = .next u ∧ (ownsNone → u.mem = s.mem) ∧ (∀ i, 1 ≤ i → i < 64 → (u.fn i).enabled = false) ∧
      ∀ k, s.qpBase 0 ≤ k → k < s.qpBase 0 + s.qpNum 0 → u.hq k = HostQ.reset ∧ u.qState k = 0) ∧
    (∃ u, exec .vfDisable s = .next u ∧ (ownsNone → u.mem = s.mem) ∧ bit ((u.fn 0).cfgWord 2) 0 = false ∧ ∀ i, 1 ≤ i → i < 64 → (u.fn i).enabled = false) ∧
    (∀ (off n : Nat) (data : Option (List Byte)),
      let m := match data with
        | some d => d.length
        | none => n
      let a := 2 ^ 28 * (s.reg64 (fnKey x 0x70010) % 2 ^ 48 / 2 ^ 28) + off
      (m = 0 ∨ s.decodes x = false ∨ s.bar2Size x < off + m → exec (.bar2Access p off n data) s = .next s) ∧
      (m ≠ 0 → s.decodes x = true → off + m ≤ s.bar2Size x → a / 4096 = (a + m - 1) / 4096 → s.DiesUp →
        (∀ t o, s.Plain x a m t o →
          (∀ d, data = some d → ∃ u, exec (.bar2Access p off n data) s = .next u ∧ s.RegsBut { u with mem := s.mem } tileReg ∧
            u.mem = Map.setN byte0 s.mem (memIdx t o) d) ∧
          (data = none → ∃ u, exec (.bar2Access p off n data) s = .next u ∧ u.mem = s.mem ∧ s.RegsBut { u with out := s.out } tileReg ∧
            .completion x (s.mem.getN byte0 (memIdx t o) m) false ∈ u.out)) ∧
        (s.chunks x a m = none → s.recsIn x a m = [] → s.pageAt x a m = none → s.cportAt x a m = none →
          (data = none → ∃ u, exec (.bar2Access p off n data) s = .next u ∧ u.mem = s.mem ∧ s.RegsBut u (fun _ => False) ∧
            u.reg 0x200C = s.reg 0x200C + 1 ∧ u.out.getLast? = some (.completion x (List.replicate m 0) false)) ∧
          (data ≠ none → ∃ u, exec (.bar2Access p off n data) s = .next u ∧ u.mem = s.mem ∧ s.RegsBut u (fun _ => False) ∧
            u.reg 0x200C = s.reg 0x200C + 1)))) ∧
    (∀ (i : BitVec 2) (v : Word),
      (i = 3 → exec (.hiPartWrite p i v) s = .next s) ∧
      (i ≠ 3 → (s.idle x = false ∨ s.partBad x i.toNat v = true → exec (.hiPartWrite p i v) s = .next (s.orReg (0x7800C + 0x20 * x) (2 ^ 16))) ∧
        (s.idle x = true → s.partBad x i.toNat v = false →
          ∃ u, exec (.hiPartWrite p i v) s = .next u ∧ u = { s with regs := u.regs } ∧ (∀ k, k ≠ 0x78000 + 0x20 * x + 4 * i.toNat → u.reg k = s.reg k) ∧
            (i = 0 → u.rect x = ⟨fld v 0 5, fld v 8 5, fld v 16 5, fld v 24 6⟩) ∧ (i = 2 → u.qpBase x = fld v 0 9 ∧ u.qpNum x = fld v 16 10))))

/-- R592-R609: a command that passes its tests has its effect on its request, a refused one only its result code or its capture; commands wait their turn.
A batch is formed when a model may form one, and notified once its slot is written. The pool is initialised, ids are assigned and models enabled
where the rules allow it; an age stops at its limit. -/
def Obligations.ServingCommandsActOnTheirRequest : Prop :=
  ∀ (s : State) (p : BitVec 6) (src : Option (BitVec 16)) (w0 w1 a b : Word),
    let x := p.toNat
    let c : SvWords := ⟨w0, w1, a, b⟩
    let m := c.model
    let r := c.req
    let q := s.req x r
    let rows : List (Nat × Instr) :=
      [(1, .admitReq p src w0 w1 a b), (2, .start p src w0 w1 a b), (3, .token p src w0 w1 a b), (4, .hold p src w0 w1 a b),
       (5, .svResume p src w0 w1 a b), (6, .abort p src w0 w1 a b), (7, .release p src w0 w1 a b), (8, .setprio p src w0 w1 a b),
       (9, .select p src w0 w1 a b), (10, .flush p src w0 w1 a b)]
    let code := s.svTest x ((src.map (·.toNat)).getD 0) c
    let word (k : Nat) : Prop := k = svKey x 0x40 ∨ k = svKey x 0x44 ∨ k = svKey x 0x48 ∨ k = svKey x 0x4C ∨ k = svKey x 0x50
    let idle (n : Nat) : Prop := s.readyOf x n = []
    let calm : Prop := idle m ∧ 2 ≤ s.smBmax x m ∧ s.regFld (smKey x m 4) 0 16 ≠ 0
    let full : Prop := s.smDepth x m ≤ s.inFlight x m
    let kept (u : State) : Prop := (∀ j, j ≠ r → u.req x j = s.req x j) ∧ u.cores = s.cores ∧ u.svq = []
    (∀ e ∈ rows,
      (c.op ≠ e.1 → 1 ≤ c.op → c.op ≤ 10 → exec e.2 s = .next s) ∧
      (c.op = e.1 → s.svq = [] → code ≠ 0 →
        (src = none → ∃ u, exec e.2 s = .next u ∧ u = { s with regs := u.regs } ∧ (∀ k, ¬ word k → u.reg k = s.reg k) ∧ u.regFld (svKey x 0x50) 0 4 = code) ∧
        (∀ d, src = some d → ∃ u, exec e.2 s = .next u ∧ bit (u.reg (svKey x 0x54)) 0 = true ∧ bit (u.reg (svKey x 0x60)) 31 = true ∧
          (bit (s.reg (svKey x 0x60)) 31 = false → u.regFld (svKey x 0x60) 0 4 = code ∧ u.regFld (svKey x 0x60) 4 4 = e.1 ∧
            u.regFld (svKey x 0x60) 8 17 = r) ∧
          s.RegsBut u fun k => k = svKey x 0x54 ∨ k = svKey x 0x60 ∨ k = svKey x 0x64 ∨ k = svKey x 0x328 ∨ k = svKey x 0x32C)) ∧
      (∀ d : BitVec 16, src = some d → c.op = e.1 → s.svq ≠ [] → (⟨x, d.toNat, false, c.nats⟩ : SvCmd) ∉ s.svq →
        exec e.2 s = .next { s with svq := s.svq ++ [⟨x, d.toNat, false, c.nats⟩] })) ∧
    (s.svq = [] → code = 0 → s.regFld (smKey x m 0x18) 0 2 = 0 →
      (src = none → c.op = 1 → ∃ u, exec (.admitReq p src w0 w1 a b) s = .next u ∧ kept u ∧ u.svFree x = s.svFree x - s.pagesFor x m a.toNat ∧
        u.regFld (svKey x 0x50) 0 4 = 0 ∧
        u.req x r = { q with state := 1, model := m, prio := c.prio, flags := 0, len := a.toNat, maxlen := b.toNat, npages := s.pagesFor x m a.toNat,
                             gen := 0, user := c.user, fresh := false, capped := false }) ∧
      (c.op = 2 → calm ∨ full → ∃ u, exec (.start p src w0 w1 a b) s = .next u ∧ kept u ∧ u.mem = s.mem ∧ u.net = s.net ∧
        u.req x r = { q with state := 2, tlast := s.nowUs, capped := false, last := a.toNat, fresh := true }) ∧
      (c.op = 3 → (q.state ≠ 3 ∨ q.seq ≠ b.toNat) → ∃ u, exec (.token p src w0 w1 a b) s = .next u ∧ (∀ j, u.req x j = s.req x j) ∧ u.mem = s.mem ∧
        u.net = s.net ∧ s.RegsBut u fun k => word k ∨ k = svKey x 0x330 ∨ k = svKey x 0x334) ∧
      (c.op = 3 → q.state = 3 → q.seq = b.toNat → calm →
        let len := (q.len + 1) % 2 ^ 24
        ∃ u, exec (.token p src w0 w1 a b) s = .next u ∧ kept u ∧ u.mem = s.mem ∧ (u.req x r).len = len ∧ (u.req x r).gen = (q.gen + 1) % 2 ^ 24 ∧
          (u.req x r).last = a.toNat ∧ (u.req x r).seq = q.seq ∧
          (u.req x r).state = (if c.prio = 1 ∨ len = q.maxlen ∨ q.flag 4 = true then 5 else if q.flag 5 = true then 4 else 2) ∧
          (c.prio = 1 → (u.req x r).flag 0 = true) ∧ (c.prio ≠ 1 → len = q.maxlen → (u.req x r).flag 1 = true) ∧
          (∀ e, s.batchOf x m q.seq = some e → e.await = 1 → e.members.length = e.count → u.batches = s.batches.erase e)) ∧
      (c.op = 4 → ∃ u, exec (.hold p src w0 w1 a b) s = .next u ∧ kept u ∧ u.mem = s.mem ∧ u.net = s.net ∧
        u.req x r = (if q.state = 2 then { q with state := 4 } else q.setFlag 5 true)) ∧
      (c.op = 5 → calm ∨ full → ∃ u, exec (.svResume p src w0 w1 a b) s = .next u ∧ kept u ∧ u.mem = s.mem ∧ u.net = s.net ∧
        u.req x r = { q with state := 2, tlast := s.nowUs, capped := false }) ∧
      (c.op = 6 → ∃ u, exec (.abort p src w0 w1 a b) s = .next u ∧ kept u ∧ u.mem = s.mem ∧
        (q.state = 3 → u.req x r = q.setFlag 4 true ∧ u.net = s.net) ∧
        (q.state ≠ 3 → (u.req x r).state = 5 ∧ (u.req x r).flag 2 = true ∧ (u.req x r).len = q.len ∧ ∃ y, u.net = s.net ++ [y])) ∧
      (c.op = 7 → (∀ n, n < 8 → idle n) → s.svFree x + q.npages < 2 ^ 25 → ∃ u, exec (.release p src w0 w1 a b) s = .next u ∧ kept u ∧
        u.svFree x = s.svFree x + q.npages ∧ u.req x r = { q with state := 0, flags := 0, npages := 0 }) ∧
      (c.op = 8 → ∃ u, exec (.setprio p src w0 w1 a b) s = .next u ∧ kept u ∧ u.mem = s.mem ∧ u.net = s.net ∧ u.req x r = { q with prio := c.prio }) ∧
      (c.op = 9 → ∃ u, exec (.select p src w0 w1 a b) s = .next u ∧ kept u ∧ (u.req x r).state = 3 ∧ (u.req x r).seq = a.toNat ∧
        (s.batchOf x m a.toNat = none → u.batches = s.batches ++ [⟨x, m, a.toNat, fld b 0 16, [r], 1, false⟩])) ∧
      (c.op = 10 → idle m → (∀ e ∈ s.batches, e.part ≠ x ∨ e.model ≠ m) → ∃ u, exec (.flush p src w0 w1 a b) s = .next u ∧ (∀ j, u.req x j = s.req x j) ∧
        u.mem = s.mem ∧ u.batches = s.batches) ∧
      (c.op = 10 → ∀ e y, calm → s.batches = [e] → e.part = x → e.model = m → e.members = [y] → (s.req x y).state = 3 → (s.req x y).model = m →
        (s.req x y).seq = e.seq → ∃ u, exec (.flush p src w0 w1 a b) s = .next u ∧ u.batches = [] ∧ u.mem = s.mem ∧
          (u.req x y).state = (if (s.req x y).flag 4 = true then 5 else if (s.req x y).flag 5 = true then 4 else 2) ∧ ∀ j, j ≠ y → u.req x j = s.req x j)) ∧
    (∀ n : BitVec 3,
      let k := n.toNat
      (s.mayForm x k = false → exec (.fillTimeout p n) s = .next s) ∧
      (∀ y z t o, s.mayForm x k = true → s.readyOf x k = [(y, z)] → s.req x y = z → s.pagesFor x k (z.len + 1) ≤ z.npages →
        let seq := (s.reg (smKey x k 0x24)).toNat
        s.Plain x (s.slotAddr x k seq) 64 t o →
        ∃ u, exec (.fillTimeout p n) s = .next u ∧ u.batches = s.batches ++ [⟨x, k, seq, 1, [y], 1, false⟩] ∧ (u.req x y).state = 3 ∧
          (u.req x y).seq = seq ∧ (u.req x y).fresh = false ∧ (∀ j, j ≠ y → u.req x j = s.req x j) ∧ u.net = s.net ∧ u.cores = s.cores ∧
          u.reg (smKey x k 0x24) = s.reg (smKey x k 0x24) + 1 ∧
          u.mem = Map.setN byte0 s.mem (memIdx t o) (s.batchHeader x k seq 1 ++ s.batchEntry x y false)) ∧
      ((∀ e ∈ s.batches, e.part = x → e.model = k → e.sent = true ∨ e.members.length ≠ e.count) → exec (.batchNotify p n) s = .next s) ∧
      (∀ e l, s.batches = e :: l → e.part = x → e.model = k → e.sent = false → e.members.length = e.count → e ∉ l → s.regFld (smKey x k 0x18) 0 2 = 0 →
        ∃ u f, exec (.batchNotify p n) s = .next u ∧ u.batches = { e with sent := true } :: l ∧ u.net = s.net ++ [.msg f] ∧ f.part = x ∧
          f.dst = (s.reg (smKey x k 8)).toNat ∧ f.ch = s.regFld (smKey x k 12) 0 12 ∧
          f.payload = [1 + 16 * k + 256 * (e.seq % s.smDepth x k), e.seq, e.count, 0].flatMap (leBytes 4) ∧ u.mem = s.mem ∧ u.cores = s.cores) ∧
      (∀ v : Word,
        let key := smKey x k 0
        let new := s.putCode key v
        (s.smEn x k = false → bit v 0 = false → exec (.svModelEnable p n v) s = .next new) ∧
        (s.smEn x k = false → bit v 0 = true → (new.clrReg key 1).smOk x k = false → exec (.svModelEnable p n v) s = .next ((new.clrReg key 1).svCfgErr x)) ∧
        (s.smEn x k = false → bit v 0 = true → (new.clrReg key 1).smOk x k = true → s.readyOf x k = [] →
          ∃ u, exec (.svModelEnable p n v) s = .next u ∧ u = { s with regs := u.regs } ∧ u.smEn x k = true ∧ ∀ j, j ≠ key → u.reg j = s.reg j) ∧
        (s.smEn x k = true → bit v 0 = false → s.inFlight x k = 0 → ∃ u, exec (.svModelEnable p n v) s = .next u ∧ u = { s with regs := u.regs } ∧
          u.smEn x k = false ∧ ∀ j, j ≠ key → j ≠ svKey x 4 → u.reg j = s.reg j))) ∧
    (s.allFree (s.svBase x) (s.svNum x) = false ∨ s.poolOk x = false → exec (.svInit p) s = .next (s.svCfgErr x)) ∧
    (s.allFree (s.svBase x) (s.svNum x) = true → s.poolOk x = true → ∃ u, exec (.svInit p) s = .next u ∧ u.svFree x = s.regFld (svKey x 0x18) 0 25 ∧
      bit (u.reg (svKey x 4)) 1 = true ∧ u.cores = s.cores ∧ u.reqs = s.reqs) ∧
    (∀ (num : Bool) (v : Word),
      let k := svKey x (if num = true then 12 else 8)
      let s' := s.putCode k v
      let clash : Prop := ∃ y, y < 64 ∧ y ≠ x ∧ s'.regFld (svKey x 12) 0 17 ≠ 0 ∧ s.regFld (svKey y 12) 0 17 ≠ 0 ∧
        overlaps (s'.regFld (svKey x 8) 0 16, s'.regFld (svKey x 12) 0 17) (s.regFld (svKey y 8) 0 16, s.regFld (svKey y 12) 0 17) = true
      let taken : Prop := s.allFree (s.svBase x) (s.regFld (svKey x 12) 0 17) = false ∨ s.allFree (s'.svBase x) (s'.regFld (svKey x 12) 0 17) = false
      (clash ∨ taken → exec (.svPartWrite p num v) s = .next (s.svCfgErr x)) ∧ (¬ clash → ¬ taken → exec (.svPartWrite p num v) s = .next s')) ∧
    (∀ y : BitVec 17,
      let z := s.req x y.toNat
      (s.svNum x ≤ y.toNat ∨ z.state ≠ 2 ∨ s.age z < 2 ^ 31 → exec (.tlastAgeLimit p y) s = .next s) ∧
      (y.toNat < s.svNum x → z.state = 2 → s.age z = 2 ^ 31 → s.smDepth x z.model ≤ s.inFlight x z.model →
        exec (.tlastAgeLimit p y) s = .next (s.setReq x y.toNat { z with tlast := (s.nowUs + 2 ^ 31) % 2 ^ 32, capped := true })))

/-- R616-R631, R640: a Dictionary request is performed in its turn and answered by the transport it came by: a READ with the value, a DESCRIBE with the
descriptor, a NEXT with the next object, a refused one with its status; a repeated one gets the kept response. A WRITE of a persistent object
waits for flash. GO queues the request in a mailbox. -/
def Obligations.DictionaryRequestsAreAnswered : Prop :=
  ∀ (s : State) (r : DapReq),
    let q := parseDap r.bytes
    let p := r.src.view q
    let k := objKey q.idx q.sub
    let rows : List (Nat × Instr) := [(1, .dapRead r), (2, .dapWrite r), (3, .dapDescribe r), (4, .dapNext r)]
    let arrives : Prop := s.dapq = [] ∧ s.dapWrite = none ∧ r.src.net ≠ none
    let fresh : Prop := arrives ∧ s.dapLevel r.src ≠ 0 ∧ s.kept r.src q.tid = none
    let sent (b : List Byte) (u : State) : Prop := match r.src with
      | .eth ip port => u.out = s.out ++ [.udp ip port b]
      | .mctp eid tag => u.out = s.out ++ [.mctp eid tag (beBytes 2 0x1F6D ++ [0x44] ++ b)]
      | .fabric w => u.net = s.net ++ [.wyn (w.answer s.devId 0 b)]
      | .mbx _ => False
    let answered (status : Nat) (d : List Byte) (u : State) : Prop :=
      sent (q.response status d) u ∧ u.kept r.src q.tid = some (q.response status d) ∧ u.mem = s.mem ∧ u.cores = s.cores
    (∀ e ∈ rows,
      (q.op ≠ e.1 → 1 ≤ q.op → q.op ≤ 4 → arrives → exec e.2 s = .next s) ∧
      (s.dapq.head? = some r → s.dapWrite ≠ none → exec e.2 s = .next s) ∧
      (∀ l, s.dapq = r :: l → s.dapWrite = none → q.op = e.1 → exec e.2 s = .next ({ s with dapq := l }.dapPerform r)) ∧
      (s.dapq ≠ [] → r ∉ s.dapq → r.src.net ≠ none → s.dapq.length < 16 →
        ∃ u, exec e.2 s = .next u ∧ u.dapq = s.dapq ++ [r] ∧ u.out = s.out ∧ u.mem = s.mem ∧ u.cores = s.cores ∧ u.objs = s.objs) ∧
      (q.op = e.1 → arrives → s.dapLevel r.src = 0 → exec e.2 s = .next { s with dapDrop := s.dapDrop + 1 }) ∧
      (∀ b, q.op = e.1 → arrives → s.dapLevel r.src ≠ 0 → s.kept r.src q.tid = some b → ∃ u, exec e.2 s = .next u ∧ sent b u ∧ u.objs = s.objs ∧
        u.regs = s.regs) ∧
      (q.op = e.1 → fresh → s.dapStatus r.src q ≠ 0 → q.op ≠ 2 → ∃ u, exec e.2 s = .next u ∧ answered (s.dapStatus r.src q) [] u ∧ u.regs = s.regs ∧
        u.objs = s.objs)) ∧
    (fresh → s.dapStatus r.src q = 0 →
      (∀ o, q.op = 1 → q.sub ≠ 0 → s.viewObj p q.idx q.sub = some o → o.typ ≠ 11 → o.typ ≠ 12 →
        ∃ u, exec (.dapRead r) s = .next u ∧ sent (q.response 0 (beBytes o.size (s.numValue p q.idx q.sub).2)) u ∧ u.objs = s.objs) ∧
      (∀ o, q.op = 1 → q.sub ≠ 0 → s.viewObj p q.idx q.sub = some o → o.typ = 12 →
        ∃ u, exec (.dapRead r) s = .next u ∧ answered 0 (((s.longValue p q.idx q.sub).drop q.off).take 1024) u ∧ u.objs = s.objs ∧ u.regs = s.regs) ∧
      (∀ o, q.op = 3 → q.sub ≠ 0 → s.viewObj p q.idx q.sub = some o →
        ∃ u, exec (.dapDescribe r) s = .next u ∧ answered 0 (objDescriptor q.idx q.sub o) u ∧ u.objs = s.objs ∧ u.regs = s.regs) ∧
      (∀ i n, q.op = 4 → s.nextObj p q.idx q.sub = some (i, n) →
        ∃ u, exec (.dapNext r) s = .next u ∧ answered 0 (beBytes 2 i ++ [BitVec.ofNat 8 n]) u ∧ u.objs = s.objs ∧ u.regs = s.regs) ∧
      (∀ o, q.op = 2 → q.sub ≠ 0 → s.viewObj p q.idx q.sub = some o → o.typ ≠ 12 → o.acc = 3 ∨ k = objKey 0x183 1 →
        exec (.dapWrite r) s = .next { s with dapWrite := some ⟨r, k, q.data⟩ }) ∧
      (∀ o, q.op = 2 → q.sub ≠ 0 → s.viewObj p q.idx q.sub = some o → o.typ = 12 → q.last = false → q.off = 0 →
        ∃ u, exec (.dapWrite r) s = .next u ∧ answered 0 [] u ∧ u.asmOf k = some ⟨r.src.who.1, r.src.who.2, q.data⟩) ∧
      (q.op = 2 → q.idx = 0x1006 → q.sub = 1 →
        ∃ u, exec (.dapWrite r) s = .next u ∧ answered 0 [] u ∧ u.reg 0x2001C = (s.putCode 0x2001C (BitVec.ofNat 32 (beNat q.data))).reg 0x2001C ∧
          u.objs = s.objs) ∧
      (q.op = 2 → q.idx = 0x183 → q.sub = 1 → exec (.dictRestore r) s = .next { s with dapWrite := some ⟨r, objKey 0x183 1, q.data⟩ })) ∧
    (beAt r.bytes 4 2 ≠ 0x183 ∨ byteAt r.bytes 6 ≠ 1 → exec (.dictRestore r) s = .next s) ∧
    (∀ ok : Bool,
      (s.dapWrite = none → exec (.flashWriteDone ok) s = .next s) ∧
      (∀ v, s.dapWrite = some ⟨r, k, v⟩ → r.src.net ≠ none → s.kept r.src q.tid = none →
        (ok = false → ∃ u, exec (.flashWriteDone ok) s = .next u ∧ u.dapWrite = none ∧ answered 9 [] u ∧ u.objs = s.objs ∧ u.svc = s.svc) ∧
        (ok = true → k ∉ [objKey 0x183 1, objKey 0x7200 1, objKey 0x1001 1, objKey 0x1003 1] →
          ∃ u, exec (.flashWriteDone ok) s = .next u ∧ u.dapWrite = none ∧ answered 0 [] u ∧ u.objs = s.objs.set objReset k (beNat v) ∧
            u.svc = { s.svc with rwpWrites := s.svc.rwpWrites + 1 } ∧ u.repairRec = s.repairRec) ∧
        (ok = true → k = objKey 0x7200 1 → ∃ u, exec (.flashWriteDone ok) s = .next u ∧ u.dapWrite = none ∧ answered 0 [] u ∧
          u.repairRec = entries8 v ∧ u.objs = s.objs) ∧
        (ok = true → k = objKey 0x183 1 → ∃ u, exec (.flashWriteDone ok) s = .next u ∧ u.dapWrite = none ∧ u.repairRec = [] ∧
          (∀ j ∈ rwpKeys, u.objs.get objReset j = objReset j) ∧ u.objs.get objReset (objKey 0x110 1) = s.objs.get objReset (objKey 0x110 1)))) ∧
    (∀ obj : Nat, ∃ u, exec (.dapAssemblyTimeout obj) s = .next u ∧ u = { s with dapAsm := u.dapAsm } ∧ u.asmOf obj = none ∧
      ∀ j, j ≠ obj → u.asmOf j = s.asmOf j) ∧
    (∀ (f : BitVec 6) (v : Word),
      let st := fnKey f.toNat 0x8004
      let n := fld v 0 11
      let msg := ((List.range 260).flatMap fun i => leBytes 4 (s.reg (fnKey f.toNat (0x8800 + 4 * i))).toNat).take n
      (bit (s.reg st) 0 = true → ∃ u, exec (.go f v) s = .next u ∧ bit (u.reg st) 2 = true ∧ u = { s with regs := u.regs } ∧
        ∀ j, j ≠ st → j ≠ fnKey f.toNat 0x8000 → u.reg j = s.reg j) ∧
      (bit (s.reg st) 0 = false → (n < 16 ∨ 1040 < n ∨ n ≠ 16 + leAt msg 2 2) → ∃ u, exec (.go f v) s = .next u ∧ bit (u.reg st) 3 = true ∧
        u = { s with regs := u.regs } ∧ ∀ j, j ≠ st → j ≠ fnKey f.toNat 0x8000 → u.reg j = s.reg j) ∧
      (bit (s.reg st) 0 = false → 16 ≤ n → n ≤ 1040 → n = 16 + leAt msg 2 2 → ∃ u, exec (.go f v) s = .next u ∧ bit (u.reg st) 0 = true ∧
        bit (u.reg st) 1 = false ∧ u.dapq = s.dapq ++ [⟨.mbx f.toNat, msg⟩] ∧ u.mem = s.mem ∧ u.cores = s.cores ∧ u.out = s.out))

/-- R633-R636: MCTP control messages and the management Ethernet's address resolution and echoes are answered, each with its own response, and nothing else
of the device changes but the endpoint id that is set. Fields of the base standards are the model's (log entry 24). -/
def Obligations.ManagementPortsAnswer : Prop :=
  ∀ (s : State) (inst : BitVec 5),
    let mctp (s : State) (cmd code : Byte) (d : List Byte) : State :=
      { s with out := s.out ++ [.smbus ([0, inst.zeroExtend 8, cmd, code] ++ d)] }
    let eth (b : List Byte) : State := { s with out := s.out ++ [.mgmt b] }
    (∀ (op : BitVec 2) (eid : Byte),
      (2 ≤ op.toNat ∨ eid.toNat < 8 ∨ eid = 0xFF → exec (.setEndpointId inst op eid) s = .next (mctp s 1 2 [])) ∧
      (op.toNat < 2 → 8 ≤ eid.toNat → eid ≠ 0xFF → exec (.setEndpointId inst op eid) s = .next (mctp { s with mctpEid := eid.toNat } 1 0 [0, eid, 0]))) ∧
    exec (.getEndpointId inst) s = .next (mctp s 2 0 [BitVec.ofNat 8 s.mctpEid, 0, 0]) ∧
    exec (.getEndpointUuid inst) s = .next (mctp s 3 0 (beBytes 16 Config.uuid)) ∧
    (∀ typ : Byte,
      (typ ∈ [0xFF, 0, 0x7E] → exec (.getMctpVersionSupport inst typ) s = .next (mctp s 4 0 (1 :: beBytes 4 Config.mctpVersion))) ∧
      (typ ∉ [0xFF, 0, 0x7E] → exec (.getMctpVersionSupport inst typ) s = .next (mctp s 4 0x80 []))) ∧
    exec (.getMessageTypeSupport inst) s = .next (mctp s 5 0 [1, 0x7E]) ∧
    (∀ sel : Byte,
      (sel ≠ 0 → exec (.getVendorDefinedMessageSupport inst sel) s = .next (mctp s 6 2 [])) ∧
      (sel = 0 → ∃ u w, exec (.getVendorDefinedMessageSupport inst sel) s = .next u ∧ u = { s with out := u.out, freeCtr := u.freeCtr } ∧
        u.out = (mctp s 6 0 ([0xFF, 0, 0x1F, 0x6D] ++ beBytes 2 w)).out)) ∧
    (∀ (sha : BitVec 48) (spa tpa : BitVec 32),
      (tpa.toNat ≠ s.obj 0x180 2 ∨ tpa = 0 → exec (.arp sha spa tpa) s = .next s) ∧
      (tpa.toNat = s.obj 0x180 2 → tpa ≠ 0 → exec (.arp sha spa tpa) s = .next (eth ([0, 1, 8, 0, 6, 4, 0, 2] ++ mgmtMac ++ beBytes 4 tpa.toNat ++
        beBytes 6 sha.toNat ++ beBytes 4 spa.toNat)))) ∧
    (∀ src dst : BitVec 128,
      let mine : Prop := dst.toNat = linkLocal ∨ (dst ≠ 0 ∧ dst.toNat = s.mgmtIp6)
      (¬ mine → exec (.neighbourDiscovery src dst) s = .next s) ∧
      (mine → ∃ b, exec (.neighbourDiscovery src dst) s = .next (eth b) ∧ b.take 2 = [136, 0] ∧
        b.drop 4 = [0x60, 0, 0, 0] ++ beBytes 16 dst.toNat ++ [2, 1] ++ mgmtMac) ∧
      ∀ body : List Byte,
        (¬ mine → exec (.echo true src dst body) s = .next s) ∧
        (mine → ∃ b, exec (.echo true src dst body) s = .next (eth b) ∧ b.take 2 = [129, 0] ∧ b.drop 4 = body) ∧
        (dst = 0 ∨ dst.toNat ≠ s.obj 0x180 2 → exec (.echo false src dst body) s = .next s) ∧
        (dst ≠ 0 → dst.toNat = s.obj 0x180 2 → ∃ b, exec (.echo false src dst body) s = .next (eth b) ∧ b.take 2 = [0, 0] ∧ b.drop 4 = body))

/-- R648-R658, R675, R677: an entry row of a cluster, a die or the device fires only where its conditions hold and starts its transition; a wake row
starts one where the unit is deeper; a transition that completes leaves its state. CLMAX wakes what is too deep. A swap of the power-state table
exchanges its banks, a copy fills the shadow. -/
def Obligations.PowerStatesFollowTheirTable : Prop :=
  ∀ (s : State) (cl : Nat) (d : BitVec 2),
    let die := d.toNat
    let up := clusterDie cl
    let dev := s.regFld 0x20000 0 2
    let tr (row unit : Nat) : Trans := ⟨row, unit, s.devBank 1, false⟩
    let quiet (u : State) : Prop := u.mem = s.mem ∧ u.cores = s.cores ∧ u.net = s.net
    let power (u : State) : Prop := quiet u ∧ u = { s with regs := u.regs, trans := u.trans }
    let woken (t : Trans) : Trans := if rowLevel t.row = 0 ∧ t.unit = cl then { t with wake := true } else t
    let enters (row : Nat) : Prop := cl < 640 ∧ s.clState cl = row ∧ s.moving 0 cl = none ∧ s.rowOn row = true ∧ row < s.clmax cl ∧ s.clIdle cl = true
    let entered (u : State) (row : Nat) : Prop :=
      u.trans = s.trans ++ [tr row cl] ∧ u.clState cl = row + 1 ∧ (∀ y, y < 640 → y ≠ cl → u.clState y = s.clState y) ∧ u.mem = s.mem
    (¬ enters 0 → exec (.clusterC0ToC1 cl) s = .next s) ∧ (¬ enters 1 → exec (.clusterC1ToC2 cl) s = .next s) ∧
    (¬ enters 2 → exec (.clusterC2ToC3 cl) s = .next s) ∧
    (enters 0 → ∃ u, exec (.clusterC0ToC1 cl) s = .next u ∧ power u ∧ entered u 0) ∧
    (enters 1 → ∃ u, exec (.clusterC1ToC2 cl) s = .next u ∧ power u ∧ entered u 1) ∧
    (enters 2 → ∃ u, exec (.clusterC2ToC3 cl) s = .next u ∧ entered u 2 ∧
      (∀ i, i < 16 → u.core (clusterCore cl i) = if s.isFenced (clusterCore cl i) = true then Core.reset.setRs 4 else Core.reset) ∧
      ∀ c, coreCluster c ≠ cl → u.core c = s.core c) ∧
    (let rows : List (Nat × Instr) := [(1, .clusterC1ToC0 cl), (2, .clusterC2ToC0 cl), (3, .clusterC3ToC0 cl)]
     ∀ e ∈ rows,
      (s.clState cl ≠ e.1 → exec e.2 s = .next s) ∧
      (s.clState cl = e.1 → cl < 640 → (e.1 = 3 → s.clmax cl ≤ 2) →
        (s.moving 0 cl = none → s.dieState up ≠ 2 →
          ∃ u, exec e.2 s = .next u ∧ power u ∧ u.trans = s.trans ++ [tr (2 + e.1) cl] ∧ ∀ y, y < 640 → u.clState y = s.clState y) ∧
        (∀ t, s.moving 0 cl = some t → 3 ≤ t.row → exec e.2 s = .next s) ∧
        (∀ t, s.moving 0 cl = some t → t.row < 3 → exec e.2 s = .next { s with trans := s.trans.map woken }))) ∧
    (s.clState cl = 3 → 2 < s.clmax cl → exec (.clusterC3ToC0 cl) s = .next s) ∧
    (let sleeps : Prop := s.dieState die = 1 ∧ s.moving 1 die = none ∧ s.rowOn 8 = true ∧ s.xfwd = false ∧
       ∀ y ∈ dieClusters die, 2 ≤ s.clState y ∧ s.moving 0 y = none
     (¬ sleeps → exec (.dieDiToDs d) s = .next s) ∧
     (sleeps → ∃ u, exec (.dieDiToDs d) s = .next u ∧ power u ∧ u.trans = s.trans ++ [tr 8 die] ∧ u.dieState die = 2 ∧ u.regFld 0x20000 0 2 = dev)) ∧
    (s.dieState die ≠ 2 → exec (.dieDsToDi d) s = .next s) ∧
    (s.dieState die = 2 → s.moving 1 die = none → s.moving 2 0 = none →
      (dev = 0 → ∃ u, exec (.dieDsToDi d) s = .next u ∧ power u ∧ u.trans = s.trans ++ [tr 9 die] ∧ u.dieState die = 2) ∧
      (dev = 2 → ∃ u, exec (.dieDsToDi d) s = .next u ∧ power u ∧ u.trans = s.trans ++ [tr 9 die, tr 13 0])) ∧
    (let falls : Prop := dev = 0 ∧ s.moving 2 0 = none ∧ s.rowOn 10 = true ∧ ∀ y, y < 4 → s.dieState y = 2
     let sinks : Prop := dev = 1 ∧ s.moving 2 0 = none ∧ s.rowOn 12 = true ∧ bit (s.reg 0x20000) 10 = true
     (¬ falls → exec .deviceP0ToP1 s = .next s) ∧ (¬ sinks → exec .deviceP1ToP2 s = .next s) ∧
     (falls → fld (s.pst 10 4) 0 3 = 0 → exec .deviceP0ToP1 s = .next { s.setRegFld 0x20000 0 2 1 with pwrHeld := 0 }) ∧
     (falls → ∃ u, exec .deviceP0ToP1 s = .next u ∧ u.regFld 0x20000 0 2 = 1 ∧ u.pwrHeld = fld (s.pst 10 4) 0 3 ∧ u.cores = s.cores) ∧
     (sinks → fld (s.pst 12 4) 0 3 = 0 → exec .deviceP1ToP2 s = .next { s with trans := s.trans ++ [tr 12 0] }) ∧
     (sinks → ∃ u, exec .deviceP1ToP2 s = .next u ∧ u.regFld 0x20000 0 2 = 1 ∧ u.trans = s.trans ++ [tr 12 0] ∧
       u.pwrHeld = s.pwrHeld ||| fld (s.pst 12 4) 0 3 ∧ u.cores = s.cores)) ∧
    (dev ≠ 2 → exec .deviceP2ToP0 s = .next s) ∧
    (dev = 2 → s.moving 2 0 = none → exec .deviceP2ToP0 s = .next { s with trans := s.trans ++ [tr 13 0] }) ∧
    (exec .standby s = .next (s.orReg 0x20000 (2 ^ 10))) ∧
    (s.moving 2 0 = none →
      (dev = 0 → exec .active s = .next (s.clrReg 0x20000 (2 ^ 10))) ∧
      (dev = 1 → ∃ u, exec .active s = .next u ∧ quiet u ∧ u.regFld 0x20000 0 2 = 0 ∧ u.pwrHeld = 0 ∧ bit (u.reg 0x20000) 10 = false) ∧
      (dev = 2 → exec .active s = .next { s.clrReg 0x20000 (2 ^ 10) with trans := s.trans ++ [tr 13 0] })) ∧
    (∀ (row : BitVec 4) (unit b : Nat),
      let r := row.toNat
      ((∀ t ∈ s.trans, t.row ≠ r ∨ t.unit ≠ unit) → exec (.powerTransitionComplete row unit) s = .next s) ∧
      (s.trans = [⟨r, unit, b, false⟩] →
        (r < 3 → s.clState unit ≤ s.clmax unit → exec (.powerTransitionComplete row unit) s = .next { s with trans := [] }) ∧
        ((r = 3 ∨ r = 4) → unit < 640 → s.dieState (clusterDie unit) ≠ 2 → ∃ u, exec (.powerTransitionComplete row unit) s = .next u ∧ power u ∧
          u.trans = [] ∧ u.clState unit = 0 ∧ u.dieState (clusterDie unit) = 0 ∧ ∀ y, y < 640 → y ≠ unit → u.clState y = s.clState y) ∧
        (r = 5 → unit < 640 → s.dieState (clusterDie unit) ≠ 2 → ∃ u, exec (.powerTransitionComplete row unit) s = .next u ∧ u.trans = [] ∧
          u.clState unit = 0 ∧ u.mem = s.mem ∧ ∀ c, (u.core c).spad = (s.core c).spad ∧ (u.core c).csr = (s.core c).csr ∧ (u.core c).regs = (s.core c).regs) ∧
        (r = 8 → exec (.powerTransitionComplete row unit) s = .next { s with trans := [] }) ∧
        (r = 9 → unit < 4 → ∃ u, exec (.powerTransitionComplete row unit) s = .next u ∧ power u ∧ u.trans = [] ∧
          u.dieState unit = (if ∃ y ∈ dieClusters unit, s.clState y = 0 then 0 else 1)) ∧
        (r = 12 → ∃ u, exec (.powerTransitionComplete row unit) s = .next u ∧ quiet u ∧ u.trans = [] ∧ u.regFld 0x20000 0 2 = 2 ∧
          bit (u.reg 0x20000) 10 = false ∧ u.pwrHeld = fld (s.reg (bankKey b 0x20164)) 0 3 ∧ bit (u.reg 0x20050) 4 = true) ∧
        (r = 13 → dev = 2 → ∃ u, exec (.powerTransitionComplete row unit) s = .next u ∧ quiet u ∧ u.trans = [] ∧ u.regFld 0x20000 0 2 = 0 ∧
          u.pwrHeld = 0 ∧ bit (u.reg 0x20050) 5 = true))) ∧
    (exec .pwrSwapPst s = .next { s with devAct := s.devAct.set nat0 1 (1 - s.devBank 1) }) ∧
    ((∃ t ∈ s.trans, t.bank ≠ s.devBank 1) → exec .pwrSwapCopy s = .next (s.orReg 0x20060 (2 ^ 16))) ∧
    ((∀ t ∈ s.trans, t.bank = s.devBank 1) → s.devBank 1 ≤ 1 → ∃ u, exec .pwrSwapCopy s = .next u ∧ u = { s with regs := u.regs } ∧
      (∀ k ∈ pstKeys, u.reg (bankKey (1 - s.devBank 1) k) = s.reg (bankKey (s.devBank 1) k)) ∧
      ∀ k, (∀ j ∈ pstKeys, k ≠ bankKey (1 - s.devBank 1) j) → u.reg k = s.reg k) ∧
    (∀ (w : Nat) (v : Word),
      (40 ≤ w → exec (.clmaxWrite w v) s = .next s) ∧
      (w < 40 → ∃ u, exec (.clmaxWrite w v) s = .next u ∧ u.reg (0x20200 + 4 * w) = v ∧ quiet u) ∧
      (w < 40 → (∀ i, i < 16 → s.clState (16 * w + i) ≤ fld v (2 * i) 2) → exec (.clmaxWrite w v) s = .next (s.setReg (0x20200 + 4 * w) v)) ∧
      (∃ u, exec (.clmaxBc v) s = .next u ∧ quiet u ∧
        (∀ y, y < 640 → bit v (4 + clusterDie y) = true → u.clmax y = fld v 0 2) ∧
        (∀ y, y < 640 → bit v (4 + clusterDie y) = false → u.clmax y = s.clmax y)))

/-- R25-R27, R645-R647, R659-R670, R679: a governor period steps the clock or the duty and notes its readings; a trip is fatal; a PLL's loss and relock are
noted; the Shepherd clock follows its work; a claim takes the highest priority and a completion gives it back; a pin's level drives its line. A lane
error is counted, a retraining takes worn lanes out and settles the link's width. -/
def Obligations.GovernorClocksEventsAndLinksActAsTheRulesSay : Prop :=
  ∀ s : State,
    let told (u : State) (may : Nat → Prop) : Prop := s.RegsBut { u with freeCtr := s.freeCtr } may
    (∀ (power t : BitVec 16) (dies xdies : List (BitVec 16)),
      let f := s.regFld 0x20018 0 11
      let duty := s.regFld 0x20018 16 5
      let least := min 16 (max 1 (s.regFld 0x2001C 16 5))
      let cap := 8 * s.regFld 0x20010 0 10
      let fmax := s.regFld 0x20014 0 11
      let hot : Prop := 16 * (s.regFld 0x20020 0 8 : Int) ≤ t.toInt
      let cool : Prop := t.toInt < 16 * (s.regFld 0x20020 0 8 : Int) - 32 ∧ power.toNat + 8 * s.regFld 0x2001C 8 8 < cap
      t ∈ dies ++ xdies → (∀ y ∈ dies ++ xdies, y.toInt ≤ t.toInt) → dies.length = 4 → xdies.length = s.fuse.xdies.length →
        t.toInt < 105 * 16 → f ≤ fmax → fmax ≤ 1000 → duty ≤ 16 →
        ∃ u, exec (.governorPeriod power dies xdies) s = .next u ∧ u.mem = s.mem ∧ u.cores = s.cores ∧ u.net = s.net ∧
          u.reg 0x20024 = power.zeroExtend 32 ∧ u.reg 0x20028 = t.zeroExtend 32 ∧ (u.reg 0x20010).toNat % 2 ^ 10 = s.obj 0x1000 1 % 2 ^ 10 ∧
          u.regFld 0x20018 0 11 = (if hot ∨ cap < power.toNat then (if 450 < f then max 450 (f - 25) else f)
            else if cool ∧ 16 ≤ duty ∧ f < fmax then min fmax (f + 25) else f) ∧
          u.regFld 0x20018 16 5 = (if hot ∨ cap < power.toNat then (if ¬ 450 < f ∧ least < duty then duty - 1 else duty)
            else if cool ∧ duty < 16 then duty + 1 else duty)) ∧
    (∃ u, exec .thermalTrip s = .next u ∧ u.thermtrip = true ∧ u.hourTrips = s.hourTrips + 1 ∧ bit (u.reg 0x2004) 0 = true ∧
      u.reg 0x200C = s.reg 0x200C + 1 ∧ u.mem = s.mem ∧ u.cores = s.cores) ∧
    (∀ d : BitVec 2,
      let n := d.toNat
      (s.dieState n = 2 ∨ s.pllLost.testBit n = true → exec (.pllLoss d) s = .next s) ∧
      (s.dieState n ≠ 2 → s.pllLost.testBit n = false → ∃ u, exec (.pllLoss d) s = .next u ∧ u = { s with regs := u.regs, pllLost := s.pllLost + 2 ^ n } ∧
        (s.pllLost < 16 → u.pllLost.testBit n = true) ∧ ∀ c, coreDie c = n → u.clocked c = false) ∧
      (∀ ok, s.pllLost.testBit n = false → exec (.pllRelock d ok) s = .next s) ∧
      (s.pllLost.testBit n = true → (∃ u, exec (.pllRelock d true) s = .next u ∧ u.pllLost = s.pllLost - 2 ^ n ∧ bit (u.reg 0x20050) 6 = true ∧
          u.reg 0x200C = s.reg 0x200C + 1 ∧ told { u with pllLost := s.pllLost } (fun k => k = 0x20050)) ∧
        ∃ u, exec (.pllRelock d false) s = .next u ∧ bit (u.reg 0x2004) 0 = true ∧ u.pllLost = s.pllLost ∧ u.mem = s.mem ∧ u.cores = s.cores)) ∧
    (exec .shepherdIdleExpiry s = .next (if s.shpWork = true then s else s.clrReg 0x1008 1)) ∧
    (exec .shepherdPllLocked s = .next (if s.shpWork = true ∧ bit (s.reg 0x1008) 0 = false then s.orReg 0x1008 1 else s)) ∧
    (s.evcBest = none → exec .evcClaim s = .next { s with out := s.out ++ [.claim 0x3FF] }) ∧
    (∀ n, s.evcBest = some n → n < 512 ∧ ∃ u, exec .evcClaim s = .next u ∧ u.out = s.out ++ [.claim n] ∧ u.evcPend n = false ∧ u.evcActive n = true ∧
      u.evcClass.get nat0 n = s.evcPrio n >>> s.regFld 0x10600 0 3 ∧ (∀ j, j < 512 → j ≠ n → u.evcPend j = s.evcPend j ∧ u.evcActive j = s.evcActive j) ∧
      u = { s with regs := u.regs, evcClass := u.evcClass, out := u.out } ∧
      ∀ m, m < 512 → s.evcClaimable s.evcService m = true → s.evcPrio m < s.evcPrio n ∨ (s.evcPrio m = s.evcPrio n ∧ n ≤ m)) ∧
    (∀ n : BitVec 10,
      (512 ≤ n.toNat ∨ s.evcActive n.toNat = false → exec (.evcComplete n) s = .next (s.orReg 0x1060C 2)) ∧
      (n.toNat < 512 → s.evcActive n.toNat = true → ∃ u, exec (.evcComplete n) s = .next u ∧ u.evcActive n.toNat = false ∧
        u = { s with regs := u.regs, evcClass := u.evcClass } ∧ u.evcClass.get nat0 n.toNat = 0 ∧
        (∀ j, j < 512 → j ≠ n.toNat → u.evcActive j = s.evcActive j) ∧
        (s.evcEdge n.toNat = false → s.evcLine n.toNat = true → u.evcPend n.toNat = true))) ∧
    (∀ (n : BitVec 3) (level : Bool),
      let k := 0x10700 + 4 * n.toNat
      let line := level == bit (s.reg k) 9
      s.regFld 0x20000 0 2 ≠ 2 → ∃ u, exec (.eventPin n level) s = .next u ∧ u = { s with regs := u.regs, pins := u.pins } ∧
        (s.pins < 256 → u.pins.testBit n.toNat = level) ∧ bit (u.reg k) 10 = line ∧
        (bit (s.reg k) 8 = true → line = true → bit (s.reg k) 10 = false → u.evcPend n.toNat = true) ∧
        ∀ j, j ≠ k → j ≠ 0x10400 → u.reg j = s.reg j) ∧
    (∀ j : BitVec 4,
      let n := j.toNat
      let k := linkKey n
      (12 ≤ n ∨ s.linkState n = 1 → exec (.retrain j) s = .next s) ∧
      (n < 12 → s.linkState n ≠ 1 → ∃ u, exec (.retrain j) s = .next u ∧ s.RegsBut u (fun i => i = k) ∧ u.linkState n = 1 ∧ bit (u.reg k) 16 = true) ∧
      (∀ ba lane flits,
        let e := ((s.plink n).err ba).get nat0 lane
        (∀ fourth, 12 ≤ n ∨ linkData n + 2 ≤ lane → exec (.nak j ba lane flits fourth) s = .next s) ∧
        (n < 12 → lane < linkData n + 2 →
          (∀ fourth, ∃ u, exec (.nak j ba lane flits fourth) s = .next u ∧ ((u.plink n).err ba).get nat0 lane = min (2 ^ 32 - 1) (e + 1) ∧
            (u.plink n).out ba = (s.plink n).out ba ∧ s.RegsBut { u with plinks := s.plinks } (fun i => k ≤ i ∧ i < k + 0x20)) ∧
          (∃ u, exec (.nak j ba lane flits true) s = .next u ∧ u.linkState n = 1) ∧
          (s.regFld (k + 4) 0 8 = 0 ∨ e + 1 < s.regFld (k + 4) 0 8 → ∃ u, exec (.nak j ba lane flits false) s = .next u ∧ u.linkState n = s.linkState n))) ∧
      (∀ fa fb, 12 ≤ n ∨ s.linkState n ≠ 1 → exec (.retrainingComplete j fa fb) s = .next s) ∧
      (n < 12 → s.linkState n = 1 → (s.plink n).outAB = [] → (s.plink n).outBA = [] → s.regFld (k + 4) 0 8 = 0 →
        (∃ u, exec (.retrainingComplete j [] []) s = .next u ∧ u.linkState n = 2 ∧ u.plink n = PLink.reset ∧ told { u with plinks := s.plinks } (fun i => i = k)) ∧
        (∀ lane, lane < linkData n + 2 → s.obj 0x7010 2 ≠ 1 → ∃ u, exec (.retrainingComplete j [lane] []) s = .next u ∧ u.linkState n = 2 ∧
          (u.plink n).outAB = [lane] ∧ (u.plink n).outBA = [] ∧ (u.plink n).errAB = [] ∧ u.reg 0x200C = s.reg 0x200C + 1 ∧ u.repairRec = s.repairRec) ∧
        (s.obj 0x7010 1 ≠ 1 → ∃ u, exec (.retrainingComplete j [0, 1, 2] []) s = .next u ∧ u.linkState n = 3 ∧ bit (u.reg 0x2004) 0 = bit (s.reg 0x2004) 0 ∧
          ∀ d, d < 4 → n ∈ dieLinks d → u.laneFault d = true))) ∧
    (∀ a b, a < 4 → b < 4 → dieRoute a b = (if a % 2 = b % 2 then [] else [2 * (a / 2) + b % 2]) ++ (if a / 2 = b / 2 then [] else [b])) ∧
    (∀ rr l, physRow rr l ≠ rr ∧ (l < rr → physRow rr l = l) ∧ (rr ≤ l → physRow rr l = l + 1))

/-- R682-R692, R715: a package reset leaves fuses and flash and makes everything else as after reset; PERST# resets the host link and every function, or the
package; boot goes through its stages, chooses the slot with the higher SVN, ends in recovery where no slot may boot and stops where a stage fails; the
boot watchdog tries the other slot once. -/
def Obligations.ResetsAndBootGoThroughTheirStages : Prop :=
  ∀ s : State,
    let born (u : State) : Prop := u.fuse = s.fuse ∧ u.svc = s.svc ∧ u.objs = s.objs ∧ u.objsBoot = s.objs ∧ u.repairRec = s.repairRec ∧
      u.pending = s.pending ∧ u.mem = [] ∧ u.net = [] ∧ u.elog = [] ∧ u.regFld 0x2000 0 4 = 0 ∧ u.reg 0x2004 = 0 ∧ (∀ c, u.core c = Core.reset) ∧
      (∀ e ∈ resetValues, u.reg e.1 = e.2) ∧ u.regFld 0x20014 0 11 = max 450 (min 1000 (s.obj 0x1001 1 / 25 * 25)) ∧ u.regFld 0x20018 16 5 = 16
    let stage := s.regFld 0x2000 0 4
    let slot (k : Nat) := s.svc.slots.get slot0 k
    let may (k : Nat) : Prop := ∃ v, slot k = some v ∧ s.svc.minSvn ≤ v
    let ownsNone : Prop := ∀ c, c < 256 → s.rdEn c = true → s.rdOwner c = false
    let boot (err : Byte) (bad : List Nat) (p : State → Prop) : Prop := ∃ u, exec (.bootStageComplete err bad) s = .next u ∧ p u
    (∃ u, exec .powerOn s = .next u ∧ born u ∧ u.out = s.out) ∧ (∃ u, exec .porstN s = .next u ∧ born u ∧ u.out = s.out) ∧
    (∃ u, exec .powerLoss s = .next u ∧ born u ∧ u.out = s.out) ∧ (∃ u, exec .packageResetObject s = .next u ∧ born u) ∧
    (∀ v : Word, (v = 0x5A5A → ∃ u, exec (.shpRst v) s = .next u ∧ born u) ∧
      (v ≠ 0x5A5A → ∃ u, exec (.shpRst v) s = .next u ∧ s.RegsBut u (fun _ => False) ∧ u.reg 0x200C = s.reg 0x200C + 1)) ∧
    (s.regFld 0xA8000 0 16 ≠ 0 → s.devId ≠ 0 → bit (s.reg 0xA8010) 31 = true →
      ∃ u f, exec .packageResetObject s = .next u ∧ .lastFrame f ∈ u.out ∧ f.cls = 7 ∧ f.sub = 3 ∧ f.dst = devAddr (s.regFld 0xA8010 0 16)) ∧
    (s.obj 0x140 1 = 1 → ∃ u, exec .perst s = .next u ∧ born u) ∧
    (s.obj 0x140 1 ≠ 1 → ∃ u, exec .perst s = .next u ∧ u.fns = [] ∧ u.hostLink = none ∧ (ownsNone → u.mem = s.mem) ∧ u.svc = s.svc ∧ u.objs = s.objs ∧
      (s.apply 0 = none → u.stepOpen 0 = false) ∧ ∀ k, s.qpBase 0 ≤ k → k < s.qpBase 0 + s.qpNum 0 → u.hq k = HostQ.reset) ∧
    (∀ (err : Byte) (bad : List Nat),
      (bit (s.reg 0x2000) 5 = true ∨ stage = 15 ∨ (stage = 8 ∧ bit (s.reg 0x2004) 0 = true) → exec (.bootStageComplete err bad) s = .next s) ∧
      (bit (s.reg 0x2000) 5 = false →
        (stage = 0 →
          (s.svc.provs < s.svc.unlocks → boot err bad fun u => u.regFld 0x2000 0 4 = 1 ∧ bit (u.reg 0x2000) 5 = true ∧ u.regFld 0x2000 8 8 = 7) ∧
          (s.svc.unlocks ≤ s.svc.provs →
            (∀ k, k < 2 → may k → (may (1 - k) → (slot (1 - k)).getD 0 < (slot k).getD 0 ∨ ((slot (1 - k)).getD 0 = (slot k).getD 0 ∧ k = 0)) →
              boot err bad fun u => u = { s with regs := u.regs } ∧ u.regFld 0x2000 0 4 = 1 ∧ u.regFld 0x2000 4 1 = k ∧ bit (u.reg 0x2000) 5 = false ∧
                ∀ j, j ≠ 0x2000 → u.reg j = s.reg j) ∧
            (¬ may 0 → ¬ may 1 → boot err bad fun u => u.regFld 0x2000 0 4 = 1 ∧ bit (u.reg 0x2000) 5 = true ∧
              u.regFld 0x2000 8 8 = if slot 0 = none ∧ slot 1 = none then 1 else 2))) ∧
        (stage = 1 → exec (.bootStageComplete err bad) s = .next (s.setRegFld 0x2000 0 4 2)) ∧
        (stage = 2 → (boot err [] fun u => u.regFld 0x2000 0 4 = 3 ∧ u.objs = s.objs ∧ u.objsBoot = s.objs ∧
            u.regFld 0x20014 0 11 = max 450 (min 1000 (s.obj 0x1001 1 / 25 * 25)) ∧ u.reg 0x200C = s.reg 0x200C ∧ u.mem = s.mem) ∧
          (∀ k, boot err [k] fun u => u.regFld 0x2000 0 4 = 3 ∧ u.objs = s.objs.set objReset k (objReset k) ∧ u.objsBoot = u.objs ∧
            u.reg 0x200C = s.reg 0x200C + 1)) ∧
        (stage = 3 → boot err bad fun u => u.regFld 0x2000 0 4 = 4 ∧ u.mem = [] ∧ u.memErr = [] ∧
          (∀ t ∈ s.fuse.tiles, u.linkState (4 + t) = 2 ∧ bit (u.reg (mtKey t + 4)) 0 = true) ∧
          (err = 3 → u.regFld 0x2000 8 8 = 3 ∧ bit (u.reg 0x2004) 0 = true) ∧ (err ≠ 3 → u.regFld 0x2000 8 8 = s.regFld 0x2000 8 8)) ∧
        (stage = 4 → boot err bad fun u => u.regFld 0x2000 0 4 = 5 ∧ u.mem = s.mem ∧ (∀ x ∈ s.fuse.xdies, u.linkState (4 + x) = 2) ∧
          (err = 4 → u.regFld 0x2000 8 8 = 4 ∧ bit (u.reg 0x2004) 0 = true) ∧ (err ≠ 4 → u.reg 0x2004 = s.reg 0x2004)) ∧
        (stage = 5 → boot err bad fun u => u.regFld 0x2000 0 4 = 6 ∧ u.mem = s.mem ∧ (∀ j, j < 4 → u.linkState j = 2) ∧
          u.regFld 0x20018 0 11 = s.regFld 0x20014 0 11 ∧ u.regFld 0x20018 16 5 = 16 ∧
          (err = 5 → u.regFld 0x2000 8 8 = 5 ∧ bit (u.reg 0x2004) 0 = true) ∧ (err ≠ 5 → u.reg 0x2004 = s.reg 0x2004)) ∧
        (stage = 6 → (err = 6 → boot err bad fun u => u.regFld 0x2000 0 4 = 7 ∧ u.regFld 0x2000 8 8 = 6 ∧ u.reg 0x200C = s.reg 0x200C + 1 ∧
            u.cores = s.cores) ∧
          (err ≠ 6 → boot err bad fun u => u.repairRec = s.repairRec ∧ u.mem = s.mem ∧
            (s.repairRec = [] → u = { s with regs := u.regs } ∧ u.regFld 0x2000 0 4 = 7))) ∧
        (stage = 7 → exec (.bootStageComplete err bad) s = .next (s.setRegFld 0x2000 0 4 8)) ∧
        (stage = 8 → bit (s.reg 0x2004) 0 = false → exec (.bootStageComplete err bad) s = .next (s.setRegFld 0x2000 0 4 15)))) ∧
    (3 ≤ stage ∨ bit (s.reg 0x2000) 5 = true ∨ s.bootRetry = true ∨ ¬ may (1 - s.regFld 0x2000 4 1) → exec .bootWatchdog s = .next s) ∧
    (stage < 3 → bit (s.reg 0x2000) 5 = false → s.bootRetry = false → may (1 - s.regFld 0x2000 4 1) →
      ∃ u, exec .bootWatchdog s = .next u ∧ u = { s with regs := u.regs, bootRetry := true } ∧ u.regFld 0x2000 0 4 = 1 ∧
        u.regFld 0x2000 4 1 = 1 - s.regFld 0x2000 4 1 ∧ ∀ k, k ≠ 0x2000 → u.reg k = s.reg k)

/-- R699-R708: a JTAG instruction is held, and one that takes the pins is fatal; a challenge carries a nonce until the unlocks are used up, and a response
unlocks once; a capture is frozen once, written and cleared; the minimum SVN rises to that of the running image; an hour counts. -/
def Obligations.JtagCapturesAndServiceLifeActAsTheRulesSay : Prop :=
  ∀ s : State,
    let dead (u : State) (code : Nat) : Prop := u.jtag = code ∧ bit (u.reg 0x2004) 0 = true ∧ u.reg 0x200C = s.reg 0x200C + 1 ∧
      u.hourFatals = s.hourFatals + 1 ∧ u.mem = s.mem ∧ u.cores = s.cores ∧ u.svc = s.svc ∧
      (s.capPend = none → s.svc.capture = none → u.capPend.isSome = true)
    (∃ u, exec .extest s = .next u ∧ dead u 0) ∧ (∃ u, exec .clamp s = .next u ∧ dead u 4) ∧ (∃ u, exec .highz s = .next u ∧ dead u 5) ∧
    (∃ u, exec .extestPulse s = .next u ∧ dead u 6) ∧ (∃ u, exec .extestTrain s = .next u ∧ dead u 7) ∧
    (exec .idcode s = .next { s with jtag := 1, out := s.out ++ [.jtag (s.fuse.stepping % 16 * 2 ^ 28 + 0x4610 * 2 ^ 12 + 0xC57)] }) ∧
    (exec .samplePreload s = .next { s with jtag := 2 }) ∧
    (∀ code : Byte, (code.toNat ∈ [0, 1, 2, 4, 5, 6, 7, 0x20, 0x21] → exec (.bypass code) s = .next s) ∧
      (code.toNat ∉ [0, 1, 2, 4, 5, 6, 7, 0x20, 0x21] → exec (.bypass code) s = .next { s with jtag := code.toNat })) ∧
    (∀ t, s.respAt = some t → s.sclk.toNat < t + 25000000 → exec .tchal s = .next { s with jtag := 0x20 }) ∧
    ((∀ t, s.respAt = some t → t + 25000000 ≤ s.sclk.toNat) →
      (15 ≤ s.svc.unlocks → exec .tchal s = .next { s with jtag := 0x20, out := s.out ++ [.jtag 0] }) ∧
      (s.svc.unlocks < 15 → ∃ u n, exec .tchal s = .next u ∧ u = { s with jtag := 0x20, challenge := true, out := u.out, freeCtr := u.freeCtr } ∧
        n < 2 ^ 256 ∧ u.out = s.out ++ [.jtag (Config.serial % 2 ^ 64 + n * 2 ^ 64 + s.svc.unlocks * 2 ^ 320)])) ∧
    (∀ ok fuse : Bool,
      (s.challenge = true ∧ ok = true ∧ s.svc.unlocks < 15 →
        (fuse = true → exec (.tresp ok fuse) s = .next { s with jtag := 0x21, challenge := false, unlocked := true, svc := { s.svc with unlocks := s.svc.unlocks + 1 } }) ∧
        (fuse = false → exec (.tresp ok fuse) s = .next { s with jtag := 0x21, challenge := false })) ∧
      (s.challenge = false ∨ ok = false ∨ 15 ≤ s.svc.unlocks → ∃ u, exec (.tresp ok fuse) s = .next u ∧ u.unlocked = s.unlocked ∧ u.svc = s.svc ∧
        u.challenge = false ∧ u.respAt = some s.sclk.toNat ∧ (s.respFails < 2 ^ 32 - 1 → u.respFails = s.respFails + 1))) ∧
    (s.capPend.isSome = true ∨ s.svc.capture.isSome = true → exec .captureFreeze s = .next { s with capRefused := s.capRefused + 1 }) ∧
    (s.capPend = none → s.svc.capture = none →
      ∃ u b, exec .captureFreeze s = .next u ∧ u = { s with capPend := some b, freeCtr := u.freeCtr } ∧ b.take 4 = leBytes 4 0x5043524B ∧ b.length = 0x10000) ∧
    (s.capPend = none → exec .captureFlashWrite s = .next s) ∧
    (∀ b, s.capPend = some b → exec .captureFlashWrite s =
      .next { s with capPend := none, svc := { s.svc with capture := some b, copy := 1 - s.svc.copy } }) ∧
    (exec .captureClear s = .next { s with svc := { s.svc with capture := none } }) ∧
    (∀ v : Word,
      let runs : Prop := s.svc.slots.get slot0 (s.regFld 0x2000 4 1) = some v.toNat
      (¬ runs ∨ v.toNat ≤ s.svc.minSvn ∨ 64 ≤ s.svc.raises → exec (.svnRaise v) s = .next s) ∧
      (runs → s.svc.minSvn < v.toNat → s.svc.raises < 64 → exec (.svnRaise v) s =
        .next { s with svc := { s.svc with minSvn := v.toNat, raises := s.svc.raises + 1 } })) ∧
    (let n (i : Nat) := s.svc.life.get nat0 i
     ∃ u, exec .lifetimeHour s = .next u ∧ u = { s with svc := { s.svc with life := u.svc.life }, hourHot := false, hourTrips := 0, hourFatals := 0 } ∧
      u.svc.life.get nat0 1 = min (2 ^ 32 - 1) (n 1 + 1) ∧ u.svc.life.get nat0 2 = (if s.hourHot = true then min (2 ^ 32 - 1) (n 2 + 1) else n 2) ∧
      u.svc.life.get nat0 3 = (if s.regFld 0x20000 0 2 = 0 then min (2 ^ 32 - 1) (n 3 + 1) else n 3) ∧
      u.svc.life.get nat0 4 = min (2 ^ 32 - 1) (n 4 + s.hourTrips) ∧ u.svc.life.get nat0 5 = min (2 ^ 32 - 1) (n 5 + s.hourFatals))

/-- R13, R16, R41, R557, R559, R578, R585, R690: a function that decodes nothing takes no BAR access. A 32-bit access of a register writes or returns
its bits; 64 bits are two accesses, the lower first; any other size, and an offset that leads to no register, is refused: a write changes nothing, a
read returns 0, and the error log has an entry. The MSI-X table keeps what is written. A configuration request is retried before stage 8, and
answered from then on. -/
def Obligations.RegisterAccessesWriteAnswerOrAreRefused : Prop :=
  ∀ (s : State) (f : BitVec 6) (off size : Nat) (v : DWord),
    let x := s.fn f.toNat
    let n := if f = 0 then 2048 else 64
    let pba := if f = 0 then 0x8000 else 0x800
    let back (b : List Byte) : OutItem := .completion f.toNat b false
    let logged (u : State) (size cause : Nat) (w : Bool) : Prop :=
      s.RegsBut u (fun _ => False) ∧ u.reg 0x200C = s.reg 0x200C + 1 ∧ ∃ e, u.elog.get none0 (((s.reg 0x200C).toNat + 1) % 512) = some e ∧
        e.seq = (s.reg 0x200C).toNat + 1 ∧ e.level = 0x44 ∧ e.unit = 17 ∧ e.cause = cause ∧ e.action = 7 ∧ e.loc = f.toNat ∧ e.d1 = off ∧
        e.part = (if cause = 3 then 0 else f.toNat) ∧ e.d2 = size % 16 + if w = true then 16 else 0
    let refused (size cause : Nat) : Prop :=
      (∃ u, exec (.registerWrite f 0 off size v) s = .next u ∧ logged u size cause true) ∧
      (∃ u, exec (.registerRead f 0 off size) s = .next u ∧ logged u size cause false ∧ ∃ l, u.out = s.out ++ l ++ [back (List.replicate size 0)])
    (s.decodes f.toNat = false →
      exec (.registerWrite f 0 off size v) s = .next s ∧ exec (.registerWrite f 1 off size v) s = .next s ∧
      exec (.registerRead f 0 off size) s = .next s ∧ exec (.registerRead f 1 off size) s = .next s) ∧
    (s.decodes f.toNat = true →
      (∀ e ∈ plainRegs, f = 0 → s.unitHere e.1 = true →
        exec (.registerWrite f 0 e.1 4 v) s = .next (s.setReg e.1 ((s.reg e.1 &&& ~~~e.2) ||| (v.setWidth 32 &&& e.2))) ∧
        (s.latch.get none0 e.1 = none →
          exec (.registerRead f 0 e.1 4) s = .next { s with out := s.out ++ [back (leBytes 4 (s.reg e.1 &&& e.2).toNat)] })) ∧
      (off % 8 = 0 → (off < 0x40000 ∨ 0x50000 ≤ off) → ∃ t u,
        exec (.registerWrite f 0 off 4 (v &&& 0xFFFFFFFF#64)) s = .next t ∧ exec (.registerWrite f 0 off 8 v) s = .next u ∧
        (t.decodes f.toNat = true → exec (.registerWrite f 0 (off + 4) 4 (v >>> 32)) t = .next u)) ∧
      (∀ k k' ro ro', off % 8 = 0 → (off < 0x40000 ∨ 0x50000 ≤ off ∧ off < 0x200000 ∨ 0x300000 ≤ off ∧ off < 0x1000000) →
        s.barPlace f.toNat off = .found k ro → s.barPlace f.toNat (off + 4) = .found k' ro' →
        ∃ t u w a b, exec (.registerRead f 0 off 4) s = .next t ∧ t.out = s.out ++ [back a] ∧ exec (.registerRead f 0 (off + 4) 4) t = .next u ∧
          u.out = t.out ++ [back b] ∧ exec (.registerRead f 0 off 8) s = .next w ∧ w = { u with out := s.out ++ [back (a ++ b)] } ∧
          a.length = 4 ∧ b.length = 4) ∧
      ((size ≠ 4 ∨ off % 4 ≠ 0) → (size ≠ 8 ∨ off % 8 ≠ 0) → refused size 1) ∧
      (0x40000 ≤ off → off < 0x50000 → refused 8 1) ∧
      (off % 4 = 0 → (off < 0x1000000 ∨ 0x1400000 ≤ off) → findBar0 off = none ∨ s.unitHere off = false → refused 4 2) ∧
      (off % 4 = 0 → f ≠ 0 → 0x1000 ≤ off → off < 0x8000 ∨ 0x10000 ≤ off ∧ off < 0x40000 ∨ 0x300000 ≤ off ∧ off < 0x400000 →
        (findBar0 off).isSome = true → s.unitHere off = true → refused 4 3) ∧
      (off % 4 = 0 → off < 16 * n →
        (off % 16 ≠ 12 ∨ x.vecMask (off / 16) = false ∨ bit (v.setWidth 32) 0 = true →
          ∃ u, exec (.registerWrite f 1 off 4 v) s = .next u ∧ u = { s with fns := u.fns } ∧ (∀ g, g ≠ f.toNat → u.fn g = s.fn g) ∧
            (u.fn f.toNat).table.get msixWord0 (off / 4) = v.setWidth 32 ∧ u.fn f.toNat = { x with table := (u.fn f.toNat).table } ∧
            ∀ j, j ≠ off / 4 → (u.fn f.toNat).table.get msixWord0 j = x.table.get msixWord0 j) ∧
        exec (.registerRead f 1 off 4) s = .next { s with out := s.out ++ [back (leBytes 4 (x.table.get msixWord0 (off / 4)).toNat)] }) ∧
      (off % 4 = 0 → pba ≤ off → off < pba + n / 8 →
        exec (.registerWrite f 1 off 4 v) s = .next s ∧
        ∃ w : Word, exec (.registerRead f 1 off 4) s = .next { s with out := s.out ++ [back (leBytes 4 w.toNat)] } ∧
          ∀ i, i < 32 → w.getLsbD i = x.pbaBit (8 * (off - pba) + i))) ∧
    (s.hostOpen 0 = false →
      (∃ u, exec (.registerWrite f 2 off size v) s = .next u ∧ u = { s with out := s.out ++ [.retry f.toNat], hostLink := u.hostLink, freeCtr := u.freeCtr } ∧
        u.hostLink.isSome = true) ∧
      (∃ u, exec (.registerRead f 2 off size) s = .next u ∧ u = { s with out := s.out ++ [.retry f.toNat], hostLink := u.hostLink, freeCtr := u.freeCtr } ∧
        u.hostLink.isSome = true)) ∧
    (s.hostOpen 0 = true → ∀ link, s.hostLink = some link →
      (x.enabled = false → exec (.registerWrite f 2 off size v) s = .next s ∧ exec (.registerRead f 2 off size) s = .next s) ∧
      (x.enabled = true →
        exec (.registerRead f 2 3 4) s = .next { s with out := s.out ++
          [back (leBytes 4 (if f = 0 then 0x1F6D + (0x4610 + s.fuse.variant) * 2 ^ 16 else 0xFFFFFFFF))] } ∧
        ∀ w, (w = 13 ∨ w = 14 ∨ w = 16) →
          (∃ u, exec (.registerWrite f 2 w 4 v) s = .next u ∧ u = { s with fns := u.fns } ∧ (∀ g, g ≠ f.toNat → u.fn g = s.fn g) ∧
            (u.fn f.toNat).cfgWord w = v.setWidth 32 ∧ u.fn f.toNat = { x with cfg := (u.fn f.toNat).cfg } ∧
            ∀ j, j ≠ w → (u.fn f.toNat).cfgWord j = x.cfgWord j) ∧
          exec (.registerRead f 2 w 4) s = .next { s with out := s.out ++ [back (leBytes 4 (x.cfgWord w).toNat)] }))
end

