-- ==== Sys2Proof/Laws/State.lean ====
section
/-!
SUPPORT. One lemma per field and update of State and Core, and what reading after writing gives, so that later
proofs unfold no record update.
-/

namespace Sys2Proof.Machine

/-! ### Sparse data -/

section Sparse
variable {α : Type} (d : Nat → α)

@[simp] theorem Map.get_nil (k : Nat) : Map.get d [] k = d k := rfl

theorem Map.get_del (m : Map α) (k j : Nat) : Map.get d (Map.del k m) j = if j = k then d j else Map.get d m j := by
  induction m with
  | nil => simp [Map.del, Map.get]
  | cons e t ih =>
    obtain ⟨i, v⟩ := e
    by_cases h : k = i
    · subst h
      rw [Map.del, if_pos rfl, ih, Map.get]
      split <;> rfl
    · rw [Map.del, if_neg h, Map.get, Map.get]
      by_cases hj : j = i
      · have : ¬ j = k := fun e => h (e.symm.trans hj)
        rw [if_pos hj, if_neg this, if_pos hj]
      · rw [if_neg hj, ih, if_neg hj]

theorem Map.get_ins (m : Map α) (k j : Nat) (v : α) : Map.get d (Map.ins k v m) j = if j = k then v else Map.get d m j := by
  induction m with
  | nil => simp [Map.ins, Map.get]
  | cons e t ih =>
    obtain ⟨i, w⟩ := e
    by_cases h : k < i
    · simp [Map.ins, Map.get, h]
    · by_cases hk : k = i
      · by_cases hj : j = i <;> simp [Map.ins, Map.get, hk, hj]
      · by_cases hj : j = i
        · have : ¬ i = k := fun e => hk e.symm
          simp [Map.ins, Map.get, h, hk, hj, this]
        · simp [Map.ins, Map.get, h, hk, hj, ih]

/-- A read after a write: the value written at its key, every other key as before. -/
theorem Map.get_set [DecidableEq α] (m : Map α) (k j : Nat) (v : α) :
    Map.get d (Map.set d m k v) j = if j = k then v else Map.get d m j := by
  unfold Map.set
  split
  · rename_i h
    rw [Map.get_del]
    split
    · rename_i e; rw [e, h]
    · rfl
  · exact Map.get_ins d m k j v

@[simp] theorem Map.get_set_same [DecidableEq α] (m : Map α) (k : Nat) (v : α) : Map.get d (Map.set d m k v) k = v := by
  rw [Map.get_set, if_pos rfl]

theorem Map.get_set_ne [DecidableEq α] (m : Map α) {k j : Nat} (v : α) (h : j ≠ k) :
    Map.get d (Map.set d m k v) j = Map.get d m j := by
  rw [Map.get_set, if_neg h]

/-- A read after a stretch of values was written. -/
theorem Map.get_setN [DecidableEq α] (l : List α) (m : Map α) (k j : Nat) :
    Map.get d (Map.setN d m k l) j = if h : k ≤ j ∧ j < k + l.length then l[j - k]'(by omega) else Map.get d m j := by
  induction l generalizing m k with
  | nil =>
    have : ¬ (k ≤ j ∧ j < k + ([] : List α).length) := by simp only [List.length_nil]; omega
    simp only [Map.setN, this, dite_false]
  | cons v t ih =>
    have hl : (v :: t).length = t.length + 1 := rfl
    rw [Map.setN, ih, Map.get_set]
    by_cases h1 : k + 1 ≤ j ∧ j < k + 1 + t.length
    · have h2 : k ≤ j ∧ j < k + (v :: t).length := by omega
      rw [dif_pos h1, dif_pos h2]
      have e : j - k = (j - (k + 1)) + 1 := by omega
      simp only [e, List.getElem_cons_succ]
    · rw [dif_neg h1]
      by_cases h3 : j = k
      · subst h3
        have h2 : j ≤ j ∧ j < j + (v :: t).length := by omega
        rw [dif_pos h2, if_pos rfl]
        simp only [Nat.sub_self, List.getElem_cons_zero]
      · have h2 : ¬ (k ≤ j ∧ j < k + (v :: t).length) := by omega
        rw [dif_neg h2, if_neg h3]

/-- What every value has after all were changed. -/
theorem Map.get_mapAll_of [DecidableEq α] (P : α → Prop) (f : Nat → α → α) (m : Map α) (k : Nat) (h0 : P (d k)) (h : ∀ j v, P (f j v)) :
    P (Map.get d (Map.mapAll d f m) k) := by
  induction m with
  | nil => exact h0
  | cons e t ih =>
    obtain ⟨j, v⟩ := e
    unfold Map.mapAll
    dsimp only
    split
    · exact ih
    · unfold Map.get
      split
      · exact h _ _
      · exact ih

end Sparse

/-! ### Frames -/

@[simp] theorem State.setReg_pending (s : State) (k : Nat) (v : Word) : (s.setReg k v).pending = s.pending := rfl
@[simp] theorem State.setReg_freeCtr (s : State) (k : Nat) (v : Word) : (s.setReg k v).freeCtr = s.freeCtr := rfl
@[simp] theorem State.setReg_fuse (s : State) (k : Nat) (v : Word) : (s.setReg k v).fuse = s.fuse := rfl
@[simp] theorem State.setReg_sclk (s : State) (k : Nat) (v : Word) : (s.setReg k v).sclk = s.sclk := rfl
@[simp] theorem State.setReg_latch (s : State) (k : Nat) (v : Word) : (s.setReg k v).latch = s.latch := rfl
@[simp] theorem State.setReg_cores (s : State) (k : Nat) (v : Word) : (s.setReg k v).cores = s.cores := rfl
@[simp] theorem State.setReg_mem (s : State) (k : Nat) (v : Word) : (s.setReg k v).mem = s.mem := rfl
@[simp] theorem State.setReg_memErr (s : State) (k : Nat) (v : Word) : (s.setReg k v).memErr = s.memErr := rfl
@[simp] theorem State.setReg_net (s : State) (k : Nat) (v : Word) : (s.setReg k v).net = s.net := rfl
@[simp] theorem State.setReg_barC (s : State) (k : Nat) (v : Word) : (s.setReg k v).barC = s.barC := rfl
@[simp] theorem State.setReg_barD (s : State) (k : Nat) (v : Word) : (s.setReg k v).barD = s.barD := rfl
@[simp] theorem State.setReg_elog (s : State) (k : Nat) (v : Word) : (s.setReg k v).elog = s.elog := rfl
@[simp] theorem State.setReg_elogOver (s : State) (k : Nat) (v : Word) : (s.setReg k v).elogOver = s.elogOver := rfl
@[simp] theorem State.setReg_devAct (s : State) (k : Nat) (v : Word) : (s.setReg k v).devAct = s.devAct := rfl
@[simp] theorem State.setReg_fns (s : State) (k : Nat) (v : Word) : (s.setReg k v).fns = s.fns := rfl
@[simp] theorem State.setReg_pllLost (s : State) (k : Nat) (v : Word) : (s.setReg k v).pllLost = s.pllLost := rfl
@[simp] theorem State.setReg_swept (s : State) (k : Nat) (v : Word) : (s.setReg k v).swept = s.swept := rfl
@[simp] theorem State.setReg_stc (s : State) (k : Nat) (v : Word) : (s.setReg k v).stc = s.stc := rfl
@[simp] theorem State.setReg_rolls (s : State) (k : Nat) (v : Word) : (s.setReg k v).rolls = s.rolls := rfl
@[simp] theorem State.setReg_runs (s : State) (k : Nat) (v : Word) : (s.setReg k v).runs = s.runs := rfl
@[simp] theorem State.setReg_applies (s : State) (k : Nat) (v : Word) : (s.setReg k v).applies = s.applies := rfl
@[simp] theorem State.setReg_reemits (s : State) (k : Nat) (v : Word) : (s.setReg k v).reemits = s.reemits := rfl
@[simp] theorem State.setReg_copyq (s : State) (k : Nat) (v : Word) : (s.setReg k v).copyq = s.copyq := rfl
@[simp] theorem State.setReg_cmReqs (s : State) (k : Nat) (v : Word) : (s.setReg k v).cmReqs = s.cmReqs := rfl
@[simp] theorem State.setReg_cmSeq (s : State) (k : Nat) (v : Word) : (s.setReg k v).cmSeq = s.cmSeq := rfl
@[simp] theorem State.setReg_comb (s : State) (k : Nat) (v : Word) : (s.setReg k v).comb = s.comb := rfl
@[simp] theorem State.setReg_redSteps (s : State) (k : Nat) (v : Word) : (s.setReg k v).redSteps = s.redSteps := rfl
@[simp] theorem State.setReg_seals (s : State) (k : Nat) (v : Word) : (s.setReg k v).seals = s.seals := rfl
@[simp] theorem State.setReg_ports (s : State) (k : Nat) (v : Word) : (s.setReg k v).ports = s.ports := rfl
@[simp] theorem State.setReg_feeds (s : State) (k : Nat) (v : Word) : (s.setReg k v).feeds = s.feeds := rfl
@[simp] theorem State.setReg_rotIn (s : State) (k : Nat) (v : Word) : (s.setReg k v).rotIn = s.rotIn := rfl
@[simp] theorem State.setReg_rqOut (s : State) (k : Nat) (v : Word) : (s.setReg k v).rqOut = s.rqOut := rfl
@[simp] theorem State.setReg_rqSeq (s : State) (k : Nat) (v : Word) : (s.setReg k v).rqSeq = s.rqSeq := rfl
@[simp] theorem State.setReg_restores (s : State) (k : Nat) (v : Word) : (s.setReg k v).restores = s.restores := rfl
@[simp] theorem State.setReg_hostqs (s : State) (k : Nat) (v : Word) : (s.setReg k v).hostqs = s.hostqs := rfl
@[simp] theorem State.setReg_hostSeq (s : State) (k : Nat) (v : Word) : (s.setReg k v).hostSeq = s.hostSeq := rfl
@[simp] theorem State.setReg_hostTurn (s : State) (k : Nat) (v : Word) : (s.setReg k v).hostTurn = s.hostTurn := rfl
@[simp] theorem State.setReg_hostLink (s : State) (k : Nat) (v : Word) : (s.setReg k v).hostLink = s.hostLink := rfl
@[simp] theorem State.setReg_reqs (s : State) (k : Nat) (v : Word) : (s.setReg k v).reqs = s.reqs := rfl
@[simp] theorem State.setReg_batches (s : State) (k : Nat) (v : Word) : (s.setReg k v).batches = s.batches := rfl
@[simp] theorem State.setReg_svq (s : State) (k : Nat) (v : Word) : (s.setReg k v).svq = s.svq := rfl
@[simp] theorem State.setReg_scrub (s : State) (k : Nat) (v : Word) : (s.setReg k v).scrub = s.scrub := rfl
@[simp] theorem State.setReg_trans (s : State) (k : Nat) (v : Word) : (s.setReg k v).trans = s.trans := rfl
@[simp] theorem State.setReg_pwrHeld (s : State) (k : Nat) (v : Word) : (s.setReg k v).pwrHeld = s.pwrHeld := rfl
@[simp] theorem State.setReg_capMiss (s : State) (k : Nat) (v : Word) : (s.setReg k v).capMiss = s.capMiss := rfl
@[simp] theorem State.setReg_thermtrip (s : State) (k : Nat) (v : Word) : (s.setReg k v).thermtrip = s.thermtrip := rfl
@[simp] theorem State.setReg_evcClass (s : State) (k : Nat) (v : Word) : (s.setReg k v).evcClass = s.evcClass := rfl
@[simp] theorem State.setReg_pins (s : State) (k : Nat) (v : Word) : (s.setReg k v).pins = s.pins := rfl
@[simp] theorem State.setReg_plinks (s : State) (k : Nat) (v : Word) : (s.setReg k v).plinks = s.plinks := rfl
@[simp] theorem State.setReg_bootRetry (s : State) (k : Nat) (v : Word) : (s.setReg k v).bootRetry = s.bootRetry := rfl
@[simp] theorem State.setReg_svc (s : State) (k : Nat) (v : Word) : (s.setReg k v).svc = s.svc := rfl
@[simp] theorem State.setReg_capPend (s : State) (k : Nat) (v : Word) : (s.setReg k v).capPend = s.capPend := rfl
@[simp] theorem State.setReg_capRefused (s : State) (k : Nat) (v : Word) : (s.setReg k v).capRefused = s.capRefused := rfl
@[simp] theorem State.setReg_hourTrips (s : State) (k : Nat) (v : Word) : (s.setReg k v).hourTrips = s.hourTrips := rfl
@[simp] theorem State.setReg_hourFatals (s : State) (k : Nat) (v : Word) : (s.setReg k v).hourFatals = s.hourFatals := rfl
@[simp] theorem State.setReg_hourHot (s : State) (k : Nat) (v : Word) : (s.setReg k v).hourHot = s.hourHot := rfl
@[simp] theorem State.setReg_jtag (s : State) (k : Nat) (v : Word) : (s.setReg k v).jtag = s.jtag := rfl
@[simp] theorem State.setReg_challenge (s : State) (k : Nat) (v : Word) : (s.setReg k v).challenge = s.challenge := rfl
@[simp] theorem State.setReg_unlocked (s : State) (k : Nat) (v : Word) : (s.setReg k v).unlocked = s.unlocked := rfl
@[simp] theorem State.setReg_respFails (s : State) (k : Nat) (v : Word) : (s.setReg k v).respFails = s.respFails := rfl
@[simp] theorem State.setReg_respAt (s : State) (k : Nat) (v : Word) : (s.setReg k v).respAt = s.respAt := rfl
@[simp] theorem State.setReg_objs (s : State) (k : Nat) (v : Word) : (s.setReg k v).objs = s.objs := rfl
@[simp] theorem State.setReg_objsBoot (s : State) (k : Nat) (v : Word) : (s.setReg k v).objsBoot = s.objsBoot := rfl
@[simp] theorem State.setReg_dapq (s : State) (k : Nat) (v : Word) : (s.setReg k v).dapq = s.dapq := rfl
@[simp] theorem State.setReg_dapWrite (s : State) (k : Nat) (v : Word) : (s.setReg k v).dapWrite = s.dapWrite := rfl
@[simp] theorem State.setReg_dapKept (s : State) (k : Nat) (v : Word) : (s.setReg k v).dapKept = s.dapKept := rfl
@[simp] theorem State.setReg_dapAsm (s : State) (k : Nat) (v : Word) : (s.setReg k v).dapAsm = s.dapAsm := rfl
@[simp] theorem State.setReg_dapDrop (s : State) (k : Nat) (v : Word) : (s.setReg k v).dapDrop = s.dapDrop := rfl
@[simp] theorem State.setReg_mctpEid (s : State) (k : Nat) (v : Word) : (s.setReg k v).mctpEid = s.mctpEid := rfl
@[simp] theorem State.setReg_repairRec (s : State) (k : Nat) (v : Word) : (s.setReg k v).repairRec = s.repairRec := rfl
@[simp] theorem State.setReg_out (s : State) (k : Nat) (v : Word) : (s.setReg k v).out = s.out := rfl
@[simp] theorem State.setRegFld_pending (s : State) (k lo len v : Nat) : (s.setRegFld k lo len v).pending = s.pending := rfl
@[simp] theorem State.setRegFld_freeCtr (s : State) (k lo len v : Nat) : (s.setRegFld k lo len v).freeCtr = s.freeCtr := rfl
@[simp] theorem State.setRegFld_fuse (s : State) (k lo len v : Nat) : (s.setRegFld k lo len v).fuse = s.fuse := rfl
@[simp] theorem State.setRegFld_sclk (s : State) (k lo len v : Nat) : (s.setRegFld k lo len v).sclk = s.sclk := rfl
@[simp] theorem State.setRegFld_latch (s : State) (k lo len v : Nat) : (s.setRegFld k lo len v).latch = s.latch := rfl
@[simp] theorem State.setRegFld_cores (s : State) (k lo len v : Nat) : (s.setRegFld k lo len v).cores = s.cores := rfl
@[simp] theorem State.setRegFld_mem (s : State) (k lo len v : Nat) : (s.setRegFld k lo len v).mem = s.mem := rfl
@[simp] theorem State.setRegFld_memErr (s : State) (k lo len v : Nat) : (s.setRegFld k lo len v).memErr = s.memErr := rfl
@[simp] theorem State.setRegFld_net (s : State) (k lo len v : Nat) : (s.setRegFld k lo len v).net = s.net := rfl
@[simp] theorem State.setRegFld_barC (s : State) (k lo len v : Nat) : (s.setRegFld k lo len v).barC = s.barC := rfl
@[simp] theorem State.setRegFld_barD (s : State) (k lo len v : Nat) : (s.setRegFld k lo len v).barD = s.barD := rfl
@[simp] theorem State.setRegFld_elog (s : State) (k lo len v : Nat) : (s.setRegFld k lo len v).elog = s.elog := rfl
@[simp] theorem State.setRegFld_elogOver (s : State) (k lo len v : Nat) : (s.setRegFld k lo len v).elogOver = s.elogOver := rfl
@[simp] theorem State.setRegFld_devAct (s : State) (k lo len v : Nat) : (s.setRegFld k lo len v).devAct = s.devAct := rfl
@[simp] theorem State.setRegFld_fns (s : State) (k lo len v : Nat) : (s.setRegFld k lo len v).fns = s.fns := rfl
@[simp] theorem State.setRegFld_pllLost (s : State) (k lo len v : Nat) : (s.setRegFld k lo len v).pllLost = s.pllLost := rfl
@[simp] theorem State.setRegFld_swept (s : State) (k lo len v : Nat) : (s.setRegFld k lo len v).swept = s.swept := rfl
@[simp] theorem State.setRegFld_stc (s : State) (k lo len v : Nat) : (s.setRegFld k lo len v).stc = s.stc := rfl
@[simp] theorem State.setRegFld_rolls (s : State) (k lo len v : Nat) : (s.setRegFld k lo len v).rolls = s.rolls := rfl
@[simp] theorem State.setRegFld_runs (s : State) (k lo len v : Nat) : (s.setRegFld k lo len v).runs = s.runs := rfl
@[simp] theorem State.setRegFld_applies (s : State) (k lo len v : Nat) : (s.setRegFld k lo len v).applies = s.applies := rfl
@[simp] theorem State.setRegFld_reemits (s : State) (k lo len v : Nat) : (s.setRegFld k lo len v).reemits = s.reemits := rfl
@[simp] theorem State.setRegFld_copyq (s : State) (k lo len v : Nat) : (s.setRegFld k lo len v).copyq = s.copyq := rfl
@[simp] theorem State.setRegFld_cmReqs (s : State) (k lo len v : Nat) : (s.setRegFld k lo len v).cmReqs = s.cmReqs := rfl
@[simp] theorem State.setRegFld_cmSeq (s : State) (k lo len v : Nat) : (s.setRegFld k lo len v).cmSeq = s.cmSeq := rfl
@[simp] theorem State.setRegFld_comb (s : State) (k lo len v : Nat) : (s.setRegFld k lo len v).comb = s.comb := rfl
@[simp] theorem State.setRegFld_redSteps (s : State) (k lo len v : Nat) : (s.setRegFld k lo len v).redSteps = s.redSteps := rfl
@[simp] theorem State.setRegFld_seals (s : State) (k lo len v : Nat) : (s.setRegFld k lo len v).seals = s.seals := rfl
@[simp] theorem State.setRegFld_ports (s : State) (k lo len v : Nat) : (s.setRegFld k lo len v).ports = s.ports := rfl
@[simp] theorem State.setRegFld_feeds (s : State) (k lo len v : Nat) : (s.setRegFld k lo len v).feeds = s.feeds := rfl
@[simp] theorem State.setRegFld_rotIn (s : State) (k lo len v : Nat) : (s.setRegFld k lo len v).rotIn = s.rotIn := rfl
@[simp] theorem State.setRegFld_rqOut (s : State) (k lo len v : Nat) : (s.setRegFld k lo len v).rqOut = s.rqOut := rfl
@[simp] theorem State.setRegFld_rqSeq (s : State) (k lo len v : Nat) : (s.setRegFld k lo len v).rqSeq = s.rqSeq := rfl
@[simp] theorem State.setRegFld_restores (s : State) (k lo len v : Nat) : (s.setRegFld k lo len v).restores = s.restores := rfl
@[simp] theorem State.setRegFld_hostqs (s : State) (k lo len v : Nat) : (s.setRegFld k lo len v).hostqs = s.hostqs := rfl
@[simp] theorem State.setRegFld_hostSeq (s : State) (k lo len v : Nat) : (s.setRegFld k lo len v).hostSeq = s.hostSeq := rfl
@[simp] theorem State.setRegFld_hostTurn (s : State) (k lo len v : Nat) : (s.setRegFld k lo len v).hostTurn = s.hostTurn := rfl
@[simp] theorem State.setRegFld_hostLink (s : State) (k lo len v : Nat) : (s.setRegFld k lo len v).hostLink = s.hostLink := rfl
@[simp] theorem State.setRegFld_reqs (s : State) (k lo len v : Nat) : (s.setRegFld k lo len v).reqs = s.reqs := rfl
@[simp] theorem State.setRegFld_batches (s : State) (k lo len v : Nat) : (s.setRegFld k lo len v).batches = s.batches := rfl
@[simp] theorem State.setRegFld_svq (s : State) (k lo len v : Nat) : (s.setRegFld k lo len v).svq = s.svq := rfl
@[simp] theorem State.setRegFld_scrub (s : State) (k lo len v : Nat) : (s.setRegFld k lo len v).scrub = s.scrub := rfl
@[simp] theorem State.setRegFld_trans (s : State) (k lo len v : Nat) : (s.setRegFld k lo len v).trans = s.trans := rfl
@[simp] theorem State.setRegFld_pwrHeld (s : State) (k lo len v : Nat) : (s.setRegFld k lo len v).pwrHeld = s.pwrHeld := rfl
@[simp] theorem State.setRegFld_capMiss (s : State) (k lo len v : Nat) : (s.setRegFld k lo len v).capMiss = s.capMiss := rfl
@[simp] theorem State.setRegFld_thermtrip (s : State) (k lo len v : Nat) : (s.setRegFld k lo len v).thermtrip = s.thermtrip := rfl
@[simp] theorem State.setRegFld_evcClass (s : State) (k lo len v : Nat) : (s.setRegFld k lo len v).evcClass = s.evcClass := rfl
@[simp] theorem State.setRegFld_pins (s : State) (k lo len v : Nat) : (s.setRegFld k lo len v).pins = s.pins := rfl
@[simp] theorem State.setRegFld_plinks (s : State) (k lo len v : Nat) : (s.setRegFld k lo len v).plinks = s.plinks := rfl
@[simp] theorem State.setRegFld_bootRetry (s : State) (k lo len v : Nat) : (s.setRegFld k lo len v).bootRetry = s.bootRetry := rfl
@[simp] theorem State.setRegFld_svc (s : State) (k lo len v : Nat) : (s.setRegFld k lo len v).svc = s.svc := rfl
@[simp] theorem State.setRegFld_capPend (s : State) (k lo len v : Nat) : (s.setRegFld k lo len v).capPend = s.capPend := rfl
@[simp] theorem State.setRegFld_capRefused (s : State) (k lo len v : Nat) : (s.setRegFld k lo len v).capRefused = s.capRefused := rfl
@[simp] theorem State.setRegFld_hourTrips (s : State) (k lo len v : Nat) : (s.setRegFld k lo len v).hourTrips = s.hourTrips := rfl
@[simp] theorem State.setRegFld_hourFatals (s : State) (k lo len v : Nat) : (s.setRegFld k lo len v).hourFatals = s.hourFatals := rfl
@[simp] theorem State.setRegFld_hourHot (s : State) (k lo len v : Nat) : (s.setRegFld k lo len v).hourHot = s.hourHot := rfl
@[simp] theorem State.setRegFld_jtag (s : State) (k lo len v : Nat) : (s.setRegFld k lo len v).jtag = s.jtag := rfl
@[simp] theorem State.setRegFld_challenge (s : State) (k lo len v : Nat) : (s.setRegFld k lo len v).challenge = s.challenge := rfl
@[simp] theorem State.setRegFld_unlocked (s : State) (k lo len v : Nat) : (s.setRegFld k lo len v).unlocked = s.unlocked := rfl
@[simp] theorem State.setRegFld_respFails (s : State) (k lo len v : Nat) : (s.setRegFld k lo len v).respFails = s.respFails := rfl
@[simp] theorem State.setRegFld_respAt (s : State) (k lo len v : Nat) : (s.setRegFld k lo len v).respAt = s.respAt := rfl
@[simp] theorem State.setRegFld_objs (s : State) (k lo len v : Nat) : (s.setRegFld k lo len v).objs = s.objs := rfl
@[simp] theorem State.setRegFld_objsBoot (s : State) (k lo len v : Nat) : (s.setRegFld k lo len v).objsBoot = s.objsBoot := rfl
@[simp] theorem State.setRegFld_dapq (s : State) (k lo len v : Nat) : (s.setRegFld k lo len v).dapq = s.dapq := rfl
@[simp] theorem State.setRegFld_dapWrite (s : State) (k lo len v : Nat) : (s.setRegFld k lo len v).dapWrite = s.dapWrite := rfl
@[simp] theorem State.setRegFld_dapKept (s : State) (k lo len v : Nat) : (s.setRegFld k lo len v).dapKept = s.dapKept := rfl
@[simp] theorem State.setRegFld_dapAsm (s : State) (k lo len v : Nat) : (s.setRegFld k lo len v).dapAsm = s.dapAsm := rfl
@[simp] theorem State.setRegFld_dapDrop (s : State) (k lo len v : Nat) : (s.setRegFld k lo len v).dapDrop = s.dapDrop := rfl
@[simp] theorem State.setRegFld_mctpEid (s : State) (k lo len v : Nat) : (s.setRegFld k lo len v).mctpEid = s.mctpEid := rfl
@[simp] theorem State.setRegFld_repairRec (s : State) (k lo len v : Nat) : (s.setRegFld k lo len v).repairRec = s.repairRec := rfl
@[simp] theorem State.setRegFld_out (s : State) (k lo len v : Nat) : (s.setRegFld k lo len v).out = s.out := rfl
@[simp] theorem State.orReg_pending (s : State) (k m : Nat) : (s.orReg k m).pending = s.pending := rfl
@[simp] theorem State.orReg_freeCtr (s : State) (k m : Nat) : (s.orReg k m).freeCtr = s.freeCtr := rfl
@[simp] theorem State.orReg_fuse (s : State) (k m : Nat) : (s.orReg k m).fuse = s.fuse := rfl
@[simp] theorem State.orReg_sclk (s : State) (k m : Nat) : (s.orReg k m).sclk = s.sclk := rfl
@[simp] theorem State.orReg_latch (s : State) (k m : Nat) : (s.orReg k m).latch = s.latch := rfl
@[simp] theorem State.orReg_cores (s : State) (k m : Nat) : (s.orReg k m).cores = s.cores := rfl
@[simp] theorem State.orReg_mem (s : State) (k m : Nat) : (s.orReg k m).mem = s.mem := rfl
@[simp] theorem State.orReg_memErr (s : State) (k m : Nat) : (s.orReg k m).memErr = s.memErr := rfl
@[simp] theorem State.orReg_net (s : State) (k m : Nat) : (s.orReg k m).net = s.net := rfl
@[simp] theorem State.orReg_barC (s : State) (k m : Nat) : (s.orReg k m).barC = s.barC := rfl
@[simp] theorem State.orReg_barD (s : State) (k m : Nat) : (s.orReg k m).barD = s.barD := rfl
@[simp] theorem State.orReg_elog (s : State) (k m : Nat) : (s.orReg k m).elog = s.elog := rfl
@[simp] theorem State.orReg_elogOver (s : State) (k m : Nat) : (s.orReg k m).elogOver = s.elogOver := rfl
@[simp] theorem State.orReg_devAct (s : State) (k m : Nat) : (s.orReg k m).devAct = s.devAct := rfl
@[simp] theorem State.orReg_fns (s : State) (k m : Nat) : (s.orReg k m).fns = s.fns := rfl
@[simp] theorem State.orReg_pllLost (s : State) (k m : Nat) : (s.orReg k m).pllLost = s.pllLost := rfl
@[simp] theorem State.orReg_swept (s : State) (k m : Nat) : (s.orReg k m).swept = s.swept := rfl
@[simp] theorem State.orReg_stc (s : State) (k m : Nat) : (s.orReg k m).stc = s.stc := rfl
@[simp] theorem State.orReg_rolls (s : State) (k m : Nat) : (s.orReg k m).rolls = s.rolls := rfl
@[simp] theorem State.orReg_runs (s : State) (k m : Nat) : (s.orReg k m).runs = s.runs := rfl
@[simp] theorem State.orReg_applies (s : State) (k m : Nat) : (s.orReg k m).applies = s.applies := rfl
@[simp] theorem State.orReg_reemits (s : State) (k m : Nat) : (s.orReg k m).reemits = s.reemits := rfl
@[simp] theorem State.orReg_copyq (s : State) (k m : Nat) : (s.orReg k m).copyq = s.copyq := rfl
@[simp] theorem State.orReg_cmReqs (s : State) (k m : Nat) : (s.orReg k m).cmReqs = s.cmReqs := rfl
@[simp] theorem State.orReg_cmSeq (s : State) (k m : Nat) : (s.orReg k m).cmSeq = s.cmSeq := rfl
@[simp] theorem State.orReg_comb (s : State) (k m : Nat) : (s.orReg k m).comb = s.comb := rfl
@[simp] theorem State.orReg_redSteps (s : State) (k m : Nat) : (s.orReg k m).redSteps = s.redSteps := rfl
@[simp] theorem State.orReg_seals (s : State) (k m : Nat) : (s.orReg k m).seals = s.seals := rfl
@[simp] theorem State.orReg_ports (s : State) (k m : Nat) : (s.orReg k m).ports = s.ports := rfl
@[simp] theorem State.orReg_feeds (s : State) (k m : Nat) : (s.orReg k m).feeds = s.feeds := rfl
@[simp] theorem State.orReg_rotIn (s : State) (k m : Nat) : (s.orReg k m).rotIn = s.rotIn := rfl
@[simp] theorem State.orReg_rqOut (s : State) (k m : Nat) : (s.orReg k m).rqOut = s.rqOut := rfl
@[simp] theorem State.orReg_rqSeq (s : State) (k m : Nat) : (s.orReg k m).rqSeq = s.rqSeq := rfl
@[simp] theorem State.orReg_restores (s : State) (k m : Nat) : (s.orReg k m).restores = s.restores := rfl
@[simp] theorem State.orReg_hostqs (s : State) (k m : Nat) : (s.orReg k m).hostqs = s.hostqs := rfl
@[simp] theorem State.orReg_hostSeq (s : State) (k m : Nat) : (s.orReg k m).hostSeq = s.hostSeq := rfl
@[simp] theorem State.orReg_hostTurn (s : State) (k m : Nat) : (s.orReg k m).hostTurn = s.hostTurn := rfl
@[simp] theorem State.orReg_hostLink (s : State) (k m : Nat) : (s.orReg k m).hostLink = s.hostLink := rfl
@[simp] theorem State.orReg_reqs (s : State) (k m : Nat) : (s.orReg k m).reqs = s.reqs := rfl
@[simp] theorem State.orReg_batches (s : State) (k m : Nat) : (s.orReg k m).batches = s.batches := rfl
@[simp] theorem State.orReg_svq (s : State) (k m : Nat) : (s.orReg k m).svq = s.svq := rfl
@[simp] theorem State.orReg_scrub (s : State) (k m : Nat) : (s.orReg k m).scrub = s.scrub := rfl
@[simp] theorem State.orReg_trans (s : State) (k m : Nat) : (s.orReg k m).trans = s.trans := rfl
@[simp] theorem State.orReg_pwrHeld (s : State) (k m : Nat) : (s.orReg k m).pwrHeld = s.pwrHeld := rfl
@[simp] theorem State.orReg_capMiss (s : State) (k m : Nat) : (s.orReg k m).capMiss = s.capMiss := rfl
@[simp] theorem State.orReg_thermtrip (s : State) (k m : Nat) : (s.orReg k m).thermtrip = s.thermtrip := rfl
@[simp] theorem State.orReg_evcClass (s : State) (k m : Nat) : (s.orReg k m).evcClass = s.evcClass := rfl
@[simp] theorem State.orReg_pins (s : State) (k m : Nat) : (s.orReg k m).pins = s.pins := rfl
@[simp] theorem State.orReg_plinks (s : State) (k m : Nat) : (s.orReg k m).plinks = s.plinks := rfl
@[simp] theorem State.orReg_bootRetry (s : State) (k m : Nat) : (s.orReg k m).bootRetry = s.bootRetry := rfl
@[simp] theorem State.orReg_svc (s : State) (k m : Nat) : (s.orReg k m).svc = s.svc := rfl
@[simp] theorem State.orReg_capPend (s : State) (k m : Nat) : (s.orReg k m).capPend = s.capPend := rfl
@[simp] theorem State.orReg_capRefused (s : State) (k m : Nat) : (s.orReg k m).capRefused = s.capRefused := rfl
@[simp] theorem State.orReg_hourTrips (s : State) (k m : Nat) : (s.orReg k m).hourTrips = s.hourTrips := rfl
@[simp] theorem State.orReg_hourFatals (s : State) (k m : Nat) : (s.orReg k m).hourFatals = s.hourFatals := rfl
@[simp] theorem State.orReg_hourHot (s : State) (k m : Nat) : (s.orReg k m).hourHot = s.hourHot := rfl
@[simp] theorem State.orReg_jtag (s : State) (k m : Nat) : (s.orReg k m).jtag = s.jtag := rfl
@[simp] theorem State.orReg_challenge (s : State) (k m : Nat) : (s.orReg k m).challenge = s.challenge := rfl
@[simp] theorem State.orReg_unlocked (s : State) (k m : Nat) : (s.orReg k m).unlocked = s.unlocked := rfl
@[simp] theorem State.orReg_respFails (s : State) (k m : Nat) : (s.orReg k m).respFails = s.respFails := rfl
@[simp] theorem State.orReg_respAt (s : State) (k m : Nat) : (s.orReg k m).respAt = s.respAt := rfl
@[simp] theorem State.orReg_objs (s : State) (k m : Nat) : (s.orReg k m).objs = s.objs := rfl
@[simp] theorem State.orReg_objsBoot (s : State) (k m : Nat) : (s.orReg k m).objsBoot = s.objsBoot := rfl
@[simp] theorem State.orReg_dapq (s : State) (k m : Nat) : (s.orReg k m).dapq = s.dapq := rfl
@[simp] theorem State.orReg_dapWrite (s : State) (k m : Nat) : (s.orReg k m).dapWrite = s.dapWrite := rfl
@[simp] theorem State.orReg_dapKept (s : State) (k m : Nat) : (s.orReg k m).dapKept = s.dapKept := rfl
@[simp] theorem State.orReg_dapAsm (s : State) (k m : Nat) : (s.orReg k m).dapAsm = s.dapAsm := rfl
@[simp] theorem State.orReg_dapDrop (s : State) (k m : Nat) : (s.orReg k m).dapDrop = s.dapDrop := rfl
@[simp] theorem State.orReg_mctpEid (s : State) (k m : Nat) : (s.orReg k m).mctpEid = s.mctpEid := rfl
@[simp] theorem State.orReg_repairRec (s : State) (k m : Nat) : (s.orReg k m).repairRec = s.repairRec := rfl
@[simp] theorem State.orReg_out (s : State) (k m : Nat) : (s.orReg k m).out = s.out := rfl
@[simp] theorem State.clrReg_pending (s : State) (k m : Nat) : (s.clrReg k m).pending = s.pending := rfl
@[simp] theorem State.clrReg_freeCtr (s : State) (k m : Nat) : (s.clrReg k m).freeCtr = s.freeCtr := rfl
@[simp] theorem State.clrReg_fuse (s : State) (k m : Nat) : (s.clrReg k m).fuse = s.fuse := rfl
@[simp] theorem State.clrReg_sclk (s : State) (k m : Nat) : (s.clrReg k m).sclk = s.sclk := rfl
@[simp] theorem State.clrReg_latch (s : State) (k m : Nat) : (s.clrReg k m).latch = s.latch := rfl
@[simp] theorem State.clrReg_cores (s : State) (k m : Nat) : (s.clrReg k m).cores = s.cores := rfl
@[simp] theorem State.clrReg_mem (s : State) (k m : Nat) : (s.clrReg k m).mem = s.mem := rfl
@[simp] theorem State.clrReg_memErr (s : State) (k m : Nat) : (s.clrReg k m).memErr = s.memErr := rfl
@[simp] theorem State.clrReg_net (s : State) (k m : Nat) : (s.clrReg k m).net = s.net := rfl
@[simp] theorem State.clrReg_barC (s : State) (k m : Nat) : (s.clrReg k m).barC = s.barC := rfl
@[simp] theorem State.clrReg_barD (s : State) (k m : Nat) : (s.clrReg k m).barD = s.barD := rfl
@[simp] theorem State.clrReg_elog (s : State) (k m : Nat) : (s.clrReg k m).elog = s.elog := rfl
@[simp] theorem State.clrReg_elogOver (s : State) (k m : Nat) : (s.clrReg k m).elogOver = s.elogOver := rfl
@[simp] theorem State.clrReg_devAct (s : State) (k m : Nat) : (s.clrReg k m).devAct = s.devAct := rfl
@[simp] theorem State.clrReg_fns (s : State) (k m : Nat) : (s.clrReg k m).fns = s.fns := rfl
@[simp] theorem State.clrReg_pllLost (s : State) (k m : Nat) : (s.clrReg k m).pllLost = s.pllLost := rfl
@[simp] theorem State.clrReg_swept (s : State) (k m : Nat) : (s.clrReg k m).swept = s.swept := rfl
@[simp] theorem State.clrReg_stc (s : State) (k m : Nat) : (s.clrReg k m).stc = s.stc := rfl
@[simp] theorem State.clrReg_rolls (s : State) (k m : Nat) : (s.clrReg k m).rolls = s.rolls := rfl
@[simp] theorem State.clrReg_runs (s : State) (k m : Nat) : (s.clrReg k m).runs = s.runs := rfl
@[simp] theorem State.clrReg_applies (s : State) (k m : Nat) : (s.clrReg k m).applies = s.applies := rfl
@[simp] theorem State.clrReg_reemits (s : State) (k m : Nat) : (s.clrReg k m).reemits = s.reemits := rfl
@[simp] theorem State.clrReg_copyq (s : State) (k m : Nat) : (s.clrReg k m).copyq = s.copyq := rfl
@[simp] theorem State.clrReg_cmReqs (s : State) (k m : Nat) : (s.clrReg k m).cmReqs = s.cmReqs := rfl
@[simp] theorem State.clrReg_cmSeq (s : State) (k m : Nat) : (s.clrReg k m).cmSeq = s.cmSeq := rfl
@[simp] theorem State.clrReg_comb (s : State) (k m : Nat) : (s.clrReg k m).comb = s.comb := rfl
@[simp] theorem State.clrReg_redSteps (s : State) (k m : Nat) : (s.clrReg k m).redSteps = s.redSteps := rfl
@[simp] theorem State.clrReg_seals (s : State) (k m : Nat) : (s.clrReg k m).seals = s.seals := rfl
@[simp] theorem State.clrReg_ports (s : State) (k m : Nat) : (s.clrReg k m).ports = s.ports := rfl
@[simp] theorem State.clrReg_feeds (s : State) (k m : Nat) : (s.clrReg k m).feeds = s.feeds := rfl
@[simp] theorem State.clrReg_rotIn (s : State) (k m : Nat) : (s.clrReg k m).rotIn = s.rotIn := rfl
@[simp] theorem State.clrReg_rqOut (s : State) (k m : Nat) : (s.clrReg k m).rqOut = s.rqOut := rfl
@[simp] theorem State.clrReg_rqSeq (s : State) (k m : Nat) : (s.clrReg k m).rqSeq = s.rqSeq := rfl
@[simp] theorem State.clrReg_restores (s : State) (k m : Nat) : (s.clrReg k m).restores = s.restores := rfl
@[simp] theorem State.clrReg_hostqs (s : State) (k m : Nat) : (s.clrReg k m).hostqs = s.hostqs := rfl
@[simp] theorem State.clrReg_hostSeq (s : State) (k m : Nat) : (s.clrReg k m).hostSeq = s.hostSeq := rfl
@[simp] theorem State.clrReg_hostTurn (s : State) (k m : Nat) : (s.clrReg k m).hostTurn = s.hostTurn := rfl
@[simp] theorem State.clrReg_hostLink (s : State) (k m : Nat) : (s.clrReg k m).hostLink = s.hostLink := rfl
@[simp] theorem State.clrReg_reqs (s : State) (k m : Nat) : (s.clrReg k m).reqs = s.reqs := rfl
@[simp] theorem State.clrReg_batches (s : State) (k m : Nat) : (s.clrReg k m).batches = s.batches := rfl
@[simp] theorem State.clrReg_svq (s : State) (k m : Nat) : (s.clrReg k m).svq = s.svq := rfl
@[simp] theorem State.clrReg_scrub (s : State) (k m : Nat) : (s.clrReg k m).scrub = s.scrub := rfl
@[simp] theorem State.clrReg_trans (s : State) (k m : Nat) : (s.clrReg k m).trans = s.trans := rfl
@[simp] theorem State.clrReg_pwrHeld (s : State) (k m : Nat) : (s.clrReg k m).pwrHeld = s.pwrHeld := rfl
@[simp] theorem State.clrReg_capMiss (s : State) (k m : Nat) : (s.clrReg k m).capMiss = s.capMiss := rfl
@[simp] theorem State.clrReg_thermtrip (s : State) (k m : Nat) : (s.clrReg k m).thermtrip = s.thermtrip := rfl
@[simp] theorem State.clrReg_evcClass (s : State) (k m : Nat) : (s.clrReg k m).evcClass = s.evcClass := rfl
@[simp] theorem State.clrReg_pins (s : State) (k m : Nat) : (s.clrReg k m).pins = s.pins := rfl
@[simp] theorem State.clrReg_plinks (s : State) (k m : Nat) : (s.clrReg k m).plinks = s.plinks := rfl
@[simp] theorem State.clrReg_bootRetry (s : State) (k m : Nat) : (s.clrReg k m).bootRetry = s.bootRetry := rfl
@[simp] theorem State.clrReg_svc (s : State) (k m : Nat) : (s.clrReg k m).svc = s.svc := rfl
@[simp] theorem State.clrReg_capPend (s : State) (k m : Nat) : (s.clrReg k m).capPend = s.capPend := rfl
@[simp] theorem State.clrReg_capRefused (s : State) (k m : Nat) : (s.clrReg k m).capRefused = s.capRefused := rfl
@[simp] theorem State.clrReg_hourTrips (s : State) (k m : Nat) : (s.clrReg k m).hourTrips = s.hourTrips := rfl
@[simp] theorem State.clrReg_hourFatals (s : State) (k m : Nat) : (s.clrReg k m).hourFatals = s.hourFatals := rfl
@[simp] theorem State.clrReg_hourHot (s : State) (k m : Nat) : (s.clrReg k m).hourHot = s.hourHot := rfl
@[simp] theorem State.clrReg_jtag (s : State) (k m : Nat) : (s.clrReg k m).jtag = s.jtag := rfl
@[simp] theorem State.clrReg_challenge (s : State) (k m : Nat) : (s.clrReg k m).challenge = s.challenge := rfl
@[simp] theorem State.clrReg_unlocked (s : State) (k m : Nat) : (s.clrReg k m).unlocked = s.unlocked := rfl
@[simp] theorem State.clrReg_respFails (s : State) (k m : Nat) : (s.clrReg k m).respFails = s.respFails := rfl
@[simp] theorem State.clrReg_respAt (s : State) (k m : Nat) : (s.clrReg k m).respAt = s.respAt := rfl
@[simp] theorem State.clrReg_objs (s : State) (k m : Nat) : (s.clrReg k m).objs = s.objs := rfl
@[simp] theorem State.clrReg_objsBoot (s : State) (k m : Nat) : (s.clrReg k m).objsBoot = s.objsBoot := rfl
@[simp] theorem State.clrReg_dapq (s : State) (k m : Nat) : (s.clrReg k m).dapq = s.dapq := rfl
@[simp] theorem State.clrReg_dapWrite (s : State) (k m : Nat) : (s.clrReg k m).dapWrite = s.dapWrite := rfl
@[simp] theorem State.clrReg_dapKept (s : State) (k m : Nat) : (s.clrReg k m).dapKept = s.dapKept := rfl
@[simp] theorem State.clrReg_dapAsm (s : State) (k m : Nat) : (s.clrReg k m).dapAsm = s.dapAsm := rfl
@[simp] theorem State.clrReg_dapDrop (s : State) (k m : Nat) : (s.clrReg k m).dapDrop = s.dapDrop := rfl
@[simp] theorem State.clrReg_mctpEid (s : State) (k m : Nat) : (s.clrReg k m).mctpEid = s.mctpEid := rfl
@[simp] theorem State.clrReg_repairRec (s : State) (k m : Nat) : (s.clrReg k m).repairRec = s.repairRec := rfl
@[simp] theorem State.clrReg_out (s : State) (k m : Nat) : (s.clrReg k m).out = s.out := rfl
@[simp] theorem State.setCore_pending (s : State) (c : Nat) (k : Core) : (s.setCore c k).pending = s.pending := rfl
@[simp] theorem State.setCore_freeCtr (s : State) (c : Nat) (k : Core) : (s.setCore c k).freeCtr = s.freeCtr := rfl
@[simp] theorem State.setCore_fuse (s : State) (c : Nat) (k : Core) : (s.setCore c k).fuse = s.fuse := rfl
@[simp] theorem State.setCore_sclk (s : State) (c : Nat) (k : Core) : (s.setCore c k).sclk = s.sclk := rfl
@[simp] theorem State.setCore_regs (s : State) (c : Nat) (k : Core) : (s.setCore c k).regs = s.regs := rfl
@[simp] theorem State.setCore_latch (s : State) (c : Nat) (k : Core) : (s.setCore c k).latch = s.latch := rfl
@[simp] theorem State.setCore_mem (s : State) (c : Nat) (k : Core) : (s.setCore c k).mem = s.mem := rfl
@[simp] theorem State.setCore_memErr (s : State) (c : Nat) (k : Core) : (s.setCore c k).memErr = s.memErr := rfl
@[simp] theorem State.setCore_net (s : State) (c : Nat) (k : Core) : (s.setCore c k).net = s.net := rfl
@[simp] theorem State.setCore_barC (s : State) (c : Nat) (k : Core) : (s.setCore c k).barC = s.barC := rfl
@[simp] theorem State.setCore_barD (s : State) (c : Nat) (k : Core) : (s.setCore c k).barD = s.barD := rfl
@[simp] theorem State.setCore_elog (s : State) (c : Nat) (k : Core) : (s.setCore c k).elog = s.elog := rfl
@[simp] theorem State.setCore_elogOver (s : State) (c : Nat) (k : Core) : (s.setCore c k).elogOver = s.elogOver := rfl
@[simp] theorem State.setCore_devAct (s : State) (c : Nat) (k : Core) : (s.setCore c k).devAct = s.devAct := rfl
@[simp] theorem State.setCore_fns (s : State) (c : Nat) (k : Core) : (s.setCore c k).fns = s.fns := rfl
@[simp] theorem State.setCore_pllLost (s : State) (c : Nat) (k : Core) : (s.setCore c k).pllLost = s.pllLost := rfl
@[simp] theorem State.setCore_swept (s : State) (c : Nat) (k : Core) : (s.setCore c k).swept = s.swept := rfl
@[simp] theorem State.setCore_stc (s : State) (c : Nat) (k : Core) : (s.setCore c k).stc = s.stc := rfl
@[simp] theorem State.setCore_rolls (s : State) (c : Nat) (k : Core) : (s.setCore c k).rolls = s.rolls := rfl
@[simp] theorem State.setCore_runs (s : State) (c : Nat) (k : Core) : (s.setCore c k).runs = s.runs := rfl
@[simp] theorem State.setCore_applies (s : State) (c : Nat) (k : Core) : (s.setCore c k).applies = s.applies := rfl
@[simp] theorem State.setCore_reemits (s : State) (c : Nat) (k : Core) : (s.setCore c k).reemits = s.reemits := rfl
@[simp] theorem State.setCore_copyq (s : State) (c : Nat) (k : Core) : (s.setCore c k).copyq = s.copyq := rfl
@[simp] theorem State.setCore_cmReqs (s : State) (c : Nat) (k : Core) : (s.setCore c k).cmReqs = s.cmReqs := rfl
@[simp] theorem State.setCore_cmSeq (s : State) (c : Nat) (k : Core) : (s.setCore c k).cmSeq = s.cmSeq := rfl
@[simp] theorem State.setCore_comb (s : State) (c : Nat) (k : Core) : (s.setCore c k).comb = s.comb := rfl
@[simp] theorem State.setCore_redSteps (s : State) (c : Nat) (k : Core) : (s.setCore c k).redSteps = s.redSteps := rfl
@[simp] theorem State.setCore_seals (s : State) (c : Nat) (k : Core) : (s.setCore c k).seals = s.seals := rfl
@[simp] theorem State.setCore_ports (s : State) (c : Nat) (k : Core) : (s.setCore c k).ports = s.ports := rfl
@[simp] theorem State.setCore_feeds (s : State) (c : Nat) (k : Core) : (s.setCore c k).feeds = s.feeds := rfl
@[simp] theorem State.setCore_rotIn (s : State) (c : Nat) (k : Core) : (s.setCore c k).rotIn = s.rotIn := rfl
@[simp] theorem State.setCore_rqOut (s : State) (c : Nat) (k : Core) : (s.setCore c k).rqOut = s.rqOut := rfl
@[simp] theorem State.setCore_rqSeq (s : State) (c : Nat) (k : Core) : (s.setCore c k).rqSeq = s.rqSeq := rfl
@[simp] theorem State.setCore_restores (s : State) (c : Nat) (k : Core) : (s.setCore c k).restores = s.restores := rfl
@[simp] theorem State.setCore_hostqs (s : State) (c : Nat) (k : Core) : (s.setCore c k).hostqs = s.hostqs := rfl
@[simp] theorem State.setCore_hostSeq (s : State) (c : Nat) (k : Core) : (s.setCore c k).hostSeq = s.hostSeq := rfl
@[simp] theorem State.setCore_hostTurn (s : State) (c : Nat) (k : Core) : (s.setCore c k).hostTurn = s.hostTurn := rfl
@[simp] theorem State.setCore_hostLink (s : State) (c : Nat) (k : Core) : (s.setCore c k).hostLink = s.hostLink := rfl
@[simp] theorem State.setCore_reqs (s : State) (c : Nat) (k : Core) : (s.setCore c k).reqs = s.reqs := rfl
@[simp] theorem State.setCore_batches (s : State) (c : Nat) (k : Core) : (s.setCore c k).batches = s.batches := rfl
@[simp] theorem State.setCore_svq (s : State) (c : Nat) (k : Core) : (s.setCore c k).svq = s.svq := rfl
@[simp] theorem State.setCore_scrub (s : State) (c : Nat) (k : Core) : (s.setCore c k).scrub = s.scrub := rfl
@[simp] theorem State.setCore_trans (s : State) (c : Nat) (k : Core) : (s.setCore c k).trans = s.trans := rfl
@[simp] theorem State.setCore_pwrHeld (s : State) (c : Nat) (k : Core) : (s.setCore c k).pwrHeld = s.pwrHeld := rfl
@[simp] theorem State.setCore_capMiss (s : State) (c : Nat) (k : Core) : (s.setCore c k).capMiss = s.capMiss := rfl
@[simp] theorem State.setCore_thermtrip (s : State) (c : Nat) (k : Core) : (s.setCore c k).thermtrip = s.thermtrip := rfl
@[simp] theorem State.setCore_evcClass (s : State) (c : Nat) (k : Core) : (s.setCore c k).evcClass = s.evcClass := rfl
@[simp] theorem State.setCore_pins (s : State) (c : Nat) (k : Core) : (s.setCore c k).pins = s.pins := rfl
@[simp] theorem State.setCore_plinks (s : State) (c : Nat) (k : Core) : (s.setCore c k).plinks = s.plinks := rfl
@[simp] theorem State.setCore_bootRetry (s : State) (c : Nat) (k : Core) : (s.setCore c k).bootRetry = s.bootRetry := rfl
@[simp] theorem State.setCore_svc (s : State) (c : Nat) (k : Core) : (s.setCore c k).svc = s.svc := rfl
@[simp] theorem State.setCore_capPend (s : State) (c : Nat) (k : Core) : (s.setCore c k).capPend = s.capPend := rfl
@[simp] theorem State.setCore_capRefused (s : State) (c : Nat) (k : Core) : (s.setCore c k).capRefused = s.capRefused := rfl
@[simp] theorem State.setCore_hourTrips (s : State) (c : Nat) (k : Core) : (s.setCore c k).hourTrips = s.hourTrips := rfl
@[simp] theorem State.setCore_hourFatals (s : State) (c : Nat) (k : Core) : (s.setCore c k).hourFatals = s.hourFatals := rfl
@[simp] theorem State.setCore_hourHot (s : State) (c : Nat) (k : Core) : (s.setCore c k).hourHot = s.hourHot := rfl
@[simp] theorem State.setCore_jtag (s : State) (c : Nat) (k : Core) : (s.setCore c k).jtag = s.jtag := rfl
@[simp] theorem State.setCore_challenge (s : State) (c : Nat) (k : Core) : (s.setCore c k).challenge = s.challenge := rfl
@[simp] theorem State.setCore_unlocked (s : State) (c : Nat) (k : Core) : (s.setCore c k).unlocked = s.unlocked := rfl
@[simp] theorem State.setCore_respFails (s : State) (c : Nat) (k : Core) : (s.setCore c k).respFails = s.respFails := rfl
@[simp] theorem State.setCore_respAt (s : State) (c : Nat) (k : Core) : (s.setCore c k).respAt = s.respAt := rfl
@[simp] theorem State.setCore_objs (s : State) (c : Nat) (k : Core) : (s.setCore c k).objs = s.objs := rfl
@[simp] theorem State.setCore_objsBoot (s : State) (c : Nat) (k : Core) : (s.setCore c k).objsBoot = s.objsBoot := rfl
@[simp] theorem State.setCore_dapq (s : State) (c : Nat) (k : Core) : (s.setCore c k).dapq = s.dapq := rfl
@[simp] theorem State.setCore_dapWrite (s : State) (c : Nat) (k : Core) : (s.setCore c k).dapWrite = s.dapWrite := rfl
@[simp] theorem State.setCore_dapKept (s : State) (c : Nat) (k : Core) : (s.setCore c k).dapKept = s.dapKept := rfl
@[simp] theorem State.setCore_dapAsm (s : State) (c : Nat) (k : Core) : (s.setCore c k).dapAsm = s.dapAsm := rfl
@[simp] theorem State.setCore_dapDrop (s : State) (c : Nat) (k : Core) : (s.setCore c k).dapDrop = s.dapDrop := rfl
@[simp] theorem State.setCore_mctpEid (s : State) (c : Nat) (k : Core) : (s.setCore c k).mctpEid = s.mctpEid := rfl
@[simp] theorem State.setCore_repairRec (s : State) (c : Nat) (k : Core) : (s.setCore c k).repairRec = s.repairRec := rfl
@[simp] theorem State.setCore_out (s : State) (c : Nat) (k : Core) : (s.setCore c k).out = s.out := rfl
@[simp] theorem State.modCore_pending (s : State) (c : Nat) (f : Core → Core) : (s.modCore c f).pending = s.pending := rfl
@[simp] theorem State.modCore_freeCtr (s : State) (c : Nat) (f : Core → Core) : (s.modCore c f).freeCtr = s.freeCtr := rfl
@[simp] theorem State.modCore_fuse (s : State) (c : Nat) (f : Core → Core) : (s.modCore c f).fuse = s.fuse := rfl
@[simp] theorem State.modCore_sclk (s : State) (c : Nat) (f : Core → Core) : (s.modCore c f).sclk = s.sclk := rfl
@[simp] theorem State.modCore_regs (s : State) (c : Nat) (f : Core → Core) : (s.modCore c f).regs = s.regs := rfl
@[simp] theorem State.modCore_latch (s : State) (c : Nat) (f : Core → Core) : (s.modCore c f).latch = s.latch := rfl
@[simp] theorem State.modCore_mem (s : State) (c : Nat) (f : Core → Core) : (s.modCore c f).mem = s.mem := rfl
@[simp] theorem State.modCore_memErr (s : State) (c : Nat) (f : Core → Core) : (s.modCore c f).memErr = s.memErr := rfl
@[simp] theorem State.modCore_net (s : State) (c : Nat) (f : Core → Core) : (s.modCore c f).net = s.net := rfl
@[simp] theorem State.modCore_barC (s : State) (c : Nat) (f : Core → Core) : (s.modCore c f).barC = s.barC := rfl
@[simp] theorem State.modCore_barD (s : State) (c : Nat) (f : Core → Core) : (s.modCore c f).barD = s.barD := rfl
@[simp] theorem State.modCore_elog (s : State) (c : Nat) (f : Core → Core) : (s.modCore c f).elog = s.elog := rfl
@[simp] theorem State.modCore_elogOver (s : State) (c : Nat) (f : Core → Core) : (s.modCore c f).elogOver = s.elogOver := rfl
@[simp] theorem State.modCore_devAct (s : State) (c : Nat) (f : Core → Core) : (s.modCore c f).devAct = s.devAct := rfl
@[simp] theorem State.modCore_fns (s : State) (c : Nat) (f : Core → Core) : (s.modCore c f).fns = s.fns := rfl
@[simp] theorem State.modCore_pllLost (s : State) (c : Nat) (f : Core → Core) : (s.modCore c f).pllLost = s.pllLost := rfl
@[simp] theorem State.modCore_swept (s : State) (c : Nat) (f : Core → Core) : (s.modCore c f).swept = s.swept := rfl
@[simp] theorem State.modCore_stc (s : State) (c : Nat) (f : Core → Core) : (s.modCore c f).stc = s.stc := rfl
@[simp] theorem State.modCore_rolls (s : State) (c : Nat) (f : Core → Core) : (s.modCore c f).rolls = s.rolls := rfl
@[simp] theorem State.modCore_runs (s : State) (c : Nat) (f : Core → Core) : (s.modCore c f).runs = s.runs := rfl
@[simp] theorem State.modCore_applies (s : State) (c : Nat) (f : Core → Core) : (s.modCore c f).applies = s.applies := rfl
@[simp] theorem State.modCore_reemits (s : State) (c : Nat) (f : Core → Core) : (s.modCore c f).reemits = s.reemits := rfl
@[simp] theorem State.modCore_copyq (s : State) (c : Nat) (f : Core → Core) : (s.modCore c f).copyq = s.copyq := rfl
@[simp] theorem State.modCore_cmReqs (s : State) (c : Nat) (f : Core → Core) : (s.modCore c f).cmReqs = s.cmReqs := rfl
@[simp] theorem State.modCore_cmSeq (s : State) (c : Nat) (f : Core → Core) : (s.modCore c f).cmSeq = s.cmSeq := rfl
@[simp] theorem State.modCore_comb (s : State) (c : Nat) (f : Core → Core) : (s.modCore c f).comb = s.comb := rfl
@[simp] theorem State.modCore_redSteps (s : State) (c : Nat) (f : Core → Core) : (s.modCore c f).redSteps = s.redSteps := rfl
@[simp] theorem State.modCore_seals (s : State) (c : Nat) (f : Core → Core) : (s.modCore c f).seals = s.seals := rfl
@[simp] theorem State.modCore_ports (s : State) (c : Nat) (f : Core → Core) : (s.modCore c f).ports = s.ports := rfl
@[simp] theorem State.modCore_feeds (s : State) (c : Nat) (f : Core → Core) : (s.modCore c f).feeds = s.feeds := rfl
@[simp] theorem State.modCore_rotIn (s : State) (c : Nat) (f : Core → Core) : (s.modCore c f).rotIn = s.rotIn := rfl
@[simp] theorem State.modCore_rqOut (s : State) (c : Nat) (f : Core → Core) : (s.modCore c f).rqOut = s.rqOut := rfl
@[simp] theorem State.modCore_rqSeq (s : State) (c : Nat) (f : Core → Core) : (s.modCore c f).rqSeq = s.rqSeq := rfl
@[simp] theorem State.modCore_restores (s : State) (c : Nat) (f : Core → Core) : (s.modCore c f).restores = s.restores := rfl
@[simp] theorem State.modCore_hostqs (s : State) (c : Nat) (f : Core → Core) : (s.modCore c f).hostqs = s.hostqs := rfl
@[simp] theorem State.modCore_hostSeq (s : State) (c : Nat) (f : Core → Core) : (s.modCore c f).hostSeq = s.hostSeq := rfl
@[simp] theorem State.modCore_hostTurn (s : State) (c : Nat) (f : Core → Core) : (s.modCore c f).hostTurn = s.hostTurn := rfl
@[simp] theorem State.modCore_hostLink (s : State) (c : Nat) (f : Core → Core) : (s.modCore c f).hostLink = s.hostLink := rfl
@[simp] theorem State.modCore_reqs (s : State) (c : Nat) (f : Core → Core) : (s.modCore c f).reqs = s.reqs := rfl
@[simp] theorem State.modCore_batches (s : State) (c : Nat) (f : Core → Core) : (s.modCore c f).batches = s.batches := rfl
@[simp] theorem State.modCore_svq (s : State) (c : Nat) (f : Core → Core) : (s.modCore c f).svq = s.svq := rfl
@[simp] theorem State.modCore_scrub (s : State) (c : Nat) (f : Core → Core) : (s.modCore c f).scrub = s.scrub := rfl
@[simp] theorem State.modCore_trans (s : State) (c : Nat) (f : Core → Core) : (s.modCore c f).trans = s.trans := rfl
@[simp] theorem State.modCore_pwrHeld (s : State) (c : Nat) (f : Core → Core) : (s.modCore c f).pwrHeld = s.pwrHeld := rfl
@[simp] theorem State.modCore_capMiss (s : State) (c : Nat) (f : Core → Core) : (s.modCore c f).capMiss = s.capMiss := rfl
@[simp] theorem State.modCore_thermtrip (s : State) (c : Nat) (f : Core → Core) : (s.modCore c f).thermtrip = s.thermtrip := rfl
@[simp] theorem State.modCore_evcClass (s : State) (c : Nat) (f : Core → Core) : (s.modCore c f).evcClass = s.evcClass := rfl
@[simp] theorem State.modCore_pins (s : State) (c : Nat) (f : Core → Core) : (s.modCore c f).pins = s.pins := rfl
@[simp] theorem State.modCore_plinks (s : State) (c : Nat) (f : Core → Core) : (s.modCore c f).plinks = s.plinks := rfl
@[simp] theorem State.modCore_bootRetry (s : State) (c : Nat) (f : Core → Core) : (s.modCore c f).bootRetry = s.bootRetry := rfl
@[simp] theorem State.modCore_svc (s : State) (c : Nat) (f : Core → Core) : (s.modCore c f).svc = s.svc := rfl
@[simp] theorem State.modCore_capPend (s : State) (c : Nat) (f : Core → Core) : (s.modCore c f).capPend = s.capPend := rfl
@[simp] theorem State.modCore_capRefused (s : State) (c : Nat) (f : Core → Core) : (s.modCore c f).capRefused = s.capRefused := rfl
@[simp] theorem State.modCore_hourTrips (s : State) (c : Nat) (f : Core → Core) : (s.modCore c f).hourTrips = s.hourTrips := rfl
@[simp] theorem State.modCore_hourFatals (s : State) (c : Nat) (f : Core → Core) : (s.modCore c f).hourFatals = s.hourFatals := rfl
@[simp] theorem State.modCore_hourHot (s : State) (c : Nat) (f : Core → Core) : (s.modCore c f).hourHot = s.hourHot := rfl
@[simp] theorem State.modCore_jtag (s : State) (c : Nat) (f : Core → Core) : (s.modCore c f).jtag = s.jtag := rfl
@[simp] theorem State.modCore_challenge (s : State) (c : Nat) (f : Core → Core) : (s.modCore c f).challenge = s.challenge := rfl
@[simp] theorem State.modCore_unlocked (s : State) (c : Nat) (f : Core → Core) : (s.modCore c f).unlocked = s.unlocked := rfl
@[simp] theorem State.modCore_respFails (s : State) (c : Nat) (f : Core → Core) : (s.modCore c f).respFails = s.respFails := rfl
@[simp] theorem State.modCore_respAt (s : State) (c : Nat) (f : Core → Core) : (s.modCore c f).respAt = s.respAt := rfl
@[simp] theorem State.modCore_objs (s : State) (c : Nat) (f : Core → Core) : (s.modCore c f).objs = s.objs := rfl
@[simp] theorem State.modCore_objsBoot (s : State) (c : Nat) (f : Core → Core) : (s.modCore c f).objsBoot = s.objsBoot := rfl
@[simp] theorem State.modCore_dapq (s : State) (c : Nat) (f : Core → Core) : (s.modCore c f).dapq = s.dapq := rfl
@[simp] theorem State.modCore_dapWrite (s : State) (c : Nat) (f : Core → Core) : (s.modCore c f).dapWrite = s.dapWrite := rfl
@[simp] theorem State.modCore_dapKept (s : State) (c : Nat) (f : Core → Core) : (s.modCore c f).dapKept = s.dapKept := rfl
@[simp] theorem State.modCore_dapAsm (s : State) (c : Nat) (f : Core → Core) : (s.modCore c f).dapAsm = s.dapAsm := rfl
@[simp] theorem State.modCore_dapDrop (s : State) (c : Nat) (f : Core → Core) : (s.modCore c f).dapDrop = s.dapDrop := rfl
@[simp] theorem State.modCore_mctpEid (s : State) (c : Nat) (f : Core → Core) : (s.modCore c f).mctpEid = s.mctpEid := rfl
@[simp] theorem State.modCore_repairRec (s : State) (c : Nat) (f : Core → Core) : (s.modCore c f).repairRec = s.repairRec := rfl
@[simp] theorem State.modCore_out (s : State) (c : Nat) (f : Core → Core) : (s.modCore c f).out = s.out := rfl
@[simp] theorem State.setFn_pending (s : State) (f : Nat) (x : HostFn) : (s.setFn f x).pending = s.pending := rfl
@[simp] theorem State.setFn_freeCtr (s : State) (f : Nat) (x : HostFn) : (s.setFn f x).freeCtr = s.freeCtr := rfl
@[simp] theorem State.setFn_fuse (s : State) (f : Nat) (x : HostFn) : (s.setFn f x).fuse = s.fuse := rfl
@[simp] theorem State.setFn_sclk (s : State) (f : Nat) (x : HostFn) : (s.setFn f x).sclk = s.sclk := rfl
@[simp] theorem State.setFn_regs (s : State) (f : Nat) (x : HostFn) : (s.setFn f x).regs = s.regs := rfl
@[simp] theorem State.setFn_latch (s : State) (f : Nat) (x : HostFn) : (s.setFn f x).latch = s.latch := rfl
@[simp] theorem State.setFn_cores (s : State) (f : Nat) (x : HostFn) : (s.setFn f x).cores = s.cores := rfl
@[simp] theorem State.setFn_mem (s : State) (f : Nat) (x : HostFn) : (s.setFn f x).mem = s.mem := rfl
@[simp] theorem State.setFn_memErr (s : State) (f : Nat) (x : HostFn) : (s.setFn f x).memErr = s.memErr := rfl
@[simp] theorem State.setFn_net (s : State) (f : Nat) (x : HostFn) : (s.setFn f x).net = s.net := rfl
@[simp] theorem State.setFn_barC (s : State) (f : Nat) (x : HostFn) : (s.setFn f x).barC = s.barC := rfl
@[simp] theorem State.setFn_barD (s : State) (f : Nat) (x : HostFn) : (s.setFn f x).barD = s.barD := rfl
@[simp] theorem State.setFn_elog (s : State) (f : Nat) (x : HostFn) : (s.setFn f x).elog = s.elog := rfl
@[simp] theorem State.setFn_elogOver (s : State) (f : Nat) (x : HostFn) : (s.setFn f x).elogOver = s.elogOver := rfl
@[simp] theorem State.setFn_devAct (s : State) (f : Nat) (x : HostFn) : (s.setFn f x).devAct = s.devAct := rfl
@[simp] theorem State.setFn_pllLost (s : State) (f : Nat) (x : HostFn) : (s.setFn f x).pllLost = s.pllLost := rfl
@[simp] theorem State.setFn_swept (s : State) (f : Nat) (x : HostFn) : (s.setFn f x).swept = s.swept := rfl
@[simp] theorem State.setFn_stc (s : State) (f : Nat) (x : HostFn) : (s.setFn f x).stc = s.stc := rfl
@[simp] theorem State.setFn_rolls (s : State) (f : Nat) (x : HostFn) : (s.setFn f x).rolls = s.rolls := rfl
@[simp] theorem State.setFn_runs (s : State) (f : Nat) (x : HostFn) : (s.setFn f x).runs = s.runs := rfl
@[simp] theorem State.setFn_applies (s : State) (f : Nat) (x : HostFn) : (s.setFn f x).applies = s.applies := rfl
@[simp] theorem State.setFn_reemits (s : State) (f : Nat) (x : HostFn) : (s.setFn f x).reemits = s.reemits := rfl
@[simp] theorem State.setFn_copyq (s : State) (f : Nat) (x : HostFn) : (s.setFn f x).copyq = s.copyq := rfl
@[simp] theorem State.setFn_cmReqs (s : State) (f : Nat) (x : HostFn) : (s.setFn f x).cmReqs = s.cmReqs := rfl
@[simp] theorem State.setFn_cmSeq (s : State) (f : Nat) (x : HostFn) : (s.setFn f x).cmSeq = s.cmSeq := rfl
@[simp] theorem State.setFn_comb (s : State) (f : Nat) (x : HostFn) : (s.setFn f x).comb = s.comb := rfl
@[simp] theorem State.setFn_redSteps (s : State) (f : Nat) (x : HostFn) : (s.setFn f x).redSteps = s.redSteps := rfl
@[simp] theorem State.setFn_seals (s : State) (f : Nat) (x : HostFn) : (s.setFn f x).seals = s.seals := rfl
@[simp] theorem State.setFn_ports (s : State) (f : Nat) (x : HostFn) : (s.setFn f x).ports = s.ports := rfl
@[simp] theorem State.setFn_feeds (s : State) (f : Nat) (x : HostFn) : (s.setFn f x).feeds = s.feeds := rfl
@[simp] theorem State.setFn_rotIn (s : State) (f : Nat) (x : HostFn) : (s.setFn f x).rotIn = s.rotIn := rfl
@[simp] theorem State.setFn_rqOut (s : State) (f : Nat) (x : HostFn) : (s.setFn f x).rqOut = s.rqOut := rfl
@[simp] theorem State.setFn_rqSeq (s : State) (f : Nat) (x : HostFn) : (s.setFn f x).rqSeq = s.rqSeq := rfl
@[simp] theorem State.setFn_restores (s : State) (f : Nat) (x : HostFn) : (s.setFn f x).restores = s.restores := rfl
@[simp] theorem State.setFn_hostqs (s : State) (f : Nat) (x : HostFn) : (s.setFn f x).hostqs = s.hostqs := rfl
@[simp] theorem State.setFn_hostSeq (s : State) (f : Nat) (x : HostFn) : (s.setFn f x).hostSeq = s.hostSeq := rfl
@[simp] theorem State.setFn_hostTurn (s : State) (f : Nat) (x : HostFn) : (s.setFn f x).hostTurn = s.hostTurn := rfl
@[simp] theorem State.setFn_hostLink (s : State) (f : Nat) (x : HostFn) : (s.setFn f x).hostLink = s.hostLink := rfl
@[simp] theorem State.setFn_reqs (s : State) (f : Nat) (x : HostFn) : (s.setFn f x).reqs = s.reqs := rfl
@[simp] theorem State.setFn_batches (s : State) (f : Nat) (x : HostFn) : (s.setFn f x).batches = s.batches := rfl
@[simp] theorem State.setFn_svq (s : State) (f : Nat) (x : HostFn) : (s.setFn f x).svq = s.svq := rfl
@[simp] theorem State.setFn_scrub (s : State) (f : Nat) (x : HostFn) : (s.setFn f x).scrub = s.scrub := rfl
@[simp] theorem State.setFn_trans (s : State) (f : Nat) (x : HostFn) : (s.setFn f x).trans = s.trans := rfl
@[simp] theorem State.setFn_pwrHeld (s : State) (f : Nat) (x : HostFn) : (s.setFn f x).pwrHeld = s.pwrHeld := rfl
@[simp] theorem State.setFn_capMiss (s : State) (f : Nat) (x : HostFn) : (s.setFn f x).capMiss = s.capMiss := rfl
@[simp] theorem State.setFn_thermtrip (s : State) (f : Nat) (x : HostFn) : (s.setFn f x).thermtrip = s.thermtrip := rfl
@[simp] theorem State.setFn_evcClass (s : State) (f : Nat) (x : HostFn) : (s.setFn f x).evcClass = s.evcClass := rfl
@[simp] theorem State.setFn_pins (s : State) (f : Nat) (x : HostFn) : (s.setFn f x).pins = s.pins := rfl
@[simp] theorem State.setFn_plinks (s : State) (f : Nat) (x : HostFn) : (s.setFn f x).plinks = s.plinks := rfl
@[simp] theorem State.setFn_bootRetry (s : State) (f : Nat) (x : HostFn) : (s.setFn f x).bootRetry = s.bootRetry := rfl
@[simp] theorem State.setFn_svc (s : State) (f : Nat) (x : HostFn) : (s.setFn f x).svc = s.svc := rfl
@[simp] theorem State.setFn_capPend (s : State) (f : Nat) (x : HostFn) : (s.setFn f x).capPend = s.capPend := rfl
@[simp] theorem State.setFn_capRefused (s : State) (f : Nat) (x : HostFn) : (s.setFn f x).capRefused = s.capRefused := rfl
@[simp] theorem State.setFn_hourTrips (s : State) (f : Nat) (x : HostFn) : (s.setFn f x).hourTrips = s.hourTrips := rfl
@[simp] theorem State.setFn_hourFatals (s : State) (f : Nat) (x : HostFn) : (s.setFn f x).hourFatals = s.hourFatals := rfl
@[simp] theorem State.setFn_hourHot (s : State) (f : Nat) (x : HostFn) : (s.setFn f x).hourHot = s.hourHot := rfl
@[simp] theorem State.setFn_jtag (s : State) (f : Nat) (x : HostFn) : (s.setFn f x).jtag = s.jtag := rfl
@[simp] theorem State.setFn_challenge (s : State) (f : Nat) (x : HostFn) : (s.setFn f x).challenge = s.challenge := rfl
@[simp] theorem State.setFn_unlocked (s : State) (f : Nat) (x : HostFn) : (s.setFn f x).unlocked = s.unlocked := rfl
@[simp] theorem State.setFn_respFails (s : State) (f : Nat) (x : HostFn) : (s.setFn f x).respFails = s.respFails := rfl
@[simp] theorem State.setFn_respAt (s : State) (f : Nat) (x : HostFn) : (s.setFn f x).respAt = s.respAt := rfl
@[simp] theorem State.setFn_objs (s : State) (f : Nat) (x : HostFn) : (s.setFn f x).objs = s.objs := rfl
@[simp] theorem State.setFn_objsBoot (s : State) (f : Nat) (x : HostFn) : (s.setFn f x).objsBoot = s.objsBoot := rfl
@[simp] theorem State.setFn_dapq (s : State) (f : Nat) (x : HostFn) : (s.setFn f x).dapq = s.dapq := rfl
@[simp] theorem State.setFn_dapWrite (s : State) (f : Nat) (x : HostFn) : (s.setFn f x).dapWrite = s.dapWrite := rfl
@[simp] theorem State.setFn_dapKept (s : State) (f : Nat) (x : HostFn) : (s.setFn f x).dapKept = s.dapKept := rfl
@[simp] theorem State.setFn_dapAsm (s : State) (f : Nat) (x : HostFn) : (s.setFn f x).dapAsm = s.dapAsm := rfl
@[simp] theorem State.setFn_dapDrop (s : State) (f : Nat) (x : HostFn) : (s.setFn f x).dapDrop = s.dapDrop := rfl
@[simp] theorem State.setFn_mctpEid (s : State) (f : Nat) (x : HostFn) : (s.setFn f x).mctpEid = s.mctpEid := rfl
@[simp] theorem State.setFn_repairRec (s : State) (f : Nat) (x : HostFn) : (s.setFn f x).repairRec = s.repairRec := rfl
@[simp] theorem State.setFn_out (s : State) (f : Nat) (x : HostFn) : (s.setFn f x).out = s.out := rfl
@[simp] theorem State.send_pending (s : State) (x : NetItem) : (s.send x).pending = s.pending := rfl
@[simp] theorem State.send_freeCtr (s : State) (x : NetItem) : (s.send x).freeCtr = s.freeCtr := rfl
@[simp] theorem State.send_fuse (s : State) (x : NetItem) : (s.send x).fuse = s.fuse := rfl
@[simp] theorem State.send_sclk (s : State) (x : NetItem) : (s.send x).sclk = s.sclk := rfl
@[simp] theorem State.send_regs (s : State) (x : NetItem) : (s.send x).regs = s.regs := rfl
@[simp] theorem State.send_latch (s : State) (x : NetItem) : (s.send x).latch = s.latch := rfl
@[simp] theorem State.send_cores (s : State) (x : NetItem) : (s.send x).cores = s.cores := rfl
@[simp] theorem State.send_mem (s : State) (x : NetItem) : (s.send x).mem = s.mem := rfl
@[simp] theorem State.send_memErr (s : State) (x : NetItem) : (s.send x).memErr = s.memErr := rfl
@[simp] theorem State.send_barC (s : State) (x : NetItem) : (s.send x).barC = s.barC := rfl
@[simp] theorem State.send_barD (s : State) (x : NetItem) : (s.send x).barD = s.barD := rfl
@[simp] theorem State.send_elog (s : State) (x : NetItem) : (s.send x).elog = s.elog := rfl
@[simp] theorem State.send_elogOver (s : State) (x : NetItem) : (s.send x).elogOver = s.elogOver := rfl
@[simp] theorem State.send_devAct (s : State) (x : NetItem) : (s.send x).devAct = s.devAct := rfl
@[simp] theorem State.send_fns (s : State) (x : NetItem) : (s.send x).fns = s.fns := rfl
@[simp] theorem State.send_pllLost (s : State) (x : NetItem) : (s.send x).pllLost = s.pllLost := rfl
@[simp] theorem State.send_swept (s : State) (x : NetItem) : (s.send x).swept = s.swept := rfl
@[simp] theorem State.send_stc (s : State) (x : NetItem) : (s.send x).stc = s.stc := rfl
@[simp] theorem State.send_rolls (s : State) (x : NetItem) : (s.send x).rolls = s.rolls := rfl
@[simp] theorem State.send_runs (s : State) (x : NetItem) : (s.send x).runs = s.runs := rfl
@[simp] theorem State.send_applies (s : State) (x : NetItem) : (s.send x).applies = s.applies := rfl
@[simp] theorem State.send_reemits (s : State) (x : NetItem) : (s.send x).reemits = s.reemits := rfl
@[simp] theorem State.send_copyq (s : State) (x : NetItem) : (s.send x).copyq = s.copyq := rfl
@[simp] theorem State.send_cmReqs (s : State) (x : NetItem) : (s.send x).cmReqs = s.cmReqs := rfl
@[simp] theorem State.send_cmSeq (s : State) (x : NetItem) : (s.send x).cmSeq = s.cmSeq := rfl
@[simp] theorem State.send_comb (s : State) (x : NetItem) : (s.send x).comb = s.comb := rfl
@[simp] theorem State.send_redSteps (s : State) (x : NetItem) : (s.send x).redSteps = s.redSteps := rfl
@[simp] theorem State.send_seals (s : State) (x : NetItem) : (s.send x).seals = s.seals := rfl
@[simp] theorem State.send_ports (s : State) (x : NetItem) : (s.send x).ports = s.ports := rfl
@[simp] theorem State.send_feeds (s : State) (x : NetItem) : (s.send x).feeds = s.feeds := rfl
@[simp] theorem State.send_rotIn (s : State) (x : NetItem) : (s.send x).rotIn = s.rotIn := rfl
@[simp] theorem State.send_rqOut (s : State) (x : NetItem) : (s.send x).rqOut = s.rqOut := rfl
@[simp] theorem State.send_rqSeq (s : State) (x : NetItem) : (s.send x).rqSeq = s.rqSeq := rfl
@[simp] theorem State.send_restores (s : State) (x : NetItem) : (s.send x).restores = s.restores := rfl
@[simp] theorem State.send_hostqs (s : State) (x : NetItem) : (s.send x).hostqs = s.hostqs := rfl
@[simp] theorem State.send_hostSeq (s : State) (x : NetItem) : (s.send x).hostSeq = s.hostSeq := rfl
@[simp] theorem State.send_hostTurn (s : State) (x : NetItem) : (s.send x).hostTurn = s.hostTurn := rfl
@[simp] theorem State.send_hostLink (s : State) (x : NetItem) : (s.send x).hostLink = s.hostLink := rfl
@[simp] theorem State.send_reqs (s : State) (x : NetItem) : (s.send x).reqs = s.reqs := rfl
@[simp] theorem State.send_batches (s : State) (x : NetItem) : (s.send x).batches = s.batches := rfl
@[simp] theorem State.send_svq (s : State) (x : NetItem) : (s.send x).svq = s.svq := rfl
@[simp] theorem State.send_scrub (s : State) (x : NetItem) : (s.send x).scrub = s.scrub := rfl
@[simp] theorem State.send_trans (s : State) (x : NetItem) : (s.send x).trans = s.trans := rfl
@[simp] theorem State.send_pwrHeld (s : State) (x : NetItem) : (s.send x).pwrHeld = s.pwrHeld := rfl
@[simp] theorem State.send_capMiss (s : State) (x : NetItem) : (s.send x).capMiss = s.capMiss := rfl
@[simp] theorem State.send_thermtrip (s : State) (x : NetItem) : (s.send x).thermtrip = s.thermtrip := rfl
@[simp] theorem State.send_evcClass (s : State) (x : NetItem) : (s.send x).evcClass = s.evcClass := rfl
@[simp] theorem State.send_pins (s : State) (x : NetItem) : (s.send x).pins = s.pins := rfl
@[simp] theorem State.send_plinks (s : State) (x : NetItem) : (s.send x).plinks = s.plinks := rfl
@[simp] theorem State.send_bootRetry (s : State) (x : NetItem) : (s.send x).bootRetry = s.bootRetry := rfl
@[simp] theorem State.send_svc (s : State) (x : NetItem) : (s.send x).svc = s.svc := rfl
@[simp] theorem State.send_capPend (s : State) (x : NetItem) : (s.send x).capPend = s.capPend := rfl
@[simp] theorem State.send_capRefused (s : State) (x : NetItem) : (s.send x).capRefused = s.capRefused := rfl
@[simp] theorem State.send_hourTrips (s : State) (x : NetItem) : (s.send x).hourTrips = s.hourTrips := rfl
@[simp] theorem State.send_hourFatals (s : State) (x : NetItem) : (s.send x).hourFatals = s.hourFatals := rfl
@[simp] theorem State.send_hourHot (s : State) (x : NetItem) : (s.send x).hourHot = s.hourHot := rfl
@[simp] theorem State.send_jtag (s : State) (x : NetItem) : (s.send x).jtag = s.jtag := rfl
@[simp] theorem State.send_challenge (s : State) (x : NetItem) : (s.send x).challenge = s.challenge := rfl
@[simp] theorem State.send_unlocked (s : State) (x : NetItem) : (s.send x).unlocked = s.unlocked := rfl
@[simp] theorem State.send_respFails (s : State) (x : NetItem) : (s.send x).respFails = s.respFails := rfl
@[simp] theorem State.send_respAt (s : State) (x : NetItem) : (s.send x).respAt = s.respAt := rfl
@[simp] theorem State.send_objs (s : State) (x : NetItem) : (s.send x).objs = s.objs := rfl
@[simp] theorem State.send_objsBoot (s : State) (x : NetItem) : (s.send x).objsBoot = s.objsBoot := rfl
@[simp] theorem State.send_dapq (s : State) (x : NetItem) : (s.send x).dapq = s.dapq := rfl
@[simp] theorem State.send_dapWrite (s : State) (x : NetItem) : (s.send x).dapWrite = s.dapWrite := rfl
@[simp] theorem State.send_dapKept (s : State) (x : NetItem) : (s.send x).dapKept = s.dapKept := rfl
@[simp] theorem State.send_dapAsm (s : State) (x : NetItem) : (s.send x).dapAsm = s.dapAsm := rfl
@[simp] theorem State.send_dapDrop (s : State) (x : NetItem) : (s.send x).dapDrop = s.dapDrop := rfl
@[simp] theorem State.send_mctpEid (s : State) (x : NetItem) : (s.send x).mctpEid = s.mctpEid := rfl
@[simp] theorem State.send_repairRec (s : State) (x : NetItem) : (s.send x).repairRec = s.repairRec := rfl
@[simp] theorem State.send_out (s : State) (x : NetItem) : (s.send x).out = s.out := rfl
@[simp] theorem Core.put_regs (k : Core) (n : Nat) (v : Word) : (k.put n v).regs = k.regs := rfl
@[simp] theorem Core.put_pc (k : Core) (n : Nat) (v : Word) : (k.put n v).pc = k.pc := rfl
@[simp] theorem Core.put_tab (k : Core) (n : Nat) (v : Word) : (k.put n v).tab = k.tab := rfl
@[simp] theorem Core.put_act (k : Core) (n : Nat) (v : Word) : (k.put n v).act = k.act := rfl
@[simp] theorem Core.put_latch (k : Core) (n : Nat) (v : Word) : (k.put n v).latch = k.latch := rfl
@[simp] theorem Core.put_imem (k : Core) (n : Nat) (v : Word) : (k.put n v).imem = k.imem := rfl
@[simp] theorem Core.put_spad (k : Core) (n : Nat) (v : Word) : (k.put n v).spad = k.spad := rfl
@[simp] theorem Core.put_imemErr (k : Core) (n : Nat) (v : Word) : (k.put n v).imemErr = k.imemErr := rfl
@[simp] theorem Core.put_spadErr (k : Core) (n : Nat) (v : Word) : (k.put n v).spadErr = k.spadErr := rfl
@[simp] theorem Core.put_wait (k : Core) (n : Nat) (v : Word) : (k.put n v).wait = k.wait := rfl
@[simp] theorem Core.put_stepping (k : Core) (n : Nat) (v : Word) : (k.put n v).stepping = k.stepping := rfl
@[simp] theorem Core.put_engs (k : Core) (n : Nat) (v : Word) : (k.put n v).engs = k.engs := rfl
@[simp] theorem Core.put_faults (k : Core) (n : Nat) (v : Word) : (k.put n v).faults = k.faults := rfl
@[simp] theorem Core.put_sendNext (k : Core) (n : Nat) (v : Word) : (k.put n v).sendNext = k.sendNext := rfl
@[simp] theorem Core.put_sendq (k : Core) (n : Nat) (v : Word) : (k.put n v).sendq = k.sendq := rfl
@[simp] theorem Core.put_sacc (k : Core) (n : Nat) (v : Word) : (k.put n v).sacc = k.sacc := rfl
@[simp] theorem Core.put_saccFar (k : Core) (n : Nat) (v : Word) : (k.put n v).saccFar = k.saccFar := rfl
@[simp] theorem Core.put_rx (k : Core) (n : Nat) (v : Word) : (k.put n v).rx = k.rx := rfl
@[simp] theorem Core.put_tx (k : Core) (n : Nat) (v : Word) : (k.put n v).tx = k.tx := rfl
@[simp] theorem Core.put_ctxs (k : Core) (n : Nat) (v : Word) : (k.put n v).ctxs = k.ctxs := rfl
@[simp] theorem Core.put_ticked (k : Core) (n : Nat) (v : Word) : (k.put n v).ticked = k.ticked := rfl
@[simp] theorem Core.putFld_regs (k : Core) (n lo len v : Nat) : (k.putFld n lo len v).regs = k.regs := rfl
@[simp] theorem Core.putFld_pc (k : Core) (n lo len v : Nat) : (k.putFld n lo len v).pc = k.pc := rfl
@[simp] theorem Core.putFld_tab (k : Core) (n lo len v : Nat) : (k.putFld n lo len v).tab = k.tab := rfl
@[simp] theorem Core.putFld_act (k : Core) (n lo len v : Nat) : (k.putFld n lo len v).act = k.act := rfl
@[simp] theorem Core.putFld_latch (k : Core) (n lo len v : Nat) : (k.putFld n lo len v).latch = k.latch := rfl
@[simp] theorem Core.putFld_imem (k : Core) (n lo len v : Nat) : (k.putFld n lo len v).imem = k.imem := rfl
@[simp] theorem Core.putFld_spad (k : Core) (n lo len v : Nat) : (k.putFld n lo len v).spad = k.spad := rfl
@[simp] theorem Core.putFld_imemErr (k : Core) (n lo len v : Nat) : (k.putFld n lo len v).imemErr = k.imemErr := rfl
@[simp] theorem Core.putFld_spadErr (k : Core) (n lo len v : Nat) : (k.putFld n lo len v).spadErr = k.spadErr := rfl
@[simp] theorem Core.putFld_wait (k : Core) (n lo len v : Nat) : (k.putFld n lo len v).wait = k.wait := rfl
@[simp] theorem Core.putFld_stepping (k : Core) (n lo len v : Nat) : (k.putFld n lo len v).stepping = k.stepping := rfl
@[simp] theorem Core.putFld_engs (k : Core) (n lo len v : Nat) : (k.putFld n lo len v).engs = k.engs := rfl
@[simp] theorem Core.putFld_faults (k : Core) (n lo len v : Nat) : (k.putFld n lo len v).faults = k.faults := rfl
@[simp] theorem Core.putFld_sendNext (k : Core) (n lo len v : Nat) : (k.putFld n lo len v).sendNext = k.sendNext := rfl
@[simp] theorem Core.putFld_sendq (k : Core) (n lo len v : Nat) : (k.putFld n lo len v).sendq = k.sendq := rfl
@[simp] theorem Core.putFld_sacc (k : Core) (n lo len v : Nat) : (k.putFld n lo len v).sacc = k.sacc := rfl
@[simp] theorem Core.putFld_saccFar (k : Core) (n lo len v : Nat) : (k.putFld n lo len v).saccFar = k.saccFar := rfl
@[simp] theorem Core.putFld_rx (k : Core) (n lo len v : Nat) : (k.putFld n lo len v).rx = k.rx := rfl
@[simp] theorem Core.putFld_tx (k : Core) (n lo len v : Nat) : (k.putFld n lo len v).tx = k.tx := rfl
@[simp] theorem Core.putFld_ctxs (k : Core) (n lo len v : Nat) : (k.putFld n lo len v).ctxs = k.ctxs := rfl
@[simp] theorem Core.putFld_ticked (k : Core) (n lo len v : Nat) : (k.putFld n lo len v).ticked = k.ticked := rfl
@[simp] theorem Core.orCsr_regs (k : Core) (n m : Nat) : (k.orCsr n m).regs = k.regs := rfl
@[simp] theorem Core.orCsr_pc (k : Core) (n m : Nat) : (k.orCsr n m).pc = k.pc := rfl
@[simp] theorem Core.orCsr_tab (k : Core) (n m : Nat) : (k.orCsr n m).tab = k.tab := rfl
@[simp] theorem Core.orCsr_act (k : Core) (n m : Nat) : (k.orCsr n m).act = k.act := rfl
@[simp] theorem Core.orCsr_latch (k : Core) (n m : Nat) : (k.orCsr n m).latch = k.latch := rfl
@[simp] theorem Core.orCsr_imem (k : Core) (n m : Nat) : (k.orCsr n m).imem = k.imem := rfl
@[simp] theorem Core.orCsr_spad (k : Core) (n m : Nat) : (k.orCsr n m).spad = k.spad := rfl
@[simp] theorem Core.orCsr_imemErr (k : Core) (n m : Nat) : (k.orCsr n m).imemErr = k.imemErr := rfl
@[simp] theorem Core.orCsr_spadErr (k : Core) (n m : Nat) : (k.orCsr n m).spadErr = k.spadErr := rfl
@[simp] theorem Core.orCsr_wait (k : Core) (n m : Nat) : (k.orCsr n m).wait = k.wait := rfl
@[simp] theorem Core.orCsr_stepping (k : Core) (n m : Nat) : (k.orCsr n m).stepping = k.stepping := rfl
@[simp] theorem Core.orCsr_engs (k : Core) (n m : Nat) : (k.orCsr n m).engs = k.engs := rfl
@[simp] theorem Core.orCsr_faults (k : Core) (n m : Nat) : (k.orCsr n m).faults = k.faults := rfl
@[simp] theorem Core.orCsr_sendNext (k : Core) (n m : Nat) : (k.orCsr n m).sendNext = k.sendNext := rfl
@[simp] theorem Core.orCsr_sendq (k : Core) (n m : Nat) : (k.orCsr n m).sendq = k.sendq := rfl
@[simp] theorem Core.orCsr_sacc (k : Core) (n m : Nat) : (k.orCsr n m).sacc = k.sacc := rfl
@[simp] theorem Core.orCsr_saccFar (k : Core) (n m : Nat) : (k.orCsr n m).saccFar = k.saccFar := rfl
@[simp] theorem Core.orCsr_rx (k : Core) (n m : Nat) : (k.orCsr n m).rx = k.rx := rfl
@[simp] theorem Core.orCsr_tx (k : Core) (n m : Nat) : (k.orCsr n m).tx = k.tx := rfl
@[simp] theorem Core.orCsr_ctxs (k : Core) (n m : Nat) : (k.orCsr n m).ctxs = k.ctxs := rfl
@[simp] theorem Core.orCsr_ticked (k : Core) (n m : Nat) : (k.orCsr n m).ticked = k.ticked := rfl
@[simp] theorem Core.clrCsr_regs (k : Core) (n m : Nat) : (k.clrCsr n m).regs = k.regs := rfl
@[simp] theorem Core.clrCsr_pc (k : Core) (n m : Nat) : (k.clrCsr n m).pc = k.pc := rfl
@[simp] theorem Core.clrCsr_tab (k : Core) (n m : Nat) : (k.clrCsr n m).tab = k.tab := rfl
@[simp] theorem Core.clrCsr_act (k : Core) (n m : Nat) : (k.clrCsr n m).act = k.act := rfl
@[simp] theorem Core.clrCsr_latch (k : Core) (n m : Nat) : (k.clrCsr n m).latch = k.latch := rfl
@[simp] theorem Core.clrCsr_imem (k : Core) (n m : Nat) : (k.clrCsr n m).imem = k.imem := rfl
@[simp] theorem Core.clrCsr_spad (k : Core) (n m : Nat) : (k.clrCsr n m).spad = k.spad := rfl
@[simp] theorem Core.clrCsr_imemErr (k : Core) (n m : Nat) : (k.clrCsr n m).imemErr = k.imemErr := rfl
@[simp] theorem Core.clrCsr_spadErr (k : Core) (n m : Nat) : (k.clrCsr n m).spadErr = k.spadErr := rfl
@[simp] theorem Core.clrCsr_wait (k : Core) (n m : Nat) : (k.clrCsr n m).wait = k.wait := rfl
@[simp] theorem Core.clrCsr_stepping (k : Core) (n m : Nat) : (k.clrCsr n m).stepping = k.stepping := rfl
@[simp] theorem Core.clrCsr_engs (k : Core) (n m : Nat) : (k.clrCsr n m).engs = k.engs := rfl
@[simp] theorem Core.clrCsr_faults (k : Core) (n m : Nat) : (k.clrCsr n m).faults = k.faults := rfl
@[simp] theorem Core.clrCsr_sendNext (k : Core) (n m : Nat) : (k.clrCsr n m).sendNext = k.sendNext := rfl
@[simp] theorem Core.clrCsr_sendq (k : Core) (n m : Nat) : (k.clrCsr n m).sendq = k.sendq := rfl
@[simp] theorem Core.clrCsr_sacc (k : Core) (n m : Nat) : (k.clrCsr n m).sacc = k.sacc := rfl
@[simp] theorem Core.clrCsr_saccFar (k : Core) (n m : Nat) : (k.clrCsr n m).saccFar = k.saccFar := rfl
@[simp] theorem Core.clrCsr_rx (k : Core) (n m : Nat) : (k.clrCsr n m).rx = k.rx := rfl
@[simp] theorem Core.clrCsr_tx (k : Core) (n m : Nat) : (k.clrCsr n m).tx = k.tx := rfl
@[simp] theorem Core.clrCsr_ctxs (k : Core) (n m : Nat) : (k.clrCsr n m).ctxs = k.ctxs := rfl
@[simp] theorem Core.clrCsr_ticked (k : Core) (n m : Nat) : (k.clrCsr n m).ticked = k.ticked := rfl
@[simp] theorem Core.setRs_regs (k : Core) (v : Nat) : (k.setRs v).regs = k.regs := rfl
@[simp] theorem Core.setRs_pc (k : Core) (v : Nat) : (k.setRs v).pc = k.pc := rfl
@[simp] theorem Core.setRs_tab (k : Core) (v : Nat) : (k.setRs v).tab = k.tab := rfl
@[simp] theorem Core.setRs_act (k : Core) (v : Nat) : (k.setRs v).act = k.act := rfl
@[simp] theorem Core.setRs_latch (k : Core) (v : Nat) : (k.setRs v).latch = k.latch := rfl
@[simp] theorem Core.setRs_imem (k : Core) (v : Nat) : (k.setRs v).imem = k.imem := rfl
@[simp] theorem Core.setRs_spad (k : Core) (v : Nat) : (k.setRs v).spad = k.spad := rfl
@[simp] theorem Core.setRs_imemErr (k : Core) (v : Nat) : (k.setRs v).imemErr = k.imemErr := rfl
@[simp] theorem Core.setRs_spadErr (k : Core) (v : Nat) : (k.setRs v).spadErr = k.spadErr := rfl
@[simp] theorem Core.setRs_wait (k : Core) (v : Nat) : (k.setRs v).wait = k.wait := rfl
@[simp] theorem Core.setRs_stepping (k : Core) (v : Nat) : (k.setRs v).stepping = k.stepping := rfl
@[simp] theorem Core.setRs_engs (k : Core) (v : Nat) : (k.setRs v).engs = k.engs := rfl
@[simp] theorem Core.setRs_faults (k : Core) (v : Nat) : (k.setRs v).faults = k.faults := rfl
@[simp] theorem Core.setRs_sendNext (k : Core) (v : Nat) : (k.setRs v).sendNext = k.sendNext := rfl
@[simp] theorem Core.setRs_sendq (k : Core) (v : Nat) : (k.setRs v).sendq = k.sendq := rfl
@[simp] theorem Core.setRs_sacc (k : Core) (v : Nat) : (k.setRs v).sacc = k.sacc := rfl
@[simp] theorem Core.setRs_saccFar (k : Core) (v : Nat) : (k.setRs v).saccFar = k.saccFar := rfl
@[simp] theorem Core.setRs_rx (k : Core) (v : Nat) : (k.setRs v).rx = k.rx := rfl
@[simp] theorem Core.setRs_tx (k : Core) (v : Nat) : (k.setRs v).tx = k.tx := rfl
@[simp] theorem Core.setRs_ctxs (k : Core) (v : Nat) : (k.setRs v).ctxs = k.ctxs := rfl
@[simp] theorem Core.setRs_ticked (k : Core) (v : Nat) : (k.setRs v).ticked = k.ticked := rfl
@[simp] theorem Core.setStatusBit_regs (k : Core) (i : Nat) (b : Bool) : (k.setStatusBit i b).regs = k.regs := rfl
@[simp] theorem Core.setStatusBit_pc (k : Core) (i : Nat) (b : Bool) : (k.setStatusBit i b).pc = k.pc := rfl
@[simp] theorem Core.setStatusBit_tab (k : Core) (i : Nat) (b : Bool) : (k.setStatusBit i b).tab = k.tab := rfl
@[simp] theorem Core.setStatusBit_act (k : Core) (i : Nat) (b : Bool) : (k.setStatusBit i b).act = k.act := rfl
@[simp] theorem Core.setStatusBit_latch (k : Core) (i : Nat) (b : Bool) : (k.setStatusBit i b).latch = k.latch := rfl
@[simp] theorem Core.setStatusBit_imem (k : Core) (i : Nat) (b : Bool) : (k.setStatusBit i b).imem = k.imem := rfl
@[simp] theorem Core.setStatusBit_spad (k : Core) (i : Nat) (b : Bool) : (k.setStatusBit i b).spad = k.spad := rfl
@[simp] theorem Core.setStatusBit_imemErr (k : Core) (i : Nat) (b : Bool) : (k.setStatusBit i b).imemErr = k.imemErr := rfl
@[simp] theorem Core.setStatusBit_spadErr (k : Core) (i : Nat) (b : Bool) : (k.setStatusBit i b).spadErr = k.spadErr := rfl
@[simp] theorem Core.setStatusBit_wait (k : Core) (i : Nat) (b : Bool) : (k.setStatusBit i b).wait = k.wait := rfl
@[simp] theorem Core.setStatusBit_stepping (k : Core) (i : Nat) (b : Bool) : (k.setStatusBit i b).stepping = k.stepping := rfl
@[simp] theorem Core.setStatusBit_engs (k : Core) (i : Nat) (b : Bool) : (k.setStatusBit i b).engs = k.engs := rfl
@[simp] theorem Core.setStatusBit_faults (k : Core) (i : Nat) (b : Bool) : (k.setStatusBit i b).faults = k.faults := rfl
@[simp] theorem Core.setStatusBit_sendNext (k : Core) (i : Nat) (b : Bool) : (k.setStatusBit i b).sendNext = k.sendNext := rfl
@[simp] theorem Core.setStatusBit_sendq (k : Core) (i : Nat) (b : Bool) : (k.setStatusBit i b).sendq = k.sendq := rfl
@[simp] theorem Core.setStatusBit_sacc (k : Core) (i : Nat) (b : Bool) : (k.setStatusBit i b).sacc = k.sacc := rfl
@[simp] theorem Core.setStatusBit_saccFar (k : Core) (i : Nat) (b : Bool) : (k.setStatusBit i b).saccFar = k.saccFar := rfl
@[simp] theorem Core.setStatusBit_rx (k : Core) (i : Nat) (b : Bool) : (k.setStatusBit i b).rx = k.rx := rfl
@[simp] theorem Core.setStatusBit_tx (k : Core) (i : Nat) (b : Bool) : (k.setStatusBit i b).tx = k.tx := rfl
@[simp] theorem Core.setStatusBit_ctxs (k : Core) (i : Nat) (b : Bool) : (k.setStatusBit i b).ctxs = k.ctxs := rfl
@[simp] theorem Core.setStatusBit_ticked (k : Core) (i : Nat) (b : Bool) : (k.setStatusBit i b).ticked = k.ticked := rfl
@[simp] theorem Core.setEng_regs (k : Core) (e : Nat) (x : Eng) : (k.setEng e x).regs = k.regs := rfl
@[simp] theorem Core.setEng_pc (k : Core) (e : Nat) (x : Eng) : (k.setEng e x).pc = k.pc := rfl
@[simp] theorem Core.setEng_csr (k : Core) (e : Nat) (x : Eng) : (k.setEng e x).csr = k.csr := rfl
@[simp] theorem Core.setEng_tab (k : Core) (e : Nat) (x : Eng) : (k.setEng e x).tab = k.tab := rfl
@[simp] theorem Core.setEng_act (k : Core) (e : Nat) (x : Eng) : (k.setEng e x).act = k.act := rfl
@[simp] theorem Core.setEng_latch (k : Core) (e : Nat) (x : Eng) : (k.setEng e x).latch = k.latch := rfl
@[simp] theorem Core.setEng_imem (k : Core) (e : Nat) (x : Eng) : (k.setEng e x).imem = k.imem := rfl
@[simp] theorem Core.setEng_spad (k : Core) (e : Nat) (x : Eng) : (k.setEng e x).spad = k.spad := rfl
@[simp] theorem Core.setEng_imemErr (k : Core) (e : Nat) (x : Eng) : (k.setEng e x).imemErr = k.imemErr := rfl
@[simp] theorem Core.setEng_spadErr (k : Core) (e : Nat) (x : Eng) : (k.setEng e x).spadErr = k.spadErr := rfl
@[simp] theorem Core.setEng_wait (k : Core) (e : Nat) (x : Eng) : (k.setEng e x).wait = k.wait := rfl
@[simp] theorem Core.setEng_stepping (k : Core) (e : Nat) (x : Eng) : (k.setEng e x).stepping = k.stepping := rfl
@[simp] theorem Core.setEng_faults (k : Core) (e : Nat) (x : Eng) : (k.setEng e x).faults = k.faults := rfl
@[simp] theorem Core.setEng_sendNext (k : Core) (e : Nat) (x : Eng) : (k.setEng e x).sendNext = k.sendNext := rfl
@[simp] theorem Core.setEng_sendq (k : Core) (e : Nat) (x : Eng) : (k.setEng e x).sendq = k.sendq := rfl
@[simp] theorem Core.setEng_sacc (k : Core) (e : Nat) (x : Eng) : (k.setEng e x).sacc = k.sacc := rfl
@[simp] theorem Core.setEng_saccFar (k : Core) (e : Nat) (x : Eng) : (k.setEng e x).saccFar = k.saccFar := rfl
@[simp] theorem Core.setEng_rx (k : Core) (e : Nat) (x : Eng) : (k.setEng e x).rx = k.rx := rfl
@[simp] theorem Core.setEng_tx (k : Core) (e : Nat) (x : Eng) : (k.setEng e x).tx = k.tx := rfl
@[simp] theorem Core.setEng_ctxs (k : Core) (e : Nat) (x : Eng) : (k.setEng e x).ctxs = k.ctxs := rfl
@[simp] theorem Core.setEng_ticked (k : Core) (e : Nat) (x : Eng) : (k.setEng e x).ticked = k.ticked := rfl
@[simp] theorem Core.setRxq_regs (k : Core) (q : Nat) (x : Rxq) : (k.setRxq q x).regs = k.regs := rfl
@[simp] theorem Core.setRxq_pc (k : Core) (q : Nat) (x : Rxq) : (k.setRxq q x).pc = k.pc := rfl
@[simp] theorem Core.setRxq_csr (k : Core) (q : Nat) (x : Rxq) : (k.setRxq q x).csr = k.csr := rfl
@[simp] theorem Core.setRxq_tab (k : Core) (q : Nat) (x : Rxq) : (k.setRxq q x).tab = k.tab := rfl
@[simp] theorem Core.setRxq_act (k : Core) (q : Nat) (x : Rxq) : (k.setRxq q x).act = k.act := rfl
@[simp] theorem Core.setRxq_latch (k : Core) (q : Nat) (x : Rxq) : (k.setRxq q x).latch = k.latch := rfl
@[simp] theorem Core.setRxq_imem (k : Core) (q : Nat) (x : Rxq) : (k.setRxq q x).imem = k.imem := rfl
@[simp] theorem Core.setRxq_spad (k : Core) (q : Nat) (x : Rxq) : (k.setRxq q x).spad = k.spad := rfl
@[simp] theorem Core.setRxq_imemErr (k : Core) (q : Nat) (x : Rxq) : (k.setRxq q x).imemErr = k.imemErr := rfl
@[simp] theorem Core.setRxq_spadErr (k : Core) (q : Nat) (x : Rxq) : (k.setRxq q x).spadErr = k.spadErr := rfl
@[simp] theorem Core.setRxq_wait (k : Core) (q : Nat) (x : Rxq) : (k.setRxq q x).wait = k.wait := rfl
@[simp] theorem Core.setRxq_stepping (k : Core) (q : Nat) (x : Rxq) : (k.setRxq q x).stepping = k.stepping := rfl
@[simp] theorem Core.setRxq_engs (k : Core) (q : Nat) (x : Rxq) : (k.setRxq q x).engs = k.engs := rfl
@[simp] theorem Core.setRxq_faults (k : Core) (q : Nat) (x : Rxq) : (k.setRxq q x).faults = k.faults := rfl
@[simp] theorem Core.setRxq_sendNext (k : Core) (q : Nat) (x : Rxq) : (k.setRxq q x).sendNext = k.sendNext := rfl
@[simp] theorem Core.setRxq_sendq (k : Core) (q : Nat) (x : Rxq) : (k.setRxq q x).sendq = k.sendq := rfl
@[simp] theorem Core.setRxq_sacc (k : Core) (q : Nat) (x : Rxq) : (k.setRxq q x).sacc = k.sacc := rfl
@[simp] theorem Core.setRxq_saccFar (k : Core) (q : Nat) (x : Rxq) : (k.setRxq q x).saccFar = k.saccFar := rfl
@[simp] theorem Core.setRxq_tx (k : Core) (q : Nat) (x : Rxq) : (k.setRxq q x).tx = k.tx := rfl
@[simp] theorem Core.setRxq_ctxs (k : Core) (q : Nat) (x : Rxq) : (k.setRxq q x).ctxs = k.ctxs := rfl
@[simp] theorem Core.setRxq_ticked (k : Core) (q : Nat) (x : Rxq) : (k.setRxq q x).ticked = k.ticked := rfl

/-! ### Reads after writes -/

theorem State.reg_setReg (s : State) (k j : Nat) (v : Word) : (s.setReg k v).reg j = if j = k then v else s.reg j :=
  Map.get_set _ _ _ _ _
@[simp] theorem State.reg_setReg_same (s : State) (k : Nat) (v : Word) : (s.setReg k v).reg k = v := Map.get_set_same _ _ _ _
theorem State.reg_setReg_ne (s : State) {k j : Nat} (v : Word) (h : j ≠ k) : (s.setReg k v).reg j = s.reg j :=
  Map.get_set_ne _ _ _ h
theorem State.reg_setRegFld (s : State) (k j lo len v : Nat) :
    (s.setRegFld k lo len v).reg j = if j = k then setFld (s.reg k) lo len v else s.reg j := State.reg_setReg _ _ _ _
theorem State.reg_orReg (s : State) (k j m : Nat) : (s.orReg k m).reg j = if j = k then orBits (s.reg k) m else s.reg j :=
  State.reg_setReg _ _ _ _
theorem State.reg_clrReg (s : State) (k j m : Nat) :
    (s.clrReg k m).reg j = if j = k then s.reg k &&& ~~~(BitVec.ofNat 32 m) else s.reg j := State.reg_setReg _ _ _ _

@[simp] theorem State.reg_setCore (s : State) (c j : Nat) (k : Core) : (s.setCore c k).reg j = s.reg j := rfl
@[simp] theorem State.reg_modCore (s : State) (c j : Nat) (f : Core → Core) : (s.modCore c f).reg j = s.reg j := rfl
@[simp] theorem State.reg_setFn (s : State) (f j : Nat) (x : HostFn) : (s.setFn f x).reg j = s.reg j := rfl
@[simp] theorem State.reg_send (s : State) (j : Nat) (x : NetItem) : (s.send x).reg j = s.reg j := rfl

theorem State.core_setCore (s : State) (c j : Nat) (k : Core) : (s.setCore c k).core j = if j = c then k else s.core j :=
  Map.get_set _ _ _ _ _
@[simp] theorem State.core_setCore_same (s : State) (c : Nat) (k : Core) : (s.setCore c k).core c = k := Map.get_set_same _ _ _ _
theorem State.core_setCore_ne (s : State) {c j : Nat} (k : Core) (h : j ≠ c) : (s.setCore c k).core j = s.core j :=
  Map.get_set_ne _ _ _ h
theorem State.core_modCore (s : State) (c j : Nat) (f : Core → Core) :
    (s.modCore c f).core j = if j = c then f (s.core c) else s.core j := State.core_setCore _ _ _ _
@[simp] theorem State.core_modCore_same (s : State) (c : Nat) (f : Core → Core) : (s.modCore c f).core c = f (s.core c) :=
  State.core_setCore_same _ _ _
theorem State.core_modCore_ne (s : State) {c j : Nat} (f : Core → Core) (h : j ≠ c) : (s.modCore c f).core j = s.core j :=
  State.core_setCore_ne _ _ h
@[simp] theorem State.core_setReg (s : State) (k j : Nat) (v : Word) : (s.setReg k v).core j = s.core j := rfl
@[simp] theorem State.core_setRegFld (s : State) (k lo len v j : Nat) : (s.setRegFld k lo len v).core j = s.core j := rfl
@[simp] theorem State.core_orReg (s : State) (k m j : Nat) : (s.orReg k m).core j = s.core j := rfl
@[simp] theorem State.core_clrReg (s : State) (k m j : Nat) : (s.clrReg k m).core j = s.core j := rfl
@[simp] theorem State.core_setFn (s : State) (f j : Nat) (x : HostFn) : (s.setFn f x).core j = s.core j := rfl
@[simp] theorem State.core_send (s : State) (j : Nat) (x : NetItem) : (s.send x).core j = s.core j := rfl

theorem State.fn_setFn (s : State) (f j : Nat) (x : HostFn) : (s.setFn f x).fn j = if j = f then x else s.fn j :=
  Map.get_set _ _ _ _ _
@[simp] theorem State.fn_setFn_same (s : State) (f : Nat) (x : HostFn) : (s.setFn f x).fn f = x := Map.get_set_same _ _ _ _

theorem Core.get_put (k : Core) (n j : Nat) (v : Word) : (k.put n v).get j = if j = n then v else k.get j :=
  Map.get_set _ _ _ _ _
@[simp] theorem Core.get_put_same (k : Core) (n : Nat) (v : Word) : (k.put n v).get n = v := Map.get_set_same _ _ _ _
theorem Core.get_put_ne (k : Core) {n j : Nat} (v : Word) (h : j ≠ n) : (k.put n v).get j = k.get j := Map.get_set_ne _ _ _ h
theorem Core.get_putFld (k : Core) (n lo len v j : Nat) :
    (k.putFld n lo len v).get j = if j = n then setFld (k.get n) lo len v else k.get j := Core.get_put _ _ _ _
theorem Core.get_orCsr (k : Core) (n m j : Nat) : (k.orCsr n m).get j = if j = n then orBits (k.get n) m else k.get j :=
  Core.get_put _ _ _ _
theorem Core.get_clrCsr (k : Core) (n m j : Nat) :
    (k.clrCsr n m).get j = if j = n then k.get n &&& ~~~(BitVec.ofNat 32 m) else k.get j := Core.get_put _ _ _ _
theorem Core.get_setRs (k : Core) (v j : Nat) : (k.setRs v).get j = if j = 1 then setFld (k.get 1) 0 3 v else k.get j :=
  Core.get_put _ _ _ _
theorem Core.get_setStatusBit (k : Core) (i j : Nat) (b : Bool) :
    (k.setStatusBit i b).get j = if j = 1 then setBit (k.get 1) i b else k.get j := Core.get_put _ _ _ _
@[simp] theorem Core.get_setEng (k : Core) (e j : Nat) (x : Eng) : (k.setEng e x).get j = k.get j := rfl
@[simp] theorem Core.get_setRxq (k : Core) (q j : Nat) (x : Rxq) : (k.setRxq q x).get j = k.get j := rfl
@[simp] theorem Core.get_setS (k : Core) (r : Reg) (v : Word) (j : Nat) : (k.setS r v).get j = k.get j := by
  unfold Core.setS; split <;> rfl

@[simp] theorem Core.s_zero (k : Core) : k.s 0 = 0 := rfl
@[simp] theorem Core.s_put (k : Core) (n : Nat) (v : Word) (r : Reg) : (k.put n v).s r = k.s r := rfl
@[simp] theorem Core.s_setRs (k : Core) (v : Nat) (r : Reg) : (k.setRs v).s r = k.s r := rfl
/-- A register after a write: the value written, unless the register is s0, which reads as 0. -/
theorem Core.s_setS (k : Core) (r q : Reg) (v : Word) : (k.setS r v).s q = if q = r ∧ r ≠ 0 then v else k.s q := by
  unfold Core.setS
  by_cases hr : r = 0
  · rw [if_pos hr, if_neg (fun h => h.2 hr)]
  · rw [if_neg hr]
    by_cases hq : q = r
    · subst hq
      rw [if_pos ⟨rfl, hr⟩]
      unfold Core.s
      rw [if_neg hr]
      exact Map.get_set_same _ _ _ _
    · rw [if_neg (fun h => hq h.1)]
      unfold Core.s
      split
      · rfl
      · exact Map.get_set_ne _ _ _ (fun e => hq (BitVec.eq_of_toNat_eq e))

@[simp] theorem Core.eng_setEng_same (k : Core) (e : Nat) (x : Eng) : (k.setEng e x).eng e = x := Map.get_set_same _ _ _ _
theorem Core.eng_setEng (k : Core) (e j : Nat) (x : Eng) : (k.setEng e x).eng j = if j = e then x else k.eng j :=
  Map.get_set _ _ _ _ _
@[simp] theorem Core.rxq_setRxq_same (k : Core) (q : Nat) (x : Rxq) : (k.setRxq q x).rxq q = x := Map.get_set_same _ _ _ _
theorem Core.rxq_setRxq (k : Core) (q j : Nat) (x : Rxq) : (k.setRxq q x).rxq j = if j = q then x else k.rxq j :=
  Map.get_set _ _ _ _ _

/-! ### Fields of words -/

/-- A bit of a word after a field was written. -/
theorem bit_setFld (w : Word) (lo len v i : Nat) (h : lo + len ≤ 32) :
    bit (setFld w lo len v) i = if lo ≤ i ∧ i < lo + len then v.testBit (i - lo) else bit w i := by
  unfold bit setFld
  simp only [BitVec.toNat_or, BitVec.toNat_and, BitVec.toNat_not, BitVec.toNat_ofNat, Nat.testBit_or, Nat.testBit_and,
    Nat.testBit_mod_two_pow, Nat.testBit_shiftLeft]
  by_cases hi : i < 32
  · rw [show 2 ^ 32 - 1 - (2 ^ len - 1) <<< lo % 2 ^ 32 = 2 ^ 32 - ((2 ^ len - 1) <<< lo % 2 ^ 32 + 1) by omega,
      Nat.testBit_two_pow_sub_succ (by exact Nat.mod_lt _ (by decide))]
    simp only [hi, decide_true, Bool.true_and, Nat.testBit_mod_two_pow, Nat.testBit_shiftLeft, Nat.testBit_two_pow_sub_one]
    by_cases h1 : lo ≤ i
    · by_cases h2 : i < lo + len
      · have : i - lo < len := by omega
        simp [h1, h2, this]
      · have : ¬ i - lo < len := by omega
        simp [h2, this]
    · simp [h1]
  · have hw : w.toNat.testBit i = false := Nat.testBit_lt_two_pow (Nat.lt_of_lt_of_le w.isLt (Nat.pow_le_pow_right (by decide) (by omega)))
    have : ¬ (lo ≤ i ∧ i < lo + len) := by omega
    simp [hi, hw, this]

/-- A field of a word after it was written. -/
theorem fld_setFld (w : Word) (lo len v : Nat) (h : lo + len ≤ 32) : fld (setFld w lo len v) lo len = v % 2 ^ len := by
  apply Nat.eq_of_testBit_eq
  intro i
  have := bit_setFld w lo len v (lo + i) h
  unfold bit at this
  unfold fld
  simp only [Nat.testBit_mod_two_pow, Nat.testBit_shiftRight, this]
  by_cases hi : i < len
  · have h2 : lo ≤ lo + i ∧ lo + i < lo + len := by omega
    simp [hi, h2]
  · simp [hi]

/-- A field that a write of another field leaves. -/
theorem fld_setFld_other (w : Word) (lo len v a n : Nat) (h : lo + len ≤ 32) (d : a + n ≤ lo ∨ lo + len ≤ a) :
    fld (setFld w lo len v) a n = fld w a n := by
  apply Nat.eq_of_testBit_eq
  intro i
  have := bit_setFld w lo len v (a + i) h
  unfold bit at this
  unfold fld
  simp only [Nat.testBit_mod_two_pow, Nat.testBit_shiftRight, this]
  by_cases hi : i < n
  · have h2 : ¬ (lo ≤ a + i ∧ a + i < lo + len) := by omega
    simp [h2]
  · simp [hi]

theorem bit_setBit (w : Word) (j i : Nat) (b : Bool) (h : j < 32) :
    bit (setBit w j b) i = if i = j then b else bit w i := by
  unfold setBit
  rw [bit_setFld w j 1 _ i (by omega)]
  by_cases hi : i = j
  · subst hi; cases b <;> simp
  · have : ¬ (j ≤ i ∧ i < j + 1) := by omega
    rw [if_neg hi, if_neg this]

theorem Core.rs_setRs (k : Core) (v : Nat) : (k.setRs v).rs = v % 8 := by
  show fld ((k.put 1 (setFld (k.get 1) 0 3 v)).get 1) 0 3 = _
  rw [Core.get_put_same]
  exact fld_setFld _ _ _ _ (by decide)

theorem bit_orBits (w : Word) (m i : Nat) (hi : i < 32) : bit (orBits w m) i = (bit w i || m.testBit i) := by
  unfold bit orBits
  rw [BitVec.toNat_or, Nat.testBit_or, BitVec.toNat_ofNat, Nat.testBit_mod_two_pow]
  simp [hi]

theorem bit_clr (w : Word) (m i : Nat) (hi : i < 32) : bit (w &&& ~~~(BitVec.ofNat 32 m)) i = (bit w i && !m.testBit i) := by
  unfold bit
  rw [BitVec.toNat_and, Nat.testBit_and]
  congr 1
  rw [BitVec.toNat_not, BitVec.toNat_ofNat, show 2 ^ 32 - 1 - m % 2 ^ 32 = 2 ^ 32 - (m % 2 ^ 32 + 1) by omega,
    Nat.testBit_two_pow_sub_succ (Nat.mod_lt _ (by decide)), Nat.testBit_mod_two_pow]
  simp [hi]

end Sys2Proof.Machine
end

