-- ==== Sys2Proof/Laws/Core.lean ====
section
/-!
SUPPORT. How an instruction of a control core ends: what retiring and taking a trap do, said once.
-/

namespace Sys2Proof.Machine

@[simp] theorem Core.addTime_regs (k : Core) (n d : Nat) : (k.addTime n d).regs = k.regs := rfl
@[simp] theorem Core.addTime_stepping (k : Core) (n d : Nat) : (k.addTime n d).stepping = k.stepping := rfl

theorem Core.get_addTime (k : Core) (n d j : Nat) (h : j ≠ n) (h1 : j ≠ n + 1) : (k.addTime n d).get j = k.get j := by
  unfold Core.addTime
  rw [Core.get_put_ne _ _ h1, Core.get_put_ne _ _ h]

theorem Core.instret_addTime (k : Core) : (k.addTime 0x24 1).instret = (k.instret + 1) % 2 ^ 64 := by
  unfold Core.instret Core.addTime
  rw [Core.get_put_ne _ _ (by decide), Core.get_put_same, Core.get_put_same, BitVec.toNat_ofNat, BitVec.toNat_ofNat]
  simp only [show 0x24 + 1 = 0x25 from rfl]
  have h1 := (k.get 0x24).isLt
  have h2 := (k.get 0x25).isLt
  omega

/-- A core with its run state set after an instruction, stepping or not. -/
theorem Core.retire_eq (k : Core) (pc : Word) :
    k.retire pc = { (k.addTime 0x24 1).setRs (if k.stepping then 0 else 1) with pc := pc, wait := none, stepping := false } := by
  unfold Core.retire
  by_cases h : k.stepping = true
  · simp [h, Core.setRs, Core.putFld, Core.put, Core.addTime, Core.get]
  · have h' : k.stepping = false := by simpa using h
    simp [h', Core.setRs, Core.putFld, Core.put, Core.addTime, Core.get]

theorem Core.get_retire (k : Core) (pc : Word) (n : Nat) (h : n ≠ 1) (h4 : n ≠ 0x24) (h5 : n ≠ 0x25) : (k.retire pc).get n = k.get n := by
  rw [Core.retire_eq]
  show ((k.addTime 0x24 1).setRs _).get n = k.get n
  rw [Core.get_setRs, if_neg h, Core.get_addTime _ _ _ _ h4 h5]

theorem Core.get_retire_status (k : Core) (pc : Word) :
    (k.retire pc).get 1 = setFld (k.get 1) 0 3 (if k.stepping then 0 else 1) := by
  rw [Core.retire_eq]
  show ((k.addTime 0x24 1).setRs _).get 1 = _
  rw [Core.get_setRs, if_pos rfl, Core.get_addTime _ _ _ _ (by decide) (by decide)]

theorem Core.s_retire (k : Core) (pc : Word) (r : Reg) : (k.retire pc).s r = k.s r := by
  rw [Core.retire_eq]; rfl

theorem Core.retired (k : Core) (npc : Word) : k.Retired (k.retire npc) npc := by
  refine ⟨by rw [Core.retire_eq], by rw [Core.retire_eq], by rw [Core.retire_eq], ?_, ?_⟩
  · unfold Core.rs Core.cf
    rw [Core.get_retire_status, fld_setFld _ _ _ _ (by decide)]
    split <;> rfl
  · rw [← Core.instret_addTime]
    unfold Core.instret
    rw [Core.retire_eq]
    show (((k.addTime 0x24 1).setRs _).get 0x24).toNat + 2 ^ 32 * (((k.addTime 0x24 1).setRs _).get 0x25).toNat = _
    rw [Core.get_setRs, Core.get_setRs, if_neg (by decide), if_neg (by decide)]

theorem Core.retire_csrs (k : Core) (npc : Word) : k.CsrsKept (k.retire npc) fun _ => False := by
  refine ⟨fun n h h4 h5 _ => Core.get_retire _ _ _ h h4 h5, fun i hi => ?_⟩
  rw [Core.get_retire_status, bit_setFld _ _ _ _ _ (by decide), if_neg (by omega)]

/-- Retiring changes the CSRs, the PC, the wait and the single step alone. -/
theorem Core.retire_rest (k k0 : Core) (npc : Word) (h : k = { k0 with regs := k.regs, csr := k.csr }) :
    k.retire npc =
      { k0 with regs := (k.retire npc).regs, csr := (k.retire npc).csr, pc := npc, wait := none, stepping := false } := by
  rw [Core.retire_eq]
  cases k0
  cases k
  simp only [Core.mk.injEq] at h
  obtain ⟨-, rfl, -, rfl, rfl, rfl, rfl, rfl, rfl, rfl, rfl, rfl, rfl, rfl, rfl, rfl, rfl, rfl, rfl, rfl, rfl, rfl⟩ := h
  rfl

theorem Core.setS_rest (k : Core) (r : Reg) (v : Word) : k.setS r v = { k with regs := (k.setS r v).regs } := by
  unfold Core.setS
  split <;> rfl

/-- What an instruction that writes one register and retires does. -/
theorem Core.setS_retire (k : Core) (rd : Reg) (v npc : Word) :
    k.Retired ((k.setS rd v).retire npc) npc ∧ k.Wrote ((k.setS rd v).retire npc) rd v ∧
      k.CsrsKept ((k.setS rd v).retire npc) (fun _ => False) ∧
      (k.setS rd v).retire npc =
        { k with regs := ((k.setS rd v).retire npc).regs, csr := ((k.setS rd v).retire npc).csr, pc := npc, wait := none,
                 stepping := false } := by
  have hc : (k.setS rd v).csr = k.csr := by unfold Core.setS; split <;> rfl
  have hg : ∀ n, (k.setS rd v).get n = k.get n := Core.get_setS k rd v
  have hs : (k.setS rd v).stepping = k.stepping := by unfold Core.setS; split <;> rfl
  refine ⟨?_, ⟨?_, ?_, ?_⟩, ⟨?_, ?_⟩, ?_⟩
  · have h := Core.retired (k.setS rd v) npc
    refine ⟨h.pc, h.wait, h.stepping, ?_, ?_⟩
    · rw [h.rs, hs]
    · rw [h.instret]; unfold Core.instret; rw [hg, hg]
  · intro h; rw [Core.s_retire, Core.s_setS, if_pos ⟨rfl, h⟩]
  · rw [Core.s_retire]; rfl
  · intro r h; rw [Core.s_retire, Core.s_setS, if_neg (fun e => h e.1)]
  · intro n h h4 h5 _; rw [Core.get_retire _ _ _ h h4 h5, hg]
  · intro i hi
    rw [Core.get_retire_status, bit_setFld _ _ _ _ _ (by decide), if_neg (by omega), hg]
  · exact Core.retire_rest _ _ _ (by unfold Core.setS; split <;> rfl)

/-- An instruction of a ready core. -/
theorem State.Ready.instr {s : State} {c : Nat} (h : s.Ready c) (body : Word → State → IRes) :
    s.instr c body = s.finishInstr c (body (s.core c).pc s) := by
  unfold State.instr
  have hf : ¬ 0x6000 ≤ (s.core c).pc.toNat := Nat.not_le.mpr h.fetch
  simp only [h.core, h.run, h.clock, h.word]
  simp [hf]

theorem State.onlyCore_modCore (s : State) (c : Nat) (f : Core → Core) : s.OnlyCore (s.modCore c f) c :=
  ⟨rfl, fun _ h => State.core_modCore_ne s f h⟩

theorem State.OnlyCore.trans {a b d : State} {c : Nat} (h : a.OnlyCore b c) (k : b.OnlyCore d c) : a.OnlyCore d c := by
  refine ⟨?_, fun x hx => (k.others x hx).trans (h.others x hx)⟩
  rw [k.state, h.state]

/-- What writing a register and retiring does to the state. -/
theorem State.writes_put {s : State} {c : Nat} (rd : Reg) (v npc : Word) :
    s.Writes ((s.modCore c fun k => k.setS rd v).modCore c fun k => k.retire npc) c npc rd v := by
  obtain ⟨h1, h2, h3, h4⟩ := Core.setS_retire (s.core c) rd v npc
  refine ⟨(State.onlyCore_modCore s c _).trans (State.onlyCore_modCore _ c _), ?_, ?_, ?_, ?_⟩ <;>
    simp only [State.core_modCore_same]
  · exact h1
  · exact h2
  · exact h3
  · exact h4

/-- What retiring alone does to the state. -/
theorem State.writes_none {s : State} {c : Nat} (npc : Word) : s.Writes (s.modCore c fun k => k.retire npc) c npc 0 0 := by
  have w := State.writes_put (s := s) (c := c) 0 0 npc
  have e2 : ((s.modCore c fun k => k.setS 0 0).modCore c fun k => k.retire npc).core c = ((s.modCore c fun k => k.retire npc).core c) := by
    simp only [State.core_modCore_same]; rfl
  refine ⟨State.onlyCore_modCore s c _, ?_, ?_, ?_, ?_⟩ <;> rw [← e2]
  · exact w.retired
  · exact w.wrote
  · exact w.csrs
  · exact w.rest

theorem State.Ready.put {s : State} {c : Nat} (h : s.Ready c) {body : Word → State → IRes} {rd : Reg} {v : Word}
    (e : body (s.core c).pc s = IRes.put c (s.core c).pc s rd v) :
    ∃ t, s.instr c body = t ∧ s.Writes t c ((s.core c).pc + 4) rd v := by
  refine ⟨_, rfl, ?_⟩
  rw [h.instr, e]
  exact State.writes_put rd v _

/-- The core with its trap CSRs and status written, before the PC and the run state (R94). -/
def Core.trapCsrs (k : Core) (code : Nat) (isInt : Bool) (tpc tval : Word) : Core :=
  (((((k.put 0x14 (setBit 0 4 k.ie)).put 0x12 (tpc &&& 0x7FFC#32)).put 0x11
    (BitVec.ofNat 32 (code + (if isInt then 2 ^ 31 else 0)))).put 0x13 tval).setStatusBit 4 false).setStatusBit 3 true

theorem Core.get_trapCsrs (k : Core) (code : Nat) (isInt : Bool) (tpc tval : Word) (n : Nat) :
    (k.trapCsrs code isInt tpc tval).get n =
      if n = 1 then setBit (setBit (k.get 1) 4 false) 3 true
      else if n = 0x13 then tval
      else if n = 0x11 then BitVec.ofNat 32 (code + (if isInt then 2 ^ 31 else 0))
      else if n = 0x12 then tpc &&& 0x7FFC#32
      else if n = 0x14 then setBit 0 4 k.ie
      else k.get n := by
  unfold Core.trapCsrs
  by_cases h : n = 1
  · subst h
    rw [Core.get_setStatusBit, if_pos rfl, Core.get_setStatusBit, if_pos rfl, Core.get_put_ne _ _ (by decide),
      Core.get_put_ne _ _ (by decide), Core.get_put_ne _ _ (by decide), Core.get_put_ne _ _ (by decide), if_pos rfl]
  · rw [Core.get_setStatusBit, if_neg h, Core.get_setStatusBit, if_neg h, Core.get_put, Core.get_put, Core.get_put, Core.get_put,
      if_neg h]

theorem Core.enterTrap_eq (k : Core) (code : Nat) (isInt : Bool) (tpc tval : Word) :
    k.enterTrap code isInt tpc tval =
      { (k.trapCsrs code isInt tpc tval).setRs (if k.stepping then 0 else 1) with
        pc := (k.get 0x10 &&& 0x7F80#32) + (if bit (k.get 0x10) 0 then BitVec.ofNat 32 (4 * code) else 0)
        wait := none
        stepping := false } := by
  have h : (k.trapCsrs code isInt tpc tval).get 0x10 = k.get 0x10 := Core.get_trapCsrs _ _ _ _ _ _
  have hp : (if bit (k.get 0x10) 0 then (k.get 0x10 &&& 0x7F80#32) + BitVec.ofNat 32 (4 * code) else k.get 0x10 &&& 0x7F80#32) =
      (k.get 0x10 &&& 0x7F80#32) + (if bit (k.get 0x10) 0 then BitVec.ofNat 32 (4 * code) else 0) := by
    split
    · rfl
    · exact (BitVec.add_zero _).symm
  rw [← hp, ← h]
  by_cases hs : k.stepping = true
  · have : (k.trapCsrs code isInt tpc tval).stepping = true := hs
    simp only [hs, if_true]
    unfold Core.enterTrap
    exact if_pos this
  · have hs' : k.stepping = false := by simpa using hs
    have : ¬ (k.trapCsrs code isInt tpc tval).stepping = true := hs
    simp only [hs]
    unfold Core.enterTrap
    refine (if_neg this).trans ?_
    have e : ∀ x : Core, x.stepping = false → x = { x with stepping := false } := fun x h => by rw [← h]
    exact e _ hs'

/-- What waiting does to the state. -/
theorem State.nowWaits (s : State) (c : Nat) (w : Wait) : s.NowWaits (s.modCore c fun k => k.waitFor w) c w := by
  refine ⟨State.onlyCore_modCore s c _, ?_, ?_, ?_, ?_, ?_⟩ <;> simp only [State.core_modCore_same]
  · exact Core.rs_setRs _ _
  · rfl
  · rfl
  · exact fun _ => rfl
  · rfl

/-- Trap entry, outside a handler. -/
theorem State.trapped_enterTrap (s : State) (c code : Nat) (isInt : Bool) (tpc tval : Word) (h0 : code < 2 ^ 29) :
    s.Trapped (s.modCore c fun k => k.enterTrap code isInt tpc tval) c (code + (if isInt then 2 ^ 31 else 0)) tpc tval := by
  have hg : ∀ k : Core, ∀ n, (k.enterTrap code isInt tpc tval).get n =
      if n = 1 then setFld ((k.trapCsrs code isInt tpc tval).get 1) 0 3 (if k.stepping then 0 else 1)
      else (k.trapCsrs code isInt tpc tval).get n := by
    intro k n
    rw [Core.enterTrap_eq]
    exact Core.get_setRs _ _ _
  refine ⟨State.onlyCore_modCore s c _, ?_, ?_, ?_, ?_, ?_, ?_, ?_, ?_, ?_, ?_⟩ <;> simp only [State.core_modCore_same]
  · rw [hg, if_neg (by decide), Core.get_trapCsrs]; rfl
  · rw [hg, if_neg (by decide), Core.get_trapCsrs]; rfl
  · rw [hg, if_neg (by decide), Core.get_trapCsrs]; rfl
  · rw [hg, if_neg (by decide), Core.get_trapCsrs]
    exact (bit_setBit _ _ _ _ (by decide)).trans (if_pos rfl)
  · unfold Core.ie
    rw [hg, if_pos rfl, bit_setFld _ _ _ _ _ (by decide), if_neg (by decide), Core.get_trapCsrs, if_pos rfl,
      bit_setBit _ _ _ _ (by decide), if_neg (by decide), bit_setBit _ _ _ _ (by decide), if_pos rfl]
  · unfold Core.tm
    rw [hg, if_pos rfl, bit_setFld _ _ _ _ _ (by decide), if_neg (by decide), Core.get_trapCsrs, if_pos rfl,
      bit_setBit _ _ _ _ (by decide), if_pos rfl]
  · have hc : (code + (if isInt then 2 ^ 31 else 0)) % 2 ^ 31 = code := by split <;> omega
    rw [hc, Core.enterTrap_eq]
  · unfold Core.rs Core.cf
    rw [hg, if_pos rfl, fld_setFld _ _ _ _ (by decide)]
    split <;> rfl
  · intro r
    rw [Core.enterTrap_eq]
    rfl
  · rw [Core.enterTrap_eq]
    rfl

/-- An exception outside a handler is taken. -/
theorem State.trapped_exception {s : State} {c code : Nat} {tpc tval : Word} (h : (s.core c).tm = false) (h0 : code < 2 ^ 29) :
    s.Trapped (s.exception c code tpc tval) c code tpc tval := by
  unfold State.exception
  rw [h]
  exact State.trapped_enterTrap s c code false tpc tval h0

theorem State.Ready.exc {s : State} {c : Nat} (h : s.Ready c) (htm : (s.core c).tm = false) {body : Word → State → IRes} {code : Nat}
    {v : Word} (e : body (s.core c).pc s = .exc s code v) (h0 : code < 2 ^ 29) :
    s.Trapped (s.instr c body) c code (s.core c).pc v := by
  rw [h.instr, e]
  exact State.trapped_exception htm h0

end Sys2Proof.Machine
end

