-- ==== Sys2Proof/Laws/Csr.lean ====
section
/-!
SUPPORT. What a write by access codes leaves, and what a command that writes one CSR does (spec/00 R13, R15; spec/02 R84-R86).
-/

namespace Sys2Proof.Machine

/-- Two words whose bits agree over a field have the same field. -/
theorem fld_ext {w v : Word} {lo len : Nat} (h : ∀ i, i < len → bit w (lo + i) = bit v (lo + i)) : fld w lo len = fld v lo len := by
  apply Nat.eq_of_testBit_eq
  intro i
  unfold fld
  simp only [Nat.testBit_mod_two_pow, Nat.testBit_shiftRight]
  by_cases hi : i < len
  · have := h i hi
    unfold bit at this
    simp [hi, this]
  · simp [hi]

theorem bit_ge (w : Word) {i : Nat} (h : 32 ≤ i) : bit w i = false :=
  Nat.testBit_lt_two_pow (Nat.lt_of_lt_of_le w.isLt (Nat.pow_le_pow_right (by decide) h))

/-- A bit of a register after a write, where the bit is not W1C or W1S. -/
theorem bit_writeCode {r : RegDesc} (old v : Word) {i : Nat} (hi : i < 32) (h : r.w1c.testBit i = false) (h1 : r.w1s.testBit i = false) :
    bit (writeCode r old v) i = if r.rw.testBit i then bit v i else bit old i := by
  unfold writeCode bit
  dsimp only
  simp only [BitVec.toNat_or, BitVec.toNat_and, BitVec.toNat_not, BitVec.toNat_ofNat, Nat.testBit_or, Nat.testBit_and, Nat.testBit_mod_two_pow]
  have e : ∀ x : Nat, x < 2 ^ 32 → Nat.testBit (2 ^ 32 - 1 - x) i = !x.testBit i := by
    intro x hx
    rw [show 2 ^ 32 - 1 - x = 2 ^ 32 - (x + 1) by omega, Nat.testBit_two_pow_sub_succ hx]
    simp [hi]
  rw [e _ (Nat.mod_lt _ (by decide)), e _ (Nat.lt_of_le_of_lt Nat.and_le_left v.isLt), Nat.testBit_mod_two_pow, Nat.testBit_and,
    Nat.testBit_mod_two_pow, h, h1]
  cases r.rw.testBit i <;> simp [hi]

/-- A field of RW bits takes the written value. -/
theorem fld_writeCode {r : RegDesc} (old v : Word) {lo len : Nat} (hl : lo + len ≤ 32)
    (hr : ∀ i, i < len → r.rw.testBit (lo + i) = true ∧ r.w1c.testBit (lo + i) = false ∧ r.w1s.testBit (lo + i) = false) :
    fld (writeCode r old v) lo len = fld v lo len :=
  fld_ext fun i hi => by rw [bit_writeCode _ _ (by omega) (hr i hi).2.1 (hr i hi).2.2, if_pos (hr i hi).1]

/-- A command that writes a CSR whose write has an effect of its own. -/
theorem State.csrCmd_hook {s : State} {c n : Nat} {v : Word} {s' : State} (hc : isCore c = true) (r : RegDesc) (hf : findCsr n = some r)
    (hn : n ≠ 0x8A0) (hh : s.csrHook c n v r = some s') : s.csrCmd c n v = s' := by
  unfold State.csrCmd State.csrWrite
  rw [if_pos hc, hf]
  dsimp only
  rw [if_neg hn, hh]

/-- A command that writes a CSR by its access codes alone. -/
theorem State.csrCmd_plain {s : State} {c n : Nat} {v : Word} (hc : isCore c = true) (r : RegDesc) (hf : findCsr n = some r)
    (hn : n ≠ 0x8A0) (hh : s.csrHook c n v r = none) : s.csrCmd c n v = s.modCore c fun k => k.put n (writeCode r (k.get n) v) := by
  unfold State.csrCmd State.csrWrite
  rw [if_pos hc, hf]
  dsimp only
  rw [if_neg hn, hh]

theorem State.csrHook_rqCfg (s : State) (c q : Nat) (hq : q < 8) (v : Word) (r : RegDesc) :
    s.csrHook c (rqCsr q 0) v r = some (s.rqCfgWrite c q v) := by
  unfold State.csrHook rqCsr
  dsimp only
  repeat rw [if_neg (by omega)]
  rw [if_pos (by omega), if_pos (by omega)]
  rw [show (528 + 8 * q + 0 - 528) / 8 = q by omega]

theorem State.csrHook_rqTail (s : State) (c q : Nat) (hq : q < 8) (v : Word) (r : RegDesc) :
    s.csrHook c (rqCsr q 6) v r = some (s.tailWrite c q v.toNat) := by
  unfold State.csrHook rqCsr
  dsimp only
  repeat rw [if_neg (by omega)]
  rw [if_pos (by omega), if_neg (by omega), if_pos (by omega)]
  rw [show (528 + 8 * q + 6 - 528) / 8 = q by omega]

theorem State.csrHook_rqWm (s : State) (c q : Nat) (hq : q < 8) (v : Word) (r : RegDesc) :
    s.csrHook c (0x2A8 + q) v r = some (s.setCore c ((s.core c).put (0x2A8 + q) (setBit (writeCode r ((s.core c).get (0x2A8 + q)) v) 30 true))) := by
  unfold State.csrHook
  dsimp only
  repeat rw [if_neg (by omega)]
  rw [if_pos (by omega)]

theorem State.csrHook_sem (s : State) (c n : Nat) (hn : n < 64) (v : Word) (r : RegDesc) (hr : r.w1c = 0) : s.csrHook c (0x100 + n) v r = none := by
  unfold State.csrHook
  dsimp only
  repeat rw [if_neg (by omega)]
  rw [hr]
  have : Nat.testBit 0 31 = false := by decide
  rw [this]
  rw [if_neg (fun h => absurd h.2 (by decide))]
  repeat rw [if_neg (by omega)]
  have : (s.core c).tableWord (0x100 + n) = none := by
    unfold Core.tableWord
    dsimp only
    repeat rw [if_neg (by omega)]
  rw [this]

/-- The access codes of the queue and semaphore registers. -/
theorem rqCsr_codes : ∀ q : BitVec 3, (findCsr (rqCsr q.toNat 0)).isSome = true ∧ (findCsr (rqCsr q.toNat 6)).isSome = true ∧
    ((findCsr (0x2A8 + q.toNat)).map fun r => (r.rw, r.w1c, r.w1s)) = some (0xBFFF3FFF, 0, 0) := by decide +kernel
theorem semCsr_codes : ∀ q : BitVec 6, ((findCsr (0x100 + q.toNat)).map fun r => (r.rw, r.w1c, r.w1s)) = some (0xFF, 0, 0) := by decide +kernel

end Sys2Proof.Machine
end

