-- ==== Sys2Proof/Laws/Events.lean ====
section
/-!
SUPPORT. What raising an event, counting and logging do, said once: nothing but the reporting of events changes.
-/

namespace Sys2Proof.Machine

theorem State.Quiet.refl (s : State) : s.Quiet s := ⟨rfl, fun _ _ => rfl, [], (List.append_nil _).symm⟩

theorem State.Quiet.trans {a b c : State} (h : a.Quiet b) (k : b.Quiet c) : a.Quiet c := by
  obtain ⟨l, hl⟩ := h.out
  obtain ⟨m, hm⟩ := k.out
  refine ⟨?_, fun j hj => (k.regs j hj).trans (h.regs j hj), l ++ m, by rw [hm, hl, List.append_assoc]⟩
  rw [k.state, h.state]

theorem State.Quiet.setReg (s : State) {k : Nat} (v : Word) (h : eventReg k) : s.Quiet (s.setReg k v) :=
  ⟨rfl, fun _ hj => State.reg_setReg_ne s v (fun e => hj (e ▸ h)), [], (List.append_nil _).symm⟩
theorem State.Quiet.orReg (s : State) {k : Nat} (m : Nat) (h : eventReg k) : s.Quiet (s.orReg k m) := State.Quiet.setReg s _ h
theorem State.Quiet.setFn (s : State) (f : Nat) (x : HostFn) : s.Quiet (s.setFn f x) :=
  ⟨rfl, fun _ _ => rfl, [], (List.append_nil _).symm⟩
theorem State.Quiet.emit (s : State) (x : List OutItem) : s.Quiet { s with out := s.out ++ x } := ⟨rfl, fun _ _ => rfl, x, rfl⟩
theorem State.Quiet.foldl {s : State} {β : Type} {f : State → β → State} (l : List β) (h : ∀ (u : State) b, b ∈ l → u.Quiet (f u b)) :
    s.Quiet (l.foldl f s) := by
  induction l generalizing s with
  | nil => exact State.Quiet.refl s
  | cons b l ih =>
    exact (h s b (List.mem_cons_self ..)).trans (ih fun u c hc => h u c (List.mem_cons_of_mem _ hc))

theorem eventReg_pend {src : Nat} (h : src < 512) : eventReg (evcPendKey src) := by
  unfold eventReg evcPendKey; omega

theorem State.Quiet.evcSetPend (s : State) {src : Nat} (h : src < 512) : s.Quiet (s.evcSetPend src) :=
  State.Quiet.orReg s _ (eventReg_pend h)

theorem State.Quiet.evcSample (s : State) {src : Nat} (h : src < 512) : s.Quiet (s.evcSample src) := by
  unfold State.evcSample
  split
  · exact State.Quiet.evcSetPend s h
  · exact State.Quiet.refl s

theorem State.Quiet.satEvent (s : State) (a b c : Nat) : s.Quiet (s.satEvent a b c) := by
  have h1 : eventReg 0x1010 := by unfold eventReg; omega
  have h2 : eventReg 0x1014 := by unfold eventReg; omega
  have h := State.Quiet.evcSetPend s (src := 64) (by decide)
  unfold State.satEvent
  dsimp only
  split
  · exact h
  · exact (h.trans (State.Quiet.setReg _ _ h1)).trans (State.Quiet.setReg _ _ h2)

/-- Counting changes the counter's two words, and events where it saturates. -/
theorem State.Quiet.bump' (s : State) (k d : Nat) :
    ((s.setReg k (ctrAdd (s.reg k) (s.reg (k + 4)) d).1).setReg (k + 4) (ctrAdd (s.reg k) (s.reg (k + 4)) d).2.1).Quiet (s.bump k d) := by
  unfold State.bump
  dsimp only
  split
  · exact State.Quiet.satEvent _ _ _ _
  · exact State.Quiet.refl _

theorem State.Quiet.bump (s : State) {k : Nat} (d : Nat) (h : eventReg k) (h4 : eventReg (k + 4)) : s.Quiet (s.bump k d) :=
  ((State.Quiet.setReg _ _ h).trans (State.Quiet.setReg _ _ h4)).trans (State.Quiet.bump' s k d)

theorem eventReg_fn (f o : Nat) (h : eventReg o) (ho : o < 0x2000000) : eventReg (fnKey f o) := by
  unfold eventReg at *
  unfold fnKey
  have e : (f * 0x2000000 + o) % 0x2000000 = o := by omega
  have e2 : (f * 0x2000000 + o) % 0x40 = o % 0x40 := by omega
  rw [e, e2]
  rw [Nat.mod_eq_of_lt ho] at h
  exact h

theorem State.mem_vecCqs {s : State} {f v q : Nat} (h : q ∈ s.vecCqs f v) : q < 1536 := by
  unfold State.vecCqs at h
  obtain ⟨i, hi, rfl⟩ := List.mem_map.mp (List.mem_filter.mp h).1
  have hi := List.mem_range.mp hi
  have h1 : s.qpNum f < 1024 := Nat.mod_lt _ (by decide)
  have h2 : s.qpBase f < 512 := Nat.mod_lt _ (by decide)
  show s.qpBase f + i < 1536
  omega

theorem State.Quiet.sendVec (s : State) (f v : Nat) : s.Quiet (s.sendVec f v) := by
  unfold State.sendVec
  dsimp only
  split
  · split
    · exact (State.Quiet.setFn s _ _).trans (State.Quiet.emit _ _)
    · exact State.Quiet.setFn s _ _
  split
  · exact State.Quiet.refl s
  split
  · exact State.Quiet.setFn s _ _
  · refine State.Quiet.trans ?_ (State.Quiet.bump _ _ (eventReg_fn f 0x70110 (by unfold eventReg; omega) (by decide))
      (eventReg_fn f 0x70114 (by unfold eventReg; omega) (by decide)))
    refine State.Quiet.trans (b := List.foldl _ _ _) ?_ (State.Quiet.emit _ _)
    refine State.Quiet.trans (State.Quiet.setFn s f _) (State.Quiet.foldl _ ?_)
    intro u q hq
    refine State.Quiet.setReg u _ ?_
    have := State.mem_vecCqs hq
    unfold eventReg qKey
    omega

theorem State.Quiet.trySend (s : State) (f v : Nat) : s.Quiet (s.trySend f v) := by
  unfold State.trySend
  split
  · exact State.Quiet.sendVec s f v
  · exact State.Quiet.refl s

theorem State.Quiet.stepSource (s : State) (p : Nat) : s.Quiet (s.stepSource p) := by
  unfold State.stepSource
  dsimp only
  split
  · exact (State.Quiet.setFn _ _ _).trans (State.Quiet.trySend _ _ _)
  · exact State.Quiet.setFn _ _ _

theorem State.Quiet.evTouch (s : State) {src : Nat} (h : src < 512) : s.Quiet (s.evTouch src) := by
  unfold State.evTouch
  dsimp only
  split
  · exact (State.Quiet.evcSample s h).trans (State.Quiet.stepSource _ _)
  · exact State.Quiet.evcSample s h

/-- Setting event bits changes those bits and the reporting of events. -/
theorem State.Quiet.evSet (s : State) (k m : Nat) {src : Nat} (h : src < 512) : (s.orReg k m).Quiet (s.evSet k m src) :=
  State.Quiet.evTouch _ h

theorem State.Quiet.fnEvt (s : State) {f : Nat} (b : Nat) (h : f < 192) : s.Quiet (s.fnEvt f b) := by
  have e : eventReg (fnKey f 0x70008) := eventReg_fn _ _ (by unfold eventReg; omega) (by decide)
  have q : s.Quiet (s.evSet (fnKey f 0x70008) (2 ^ b) (320 + f)) :=
    (State.Quiet.orReg s _ e).trans (State.Quiet.evSet s _ _ (by omega))
  unfold State.fnEvt
  dsimp only
  split
  · exact (q.trans (State.Quiet.setFn _ _ _)).trans (State.Quiet.trySend _ _ _)
  · exact q

/-- A log entry is reporting alone. -/
theorem State.Quiet.log (s : State) (e : Err) (h : e.part.getD 0 < 192) : s.Quiet (s.log e) := by
  unfold State.log
  dsimp only
  refine State.Quiet.trans (State.Quiet.trans ?_ (State.Quiet.setReg _ _ (by unfold eventReg; omega))) (State.Quiet.fnEvt _ _ h)
  exact ⟨rfl, fun _ _ => rfl, [], (List.append_nil _).symm⟩

@[simp] theorem State.Quiet.core {s t : State} (h : s.Quiet t) (c : Nat) : t.core c = s.core c := by rw [h.state]; rfl

theorem State.find_range_lt {p : Nat → Bool} {n : Nat} (hn : 0 < n) : ((List.range n).find? p).getD 0 < n := by
  cases h : (List.range n).find? p with
  | none => exact hn
  | some x => exact List.mem_range.mp (List.mem_of_find?_eq_some h)

/-- The partition of a cluster or of a core is a partition number. -/
theorem State.clusterPart_lt (s : State) (cl : Nat) : s.clusterPart cl < 64 := State.find_range_lt (by decide)
theorem State.corePart_lt (s : State) (c : Nat) : s.corePart c < 64 := State.clusterPart_lt _ _

/-- Counting changes registers, and the reporting of events, alone. -/
theorem State.bump_state (s : State) (k d : Nat) :
    s.bump k d = { s with regs := (s.bump k d).regs, fns := (s.bump k d).fns, out := (s.bump k d).out, elog := (s.bump k d).elog,
                          elogOver := (s.bump k d).elogOver } := by
  have q := (State.Quiet.bump' s k d).state
  generalize s.bump k d = t at *
  rw [q]
  rfl

theorem State.bump_cores (s : State) (k d : Nat) : (s.bump k d).cores = s.cores := by
  have h := congrArg State.cores (State.bump_state s k d)
  exact h

theorem State.evSet_cores (s : State) (k m : Nat) {src : Nat} (h : src < 512) : (s.evSet k m src).cores = s.cores := by
  have q := congrArg State.cores (State.Quiet.evSet s k m h).state
  exact q

theorem State.toP0_cores (s : State) : s.toP0.cores = s.cores := by
  unfold State.toP0
  dsimp only
  split
  · exact State.evSet_cores _ _ _ (by decide)
  · rfl

theorem State.dieUp_cores (s : State) (d : Nat) : (s.dieUp d).cores = s.cores := by
  have h : ((s.setDieState d 1).bump 0x20418 1).cores = s.cores := State.bump_cores _ _ _
  unfold State.dieUp
  generalize (s.setDieState d 1).bump 0x20418 1 = t at *
  dsimp only
  split
  · exact h
  · split
    · exact h
    · exact (State.toP0_cores _).trans h

/-- Waking a cluster changes no core. -/
theorem State.wakeFor_core (s : State) (cl c : Nat) : (s.wakeFor cl).core c = s.core c := by
  have h : (s.wakeFor cl).cores = s.cores := by
    unfold State.wakeFor
    dsimp only
    split <;> split
    · exact State.dieUp_cores _ _
    · exact State.dieUp_cores _ _
    · rfl
    · rfl
  unfold State.core
  rw [h]

end Sys2Proof.Machine
end

