-- ==== Sys2Proof/Laws/Dm.lean ====
section
/-!
SUPPORT. What an access to device memory does, said once: a read changes counters and error captures of M-tiles alone, a write the bytes
it is given as well (R498-R506).
-/

namespace Sys2Proof.Machine

/-- `t` is `s` but for device memory, its error codes, the registers of M-tiles and the reporting of events. -/
structure State.DmOnly (s t : State) : Prop where
  state : t = { s with regs := t.regs, mem := t.mem, memErr := t.memErr, fns := t.fns, out := t.out, elog := t.elog, elogOver := t.elogOver }
  regs : ∀ k, ¬ tileReg k → ¬ eventReg k → t.reg k = s.reg k

theorem State.DmOnly.refl (s : State) : s.DmOnly s := ⟨rfl, fun _ _ _ => rfl⟩
theorem State.DmOnly.trans {a b c : State} (h : a.DmOnly b) (k : b.DmOnly c) : a.DmOnly c :=
  ⟨by rw [k.state, h.state], fun j h1 h2 => (k.regs j h1 h2).trans (h.regs j h1 h2)⟩
theorem State.DmOnly.core {s t : State} (h : s.DmOnly t) (c : Nat) : t.core c = s.core c := by rw [h.state]; rfl
theorem State.Quiet.dm {s t : State} (h : s.Quiet t) : s.DmOnly t := ⟨by rw [h.state], fun k _ h2 => h.regs k h2⟩
theorem State.DmOnly.setReg (s : State) {k : Nat} (v : Word) (h : tileReg k) : s.DmOnly (s.setReg k v) :=
  ⟨rfl, fun _ hj _ => State.reg_setReg_ne s v (fun e => hj (e ▸ h))⟩
theorem State.DmOnly.bump (s : State) {k : Nat} (d : Nat) (h : tileReg k) (h4 : tileReg (k + 4)) : s.DmOnly (s.bump k d) ∧ (s.bump k d).mem = s.mem := by
  have q := State.Quiet.bump' s k d
  refine ⟨((State.DmOnly.setReg _ _ h).trans (State.DmOnly.setReg _ _ h4)).trans q.dm, ?_⟩
  rw [q.state]; rfl

theorem mtKey_tile {t o : Nat} (h : t < 8) (ho : o < 0x20000) : tileReg (mtKey t + o) := by
  unfold tileReg mtKey; omega

/-- What a read does to the state. -/
def State.DmRead (s t : State) : Prop := s.DmOnly t ∧ t.mem = s.mem

theorem State.DmRead.refl (s : State) : s.DmRead s := ⟨.refl s, rfl⟩
theorem State.DmRead.trans {a b c : State} (h : a.DmRead b) (k : b.DmRead c) : a.DmRead c := ⟨h.1.trans k.1, k.2.trans h.2⟩
theorem State.DmRead.setReg (s : State) {k : Nat} (v : Word) (h : tileReg k) : s.DmRead (s.setReg k v) := ⟨.setReg s v h, rfl⟩
theorem State.Quiet.dmRead {s t : State} (h : s.Quiet t) : s.DmRead t := ⟨h.dm, by rw [h.state]⟩

theorem State.DmRead.evSet (s : State) {t : Nat} (m : Nat) (h : t < 8) : s.DmRead (s.evSet (mtKey t + 0x28) m (20 + t)) :=
  .trans (.setReg s _ (mtKey_tile h (by omega))) (State.Quiet.evSet s _ _ (by omega)).dmRead

theorem State.DmRead.lineFix (s : State) {t : Nat} (line : Nat) (h : t < 8) : s.DmRead (s.lineFix t line) := by
  have h1 : s.DmRead { s with memErr := s.memErr.set nat0 (t * 2 ^ 30 + line) 0 } := ⟨⟨rfl, fun _ _ _ => rfl⟩, rfl⟩
  have h2 := h1.trans ((State.DmRead.setReg _ (BitVec.ofNat 32 line) (mtKey_tile h (o := 0x18) (by omega))).trans
    (State.DmRead.setReg _ (BitVec.ofNat 32 (line / 2 ^ 32)) (mtKey_tile h (o := 0x1C) (by omega))))
  have h3 := h2.trans (State.DmOnly.bump _ 1 (mtKey_tile h (o := 0x100) (by omega)) (mtKey_tile h (o := 0x104) (by omega)))
  unfold State.lineFix
  dsimp only
  split
  · exact (h3.trans (State.DmRead.evSet _ 2 h)).trans (State.Quiet.log _ _ (Nat.lt_of_le_of_lt (Nat.le_refl 0) (by decide))).dmRead
  · exact h3

theorem State.DmRead.lineBad (s : State) {t part : Nat} (line unit : Nat) (h : t < 8) (hp : part < 192) : s.DmRead (s.lineBad t line part unit) := by
  have h2 := (State.DmRead.setReg s (BitVec.ofNat 32 line) (mtKey_tile h (o := 0x20) (by omega))).trans
    (State.DmRead.setReg _ (BitVec.ofNat 32 (line / 2 ^ 32)) (mtKey_tile h (o := 0x24) (by omega)))
  have h3 := h2.trans (State.DmOnly.bump _ 1 (mtKey_tile h (o := 0x108) (by omega)) (mtKey_tile h (o := 0x10C) (by omega)))
  unfold State.lineBad
  dsimp only
  refine (h3.trans (State.DmRead.evSet _ 1 h)).trans (State.Quiet.log _ _ ?_).dmRead
  exact hp

theorem State.DmRead.tileWake (s : State) {t : Nat} (h : t < 8) : s.DmRead (s.tileWake t) := by
  unfold State.tileWake
  split
  · exact .setReg s _ (mtKey_tile h (by omega))
  · exact .refl s

theorem State.DmRead.lineScan (s : State) (c : Chunk) {part : Nat} (unit : Nat) (h : c.tile < 8) (hp : part < 192) :
    s.DmRead (s.lineScan c part unit).1 := by
  unfold State.lineScan
  have : ∀ (l : List (Nat × Nat)) (u : State) (o : Option Nat), u.DmRead (l.foldl (fun (acc : State × Option Nat) e =>
    if e.2 = 1 then (acc.1.lineFix c.tile (e.1 % 2 ^ 30), acc.2)
    else (acc.1.lineBad c.tile (e.1 % 2 ^ 30) part unit, acc.2.or (some (64 * e.1 - memIdx c.tile c.off)))) (u, o)).1 := by
    intro l
    induction l with
    | nil => exact fun u _ => .refl u
    | cons e l ih =>
      intro u o
      rw [List.foldl_cons]
      split
      · exact (State.DmRead.lineFix u _ h).trans (ih _ _)
      · exact (State.DmRead.lineBad u _ _ h hp).trans (ih _ _)
  exact this _ s none

theorem State.DmRead.refuseAt (s : State) (l : List Chunk) (h : ∀ c ∈ l, c.tile < 8) : s.DmRead (s.refuseAt l) := by
  unfold State.refuseAt
  split
  · exact .refl s
  · rename_i c l
    have hc := h c (List.mem_cons_self ..)
    exact State.DmRead.trans (State.DmOnly.bump _ 1 (mtKey_tile hc (o := 0x120) (by omega)) (mtKey_tile hc (o := 0x124) (by omega))) (.evSet _ 8 hc)

theorem State.DmRead.readChunks {part : Nat} (unit : Nat) (hp : part < 192) (l : List Chunk) (h : ∀ c ∈ l, c.tile < 8) (s : State) (o : Nat) :
    s.DmRead (s.readChunks part unit o l).1 := by
  induction l generalizing s o with
  | nil => exact .refl s
  | cons c l ih =>
    have hc := h c (List.mem_cons_self ..)
    unfold State.readChunks
    dsimp only
    exact State.DmRead.trans (State.DmRead.trans (State.DmRead.trans (State.DmRead.tileWake s hc)
      (State.DmOnly.bump _ _ (mtKey_tile hc (o := 0x138) (by omega)) (mtKey_tile hc (o := 0x13C) (by omega))))
      (State.DmRead.lineScan _ c unit hc hp)) (ih (fun x hx => h x (List.mem_cons_of_mem _ hx)) _ _)

/-! ### Tiles -/

theorem Fuse.tile_lt (f : Fuse) (i : Nat) : f.tiles.getD i 0 < 8 := by
  rw [List.getD_eq_getElem?_getD]
  cases h : f.tiles[i]? with
  | none => decide
  | some x =>
    have := List.mem_of_getElem? h
    unfold Fuse.tiles at this
    exact List.mem_range.mp (List.mem_filter.mp this).1

theorem Fuse.hasTile_lt {f : Fuse} {k : Nat} (h : f.hasTile k = true) : k < 8 := by
  unfold Fuse.hasTile at h
  split at h <;> simp at h <;> omega

theorem State.xlate_tile {s : State} {p a t o : Nat} (h : s.xlate p a = some (t, o)) : t < 8 := by
  unfold State.xlate at h
  dsimp only at h
  split at h
  · cases h; exact Fuse.tile_lt _ _
  · split at h
    · split at h
      · rename_i hh
        cases h
        exact Fuse.hasTile_lt hh.1
      · cases h
    · cases h

theorem State.chunksAux_tile {s : State} {p : Nat} : ∀ {fuel a n : Nat} {l : List Chunk}, s.chunksAux p fuel a n = some l → ∀ c ∈ l, c.tile < 8 := by
  intro fuel
  induction fuel with
  | zero => intro a n l h; unfold State.chunksAux at h; cases h; simp
  | succ f ih =>
    intro a n l h
    unfold State.chunksAux at h
    split at h
    · cases h; simp
    · dsimp only at h
      split at h
      · rename_i hx hl
        cases h
        intro c hc
        rcases List.mem_cons.mp hc with rfl | hc
        · exact State.xlate_tile hx
        · exact ih hl c hc
      · cases h

theorem State.chunks_tile {s : State} {p a n : Nat} {l : List Chunk} (h : s.chunks p a n = some l) : ∀ c ∈ l, c.tile < 8 :=
  State.chunksAux_tile h

theorem State.DmRead.dmRead (s : State) {p : Nat} (a n : Nat) (who : Who) (unit : Nat) (hp : p < 192) : s.DmRead (s.dmRead p a n who unit).1 := by
  unfold State.dmRead
  split
  · exact .refl s
  · rename_i l hl
    have h := State.chunks_tile hl
    dsimp only
    split
    · have := State.DmRead.readChunks unit hp l h s 0
      generalize s.readChunks p unit 0 l = r at *
      obtain ⟨u, d, ue⟩ := r
      dsimp only
      split <;> exact this
    · exact .refuseAt s _ (fun c hc => h c (List.mem_filter.mp hc).1)

theorem State.DmRead.countWrite (s : State) (c : Chunk) (lost : Nat) (h : c.tile < 8) : s.DmRead (s.countWrite c lost) := by
  have h1 : ∀ u : State, ∀ n, u.DmRead (u.bump (mtKey c.tile + 0x140) n) := fun u n =>
    State.DmOnly.bump u n (mtKey_tile h (o := 0x140) (by omega)) (mtKey_tile h (o := 0x144) (by omega))
  unfold State.countWrite
  dsimp only
  split
  · exact h1 _ _
  · exact State.DmRead.trans (State.DmOnly.bump s _ (mtKey_tile h (o := 0x138) (by omega)) (mtKey_tile h (o := 0x13C) (by omega))) (h1 _ _)

theorem State.DmOnly.writeChunk (s : State) (c : Chunk) (d : List Byte) {part : Nat} (unit : Nat) (h : c.tile < 8) (hp : part < 192) :
    s.DmOnly (s.writeChunk c d part unit).1 := by
  have h1 : ∀ n, s.DmOnly ((s.tileWake c.tile).countWrite c n) := fun n =>
    ((State.DmRead.tileWake s h).trans (State.DmRead.countWrite _ c n h)).1
  unfold State.writeChunk
  dsimp only
  split
  · exact (h1 0).trans ⟨rfl, fun _ _ _ => rfl⟩
  · have : ∀ (f : (Nat × Nat) → Bool) (l : List (Nat × Nat)) (u : State), u.DmOnly (l.foldl (fun s e =>
      if f e then { s with memErr := s.memErr.set nat0 e.1 0 }
      else if e.2 = 1 then s.lineFix c.tile (e.1 % 2 ^ 30)
      else s.lineBad c.tile (e.1 % 2 ^ 30) part unit) u) := by
      intro f l
      induction l with
      | nil => exact fun u => .refl u
      | cons e l ih =>
        intro u
        rw [List.foldl_cons]
        split
        · have h0 : u.DmOnly { u with memErr := u.memErr.set nat0 e.1 0 } := ⟨rfl, fun _ _ _ => rfl⟩
          exact h0.trans (ih _)
        · split
          · exact (State.DmRead.lineFix u _ h).1.trans (ih _)
          · exact (State.DmRead.lineBad u _ _ h hp).1.trans (ih _)
    exact ((h1 _).trans (this (fun e => decide (memIdx c.tile c.off ≤ 64 * e.1) && decide (64 * e.1 + 64 ≤ memIdx c.tile c.off + c.len)) _ _)).trans ⟨rfl, fun _ _ _ => rfl⟩

theorem State.DmOnly.writeChunks {part : Nat} (unit : Nat) (hp : part < 192) (l : List Chunk) (h : ∀ c ∈ l, c.tile < 8) (s : State) (o : Nat) (d : List Byte) :
    s.DmOnly (s.writeChunks part unit o l d).1 := by
  induction l generalizing s o d with
  | nil => exact .refl s
  | cons c l ih =>
    have hc := h c (List.mem_cons_self ..)
    unfold State.writeChunks
    dsimp only
    exact (State.DmOnly.writeChunk s c _ unit hc hp).trans (ih (fun x hx => h x (List.mem_cons_of_mem _ hx)) _ _ _)

theorem State.DmOnly.dmWrite (s : State) {p : Nat} (a : Nat) (d : List Byte) (who : Who) (unit : Nat) (hp : p < 192) : s.DmOnly (s.dmWrite p a d who unit).1 := by
  unfold State.dmWrite
  split
  · exact .refl s
  · rename_i l hl
    have h := State.chunks_tile hl
    dsimp only
    split
    · have := State.DmOnly.writeChunks unit hp l h s 0 d
      generalize s.writeChunks p unit 0 l d = r at *
      obtain ⟨u, ue⟩ := r
      cases ue <;> exact this
    · exact (State.DmRead.refuseAt s _ (fun c hc => h c (List.mem_filter.mp hc).1)).1

/-! ### Clean accesses -/

theorem State.satEvent_mem (s : State) (a b c : Nat) : (s.satEvent a b c).mem = s.mem ∧ (s.satEvent a b c).memErr = s.memErr := by
  have h := (State.Quiet.satEvent s a b c).state
  have h1 := congrArg State.mem h
  have h2 := congrArg State.memErr h
  exact ⟨h1, h2⟩
theorem State.bump_mem (s : State) (k d : Nat) : (s.bump k d).mem = s.mem := by
  unfold State.bump
  dsimp only
  split
  · exact (State.satEvent_mem _ _ _ _).1
  · rfl
theorem State.bump_memErr (s : State) (k d : Nat) : (s.bump k d).memErr = s.memErr := by
  unfold State.bump
  dsimp only
  split
  · exact (State.satEvent_mem _ _ _ _).2
  · rfl

/-- A read of one stretch that meets no failing line. -/
theorem State.readChunk_clean {s : State} {p unit : Nat} {c : Chunk} (h : errIn s.memErr 64 (memIdx c.tile c.off) c.len = []) (o : Nat) :
    s.readChunks p unit o [c] = ((s.tileWake c.tile).bump (mtKey c.tile + 0x138) c.lines, s.mem.getN byte0 (memIdx c.tile c.off) c.len, none) := by
  have hw : (s.tileWake c.tile).mem = s.mem ∧ (s.tileWake c.tile).memErr = s.memErr := by
    unfold State.tileWake; split <;> exact ⟨rfl, rfl⟩
  have hm : ((s.tileWake c.tile).bump (mtKey c.tile + 0x138) c.lines).mem = s.mem := (State.bump_mem _ _ _).trans hw.1
  have he : ((s.tileWake c.tile).bump (mtKey c.tile + 0x138) c.lines).memErr = s.memErr := (State.bump_memErr _ _ _).trans hw.2
  unfold State.readChunks State.readChunks State.lineScan
  dsimp only
  rw [he, h]
  dsimp only [List.foldl]
  rw [hm, List.append_nil]
  rfl

/-- A write of one stretch that meets no failing line. -/
theorem State.writeChunk_clean {s : State} {p unit : Nat} {c : Chunk} {d : List Byte} (h : errIn s.memErr 64 (memIdx c.tile c.off) c.len = []) :
    s.writeChunk c d p unit =
      ({ (s.tileWake c.tile).countWrite c 0 with mem := Map.setN byte0 s.mem (memIdx c.tile c.off) d }, none) := by
  have hw : (s.tileWake c.tile).mem = s.mem ∧ (s.tileWake c.tile).memErr = s.memErr := by
    unfold State.tileWake; split <;> exact ⟨rfl, rfl⟩
  unfold State.writeChunk
  dsimp only
  rw [hw.2, hw.1, h]
  rfl

theorem State.DmRead.regionsRefuse {s u : State} {p a n : Nat} {who : Who} {w : Bool} (h : s.regionsRefuse p a n who w = some u) : s.DmRead u := by
  unfold State.regionsRefuse at h
  split at h
  · cases h; exact .refl s
  · rename_i l hl
    dsimp only at h
    split at h
    · cases h
    · cases h
      exact .refuseAt s _ (fun c hc => State.chunks_tile hl c (List.mem_filter.mp hc).1)

/-- A read by a requester that may use no port. -/
theorem State.DmRead.memRd (s : State) {p : Nat} (a n : Nat) (who : Who) (unit : Nat) (hp : p < 192) : s.DmRead (s.memRd p a n who unit none).1 := by
  unfold State.memRd
  split
  · split
    · split
      · exact .refl s
      · exact .dmRead s a n who unit hp
    · split
      · exact .regionsRefuse ‹_›
      · cases ‹(none : Option Nat) = some _›
      · exact .refl s
  · dsimp only
    split
    · exact .regionsRefuse ‹_›
    · exact .refl s
    · cases ‹(none : Option Nat) = some _›

/-- Memory of one page with no record, release page or command port in it, no region that refuses and no failing line. -/
theorem State.Plain.memRd {s : State} {p a n t o : Nat} (h : s.Plain p a n t o) (who : Who) (unit : Nat) (tk : Option Nat) :
    s.memRd p a n who unit tk =
      ((s.tileWake t).bump (mtKey t + 0x138) (Chunk.lines ⟨t, o, n⟩), .ok (s.mem.getN byte0 (memIdx t o) n)) := by
  unfold State.memRd
  rw [h.recs]
  dsimp only [List.find?]
  rw [h.page, h.port]
  dsimp only
  rw [if_neg (by simp)]
  unfold State.dmRead
  rw [h.map]
  dsimp only
  rw [List.filter_cons_of_neg (by rw [h.regions]; decide), List.filter_nil]
  rw [State.readChunk_clean (c := ⟨t, o, n⟩) h.clean]
  rfl

theorem State.Plain.memWr {s : State} {p a t o : Nat} {d : List Byte} (h : s.Plain p a d.length t o) (who : Who) (unit : Nat) (ports : Bool) :
    s.memWr p a d who unit ports =
      ({ (s.tileWake t).countWrite ⟨t, o, d.length⟩ 0 with mem := Map.setN byte0 s.mem (memIdx t o) d }, .ok []) := by
  unfold State.memWr
  dsimp only
  rw [h.recs]
  dsimp only
  rw [h.page]
  dsimp only
  rw [h.port]
  dsimp only
  unfold State.dmWrite
  rw [h.map]
  dsimp only
  rw [List.filter_cons_of_neg (by rw [h.regions]; decide), List.filter_nil]
  unfold State.writeChunks State.writeChunks
  dsimp only
  rw [show d.take d.length = d from List.take_length, State.writeChunk_clean (c := ⟨t, o, d.length⟩) h.clean]
  rfl

theorem State.chunksAux_congr {s t : State} {p : Nat} (h : ∀ a, t.xlate p a = s.xlate p a) (f a n : Nat) : t.chunksAux p f a n = s.chunksAux p f a n := by
  induction f generalizing a n with
  | zero => rfl
  | succ f ih =>
    unfold State.chunksAux
    dsimp only
    rw [h, ih]

/-- Plain memory is plain whatever the cores hold. -/
theorem State.Plain.modCore {s : State} {p a n t o : Nat} (h : s.Plain p a n t o) (c : Nat) (f : Core → Core) : (s.modCore c f).Plain p a n t o := by
  refine ⟨?_, h.recs, h.page, h.port, h.regions, h.clean⟩
  rw [← h.map]
  exact State.chunksAux_congr (s := s) (t := s.modCore c f) (p := p) (fun _ => rfl) (n / 4096 + 2) a n

theorem List.find_congr {α : Type} {p q : α → Bool} (l : List α) (h : ∀ x ∈ l, p x = q x) : l.find? p = l.find? q := by
  induction l with
  | nil => rfl
  | cons a l ih =>
    rw [List.find?_cons, List.find?_cons, h a (List.mem_cons_self ..), ih (fun x hx => h x (List.mem_cons_of_mem _ hx))]

/-- The partitions' rectangles decide who owns a cluster. -/
theorem State.clusterPart_congr {s t : State} (h : ∀ p, p < 64 → t.reg (0x78000 + 0x20 * p) = s.reg (0x78000 + 0x20 * p)) (cl : Nat) :
    t.clusterPart cl = s.clusterPart cl := by
  unfold State.clusterPart
  congr 1
  refine List.find_congr _ fun p hp => ?_
  unfold State.rect
  rw [h p (List.mem_range.mp hp)]

theorem State.DmOnly.corePart {s t : State} (h : s.DmOnly t) (c : Nat) : t.corePart c = s.corePart c :=
  State.clusterPart_congr (fun p hp => h.regs _ (by unfold tileReg; omega) (by unfold eventReg; omega)) _

end Sys2Proof.Machine
end

