-- ==== Sys2Proof/Laws/Spad.lean ====
section
/-!
SUPPORT. Accesses to a core's scratchpad: what they give and what they leave.
-/

namespace Sys2Proof.Machine

/-- The CSRs in which failing scratchpad words are accounted for (R109, R110). -/
def spadCsr (n : Nat) : Prop := n = 0x50 ∨ n = 0x51 ∨ n = 0x54 ∨ n = 0x142 ∨ n = 0x143 ∨ n = 0x144

/-- What accounting for failing words of core c changes: its error words, its counts, the reporting of events. -/
structure State.Scanned (s t : State) (c : Nat) : Prop where
  others : ∀ x, x ≠ c → t.core x = s.core x
  core : t.core c = { s.core c with csr := (t.core c).csr, spadErr := (t.core c).spadErr }
  csrs : ∀ n, ¬ spadCsr n → (t.core c).get n = (s.core c).get n
  mem : t.mem = s.mem
  regs : ∀ k, ¬ eventReg k → t.reg k = s.reg k

theorem State.Scanned.refl (s : State) (c : Nat) : s.Scanned s c := ⟨fun _ _ => rfl, rfl, fun _ _ => rfl, rfl, fun _ _ => rfl⟩

theorem State.Scanned.trans {a b d : State} {c : Nat} (h : a.Scanned b c) (k : b.Scanned d c) : a.Scanned d c := by
  refine ⟨fun x hx => (k.others x hx).trans (h.others x hx), ?_, fun n hn => (k.csrs n hn).trans (h.csrs n hn), k.mem.trans h.mem,
    fun j hj => (k.regs j hj).trans (h.regs j hj)⟩
  rw [k.core, h.core]

theorem State.Scanned.modCore (s : State) (c : Nat) (f : Core → Core)
    (hf : f (s.core c) = { s.core c with csr := (f (s.core c)).csr, spadErr := (f (s.core c)).spadErr })
    (hc : ∀ n, ¬ spadCsr n → (f (s.core c)).get n = (s.core c).get n) : s.Scanned (s.modCore c f) c := by
  refine ⟨fun x hx => State.core_modCore_ne s f hx, ?_, fun n hn => ?_, rfl, fun _ _ => rfl⟩
  · rw [State.core_modCore_same]; exact hf
  · rw [State.core_modCore_same]; exact hc n hn

theorem State.Scanned.quiet {s t : State} (h : s.Quiet t) (c : Nat) : s.Scanned t c := by
  refine ⟨fun x _ => h.core x, by rw [h.core c], fun n _ => by rw [h.core c], by rw [h.state], h.regs⟩

theorem State.Scanned.bumpCsr (s : State) (c n d : Nat) (h : spadCsr n) (h1 : spadCsr (n + 1)) : s.Scanned (s.bumpCsr c n d) c := by
  have m := State.Scanned.modCore s c
    (fun k => (k.put n (ctrAdd ((s.core c).get n) ((s.core c).get (n + 1)) d).1).put (n + 1)
      (ctrAdd ((s.core c).get n) ((s.core c).get (n + 1)) d).2.1) rfl (by
      intro j hj
      rw [Core.get_put_ne _ _ (fun e => hj (by rw [e]; exact h1)), Core.get_put_ne _ _ (fun e => hj (by rw [e]; exact h))])
  unfold State.bumpCsr
  dsimp only
  split
  · exact m.trans (State.Scanned.quiet (State.Quiet.satEvent _ _ _ _) c)
  · exact m

theorem State.Scanned.spadFix (s : State) (c w : Nat) : s.Scanned (s.spadFix c w) c := by
  unfold State.spadFix
  dsimp only
  refine State.Scanned.trans (State.Scanned.modCore s c _ ?_ ?_)
    (State.Scanned.bumpCsr _ c 0x50 1 (Or.inl rfl) (Or.inr (Or.inl rfl)))
  · rfl
  · intro n hn
    exact Core.get_put_ne _ _ (fun e => hn (by rw [e]; unfold spadCsr; omega))

theorem State.Scanned.spadBad (s : State) (c w cause action : Nat) : s.Scanned (s.spadBad c w cause action) c := by
  unfold State.spadBad
  dsimp only
  have m : s.Scanned (s.modCore c fun k => k.put 0x142 (BitVec.ofNat 32 (8 * w))) c :=
    State.Scanned.modCore s c _ rfl fun n hn => Core.get_put_ne _ _ (fun e => hn (by rw [e]; unfold spadCsr; omega))
  refine State.Scanned.trans (m.trans (State.Scanned.bumpCsr _ c 0x143 1 (by unfold spadCsr; omega) (by unfold spadCsr; omega))) ?_
  refine State.Scanned.quiet (State.Quiet.log _ _ ?_) c
  have := State.corePart_lt (((s.modCore c fun k => k.put 0x142 (BitVec.ofNat 32 (8 * w)))).bumpCsr c 0x143 1) c
  simp only [Option.getD_some]
  omega

theorem State.Scanned.scanAux (c cause action : Nat) (l : List (Nat × Nat)) (s : State) (o : Option Nat) :
    s.Scanned (l.foldl (fun (acc : State × Option Nat) e =>
      if e.2 = 1 then (acc.1.spadFix c e.1, acc.2)
      else (acc.1.spadBad c e.1 cause action, acc.2.or (some (8 * e.1)))) (s, o)).1 c := by
  induction l generalizing s o with
  | nil => exact State.Scanned.refl s c
  | cons e l ih =>
    rw [List.foldl_cons]
    split
    · exact (State.Scanned.spadFix s c _).trans (ih _ _)
    · exact (State.Scanned.spadBad s c _ _ _).trans (ih _ _)

theorem spadScan_none (c cause action : Nat) (l : List (Nat × Nat)) (s : State) (o : Option Nat) (h : ∀ e ∈ l, e.2 = 1) :
    (l.foldl (fun (acc : State × Option Nat) e =>
      if e.2 = 1 then (acc.1.spadFix c e.1, acc.2)
      else (acc.1.spadBad c e.1 cause action, acc.2.or (some (8 * e.1)))) (s, o)).2 = o := by
  induction l generalizing s o with
  | nil => rfl
  | cons e l ih =>
    rw [List.foldl_cons, if_pos (h e (List.mem_cons_self ..))]
    exact ih _ _ (fun x hx => h x (List.mem_cons_of_mem _ hx))

theorem spadScan_some (c cause action : Nat) (l : List (Nat × Nat)) (s : State) (o : Option Nat) (h : o.isSome ∨ ∃ e ∈ l, e.2 ≠ 1) :
    (l.foldl (fun (acc : State × Option Nat) e =>
      if e.2 = 1 then (acc.1.spadFix c e.1, acc.2)
      else (acc.1.spadBad c e.1 cause action, acc.2.or (some (8 * e.1)))) (s, o)).2.isSome := by
  induction l generalizing s o with
  | nil =>
    rcases h with h | ⟨e, he, _⟩
    · exact h
    · exact absurd he (by simp)
  | cons e l ih =>
    rw [List.foldl_cons]
    split
    · rename_i h1
      refine ih _ _ ?_
      rcases h with h | ⟨x, hx, hx1⟩
      · exact Or.inl h
      · rcases List.mem_cons.mp hx with rfl | hx
        · exact absurd h1 hx1
        · exact Or.inr ⟨x, hx, hx1⟩
    · exact ih _ _ (Or.inl (by cases o <;> rfl))

/-- A read of the scratchpad: the bytes, whether a word was uncorrectable, and what the accounting changes. -/
theorem State.spadRead_spec (s : State) (c a n cause action : Nat) :
    s.Scanned (s.spadRead c a n cause action).1 c ∧
      (s.spadRead c a n cause action).2.1 = (s.core c).spad.getN byte0 a n ∧
      ((∀ e ∈ errIn (s.core c).spadErr 8 a n, e.2 = 1) → (s.spadRead c a n cause action).2.2 = none) ∧
      ((∃ e ∈ errIn (s.core c).spadErr 8 a n, e.2 ≠ 1) → (s.spadRead c a n cause action).2.2.isSome) := by
  have h := State.Scanned.scanAux c cause action (errIn (s.core c).spadErr 8 a n) s none
  refine ⟨h, ?_, fun e => spadScan_none c cause action _ s none e, fun e => spadScan_some c cause action _ s none (Or.inr e)⟩
  have hc := h.core
  unfold State.spadRead State.spadScan
  dsimp only
  rw [hc]

theorem State.spadRead_clean {s : State} {c a n : Nat} (cause action : Nat) (h : errIn (s.core c).spadErr 8 a n = []) :
    s.spadRead c a n cause action = (s, (s.core c).spad.getN byte0 a n, none) := by
  unfold State.spadRead State.spadScan
  rw [h]
  rfl

theorem State.spadWrite_clean {s : State} {c a : Nat} {d : List Byte} (cause action : Nat)
    (h : errIn (s.core c).spadErr 8 a d.length = []) :
    s.spadWrite c a d cause action = (s.modCore c fun k => { k with spad := Map.setN byte0 k.spad a d }, none) := by
  unfold State.spadWrite
  dsimp only
  rw [h]
  rfl

theorem leNat_getN1 (k : Core) (a : Nat) : leNat (k.spad.getN byte0 a 1) = (k.spadByte a).toNat := by
  simp [Map.getN, leNat, Core.spadByte]
theorem leNat_getN2 (k : Core) (a : Nat) : leNat (k.spad.getN byte0 a 2) = (k.spadHalf a).toNat := by
  have h1 := (k.spadByte a).isLt
  have h2 := (k.spadByte (a + 1)).isLt
  have : k.spad.getN byte0 a 2 = [k.spadByte a, k.spadByte (a + 1)] := rfl
  rw [this]
  simp only [leNat, Core.spadHalf, BitVec.toNat_append]
  rw [Nat.shiftLeft_eq, Nat.or_comm, Nat.mul_comm _ (2 ^ 8), Nat.or_comm, ← Nat.two_pow_add_eq_or_of_lt h1]
  omega
theorem leNat_getN4 (k : Core) (a : Nat) : leNat (k.spad.getN byte0 a 4) = (k.spadWord a).toNat := by
  have h0 := (k.spadByte a).isLt
  have h1 := (k.spadByte (a + 1)).isLt
  have h2 := (k.spadByte (a + 2)).isLt
  have h3 := (k.spadByte (a + 3)).isLt
  have : k.spad.getN byte0 a 4 = [k.spadByte a, k.spadByte (a + 1), k.spadByte (a + 2), k.spadByte (a + 3)] := rfl
  rw [this]
  have ap : ∀ (m n : Nat) (x : BitVec m) (y : BitVec n), (x ++ y).toNat = x.toNat * 2 ^ n + y.toNat := by
    intro m n x y
    rw [BitVec.toNat_append, Nat.shiftLeft_eq, Nat.mul_comm, ← Nat.two_pow_add_eq_or_of_lt y.isLt, Nat.mul_comm]
  simp only [leNat, Core.spadWord, ap]
  omega

theorem leBytes_getElem : ∀ (n v i : Nat) (h : i < (leBytes n v).length), (leBytes n v)[i] = BitVec.ofNat 8 (v >>> (8 * i)) := by
  intro n
  induction n with
  | zero => intro v i h; exact absurd h (by simp [leBytes])
  | succ n ih =>
    intro v i h
    cases i with
    | zero => simp [leBytes]
    | succ i =>
      simp only [leBytes, List.getElem_cons_succ, ih]
      congr 1
      rw [Nat.shiftRight_eq_div_pow, Nat.shiftRight_eq_div_pow, Nat.div_div_eq_div_mul]
      congr 1
      rw [show 8 * (i + 1) = 8 * i + 8 by omega, Nat.pow_add, Nat.mul_comm]

theorem length_leBytes (n v : Nat) : (leBytes n v).length = n := by
  induction n generalizing v with
  | zero => rfl
  | succ n ih => rw [leBytes, List.length_cons, ih]

/-- A store that meets no failing word, retired. -/
theorem State.stores_put {s : State} {c : Nat} (npc : Word) (a n : Nat) (v : Word) :
    s.Stores ((s.modCore c fun k => { k with spad := Map.setN byte0 k.spad a (leBytes n v.toNat) }).modCore c fun k => k.retire npc)
      c npc a n v := by
  have key : (((s.modCore c fun k => { k with spad := Map.setN byte0 k.spad a (leBytes n v.toNat) }).modCore c fun k =>
      k.retire npc).core c) = ({ s.core c with spad := Map.setN byte0 (s.core c).spad a (leBytes n v.toNat) } : Core).retire npc := by
    rw [State.core_modCore_same, State.core_modCore_same]
  generalize hk : ({ s.core c with spad := Map.setN byte0 (s.core c).spad a (leBytes n v.toNat) } : Core) = k at key
  have hg : ∀ j, k.get j = (s.core c).get j := by intro j; rw [← hk]; rfl
  have hst : k.stepping = (s.core c).stepping := by rw [← hk]
  have hsp : (k.retire npc).spad = Map.setN byte0 (s.core c).spad a (leBytes n v.toNat) := by rw [Core.retire_eq, ← hk]; rfl
  refine ⟨(State.onlyCore_modCore s c _).trans (State.onlyCore_modCore _ c _), ?_, ?_, ?_, ?_, ?_, ?_⟩ <;> rw [key]
  · have hr := Core.retired k npc
    refine ⟨hr.pc, hr.wait, hr.stepping, ?_, ?_⟩
    · rw [hr.rs, hst]
    · rw [hr.instret]; unfold Core.instret; rw [hg, hg]
  · intro r; rw [Core.s_retire, ← hk]; rfl
  · refine ⟨fun j h1 h2 h3 _ => by rw [Core.get_retire _ _ _ h1 h2 h3, hg], fun i hi => ?_⟩
    rw [Core.get_retire_status, bit_setFld _ _ _ _ _ (by decide), if_neg (by omega), hg]
  · intro i hi
    unfold Core.spadByte
    rw [hsp, Map.get_setN, dif_pos (by rw [length_leBytes]; omega), leBytes_getElem]
    congr 2; omega
  · intro x hx
    unfold Core.spadByte
    rw [hsp, Map.get_setN, dif_neg (by rw [length_leBytes]; omega)]
  · rw [← hk, Core.retire_eq]
    rfl

end Sys2Proof.Machine
end

