-- ==== Sys2Proof/Laws/Msg.lean ====
section
/-!
SUPPORT. What the operations of the message unit change of a core, said once.
-/

namespace Sys2Proof.Machine

theorem State.Awake.wakeFor {s : State} {c : Nat} (h : s.Awake c) : s.wakeFor (coreCluster c) = s := by
  unfold State.wakeFor
  dsimp only
  have hd : clusterDie (coreCluster c) < 4 := by unfold clusterDie coreDie; split <;> split <;> omega
  rw [if_neg (h.2 _ hd), if_neg (by rw [h.1]; decide)]

theorem Core.RunKept.refl (k : Core) : k.RunKept k := ⟨fun _ => rfl, rfl, rfl, rfl, rfl⟩
theorem Core.RunKept.trans {a b d : Core} (h : a.RunKept b) (g : b.RunKept d) : a.RunKept d :=
  ⟨fun r => (g.regs r).trans (h.regs r), g.pc.trans h.pc, g.imem.trans h.imem, g.wait.trans h.wait, g.rs.trans h.rs⟩
theorem Core.RunKept.put (k : Core) {n : Nat} (v : Word) (h : n ≠ 1) : k.RunKept (k.put n v) := by
  refine ⟨fun _ => rfl, rfl, rfl, rfl, ?_⟩
  unfold Core.rs Core.cf
  rw [Core.get_put_ne _ _ (fun e => h e.symm)]

/-- A change of CSRs other than CC_STATUS alone. -/
structure Core.CsrOnly (k k' : Core) (may : Nat → Prop) : Prop where
  core : k' = { k with csr := k'.csr }
  csrs : ∀ n, ¬ may n → k'.get n = k.get n

theorem Core.CsrOnly.refl (k : Core) (may : Nat → Prop) : k.CsrOnly k may := ⟨rfl, fun _ _ => rfl⟩
theorem Core.CsrOnly.trans {a b d : Core} {may : Nat → Prop} (h : a.CsrOnly b may) (g : b.CsrOnly d may) : a.CsrOnly d may :=
  ⟨by rw [g.core, h.core], fun n hn => (g.csrs n hn).trans (h.csrs n hn)⟩
theorem Core.CsrOnly.put (k : Core) {n : Nat} (v : Word) {may : Nat → Prop} (h : may n) : k.CsrOnly (k.put n v) may :=
  ⟨rfl, fun _ hm => Core.get_put_ne _ _ (fun e => hm (by rw [e]; exact h))⟩
theorem Core.CsrOnly.mono {k k' : Core} {a b : Nat → Prop} (h : k.CsrOnly k' a) (w : ∀ n, a n → b n) : k.CsrOnly k' b :=
  ⟨h.core, fun n hn => h.csrs n (fun x => hn (w n x))⟩
theorem Core.CsrOnly.run {k k' : Core} {may : Nat → Prop} (h : k.CsrOnly k' may) (h1 : ¬ may 1) : k.RunKept k' := by
  refine ⟨fun r => by rw [h.core]; rfl, by rw [h.core], by rw [h.core], by rw [h.core], ?_⟩
  unfold Core.rs Core.cf
  rw [h.csrs 1 h1]

/-- CSRs of semaphores and their overflow record. -/
def semCsr (n : Nat) : Prop := (0x100 ≤ n ∧ n < 0x140) ∨ n = 0x145 ∨ n = 0x146
/-- CC_TPEND and MU_STAT. -/
def statCsr (n : Nat) : Prop := n = 0x17 ∨ n = 0x201

theorem Core.muStat_csr (k : Core) (b : Nat) : k.CsrOnly (k.muStat b) statCsr := by
  unfold Core.muStat
  split
  · exact .refl k _
  · dsimp only
    split
    · exact (Core.CsrOnly.put k _ (Or.inr rfl)).trans (.put _ _ (Or.inl rfl))
    · exact .put k _ (Or.inr rfl)

theorem Core.muStat_bit (k : Core) {b : Nat} (h : b < 32) : bit ((k.muStat b).get 0x201) b = true := by
  unfold Core.muStat
  split
  · assumption
  · have hb : bit ((k.orCsr 0x201 (2 ^ b)).get 0x201) b = true := by
      rw [Core.get_orCsr, if_pos rfl, bit_orBits _ _ _ h, Nat.testBit_two_pow_self, Bool.or_true]
    dsimp only
    split
    · rw [Core.get_orCsr, if_neg (by decide)]; exact hb
    · exact hb

theorem Core.semInc_csr (k : Core) {n : Nat} (h : n < 64) : k.CsrOnly (k.semInc n).1 semCsr := by
  unfold Core.semInc
  split
  · exact .put k _ (by unfold semCsr; omega)
  · exact .put k _ (by unfold semCsr; omega)

theorem Core.semInc_value (k : Core) {n : Nat} (h : n < 64) : (k.semInc n).1.sem n = min 255 (k.sem n + 1) := by
  have hl : k.sem n < 256 := Nat.mod_lt _ (by decide)
  unfold Core.semInc
  split
  · rename_i h255
    show fld ((k.orCsr _ _).get (0x100 + n)) 0 8 = _
    rw [Core.get_orCsr, if_neg (by omega)]
    show k.sem n = _
    omega
  · unfold Core.setSem
    show fld ((k.put _ _).get (0x100 + n)) 0 8 = _
    rw [Core.get_put_same]
    unfold fld
    rw [BitVec.toNat_ofNat, Nat.shiftRight_zero]
    omega

/-- Acceptance of a message changes tickets outstanding and, for a transfer, the DMA engine of its source alone. -/
theorem State.accepted_core (s : State) (m : Msg) (c : Nat) :
    (s.accepted m).core c = { s.core c with
      sacc := ((s.accepted m).core c).sacc, saccFar := ((s.accepted m).core c).saccFar, engs := ((s.accepted m).core c).engs } ∧
      (s.accepted m).net = s.net := by
  unfold State.accepted
  split
  · rename_i x _
    by_cases hx : c = x
    · subst hx
      rw [State.core_modCore_same]
      refine ⟨?_, rfl⟩
      split
      · rfl
      · split <;> rfl
    · rw [State.core_modCore_ne _ _ hx]; exact ⟨rfl, rfl⟩
  · exact ⟨rfl, rfl⟩

theorem Core.drainSends_csr (k : Core) : ∃ q v, (∀ n, n ≠ 0x4E → (k.drainSends).get n = k.get n) ∧ k.drainSends = { k with sendq := q, csr := v } := by
  have h : ∀ (l : List SendItem) (j : Core), ∃ q v, (∀ n, n ≠ 0x4E → (Core.drainSends.go l j).get n = j.get n) ∧
      Core.drainSends.go l j = { j with sendq := q, csr := v } := by
    intro l
    induction l with
    | nil => intro j; exact ⟨[], j.csr, fun _ _ => rfl, rfl⟩
    | cons x t ih =>
      intro j
      unfold Core.drainSends.go
      split
      · exact ⟨x :: t, j.csr, fun _ _ => rfl, rfl⟩
      · obtain ⟨q, v, h1, h2⟩ := ih (j.put 0x4E (BitVec.ofNat 32 x.ticket))
        exact ⟨q, v, fun n hn => (h1 n hn).trans (Core.get_put_ne _ _ hn), h2⟩
  exact h _ _

theorem State.bumpCsr_eq (s : State) (c n d : Nat) :
    ∃ v u, (s.setCore c ((((s.core c).put n v).put (n + 1) u))).Quiet (s.bumpCsr c n d) ∧
      v = (ctrAdd ((s.core c).get n) ((s.core c).get (n + 1)) d).1 ∧ u = (ctrAdd ((s.core c).get n) ((s.core c).get (n + 1)) d).2.1 := by
  refine ⟨_, _, ?_, rfl, rfl⟩
  unfold State.bumpCsr
  dsimp only
  split
  · exact State.Quiet.satEvent _ _ _ _
  · exact State.Quiet.refl _

/-- A counter CSR of a core counts. -/
theorem State.bumpCsr_core (s : State) (c n d : Nat) :
    (s.core c).CsrOnly ((s.bumpCsr c n d).core c) (fun j => j = n ∨ j = n + 1) ∧ (s.bumpCsr c n d).net = s.net ∧
      ∀ x, x ≠ c → (s.bumpCsr c n d).core x = s.core x := by
  obtain ⟨v, u, q, -, -⟩ := State.bumpCsr_eq s c n d
  refine ⟨?_, ?_, fun x hx => ?_⟩
  · rw [q.core c, State.core_setCore_same]
    exact (Core.CsrOnly.put _ _ (Or.inl rfl)).trans (.put _ _ (Or.inr rfl))
  · have h := congrArg State.net q.state
    exact h
  · rw [q.core x, State.core_setCore_ne _ _ hx]

end Sys2Proof.Machine
end

