-- ==== Sys2Proof/Laws/Eng.lean ====
section
/-!
SUPPORT. What taking a descriptor and ending one change of a core, said once (R69, R70, R115, R116).
-/

namespace Sys2Proof.Machine

theorem Core.eng_of_engs {k j : Core} (h : k.engs = j.engs) (e : Nat) : k.eng e = j.eng e := congrArg (fun m => Map.get eng0 m e) h

/-- What `takeDesc` does when it answers: engine e's queue loses its head, which is answered; a semaphore may fall; nothing else changes. -/
theorem State.takeDesc_spec {s s1 : State} {c e : Nat} {d : Desc} (h : s.takeDesc c e = some (d, s1)) :
    isCore c = true ∧ s.clocked c = true ∧ s.isFenced c = false ∧
    (∃ rest, ((s.core c).eng e).queue = d :: rest ∧ ((s.core c).eng e).heldRec = none ∧
      (s1.core c).eng e = { (s.core c).eng e with queue := rest }) ∧
    s.OnlyCore s1 c ∧ (∀ f, f ≠ e → (s1.core c).eng f = (s.core c).eng f) ∧
    s1.core c = { s.core c with engs := (s1.core c).engs, csr := (s1.core c).csr } ∧
    (∀ n, ¬ semCsr n → (s1.core c).get n = (s.core c).get n) ∧
    (∀ n, d.wsem = some n → 0 < (s.core c).sem n ∧ (s1.core c).sem n = (s.core c).sem n - 1) ∧
    (d.wsem = none → (s1.core c).csr = (s.core c).csr) := by
  unfold State.takeDesc at h
  split at h
  · cases h
  · rename_i h0
    simp only [Bool.or_eq_true, Bool.not_eq_true'] at h0
    have g1 : isCore c = true := by cases hc : isCore c <;> simp_all
    have g2 : s.clocked c = true := by cases hc : s.clocked c <;> simp_all
    have g3 : s.isFenced c = false := by cases hc : s.isFenced c <;> simp_all
    dsimp only at h
    split at h
    · cases h
    · rename_i d' t hq
      split at h
      · cases h
      · rename_i hs
        simp only [Bool.or_eq_true, not_or, Bool.not_eq_true, Option.isSome_eq_false_iff, Option.isNone_iff_eq_none] at hs
        cases hw : d'.wsem with
        | none =>
          rw [hw] at h
          simp only [Option.some.injEq, Prod.mk.injEq] at h
          obtain ⟨rfl, rfl⟩ := h
          refine ⟨g1, g2, g3, ⟨t, hq, hs.2, ?_⟩, ⟨rfl, fun x hx => State.core_setCore_ne _ _ hx⟩, fun f hf => ?_, ?_, fun n _ => ?_, fun n hn => ?_, fun _ => ?_⟩
          · rw [State.core_setCore_same, Core.eng_setEng_same]
          · rw [State.core_setCore_same, Core.eng_setEng, if_neg hf]
          · rw [State.core_setCore_same]; rfl
          · rw [State.core_setCore_same]; rfl
          · rw [hw] at hn; cases hn
          · rw [State.core_setCore_same]; rfl
        | some n =>
          rw [hw] at h
          dsimp only at h
          split at h
          · cases h
          · rename_i hz
            simp only [Option.some.injEq, Prod.mk.injEq] at h
            obtain ⟨rfl, rfl⟩ := h
            have hn : n < 64 := by
              unfold Desc.wsem at hw
              split at hw
              · cases hw; exact Nat.mod_lt _ (by decide)
              · cases hw
            have hl : (s.core c).sem n < 256 := Nat.mod_lt _ (by decide)
            refine ⟨g1, g2, g3, ⟨t, hq, hs.2, ?_⟩, ⟨rfl, fun x hx => State.core_setCore_ne _ _ hx⟩, fun f hf => ?_, ?_, fun i hi => ?_, fun i hi => ?_, fun hx => ?_⟩
            · rw [State.core_setCore_same]
              show ((s.core c).setEng e _).eng e = _
              rw [Core.eng_setEng_same]
            · rw [State.core_setCore_same]
              show ((s.core c).setEng e _).eng f = _
              rw [Core.eng_setEng, if_neg hf]
            · rw [State.core_setCore_same]; rfl
            · rw [State.core_setCore_same]
              unfold Core.setSem
              rw [Core.get_put_ne _ _ (fun e => hi (by rw [e]; unfold semCsr; omega))]; rfl
            · rw [hw] at hi
              cases hi
              rw [State.core_setCore_same]
              refine ⟨by omega, ?_⟩
              unfold Core.setSem
              show fld ((Core.put _ _ _).get (0x100 + n)) 0 8 = _
              rw [Core.get_put_same]
              unfold fld
              rw [BitVec.toNat_ofNat, Nat.shiftRight_zero]
              omega
            · rw [hw] at hx; cases hx

theorem compRecord_fields {ticket e status : Nat} (h : ticket < 65536) (he : e < 256) (hs : status < 256) (a d : Nat) :
    fld ((compRecord ticket e status a d).getD 0 0) 24 8 = status ∧ fld ((compRecord ticket e status a d).getD 0 0) 0 16 = ticket := by
  unfold compRecord fld
  simp only [List.getD_cons_zero, BitVec.toNat_ofNat, Nat.shiftRight_eq_div_pow]
  omega

theorem Core.postRec_room {k : Core} {e : Nat} (r : List Word) (h : (k.eng e).comp.length < 8) :
    k.postRec e r = { k.setEng e { k.eng e with comp := (k.eng e).comp ++ [r] } with
      faults := k.faults ++ if fld (r.getD 0 0) 24 8 ≠ 0 then [(e, fld (r.getD 0 0) 0 16)] else [] } := by
  unfold Core.postRec
  dsimp only
  rw [if_pos h]
  by_cases h0 : fld (r.getD 0 0) 24 8 = 0
  · rw [if_pos h0, if_neg (by simpa using h0), List.append_nil]; rfl
  · rw [if_neg h0, if_pos h0]; rfl

theorem engDescCsr_range {e n : Nat} (h : engDescCsr e = some n) : 0x400 ≤ n ∧ n < 0x700 := by
  unfold engDescCsr at h
  split at h <;> cases h <;> decide

theorem State.bumpCsr_mem (s : State) (c n d : Nat) : (s.bumpCsr c n d).mem = s.mem := by
  obtain ⟨v, u, q, -, -⟩ := State.bumpCsr_eq s c n d
  have h := congrArg State.mem q.state
  exact h

/-- The end of a job that may end. -/
theorem State.endDesc_spec {s : State} {c e : Nat} {j : Job} {fault detail : Nat} (he : e < 5) (h : s.MayEnd c e j fault detail) :
    s.Ended (s.endDesc c e j fault detail) c e j fault detail := by
  -- the core after the semaphore
  obtain ⟨k1, hk1, s1, s2⟩ : ∃ k1, (match j.desc.ssem with
      | some n =>
        if fault = 0 then
          let (k, ovf) := (s.core c).semInc n
          if ovf then (k, 0xF0, n) else (k, 0, 0)
        else (s.core c, fault, detail)
      | none => (s.core c, fault, detail)) = (k1, fault, detail) ∧ (s.core c).CsrOnly k1 semCsr ∧
      (∀ n, j.desc.ssem = some n → fault = 0 → k1.sem n = (s.core c).sem n + 1) := by
    cases hs : j.desc.ssem with
    | none => exact ⟨s.core c, rfl, .refl _ _, fun n hn => by cases hn⟩
    | some n =>
      have hn : n < 64 := by
        unfold Desc.ssem at hs
        split at hs
        · cases hs; exact Nat.mod_lt _ (by decide)
        · cases hs
      have hlt := h.sem n hs
      by_cases hf : fault = 0
      · have hd := h.plain hf
        subst hf hd
        have e1 : (s.core c).semInc n = (((s.core c).semInc n).1, false) := by
          unfold Core.semInc
          rw [if_neg (by omega)]
        dsimp only
        rw [if_pos rfl, e1]
        refine ⟨((s.core c).semInc n).1, rfl, Core.semInc_csr _ hn, fun m hm _ => ?_⟩
        cases hm
        rw [Core.semInc_value _ hn]; omega
      · dsimp only
        rw [if_neg hf]
        exact ⟨s.core c, rfl, .refl _ _, fun _ _ z => absurd z hf⟩
  have g1 : k1 = { s.core c with csr := k1.csr } := s1.core
  have e1 : ∀ f, k1.eng f = (s.core c).eng f := by intro f; rw [g1]; rfl
  have c1 : k1.faults = (s.core c).faults ∧ k1.spad = (s.core c).spad := by rw [g1]; exact ⟨rfl, rfl⟩
  -- after the record
  generalize hrec : compRecord j.desc.ticket e fault j.desc.addr (if fault = 0 then 0 else detail) = r
  have hr : r = compRecord j.desc.ticket e fault j.desc.addr detail := by
    rw [← hrec]; split
    · rename_i hf; rw [h.plain hf]
    · rfl
  obtain ⟨f1, f2⟩ := compRecord_fields h.ticket (show e < 256 by omega) h.code j.desc.addr detail
  rw [← hr] at f1 f2
  generalize hk2 : (if j.desc.recd || fault != 0 then k1.postRec e r else k1) = k2
  have p2 : k2 = { k1 with engs := k2.engs, faults := k2.faults } ∧
      k2.eng e = { (s.core c).eng e with comp := ((s.core c).eng e).comp ++ if j.desc.recd || fault != 0 then [r] else [] } ∧
      (∀ f, f ≠ e → k2.eng f = (s.core c).eng f) ∧ k2.faults = (s.core c).faults ++ if fault ≠ 0 then [(e, j.desc.ticket)] else [] := by
    rw [← hk2]
    by_cases hb : (j.desc.recd || fault != 0) = true
    · rw [if_pos hb, if_pos hb, Core.postRec_room r (by rw [e1]; exact h.room), f1, f2]
      refine ⟨rfl, ?_, fun f hf => ?_, ?_⟩
      · show (k1.setEng e _).eng e = _
        rw [Core.eng_setEng_same, e1]
      · show (k1.setEng e _).eng f = _
        rw [Core.eng_setEng, if_neg hf, e1]
      · rw [c1.1]
    · rw [if_neg hb, if_neg hb]
      have hf : ¬ fault ≠ 0 := by
        intro hf
        apply hb
        simp [hf]
      refine ⟨rfl, ?_, fun f _ => e1 f, ?_⟩
      · rw [e1, List.append_nil]
      · rw [if_neg hf, List.append_nil, c1.1]
  obtain ⟨q1, q2, q3, q4⟩ := p2
  generalize hk3 : (k2.put (0x48 + e) (BitVec.ofNat 32 j.desc.ticket)).setEng e { k2.eng e with jobs := (k2.eng e).jobs.drop 1 } = k3
  have hk3' : (k2.put (0x48 + e) (BitVec.ofNat 32 j.desc.ticket)).setEng e
      { (k2.put (0x48 + e) (BitVec.ofNat 32 j.desc.ticket)).eng e with
        jobs := ((k2.put (0x48 + e) (BitVec.ofNat 32 j.desc.ticket)).eng e).jobs.drop 1 } = k3 := hk3
  have t3 : k3.spad = (s.core c).spad ∧ k3.faults = (s.core c).faults ++ (if fault ≠ 0 then [(e, j.desc.ticket)] else []) ∧
      k3.get (0x48 + e) = BitVec.ofNat 32 j.desc.ticket ∧
      k3.eng e = { (s.core c).eng e with jobs := ((s.core c).eng e).jobs.drop 1, comp := ((s.core c).eng e).comp ++ if j.desc.recd || fault != 0 then [r] else [] } ∧
      (∀ f, f ≠ e → k3.eng f = (s.core c).eng f) ∧ (s.core c).RunKept k3 ∧ (∀ n, j.desc.ssem = some n → fault = 0 → k3.sem n = (s.core c).sem n + 1) := by
    have gg : ∀ n, n ≠ 0x48 + e → k3.get n = k1.get n := by
      intro n hn
      rw [← hk3, Core.get_setEng, Core.get_put_ne _ _ hn, q1]; rfl
    refine ⟨?_, ?_, ?_, ?_, fun f hf => ?_, ?_, fun n hn hf => ?_⟩
    · rw [← hk3]; show k2.spad = _; rw [q1]; exact c1.2
    · rw [← hk3]; exact q4
    · rw [← hk3, Core.get_setEng, Core.get_put_same]
    · rw [← hk3, Core.eng_setEng_same, q2]
    · rw [← hk3, Core.eng_setEng, if_neg hf]; exact q3 f hf
    · refine ⟨fun x => ?_, ?_, ?_, ?_, ?_⟩
      · rw [← hk3]; show k2.s x = _; rw [q1, g1]; rfl
      · rw [← hk3]; show k2.pc = _; rw [q1, g1]
      · rw [← hk3]; show k2.imem = _; rw [q1, g1]
      · rw [← hk3]; show k2.wait = _; rw [q1, g1]
      · unfold Core.rs Core.cf
        rw [gg 1 (by omega), s1.csrs 1 (by unfold semCsr; omega)]
    · rw [← s2 n hn hf]
      have hn : n < 64 := by
        unfold Desc.ssem at hn
        split at hn
        · cases hn; exact Nat.mod_lt _ (by decide)
        · cases hn
      unfold Core.sem Core.cf
      rw [gg _ (by omega)]
  obtain ⟨t1, t2, t4, t5, t6, t7, t8⟩ := t3
  rw [hr] at t5
  -- with the engine's counters
  have close : ∀ t : State, (k3.CsrOnly (t.core c) (fun n => 0x400 ≤ n ∧ n < 0x710)) → t.mem = s.mem → t.net = s.net →
      (∀ x, x ≠ c → t.core x = s.core x) → s.Ended t c e j fault detail := by
    intro t ht hm hn ho
    have tc := ht.core
    refine ⟨t7.trans (ht.run (by omega)), ?_, ?_, fun f hf => ?_, ?_, ?_, fun n hn2 hf => ?_, ho, hm, hn⟩
    · rw [tc]; exact t1
    · rw [tc]; exact t5
    · rw [tc]; exact t6 f hf
    · rw [ht.csrs _ (by omega)]; exact t4
    · rw [tc]; exact t2
    · rw [← t8 n hn2 hf]
      have hn : n < 64 := by
        unfold Desc.ssem at hn2
        split at hn2
        · cases hn2; exact Nat.mod_lt _ (by decide)
        · cases hn2
      unfold Core.sem Core.cf
      rw [ht.csrs _ (by omega)]
  have hs : (s.core c).signalEnd j fault detail = (k1, fault, detail) := hk1
  have main : s.endDesc c e j fault detail = (match engDescCsr e with
      | some n =>
        let s := ((s.setCore c k3).freeVal.2.bumpCsr c n 1).bumpCsr c (n + 2) (s.setCore c k3).freeVal.1.toNat
        if fault = 0 then s
        else s.modCore c fun k => k.put (n + 4) (BitVec.ofNat 32 (fault % 256 + j.desc.ticket * 65536))
      | none => s.setCore c k3) := by
    unfold State.endDesc
    dsimp only
    rw [hs]
    dsimp only
    rw [hrec, hk2, hk3']
    all_goals (cases engDescCsr e <;> rfl)
  rw [main]
  cases hn : engDescCsr e with
  | none =>
    exact close _ (by rw [State.core_setCore_same]; exact .refl _ _) rfl rfl (fun x hx => State.core_setCore_ne _ _ hx)
  | some n =>
    have hr := engDescCsr_range hn
    dsimp only
    generalize (s.setCore c k3).freeVal.1.toNat = lost
    have b0 : (s.setCore c k3).freeVal.2.core c = k3 := State.core_setCore_same _ _ _
    obtain ⟨b1, b2, b3⟩ := State.bumpCsr_core (s.setCore c k3).freeVal.2 c n 1
    have b4 : ((s.setCore c k3).freeVal.2.bumpCsr c n 1).mem = s.mem := State.bumpCsr_mem _ _ _ _
    have b6 : ∀ x, x ≠ c → ((s.setCore c k3).freeVal.2.bumpCsr c n 1).core x = s.core x := fun x hx =>
      (b3 x hx).trans (State.core_setCore_ne s k3 hx)
    have b2' : ((s.setCore c k3).freeVal.2.bumpCsr c n 1).net = s.net := b2
    rw [b0] at b1
    generalize (s.setCore c k3).freeVal.2.bumpCsr c n 1 = u at *
    obtain ⟨d1, d2, d3⟩ := State.bumpCsr_core u c (n + 2) lost
    have d4 : (u.bumpCsr c (n + 2) lost).mem = s.mem := (State.bumpCsr_mem _ _ _ _).trans b4
    have d5 : k3.CsrOnly ((u.bumpCsr c (n + 2) lost).core c) (fun n => 0x400 ≤ n ∧ n < 0x710) :=
      (b1.mono (by intro i hi; omega)).trans (d1.mono (by intro i hi; omega))
    have d6 : ∀ x, x ≠ c → (u.bumpCsr c (n + 2) lost).core x = s.core x := fun x hx => (d3 x hx).trans (b6 x hx)
    split
    · exact close _ d5 d4 (d2.trans b2') d6
    · refine close _ ?_ d4 (d2.trans b2') (fun x hx => (State.core_modCore_ne _ _ hx).trans (d6 x hx))
      rw [State.core_modCore_same]
      exact d5.trans (.put _ _ (by omega))

end Sys2Proof.Machine
end

