-- ==== Sys2Proof/Laws/Fatal.lean ====
section
/-!
SUPPORT. What a counter, a heartbeat and a fatal package error leave (spec/15 R529, spec/19 R671, spec/20 R699).
-/

namespace Sys2Proof.Machine

/-- Counting at a register pair leaves every other register that is no event register. -/
theorem State.bump_reg (s : State) (k d : Nat) {j : Nat} (h : j ≠ k) (h4 : j ≠ k + 4) (he : ¬ eventReg j) : (s.bump k d).reg j = s.reg j := by
  rw [(State.Quiet.bump' s k d).regs j he, State.reg_setReg_ne _ _ h4, State.reg_setReg_ne _ _ h]

/-- A counter that has not reached its end counts by `d`. -/
theorem State.bump_value (s : State) (k d : Nat) (he : ¬ eventReg k) (he4 : ¬ eventReg (k + 4)) (hs : bit (s.reg (k + 4)) 31 = false)
    (hv : (s.reg k).toNat + 2 ^ 32 * ((s.reg (k + 4)).toNat % 2 ^ 16) + d < 2 ^ 48) :
    (s.bump k d).reg64 k = (s.reg k).toNat + 2 ^ 32 * ((s.reg (k + 4)).toNat % 2 ^ 16) + d := by
  unfold State.reg64
  have q := State.Quiet.bump' s k d
  rw [q.regs k he, q.regs (k + 4) he4, State.reg_setReg_same, State.reg_setReg_ne _ _ (by omega), State.reg_setReg_same]
  unfold ctrAdd
  rw [hs]
  dsimp only
  rw [if_neg (by decide), if_neg (by omega)]
  simp only [BitVec.toNat_ofNat]
  generalize (s.reg k).toNat + 2 ^ 32 * ((s.reg (k + 4)).toNat % 2 ^ 16) + d = n at *
  have e : n / 2 ^ 32 < 2 ^ 32 := Nat.div_lt_of_lt_mul (Nat.lt_of_lt_of_le hv (by decide))
  rw [Nat.mod_eq_of_lt e, Nat.mod_add_div]

/-- Heartbeats count and go out; cores, memory and the other registers stay. -/
theorem State.heartbeat_spec (s : State) (st : Nat) : (s.heartbeat st).cores = s.cores ∧ (s.heartbeat st).mem = s.mem ∧
    (s.heartbeat st).hourFatals = s.hourFatals ∧ (s.heartbeat st).capPend = s.capPend ∧
    (∀ j, j ≠ 0xA8610 → j ≠ 0xA8614 → ¬ eventReg j → (s.heartbeat st).reg j = s.reg j) ∧ ∃ l, (s.heartbeat st).net = s.net ++ l := by
  unfold State.heartbeat
  split
  · exact ⟨rfl, rfl, rfl, rfl, fun _ _ _ _ => rfl, [], (List.append_nil _).symm⟩
  · have gen : ∀ (l : List Nat) (u : State), u.cores = s.cores → u.mem = s.mem → u.hourFatals = s.hourFatals → u.capPend = s.capPend →
        (∀ j, j ≠ 0xA8610 → j ≠ 0xA8614 → ¬ eventReg j → u.reg j = s.reg j) → (∃ l, u.net = s.net ++ l) →
        ∀ w, w = l.foldl (fun (s : State) t =>
          let w := s.reg (0xA8010 + 4 * t)
          if bit w 31 then
            let s := s.bump 0xA8610 1
            let pay := words4 (s.devId + st * 2 ^ 16) (s.reg 0xA8610).toNat s.time32 0
            s.send (.wyn { cls := 7, nf := false, rg := false, rsp := false, lv := false, av := false, sub := 3, ch := 0, seq := 0,
                           dst := devAddr (fld w 0 16), src := devAddr s.devId, tag := 0, hops := 0, pri := 0, lseq := 0, lack := 0, ck := 0,
                           payload := pay })
          else s) u →
        w.cores = s.cores ∧ w.mem = s.mem ∧ w.hourFatals = s.hourFatals ∧ w.capPend = s.capPend ∧
          (∀ j, j ≠ 0xA8610 → j ≠ 0xA8614 → ¬ eventReg j → w.reg j = s.reg j) ∧ ∃ l, w.net = s.net ++ l := by
      intro l
      induction l with
      | nil => intro u h1 h2 h3 h4 h5 h6 w hw; subst hw; exact ⟨h1, h2, h3, h4, h5, h6⟩
      | cons t l ih =>
        intro u h1 h2 h3 h4 h5 h6 w hw
        refine ih _ ?_ ?_ ?_ ?_ ?_ ?_ w hw
        all_goals dsimp only; split
        · have h := congrArg State.cores (State.bump_state u 0xA8610 1); exact h.trans h1
        · exact h1
        · have h := congrArg State.mem (State.bump_state u 0xA8610 1); exact h.trans h2
        · exact h2
        · have h := congrArg State.hourFatals (State.bump_state u 0xA8610 1); exact h.trans h3
        · exact h3
        · have h := congrArg State.capPend (State.bump_state u 0xA8610 1); exact h.trans h4
        · exact h4
        · intro j a b e
          exact (State.bump_reg u _ _ a b e).trans (h5 j a b e)
        · exact h5
        · obtain ⟨m, hm⟩ := h6
          have h := congrArg State.net (State.bump_state u 0xA8610 1)
          have hx : ∀ x, ((u.bump 0xA8610 1).send x).net = s.net ++ (m ++ [x]) := by
            intro x
            rw [← List.append_assoc, ← hm]
            exact congrArg (· ++ [x]) h
          exact ⟨_, hx _⟩
        · exact h6
    exact gen (List.range 4) s rfl rfl rfl rfl (fun _ _ _ _ => rfl) ⟨[], (List.append_nil _).symm⟩ _ rfl

/-- What freezing a capture changes. -/
theorem State.freeze_spec (s : State) : s.freeze = { s with capRefused := s.freeze.capRefused, capPend := s.freeze.capPend, freeCtr := s.freeze.freeCtr } ∧
    (s.capPend = none → s.svc.capture = none → s.freeze.capPend.isSome = true) := by
  unfold State.freeze
  split
  · rename_i h
    refine ⟨rfl, fun a b => ?_⟩
    rw [a, b] at h; simp at h
  · exact ⟨rfl, fun _ _ => rfl⟩

/-- A fatal package error (R699): the fatal record is valid, ELOG bits and the log aside the registers, cores and memory stay. -/
theorem State.fatal_spec (s : State) (e : Err) (hp : e.part.getD 0 < 192) :
    bit ((s.fatal e).reg 0x2004) 0 = true ∧ (s.fatal e).cores = s.cores ∧ (s.fatal e).mem = s.mem ∧
    (s.fatal e).hourFatals = s.hourFatals + 1 ∧ (∃ l, (s.fatal e).net = s.net ++ l) ∧
    (s.capPend = none → s.svc.capture = none → (s.fatal e).capPend.isSome = true) ∧
    ∀ j, j ≠ 0x2004 → j ≠ 0xA8610 → j ≠ 0xA8614 → ¬ eventReg j → (s.fatal e).reg j = s.reg j := by
  unfold State.fatal
  dsimp only
  have q0 : s.Quiet (s.log { e with action := 8, fatal := true }) := State.Quiet.log s _ hp
  generalize s.log { e with action := 8, fatal := true } = a at *
  obtain ⟨fz, fz2⟩ := State.freeze_spec a
  have hcap : s.capPend = none → s.svc.capture = none → a.freeze.capPend.isSome = true := by
    intro h1 h2
    refine fz2 ?_ ?_
    · rw [q0.state]; exact h1
    · rw [q0.state]; exact h2
  have b1 : a.freeze.cores = s.cores := by rw [fz]; show a.cores = _; rw [q0.state]
  have b2 : a.freeze.mem = s.mem := by rw [fz]; show a.mem = _; rw [q0.state]
  have b3 : a.freeze.net = s.net := by rw [fz]; show a.net = _; rw [q0.state]
  have b4 : a.freeze.hourFatals = s.hourFatals := by rw [fz]; show a.hourFatals = _; rw [q0.state]
  have b5 : ∀ j, ¬ eventReg j → a.freeze.reg j = s.reg j := by
    intro j hj; rw [fz]; exact q0.regs j hj
  generalize a.freeze = b at *
  have hd : ∃ d : State, d = (if bit (b.reg 0x2004) 0 then b else b.setReg 0x2004 (BitVec.ofNat 32 (1 + e.unit * 2 ^ 8 + e.cause * 2 ^ 16))) ∧
      bit (d.reg 0x2004) 0 = true ∧ d.cores = b.cores ∧ d.mem = b.mem ∧ d.net = b.net ∧ d.hourFatals = b.hourFatals ∧ d.capPend = b.capPend ∧
      ∀ j, j ≠ 0x2004 → d.reg j = b.reg j := by
    refine ⟨_, rfl, ?_⟩
    split
    · rename_i h; exact ⟨h, rfl, rfl, rfl, rfl, rfl, fun _ _ => rfl⟩
    · refine ⟨?_, rfl, rfl, rfl, rfl, rfl, fun j hj => State.reg_setReg_ne _ _ hj⟩
      rw [State.reg_setReg_same]
      unfold bit
      rw [BitVec.toNat_ofNat, Nat.testBit_mod_two_pow]
      have : (1 + e.unit * 2 ^ 8 + e.cause * 2 ^ 16).testBit 0 = true := by
        rw [Nat.testBit_zero]; simp; omega
      rw [this]; rfl
  obtain ⟨d, hd0, d1, d2, d3, d4, d5, d6, d7⟩ := hd
  rw [← hd0]
  have q1 : d.Quiet ((List.range 64).foldl (fun (s : State) f => s.fnEvt f 1) d) :=
    State.Quiet.foldl _ fun u f hf => State.Quiet.fnEvt u 1 (by have := List.mem_range.mp hf; omega)
  generalize (List.range 64).foldl (fun (s : State) f => s.fnEvt f 1) d = f at *
  have e0 : bit (f.reg 0x2004) 0 = true := by rw [q1.regs _ (by unfold eventReg; omega)]; exact d1
  have e1 : f.cores = s.cores := by rw [q1.state]; exact d2.trans b1
  have e2 : f.mem = s.mem := by rw [q1.state]; exact d3.trans b2
  have e3 : f.net = s.net := by rw [q1.state]; exact d4.trans b3
  have e4 : f.hourFatals = s.hourFatals := by rw [q1.state]; exact d5.trans b4
  have e5 : f.capPend = b.capPend := by rw [q1.state]; exact d6
  have e6 : ∀ j, j ≠ 0x2004 → ¬ eventReg j → f.reg j = s.reg j := by
    intro j hj he; rw [q1.regs j he, d7 j hj, b5 j he]
  split
  · exact ⟨e0, e1, e2, congrArg (· + 1) e4, ⟨[], by rw [List.append_nil]; exact e3⟩, fun h1 h2 => by
      have := hcap h1 h2
      show f.capPend.isSome = true
      rw [e5]; exact this, fun j a _ _ he => e6 j a he⟩
  · obtain ⟨g1, g2, g3, g4, g5, l, g6⟩ := State.heartbeat_spec { f with hourFatals := f.hourFatals + 1 } 2
    refine ⟨?_, g1.trans e1, g2.trans e2, g3.trans (congrArg (· + 1) e4), ⟨l, by rw [g6]; exact congrArg (· ++ l) e3⟩, ?_, ?_⟩
    · rw [g5 0x2004 (by decide) (by decide) (by unfold eventReg; omega)]; exact e0
    · intro h1 h2
      rw [g4]
      show f.capPend.isSome = true
      rw [e5]; exact hcap h1 h2
    · intro j a b c he
      exact (g5 j b c he).trans (e6 j a he)

end Sys2Proof.Machine
end

