-- ==== Sys2Proof/Laws/Fence.lean ====
section
/-!
SUPPORT. What fencing a core does to that core and to its cluster's registers, said once (R97, R537, R538).
-/

namespace Sys2Proof.Machine

theorem State.releaseAll_core_ne (l : List Nat) (s : State) {x : Nat} (h : x ∉ l) : (s.releaseAll l).core x = s.core x := by
  unfold State.releaseAll
  induction l generalizing s with
  | nil => rfl
  | cons y l ih =>
    rw [List.foldl_cons, ih _ (fun e => h (List.mem_cons_of_mem _ e)), State.core_modCore_ne]
    exact fun e => h (e ▸ List.mem_cons_self ..)

theorem State.releaseAll_rest (l : List Nat) (s : State) : s.releaseAll l = { s with cores := (s.releaseAll l).cores } := by
  unfold State.releaseAll
  induction l generalizing s with
  | nil => rfl
  | cons y l ih => rw [List.foldl_cons, ih]; rfl

theorem State.barSettle_core (s : State) (die : Bool) (key : Nat) (b : Barrier) {c : Nat} (h : c ∉ b.arrived) :
    (s.barSettle die key b).core c = s.core c ∧ ∀ k, (s.barSettle die key b).reg k = s.reg k := by
  unfold State.barSettle
  split
  · have e := State.releaseAll_core_ne b.arrived s h
    have r := State.releaseAll_rest b.arrived s
    dsimp only
    split <;> exact ⟨e, fun k => by show (s.releaseAll b.arrived).reg k = _; rw [r]; rfl⟩
  · split <;> exact ⟨rfl, fun _ => rfl⟩

theorem Barrier.withdraw_arrived (b : Barrier) (c : Nat) : c ∉ (b.withdraw c).arrived := by
  unfold Barrier.withdraw
  simp

theorem State.barWithdraw_core (s : State) (c : Nat) :
    (s.barWithdraw c).core c = s.core c ∧ ∀ k, (s.barWithdraw c).reg k = s.reg k := by
  have h1 : ∀ u : State, ((match u.barC.get none0 (coreCluster c) with
      | some b => u.barSettle false (coreCluster c) (b.withdraw c)
      | none => u) : State).core c = u.core c ∧ ∀ k, ((match u.barC.get none0 (coreCluster c) with
      | some b => u.barSettle false (coreCluster c) (b.withdraw c)
      | none => u) : State).reg k = u.reg k := by
    intro u
    split
    · exact State.barSettle_core u _ _ _ (Barrier.withdraw_arrived _ _)
    · exact ⟨rfl, fun _ => rfl⟩
  obtain ⟨a, b⟩ := h1 s
  unfold State.barWithdraw
  dsimp only
  split
  · obtain ⟨x, y⟩ := State.barSettle_core (match s.barC.get none0 (coreCluster c) with
      | some b => s.barSettle false (coreCluster c) (b.withdraw c)
      | none => s) true (dieKey (match s.barC.get none0 (coreCluster c) with
      | some b => s.barSettle false (coreCluster c) (b.withdraw c)
      | none => s) c) _ (Barrier.withdraw_arrived ‹Barrier› c)
    exact ⟨x.trans a, fun k => (y k).trans (b k)⟩
  · exact ⟨a, b⟩

theorem State.closeContexts_eq (s : State) (c : Nat) :
    (s.closeContexts c).core c = { s.core c with ctxs := [] } ∧ ∀ k, (s.closeContexts c).reg k = s.reg k := by
  have h : ∀ (l : List (Nat × Option RdCtx)) (g : Option RdCtx → State → State), (∀ x u, (g x u).cores = u.cores ∧ (g x u).regs = u.regs) →
      ∀ u : State, (l.foldl (fun s e => g e.2 s) u).cores = u.cores ∧ (l.foldl (fun s e => g e.2 s) u).regs = u.regs := by
    intro l g hg
    induction l with
    | nil => exact fun u => ⟨rfl, rfl⟩
    | cons e l ih =>
      intro u
      rw [List.foldl_cons]
      obtain ⟨a, b⟩ := ih (g e.2 u)
      obtain ⟨a', b'⟩ := hg e.2 u
      exact ⟨a.trans a', b.trans b'⟩
  obtain ⟨a, b⟩ := h (s.core c).ctxs (fun x u => match x with
    | some x => u.send (.red { part := s.corePart c, ch := x.ch, step := x.step, attempt := x.attempt, src := 0, core := c,
                               nf := true, rg := x.rg, ck := 0, stale := x.stale, recs := [endRec true x.rg] })
    | none => u) (by intro x u; cases x <;> exact ⟨rfl, rfl⟩) s
  unfold State.closeContexts
  dsimp only
  have hc : ∀ t : State, t.cores = s.cores → t.core c = s.core c := fun t e => by unfold State.core; rw [e]
  have hr : ∀ t : State, t.regs = s.regs → ∀ k, t.reg k = s.reg k := fun t e k => by unfold State.reg; rw [e]
  refine ⟨?_, fun k => ?_⟩
  · rw [State.core_modCore_same]
    exact congrArg (fun x : Core => { x with ctxs := [] }) (hc _ a)
  · exact hr _ b k

theorem clKey_plain {c : Nat} (h : isCore c = true) {o : Nat} (ho : o < 0x1000) : ¬ eventReg (clKey (coreCluster c) + o) := by
  have hc : coreCluster c < 640 := by
    unfold isCore at h
    unfold coreCluster coreRow coreCol
    simp only [decide_eq_true_eq] at h
    omega
  unfold eventReg clKey
  omega

/-- What a fence leaves of its core: everything it held but its engines' work, its sends, its contexts, its wait and its arrival; the
cluster's fence word and cause. -/
theorem State.fence_spec {s : State} {c : Nat} (h : isCore c = true) (cause : Nat) :
    (s.fence c cause).core c = ({ s.core c with ctxs := [] } : Core).fenced ∧
    bit ((s.fence c cause).reg (clKey (coreCluster c) + 4 * coreIdx c)) 9 = true ∧ (s.fence c cause).fcause c = cause % 16 := by
  have hi : coreIdx c < 16 := by unfold coreIdx; omega
  generalize hu1 : (s.orReg (clKey (coreCluster c) + 4 * coreIdx c) (2 ^ 9)).setFcause c cause = u1
  have c1 : u1.core c = s.core c := by rw [← hu1]; rfl
  have r1 : u1.reg (clKey (coreCluster c) + 4 * coreIdx c) = orBits (s.reg (clKey (coreCluster c) + 4 * coreIdx c)) (2 ^ 9) := by
    rw [← hu1]
    unfold State.setFcause
    dsimp only
    rw [State.reg_setRegFld, if_neg (by omega), State.reg_orReg, if_pos rfl]
  have r2 : u1.fcause c = cause % 16 := by
    rw [← hu1]
    unfold State.fcause State.regFld State.setFcause
    dsimp only
    rw [State.reg_setRegFld, if_pos rfl]
    exact fld_setFld _ _ _ _ (by omega)
  obtain ⟨c2, g2⟩ := State.closeContexts_eq u1 c
  generalize hu2 : (u1.closeContexts c).modCore c Core.fenced = u2
  have c3 : u2.core c = ({ s.core c with ctxs := [] } : Core).fenced := by rw [← hu2, State.core_modCore_same, c2, c1]
  have g3 : ∀ k, u2.reg k = u1.reg k := by intro k; rw [← hu2, State.reg_modCore, g2]
  obtain ⟨c4, g4⟩ := State.barWithdraw_core u2 c
  have key : ∀ t : State, (t.core c = u2.core c) → (∀ k, ¬ eventReg k → t.reg k = u2.reg k) →
      t.core c = ({ s.core c with ctxs := [] } : Core).fenced ∧
      bit (t.reg (clKey (coreCluster c) + 4 * coreIdx c)) 9 = true ∧ t.fcause c = cause % 16 := by
    intro t ht hr
    refine ⟨ht.trans c3, ?_, ?_⟩
    · rw [hr _ (clKey_plain h (by omega)), g3, r1]
      unfold bit orBits
      rw [BitVec.toNat_or, Nat.testBit_or]
      simp only [BitVec.toNat_ofNat, Nat.reducePow, Nat.reduceMod]
      rw [show Nat.testBit 512 9 = true by decide, Bool.or_true]
    · rw [← r2]
      unfold State.fcause State.regFld
      dsimp only
      rw [show clKey (coreCluster c) + 88 + 4 * (coreIdx c / 8) = clKey (coreCluster c) + (88 + 4 * (coreIdx c / 8)) by omega,
        hr _ (clKey_plain h (by omega)), g3]
  unfold State.fence
  dsimp only
  rw [hu1, hu2]
  generalize hw : u2.barWithdraw c = w
  rw [hw] at c4 g4
  generalize hp : w.corePart c = p
  have hp64 : p < 64 := by rw [← hp]; exact State.corePart_lt _ _
  generalize hl : w.log _ = l
  have q1 : w.Quiet l := by
    rw [← hl]
    refine State.Quiet.log _ _ ?_
    show p < 192
    omega
  -- the event register of the partition is no cluster register
  have q2 := State.Quiet.evSet l (0xA0020 + 0x200 * p) 8 (src := 256 + p) (by omega)
  generalize hv : l.evSet (0xA0020 + 0x200 * p) 8 (256 + p) = v
  rw [hv] at q2
  have c5 : v.core c = u2.core c := by rw [q2.core, ← c4, ← q1.core c]; rfl
  have g5 : ∀ k, ¬ eventReg k → k ≠ 0xA0020 + 0x200 * p → v.reg k = u2.reg k := by
    intro k hk hne
    rw [q2.regs k hk, State.reg_orReg, if_neg hne, q1.regs k hk, g4]
  have key2 : ∀ t : State, (t.core c = v.core c) → (∀ k, ¬ eventReg k → t.reg k = v.reg k) →
      t.core c = ({ s.core c with ctxs := [] } : Core).fenced ∧
      bit (t.reg (clKey (coreCluster c) + 4 * coreIdx c)) 9 = true ∧ t.fcause c = cause % 16 := by
    intro t ht hr
    have hne : ∀ o, o < 0x1000 → clKey (coreCluster c) + o ≠ 0xA0020 + 0x200 * p := by intro o _; unfold clKey; omega
    refine ⟨ht.trans (c5.trans c3), ?_, ?_⟩
    · rw [hr _ (clKey_plain h (by omega)), g5 _ (clKey_plain h (by omega)) (hne _ (by omega)), g3, r1]
      unfold bit orBits
      rw [BitVec.toNat_or, Nat.testBit_or]
      simp only [BitVec.toNat_ofNat, Nat.reducePow, Nat.reduceMod]
      rw [show Nat.testBit 512 9 = true by decide, Bool.or_true]
    · rw [← r2]
      unfold State.fcause State.regFld
      dsimp only
      rw [show clKey (coreCluster c) + 88 + 4 * (coreIdx c / 8) = clKey (coreCluster c) + (88 + 4 * (coreIdx c / 8)) by omega,
        hr _ (clKey_plain h (by omega)), g5 _ (clKey_plain h (by omega)) (hne _ (by omega)), g3]
  have hn : (v.fenceNotify c 1 cause).core c = v.core c ∧ ∀ k, (v.fenceNotify c 1 cause).reg k = v.reg k := by
    unfold State.fenceNotify
    dsimp only
    split <;> exact ⟨rfl, fun _ => rfl⟩
  split
  · unfold State.repairAppend
    split
    · split
      · exact key2 _ hn.1 (fun k _ => hn.2 k)
      · have q3 := State.Quiet.log (v.fenceNotify c 1 cause) { level := 0x44, unit := 0, cause := 4, action := 0 } (by decide)
        exact key2 _ ((q3.core c).trans hn.1) (fun k hk => (q3.regs k hk).trans (hn.2 k))
    · exact key2 _ hn.1 (fun k _ => hn.2 k)
  · exact key2 _ hn.1 (fun k _ => hn.2 k)

end Sys2Proof.Machine
end

