-- ==== Sys2Proof/Laws/Maps.lean ====
section
/-!
SUPPORT. The canonical form of sparse data: every operation keeps it, and what a listed and an unlisted key read as.
-/

namespace Sys2Proof.Machine

theorem Map.wfFrom_mono {α : Type} [DecidableEq α] {d : Nat → α} {m : Map α} {a b : Nat} (h : a ≤ b) (w : m.wfFrom d b = true) :
    m.wfFrom d a = true := by
  cases m with
  | nil => rfl
  | cons e t => obtain ⟨j, v⟩ := e; simp only [Map.wfFrom, Bool.and_eq_true, decide_eq_true_eq] at w ⊢; exact ⟨by omega, w.2⟩
theorem Map.wfFrom_del {α : Type} [DecidableEq α] {d : Nat → α} {m : Map α} {k a : Nat} (w : m.wfFrom d a = true) :
    (m.del k).wfFrom d a = true := by
  induction m generalizing a with
  | nil => rfl
  | cons e t ih =>
    obtain ⟨j, v⟩ := e
    simp only [Map.wfFrom, Bool.and_eq_true, decide_eq_true_eq] at w
    unfold Map.del
    split
    · exact ih (Map.wfFrom_mono (by omega) w.2.2)
    · simp only [Map.wfFrom, Bool.and_eq_true, decide_eq_true_eq]; exact ⟨w.1, w.2.1, ih w.2.2⟩
theorem Map.wfFrom_ins {α : Type} [DecidableEq α] {d : Nat → α} {m : Map α} {k a : Nat} {v : α} (hv : v ≠ d k) (ha : a ≤ k)
    (w : m.wfFrom d a = true) : (m.ins k v).wfFrom d a = true := by
  induction m generalizing a with
  | nil => simp [Map.ins, Map.wfFrom, hv, ha]
  | cons e t ih =>
    obtain ⟨j, x⟩ := e
    simp only [Map.wfFrom, Bool.and_eq_true, decide_eq_true_eq] at w
    unfold Map.ins
    split
    · simp only [Map.wfFrom, Bool.and_eq_true, decide_eq_true_eq]; exact ⟨ha, hv, by omega, w.2.1, w.2.2⟩
    · split
      · rename_i h; subst h; simp only [Map.wfFrom, Bool.and_eq_true, decide_eq_true_eq]; exact ⟨ha, hv, w.2.2⟩
      · simp only [Map.wfFrom, Bool.and_eq_true, decide_eq_true_eq]; exact ⟨w.1, w.2.1, ih (by omega) w.2.2⟩
theorem Map.wf_set {α : Type} [DecidableEq α] {d : Nat → α} {m : Map α} {k : Nat} {v : α} (w : m.wf d = true) : (m.set d k v).wf d = true := by
  unfold Map.set Map.wf at *
  split
  · exact Map.wfFrom_del w
  · exact Map.wfFrom_ins ‹_› (Nat.zero_le _) w
theorem Map.wf_setN {α : Type} [DecidableEq α] {d : Nat → α} {m : Map α} {k : Nat} {l : List α} (w : m.wf d = true) :
    (Map.setN d m k l).wf d = true := by
  induction l generalizing m k with
  | nil => exact w
  | cons v t ih => exact ih (Map.wf_set w)
theorem Map.wfFrom_filter {α : Type} [DecidableEq α] {d : Nat → α} {m : Map α} {p : Nat × α → Bool} {a : Nat} (w : m.wfFrom d a = true) :
    Map.wfFrom d a (m.filter p) = true := by
  induction m generalizing a with
  | nil => rfl
  | cons e t ih =>
    obtain ⟨j, v⟩ := e
    simp only [Map.wfFrom, Bool.and_eq_true, decide_eq_true_eq] at w
    rw [List.filter_cons]
    split
    · simp only [Map.wfFrom, Bool.and_eq_true, decide_eq_true_eq]; exact ⟨w.1, w.2.1, ih w.2.2⟩
    · exact Map.wfFrom_mono (by omega) (ih w.2.2)
theorem Map.wf_clearRange {α : Type} [DecidableEq α] {d : Nat → α} {m : Map α} {k n : Nat} (w : m.wf d = true) :
    (m.clearRange k n).wf d = true := Map.wfFrom_filter w

theorem Map.get_clearRange {α : Type} (d : Nat → α) (m : Map α) (lo n x : Nat) :
    Map.get d (m.clearRange lo n) x = if lo ≤ x ∧ x < lo + n then d x else Map.get d m x := by
  induction m with
  | nil => unfold Map.clearRange; simp [Map.get]
  | cons e t ih =>
    obtain ⟨j, v⟩ := e
    unfold Map.clearRange at *
    rw [List.filter_cons]
    simp only [Bool.or_eq_true, decide_eq_true_eq]
    split
    · rename_i h
      unfold Map.get
      rw [ih]
      by_cases hx : x = j
      · subst hx; rw [if_pos rfl, if_pos rfl, if_neg (by omega)]
      · rw [if_neg hx, if_neg hx]
    · rename_i h
      rw [ih]
      conv => rhs; unfold Map.get
      by_cases hx : x = j
      · subst hx; rw [if_pos (by omega), if_pos (by omega)]
      · rw [if_neg hx]

/-- A key below every listed one reads as unlisted. -/
theorem Map.get_below {α : Type} [DecidableEq α] {d : Nat → α} {m : Map α} {a x : Nat} (w : m.wfFrom d a = true) (h : x < a) :
    Map.get d m x = d x := by
  induction m generalizing a with
  | nil => rfl
  | cons e t ih =>
    obtain ⟨j, v⟩ := e
    simp only [Map.wfFrom, Bool.and_eq_true, decide_eq_true_eq] at w
    unfold Map.get
    rw [if_neg (by omega)]
    exact ih w.2.2 (by omega)

theorem Map.le_key {α : Type} [DecidableEq α] {d : Nat → α} {m : Map α} {a : Nat} (w : m.wfFrom d a = true) : ∀ e ∈ m, a ≤ e.1 := by
  induction m generalizing a with
  | nil => intro e he; cases he
  | cons y ys ih =>
    intro e he
    obtain ⟨k, u⟩ := y
    simp only [Map.wfFrom, Bool.and_eq_true, decide_eq_true_eq] at w
    rcases List.mem_cons.1 he with rfl | he
    · exact w.1
    · have := ih w.2.2 e he; omega

/-- Entries stored one by one leave a key that none of them has. -/
theorem Map.get_foldl_set_ne {α : Type} [DecidableEq α] {d : Nat → α} {x : Nat} (l : List (Nat × α)) (h : ∀ e ∈ l, e.1 ≠ x) (t : Map α) :
    Map.get d (l.foldl (fun t e => t.set d e.1 e.2) t) x = Map.get d t x := by
  induction l generalizing t with
  | nil => rfl
  | cons e r ih =>
    rw [List.foldl_cons, ih (fun e he => h e (List.mem_cons_of_mem _ he)), Map.get_set, if_neg (fun g => h e (List.mem_cons_self ..) g.symm)]

/-- Entries of a stretch of keys stored one by one at another place read there as before at their own. -/
theorem Map.get_foldl_set {α : Type} [DecidableEq α] {d d' : Nat → α} {lo n i x : Nat} (f : Nat → Nat) (hi : lo ≤ i ∧ i < lo + n) (hx : f i = x)
    (hf : ∀ j, lo ≤ j → j < lo + n → f j = x → j = i) (m : Map α) (t : Map α) (a : Nat) (w : m.wfFrom d' a = true) (h : Map.get d t x = d' i) :
    Map.get d (((m.filter fun e => decide (lo ≤ e.1) && decide (e.1 < lo + n)).map fun e => (f e.1, e.2)).foldl (fun t e => t.set d e.1 e.2) t) x =
      Map.get d' m i := by
  induction m generalizing t a with
  | nil => exact h
  | cons e r ih =>
    obtain ⟨j, v⟩ := e
    simp only [Map.wfFrom, Bool.and_eq_true, decide_eq_true_eq] at w
    rw [List.filter_cons, show Map.get d' ((j, v) :: r) i = if i = j then v else Map.get d' r i from rfl]
    by_cases hj : lo ≤ j ∧ j < lo + n
    · rw [if_pos (by simp [hj.1, hj.2]), List.map_cons, List.foldl_cons]
      by_cases hij : i = j
      · subst hij
        rw [if_pos rfl, Map.get_foldl_set_ne, hx, Map.get_set, if_pos rfl]
        intro e he
        obtain ⟨y, hy, rfl⟩ := List.mem_map.1 he
        obtain ⟨hy, hr⟩ := List.mem_filter.1 hy
        simp only [Bool.and_eq_true, decide_eq_true_eq] at hr
        intro g
        have := hf _ hr.1 hr.2 g
        have := Map.le_key w.2.2 y hy
        omega
      · rw [if_neg hij]
        refine ih _ _ w.2.2 ?_
        rw [Map.get_set, if_neg (fun g => hij (hf _ hj.1 hj.2 g.symm).symm)]
        exact h
    · rw [if_neg (by simp; omega), if_neg (by omega)]
      exact ih _ _ w.2.2 h

theorem Map.wf_foldl_set {α : Type} [DecidableEq α] {d : Nat → α} (l : List (Nat × α)) (t : Map α) (w : t.wf d = true) :
    Map.wf d (l.foldl (fun t e => t.set d e.1 e.2) t) = true := by
  induction l generalizing t with
  | nil => exact w
  | cons e r ih => exact ih _ (Map.wf_set w)

end Sys2Proof.Machine
end

