-- ==== Sys2Proof/Laws/Keeps.lean ====
section
/-!
SUPPORT. What every operation of the block keeps: the queue, the fuses, the canonical form of the stores, and what is only counted on or bounded.
The relation, and how it passes through a conditional, a fold and an update of the state.
-/

namespace Sys2Proof.Machine

/-- How a state may follow another: the queue and the fuses as they were, the free values drawn only counted on, the minimum SVN
never lower, and what is canonical or bounded still so. -/
structure Keeps (s t : State) : Prop where
  pending : t.pending = s.pending
  fuse : t.fuse = s.fuse
  free : s.freeCtr ≤ t.freeCtr
  svn : s.svc.minSvn ≤ t.svc.minSvn
  raises : s.svc.raises ≤ 64 → t.svc.raises ≤ 64
  unlocks : s.svc.unlocks ≤ 15 → t.svc.unlocks ≤ 15
  mem : Map.wf byte0 s.mem = true → Map.wf byte0 t.mem = true
  regs : Map.wf regReset s.regs = true → Map.wf regReset t.regs = true
  cores : Map.wf core0 s.cores = true → Map.wf core0 t.cores = true
  repair : s.repairRec.length ≤ 64 → t.repairRec.length ≤ 64

theorem Keeps.refl (s : State) : Keeps s s := ⟨rfl, rfl, Nat.le_refl _, Nat.le_refl _, id, id, id, id, id, id⟩
theorem Keeps.trans {a b c : State} (h : Keeps a b) (k : Keeps b c) : Keeps a c :=
  ⟨k.pending.trans h.pending, k.fuse.trans h.fuse, Nat.le_trans h.free k.free, Nat.le_trans h.svn k.svn, k.raises ∘ h.raises,
    k.unlocks ∘ h.unlocks, k.mem ∘ h.mem, k.regs ∘ h.regs, k.cores ∘ h.cores, k.repair ∘ h.repair⟩

theorem Keeps.other {s0 s : State} {sclk : DWord} {latch : Map (Option Word)} {memErr : Map Nat} {net : List NetItem} {barC : Map (Option Barrier)} {barD : Map (Option Barrier)} {elog : Map (Option LogEntry)} {elogOver : Nat} {devAct : Map Nat} {fns : Map HostFn} {pllLost : Nat} {swept : Map (List Nat)} {stc : Map StepCtl} {rolls : List Roll} {runs : Map (List RunEnt)} {applies : Map (Option Apply)} {reemits : Map (Option Copy)} {copyq : List CopyWrite} {cmReqs : List CmReq} {cmSeq : Map Nat} {comb : Map (Option RedRec)} {redSteps : Map (Option RedStep)} {seals : List Seal} {ports : Map Port} {feeds : Map FdCh} {rotIn : List Msg} {rqOut : List (Nat × Rq)} {rqSeq : Nat} {restores : Map (Option Restore)} {hostqs : Map HostQ} {hostSeq : Nat} {hostTurn : Nat} {hostLink : Option (Nat × Nat)} {reqs : Map Req} {batches : List Batch} {svq : List SvCmd} {scrub : Map Nat} {trans : List Trans} {pwrHeld : Nat} {capMiss : Bool} {thermtrip : Bool} {evcClass : Map Nat} {pins : Nat} {plinks : Map PLink} {bootRetry : Bool} {capPend : Option (List Byte)} {capRefused : Nat} {hourTrips : Nat} {hourFatals : Nat} {hourHot : Bool} {jtag : Nat} {challenge : Bool} {unlocked : Bool} {respFails : Nat} {respAt : Option Nat} {objs : Map Nat} {objsBoot : Map Nat} {dapq : List DapReq} {dapWrite : Option DapWrite} {dapKept : List DapKept} {dapAsm : Map (Option DapAsm)} {dapDrop : Nat} {mctpEid : Nat} {out : List OutItem} (h : Keeps s0 s) :
    Keeps s0 (State.mk s.pending s.freeCtr s.fuse sclk s.regs latch s.cores s.mem memErr net barC barD elog elogOver devAct fns pllLost swept stc rolls runs applies reemits copyq cmReqs cmSeq comb redSteps seals ports feeds rotIn rqOut rqSeq restores hostqs hostSeq hostTurn hostLink reqs batches svq scrub trans pwrHeld capMiss thermtrip evcClass pins plinks bootRetry s.svc capPend capRefused hourTrips hourFatals hourHot jtag challenge unlocked respFails respAt objs objsBoot dapq dapWrite dapKept dapAsm dapDrop mctpEid s.repairRec out) :=
  ⟨h.pending, h.fuse, h.free, h.svn, h.raises, h.unlocks, h.mem, h.regs, h.cores, h.repair⟩

theorem Keeps.ite {s0 : State} {c : Prop} [Decidable c] {a b : State} (h : Keeps s0 a) (k : Keeps s0 b) :
    Keeps s0 (if c then a else b) := by split <;> assumption
theorem Keeps.fst {s0 t : State} {α : Type} {p : State × α} {v : α} (e : p = (t, v)) (h : Keeps s0 p.1) : Keeps s0 t := by
  subst e; exact h
theorem Keeps.snd {s0 t : State} {α : Type} {p : α × State} {v : α} (e : p = (v, t)) (h : Keeps s0 p.2) : Keeps s0 t := by
  subst e; exact h
theorem Keeps.foldl {s0 s : State} {β : Type} {f : State → β → State} {l : List β} (h : Keeps s0 s)
    (hf : ∀ t x, Keeps s0 t → Keeps s0 (f t x)) : Keeps s0 (l.foldl f s) := by
  induction l generalizing s with
  | nil => exact h
  | cons x l ih => exact ih (hf s x h)
theorem Keeps.foldl1 {s0 : State} {α β : Type} {f : State × α → β → State × α} {l : List β} {a : State × α} (h : Keeps s0 a.1)
    (hf : ∀ t x, Keeps s0 t.1 → Keeps s0 (f t x).1) : Keeps s0 (l.foldl f a).1 := by
  induction l generalizing a with
  | nil => exact h
  | cons x l ih => exact ih (hf a x h)
theorem Keeps.foldl2 {s0 : State} {α β : Type} {f : α × State → β → α × State} {l : List β} {a : α × State} (h : Keeps s0 a.2)
    (hf : ∀ t x, Keeps s0 t.2 → Keeps s0 (f t x).2) : Keeps s0 (l.foldl f a).2 := by
  induction l generalizing a with
  | nil => exact h
  | cons x l ih => exact ih (hf a x h)

/-- The same of a result that may be none. -/
def KeepsO (s0 : State) : Option State → Prop
  | none => True
  | some t => Keeps s0 t
def KeepsO1 {α : Type} (s0 : State) : Option (State × α) → Prop
  | none => True
  | some t => Keeps s0 t.1
def KeepsO2 {α : Type} (s0 : State) : Option (α × State) → Prop
  | none => True
  | some t => Keeps s0 t.2
theorem KeepsO.nil {s0 : State} : KeepsO s0 none := trivial
theorem KeepsO1.nil {s0 : State} {α : Type} : KeepsO1 (α := α) s0 none := trivial
theorem KeepsO2.nil {s0 : State} {α : Type} : KeepsO2 (α := α) s0 none := trivial
theorem KeepsO.of {s0 t : State} (h : Keeps s0 t) : KeepsO s0 (some t) := h
theorem KeepsO1.of {s0 : State} {α : Type} {t : State × α} (h : Keeps s0 t.1) : KeepsO1 s0 (some t) := h
theorem KeepsO2.of {s0 : State} {α : Type} {t : α × State} (h : Keeps s0 t.2) : KeepsO2 s0 (some t) := h
theorem KeepsO.get {s0 t : State} {o : Option State} (e : o = some t) (h : KeepsO s0 o) : Keeps s0 t := by subst e; exact h
theorem KeepsO1.get {s0 t : State} {α : Type} {v : α} {o : Option (State × α)} (e : o = some (t, v)) (h : KeepsO1 s0 o) : Keeps s0 t := by
  subst e; exact h
theorem KeepsO2.get {s0 t : State} {α : Type} {v : α} {o : Option (α × State)} (e : o = some (v, t)) (h : KeepsO2 s0 o) : Keeps s0 t := by
  subst e; exact h
theorem KeepsO.getD {s0 s : State} {o : Option State} (k : Keeps s0 s) (h : KeepsO s0 o) : Keeps s0 (o.getD s) := by
  cases o <;> assumption

/-- The same of how an instruction ends. -/
def KeepsI (s0 : State) : IRes → Prop
  | .retire s _ => Keeps s0 s
  | .exc s _ _ => Keeps s0 s
  | .excAfter s _ _ => Keeps s0 s
  | .wait s _ => Keeps s0 s
  | .post s _ f => Keeps s0 s ∧ ∀ u, Keeps s0 u → Keeps s0 (f u)
theorem KeepsI.retire {s0 s : State} {a : Word} (h : Keeps s0 s) : KeepsI s0 (.retire s a) := h
theorem KeepsI.exc {s0 s : State} {n : Nat} {a : Word} (h : Keeps s0 s) : KeepsI s0 (.exc s n a) := h
theorem KeepsI.excAfter {s0 s : State} {n : Nat} {a : Word} (h : Keeps s0 s) : KeepsI s0 (.excAfter s n a) := h
theorem KeepsI.wait {s0 s : State} {a : Wait} (h : Keeps s0 s) : KeepsI s0 (.wait s a) := h
theorem KeepsI.post {s0 s : State} {a : Word} {f : State → State} (h : Keeps s0 s) (hf : ∀ u, Keeps s0 u → Keeps s0 (f u)) :
    KeepsI s0 (.post s a f) := ⟨h, hf⟩

/-! ### Sparse data -/

theorem KeepsO.map {s0 : State} {o : Option State} {f : State → State} (h : KeepsO s0 o) (hf : ∀ t, Keeps s0 t → Keeps s0 (f t)) :
    KeepsO s0 (o.map f) := by
  cases o with
  | none => trivial
  | some t => exact hf t h
theorem Keeps.mid {s0 t : State} {α β : Type} {p : α × State × β} {v : α} {w : β} (e : p = (v, t, w)) (h : Keeps s0 p.2.1) :
    Keeps s0 t := by
  subst e; exact h
theorem Keeps.fstRv {s0 : State} {α : Type} {p : RvRun × α} {x : RvRun} {v : α} (e : p = (x, v)) (h : Keeps s0 p.1.s) : Keeps s0 x.s := by
  subst e; exact h
theorem Keeps.foldlRv {s0 : State} {x : RvRun} {β : Type} {f : RvRun → β → RvRun} {l : List β} (h : Keeps s0 x.s)
    (hf : ∀ t x, Keeps s0 t.s → Keeps s0 (f t x).s) : Keeps s0 (l.foldl f x).s := by
  induction l generalizing x with
  | nil => exact h
  | cons y l ih => exact ih (hf x y h)
theorem Keeps.foldlRv1 {s0 : State} {α β : Type} {f : RvRun × α → β → RvRun × α} {l : List β} {a : RvRun × α} (h : Keeps s0 a.1.s)
    (hf : ∀ t x, Keeps s0 t.1.s → Keeps s0 (f t x).1.s) : Keeps s0 (l.foldl f a).1.s := by
  induction l generalizing a with
  | nil => exact h
  | cons x l ih => exact ih (hf a x h)
theorem Keeps.foldlV {s0 : State} {x : VRun} {β : Type} {f : VRun → β → VRun} {l : List β} (h : Keeps s0 x.s)
    (hf : ∀ t x, Keeps s0 t.s → Keeps s0 (f t x).s) : Keeps s0 (l.foldl f x).s := by
  induction l generalizing x with
  | nil => exact h
  | cons y l ih => exact ih (hf x y h)
theorem Keeps.foldlM {s0 : State} {x : Moved} {β : Type} {f : Moved → β → Moved} {l : List β} (h : Keeps s0 x.state)
    (hf : ∀ t x, Keeps s0 t.state → Keeps s0 (f t x).state) : Keeps s0 (l.foldl f x).state := by
  induction l generalizing x with
  | nil => exact h
  | cons y l ih => exact ih (hf x y h)
theorem KeepsO.ite {s0 : State} {c : Prop} [Decidable c] {a b : Option State} (h : KeepsO s0 a) (k : KeepsO s0 b) :
    KeepsO s0 (if c then a else b) := by split <;> assumption
theorem KeepsO1.ite {s0 : State} {α : Type} {c : Prop} [Decidable c] {a b : Option (State × α)} (h : KeepsO1 s0 a) (k : KeepsO1 s0 b) :
    KeepsO1 s0 (if c then a else b) := by split <;> assumption
theorem KeepsI.ite {s0 : State} {c : Prop} [Decidable c] {a b : IRes} (h : KeepsI s0 a) (k : KeepsI s0 b) :
    KeepsI s0 (if c then a else b) := by split <;> assumption
theorem Keeps.ite1 {s0 : State} {α : Type} {c : Prop} [Decidable c] {a b : State × α} (h : Keeps s0 a.1) (k : Keeps s0 b.1) :
    Keeps s0 (if c then a else b).1 := by split <;> assumption
theorem Keeps.iteRv {s0 : State} {c : Prop} [Decidable c] {a b : RvRun} (h : Keeps s0 a.s) (k : Keeps s0 b.s) :
    Keeps s0 (if c then a else b).s := by split <;> assumption
theorem Keeps.iteRv1 {s0 : State} {α : Type} {c : Prop} [Decidable c] {a b : RvRun × α} (h : Keeps s0 a.1.s) (k : Keeps s0 b.1.s) :
    Keeps s0 (if c then a else b).1.s := by split <;> assumption
theorem Keeps.iteV {s0 : State} {c : Prop} [Decidable c] {a b : VRun} (h : Keeps s0 a.s) (k : Keeps s0 b.s) :
    Keeps s0 (if c then a else b).s := by split <;> assumption
theorem Keeps.iteM {s0 : State} {c : Prop} [Decidable c] {a b : Moved} (h : Keeps s0 a.state) (k : Keeps s0 b.state) :
    Keeps s0 (if c then a else b).state := by split <;> assumption

theorem Keeps.gen {s0 s : State} {freeCtr : Nat} {sclk : DWord} {regs : Map Word} {latch : Map (Option Word)} {cores : Map Core} {mem : Map Byte} {memErr : Map Nat} {net : List NetItem} {barC : Map (Option Barrier)} {barD : Map (Option Barrier)} {elog : Map (Option LogEntry)} {elogOver : Nat} {devAct : Map Nat} {fns : Map HostFn} {pllLost : Nat} {swept : Map (List Nat)} {stc : Map StepCtl} {rolls : List Roll} {runs : Map (List RunEnt)} {applies : Map (Option Apply)} {reemits : Map (Option Copy)} {copyq : List CopyWrite} {cmReqs : List CmReq} {cmSeq : Map Nat} {comb : Map (Option RedRec)} {redSteps : Map (Option RedStep)} {seals : List Seal} {ports : Map Port} {feeds : Map FdCh} {rotIn : List Msg} {rqOut : List (Nat × Rq)} {rqSeq : Nat} {restores : Map (Option Restore)} {hostqs : Map HostQ} {hostSeq : Nat} {hostTurn : Nat} {hostLink : Option (Nat × Nat)} {reqs : Map Req} {batches : List Batch} {svq : List SvCmd} {scrub : Map Nat} {trans : List Trans} {pwrHeld : Nat} {capMiss : Bool} {thermtrip : Bool} {evcClass : Map Nat} {pins : Nat} {plinks : Map PLink} {bootRetry : Bool} {svc : Service} {capPend : Option (List Byte)} {capRefused : Nat} {hourTrips : Nat} {hourFatals : Nat} {hourHot : Bool} {jtag : Nat} {challenge : Bool} {unlocked : Bool} {respFails : Nat} {respAt : Option Nat} {objs : Map Nat} {objsBoot : Map Nat} {dapq : List DapReq} {dapWrite : Option DapWrite} {dapKept : List DapKept} {dapAsm : Map (Option DapAsm)} {dapDrop : Nat} {mctpEid : Nat} {repairRec : List (List Byte)} {out : List OutItem} (h : Keeps s0 s)
    (hf : s.freeCtr ≤ freeCtr) (hs : s.svc.minSvn ≤ svc.minSvn) (hr : s.svc.raises ≤ 64 → svc.raises ≤ 64)
    (hu : s.svc.unlocks ≤ 15 → svc.unlocks ≤ 15) (hm : Map.wf byte0 s.mem = true → Map.wf byte0 mem = true)
    (hg : Map.wf regReset s.regs = true → Map.wf regReset regs = true) (hc : Map.wf core0 s.cores = true → Map.wf core0 cores = true)
    (hp : s.repairRec.length ≤ 64 → repairRec.length ≤ 64) :
    Keeps s0 (State.mk s.pending freeCtr s.fuse sclk regs latch cores mem memErr net barC barD elog elogOver devAct fns pllLost swept stc rolls runs applies reemits copyq cmReqs cmSeq comb redSteps seals ports feeds rotIn rqOut rqSeq restores hostqs hostSeq hostTurn hostLink reqs batches svq scrub trans pwrHeld capMiss thermtrip evcClass pins plinks bootRetry svc capPend capRefused hourTrips hourFatals hourHot jtag challenge unlocked respFails respAt objs objsBoot dapq dapWrite dapKept dapAsm dapDrop mctpEid repairRec out) :=
  ⟨h.pending, h.fuse, Nat.le_trans h.free hf, Nat.le_trans h.svn hs, hr ∘ h.raises, hu ∘ h.unlocks, hm ∘ h.mem, hg ∘ h.regs, hc ∘ h.cores,
    hp ∘ h.repair⟩
/-- The canonical form but for entries equal to the default. -/
def Map.sortedFrom {α : Type} : Nat → Map α → Bool
  | _, [] => true
  | lo, (j, _) :: t => decide (lo ≤ j) && Map.sortedFrom (j + 1) t
theorem Map.wf_filter_ne {α : Type} [DecidableEq α] {d : Nat → α} {m : Map α} {a : Nat} (h : m.sortedFrom a = true) :
    Map.wfFrom d a (m.filter fun e => decide (e.2 ≠ d e.1)) = true := by
  induction m generalizing a with
  | nil => rfl
  | cons e t ih =>
    obtain ⟨j, v⟩ := e
    simp only [Map.sortedFrom, Bool.and_eq_true, decide_eq_true_eq] at h
    rw [List.filter_cons]
    split
    · rename_i hv
      simp only [decide_eq_true_eq] at hv
      simp only [Map.wfFrom, Bool.and_eq_true, decide_eq_true_eq]; exact ⟨h.1, hv, ih h.2⟩
    · exact Map.wfFrom_mono (by omega) (ih h.2)
theorem regReset_power : regReset 0x20010 = 0 ∧ regReset 0x20014 = 0 ∧ regReset 0x20018 = 0 ∧ regReset 0x20020 = 0 := by decide +kernel
theorem wf_power (w x y z : Word) :
    Map.wf regReset ([(0x20010, w), (0x20014, x), (0x20018, y), (0x20020, z)].filter fun e => decide (e.2 ≠ 0)) = true := by
  have h : ([(0x20010, w), (0x20014, x), (0x20018, y), (0x20020, z)] : Map Word).filter (fun e => decide (e.2 ≠ 0)) =
      ([(0x20010, w), (0x20014, x), (0x20018, y), (0x20020, z)] : Map Word).filter (fun e => decide (e.2 ≠ regReset e.1)) := by
    refine List.filter_congr fun e he => ?_
    obtain ⟨a, b, c, d⟩ := regReset_power
    simp only [List.mem_cons, List.not_mem_nil, or_false] at he
    rcases he with h | h | h | h <;> rw [h] <;> simp only [a, b, c, d]
  rw [h]
  exact Map.wf_filter_ne rfl
theorem State.fresh_regs_wf (fuse : Fuse) (svc : Service) (objs : Map Nat) (rep : List (List Byte)) (cap fmax thr : Nat) :
    Map.wf regReset (State.fresh fuse svc objs rep cap fmax thr).regs = true := wf_power _ _ _ _
theorem entries8_length (b : List Byte) : (entries8 b).length ≤ 64 := by
  unfold entries8
  rw [List.length_map, List.length_range]; exact Nat.min_le_left _ _
theorem wf_writeSkipLines (m : Map Byte) (bad : List Nat) (a : Nat) (d : List Byte) (w : Map.wf byte0 m = true) :
    Map.wf byte0 (writeSkipLines m bad a d) = true := by
  induction d generalizing a with
  | nil => exact w
  | cons b t ih =>
    unfold writeSkipLines
    dsimp only
    split
    · exact ih _
    · exact Map.wf_set (ih _)
theorem KeepsO1.map {s0 : State} {α : Type} {o : Option State} {v : α} (h : KeepsO s0 o) : KeepsO1 s0 (o.map fun t => (t, v)) := by
  cases o with
  | none => trivial
  | some t => exact h
end Sys2Proof.Machine
end

