-- ==== Sys2Proof/Laws/Regs.lean ====
section
/-!
SUPPORT. Operations that change registers, and through them the reporting of events, alone: what each leaves.
-/

namespace Sys2Proof.Machine

namespace State.RegsBut

theorem refl (s : State) (K : Nat → Prop) : s.RegsBut s K := ⟨rfl, fun _ _ _ => rfl⟩
theorem trans {a b c : State} {K : Nat → Prop} (h : a.RegsBut b K) (g : b.RegsBut c K) : a.RegsBut c K :=
  ⟨by rw [g.state, h.state], fun j hj he => (g.regs j hj he).trans (h.regs j hj he)⟩
theorem mono {a b : State} {K L : Nat → Prop} (h : a.RegsBut b K) (w : ∀ j, K j → L j) : a.RegsBut b L :=
  ⟨h.state, fun j hj he => h.regs j (fun g => hj (w j g)) he⟩
theorem quiet {s t : State} {K : Nat → Prop} (h : s.Quiet t) : s.RegsBut t K := ⟨h.state, fun j _ he => h.regs j he⟩
theorem setReg (s : State) {k : Nat} (v : Word) {K : Nat → Prop} (h : K k) : s.RegsBut (s.setReg k v) K :=
  ⟨rfl, fun j hj _ => State.reg_setReg_ne s v (fun e => hj (e ▸ h))⟩
theorem setRegFld (s : State) {k : Nat} (lo len v : Nat) {K : Nat → Prop} (h : K k) : s.RegsBut (s.setRegFld k lo len v) K := setReg s _ h
theorem orReg (s : State) {k : Nat} (m : Nat) {K : Nat → Prop} (h : K k) : s.RegsBut (s.orReg k m) K := setReg s _ h
theorem clrReg (s : State) {k : Nat} (m : Nat) {K : Nat → Prop} (h : K k) : s.RegsBut (s.clrReg k m) K := setReg s _ h
theorem bump (s : State) {k : Nat} (d : Nat) {K : Nat → Prop} (h : K k) (h4 : K (k + 4)) : s.RegsBut (s.bump k d) K :=
  ((setReg s _ h).trans (setReg _ _ h4)).trans (quiet (State.Quiet.bump' s k d))
theorem evSet (s : State) {k src : Nat} (m : Nat) {K : Nat → Prop} (h : K k) (hs : src < 512) : s.RegsBut (s.evSet k m src) K :=
  (orReg s m h).trans (quiet (State.Quiet.evSet s k m hs))
theorem foldl {s : State} {β : Type} {f : State → β → State} {K : Nat → Prop} (l : List β) (h : ∀ (u : State) b, b ∈ l → u.RegsBut (f u b) K) :
    s.RegsBut (l.foldl f s) K := by
  induction l generalizing s with
  | nil => exact refl s K
  | cons a r ih => exact (h s a (List.mem_cons_self ..)).trans (ih fun u b hb => h u b (List.mem_cons_of_mem _ hb))
theorem core {s t : State} {K : Nat → Prop} (h : s.RegsBut t K) (c : Nat) : t.core c = s.core c := by rw [h.state]; rfl
theorem mem {s t : State} {K : Nat → Prop} (h : s.RegsBut t K) : t.mem = s.mem := by rw [h.state]
theorem net {s t : State} {K : Nat → Prop} (h : s.RegsBut t K) : t.net = s.net := by rw [h.state]

end State.RegsBut

/-- What an event sets stays set through its reporting. -/
theorem State.evSet_bit (s : State) {k src : Nat} (m b : Nat) (hs : src < 512) (hb : b < 32) (he : ¬ eventReg k) (hm : m.testBit b = true) :
    bit ((s.evSet k m src).reg k) b = true := by
  rw [(State.Quiet.evSet s k m hs).regs k he, State.reg_orReg, if_pos rfl, bit_orBits _ _ _ hb, hm, Bool.or_true]

end Sys2Proof.Machine
end

