-- ==== Sys2Proof/WellFormed.lean ====
section
/-!
DEFINITION. Which commands are well formed: every index names a core, cluster, partition, site, port, channel, queue pair, link, lane or
record that the numbering of the spec has (R3, R21, R22, R34, R38, R296, R310, R366, R558, R566), and a fetched queue entry has 64 bytes (R569).
Operands that are bit vectors are bounded by their types.
-/

namespace Sys2Proof

open Sys2Proof.Machine

def Instr.wf : Instr → Bool
  | .alu core _ _ _ _ _ => isCore core
  | .addi core _ _ _ => isCore core
  | .andi core _ _ _ => isCore core
  | .ori core _ _ _ => isCore core
  | .xori core _ _ _ => isCore core
  | .slti core _ _ _ => isCore core
  | .sltiu core _ _ _ => isCore core
  | .slli core _ _ _ => isCore core
  | .srli core _ _ _ => isCore core
  | .srai core _ _ _ => isCore core
  | .lui core _ _ _ => isCore core
  | .fp core _ _ _ _ _ => isCore core
  | .fma core _ _ _ _ _ => isCore core
  | .lb core _ _ _ => isCore core
  | .lbu core _ _ _ => isCore core
  | .lh core _ _ _ => isCore core
  | .lhu core _ _ _ => isCore core
  | .lw core _ _ _ => isCore core
  | .sb core _ _ _ => isCore core
  | .sh core _ _ _ => isCore core
  | .sw core _ _ _ => isCore core
  | .beq core _ _ _ => isCore core
  | .bne core _ _ _ => isCore core
  | .blt core _ _ _ => isCore core
  | .bge core _ _ _ => isCore core
  | .bltu core _ _ _ => isCore core
  | .bgeu core _ _ _ => isCore core
  | .jal core _ _ => isCore core
  | .jalr core _ _ _ => isCore core
  | .send core _ _ _ _ _ => isCore core
  | .recv core _ _ _ _ _ => isCore core
  | .waitq core _ _ _ _ _ => isCore core
  | .pollq core _ _ _ _ _ => isCore core
  | .issue core _ _ _ _ _ => isCore core
  | .bar core _ _ _ => isCore core
  | .fence core _ _ _ => isCore core
  | .csrrw core _ _ _ => isCore core
  | .csrrs core _ _ _ => isCore core
  | .csrrc core _ _ _ => isCore core
  | .csrrwi core _ _ _ => isCore core
  | .csrrsi core _ _ _ => isCore core
  | .csrrci core _ _ _ => isCore core
  | .trap core _ _ _ => isCore core
  | .brk core _ _ _ => isCore core
  | .tret core _ _ _ => isCore core
  | .halt core _ _ _ => isCore core
  | .interrupt core => isCore core
  | .waitqWake core => isCore core
  | .fenceComplete core => isCore core
  | .sendResume core => isCore core
  | .issueResume core => isCore core
  | .run core => isCore core
  | .runClear core => isCore core
  | .step core => isCore core
  | .load core => isCore core
  | .loadDone core => isCore core
  | .hint core => isCore core
  | .unrecov core => isCore core
  | .timerExpiry core _ => isCore core
  | .wdogExpiry core => isCore core
  | .wdogKick core _ => isCore core
  | .nanrecClear core => isCore core
  | .sendPayloadRead core => isCore core
  | .messageArrival _ => true
  | .refusal _ => true
  | .grant _ => true
  | .streamClose _ => true
  | .rqTailWrite core _ _ => isCore core
  | .rqEnable core _ _ => isCore core
  | .rqDisable core _ => isCore core
  | .rqWmWrite core _ _ => isCore core
  | .semWrite core _ _ => isCore core
  | .semSignal core _ => isCore core
  | .remoteSpadRequest _ => true
  | .responseArrival _ => true
  | .responseTimeout core _ => isCore core
  | .coreWindowAccess _ _ _ _ _ _ => true
  | .aliasWrite cluster _ _ => decide (cluster < 640)
  | .meshNak cluster _ _ => decide (cluster < 640)
  | .memToSpad core => isCore core
  | .spadToMem core => isCore core
  | .spadToCore core => isCore core
  | .memToCore core => isCore core
  | .dmaComplete core => isCore core
  | .gather core => isCore core
  | .scatter core => isCore core
  | .scatterAdd core => isCore core
  | .segReduce core => isCore core
  | .hashProbe core => isCore core
  | .hashInsert core => isCore core
  | .setIsect core => isCore core
  | .setUnion core => isCore core
  | .retrieverComplete core => isCore core
  | .fwd core _ => isCore core
  | .dgrad core _ => isCore core
  | .wgrad core _ => isCore core
  | .matrixComputeEnd core _ => isCore core
  | .matrixDescriptorComplete core _ => isCore core
  | .handoffCredit core _ => isCore core
  | .holdrel core _ => isCore core
  | .map core => isCore core
  | .reduce core => isCore core
  | .sort core => isCore core
  | .merge core => isCore core
  | .veDescriptorComplete core => isCore core
  | .veSwap core _ => isCore core
  | .veSwapCopy core _ => isCore core
  | .veVrData core _ _ => isCore core
  | .tableDataAccess core _ _ _ => isCore core
  | .qzFmtshWrite core _ _ => isCore core
  | .qzSeCfgWrite core _ _ => isCore core
  | .qzHrshWrite core _ _ => isCore core
  | .qzLsGo core _ => isCore core
  | .qzRollCommit core => isCore core
  | .qzRollSkip core => isCore core
  | .roll core => isCore core
  | .begin p => decide (p < 64)
  | .close p => decide (p < 64)
  | .veto p => decide (p < 64)
  | .resume p => decide (p < 64)
  | .breakStep p => decide (p < 64)
  | .abandon p => decide (p < 64)
  | .ballot group stp att flags count => decide (group < 65536) && decide (stp < 2 ^ 32) && decide (att < 256) && decide (flags < 256) && decide (count < 65536)
  | .outcome group stp att _ flags => decide (group < 65536) && decide (stp < 2 ^ 32) && decide (att < 256) && decide (flags < 256)
  | .applied p => decide (p < 64)
  | .voteTimeout p _ => decide (p < 64)
  | .readerTake p i _ => decide (p < 64) && decide (i < 65536)
  | .leaseTake p i _ => decide (p < 64) && decide (i < 65536)
  | .readerDrop p i _ => decide (p < 64) && decide (i < 65536)
  | .leaseDrop p i _ => decide (p < 64) && decide (i < 65536)
  | .recordLineWrite p i off _ => decide (p < 64) && decide (i < 65536) && decide (off < 128)
  | .leaseExpiry p i => decide (p < 64) && decide (i < 65536)
  | .sweepVisit p i => decide (p < 64) && decide (i < 65536)
  | .ueArm t p => decide (t < 8) && decide (p < 64)
  | .ueDisarm t p => decide (t < 8) && decide (p < 64)
  | .ueBlockApply t p => decide (t < 8) && decide (p < 64)
  | .publishFinal t p => decide (t < 8) && decide (p < 64)
  | .copyWriteAck t p => decide (t < 8) && decide (p < 64)
  | .copyAckTimeout t p => decide (t < 8) && decide (p < 64)
  | .reemit p v => decide (p < 64) && decide (v < 2 ^ 17)
  | .reapply p => decide (p < 64)
  | .ueSwapGrp p => decide (p < 64)
  | .ueSwapRow p _ => decide (p < 64)
  | .ueSwapCopy p _ _ _ => decide (p < 64)
  | .uePgrpWrite p _ _ => decide (p < 64)
  | .muRdOpen core _ => isCore core
  | .muRdClose core _ => isCore core
  | .reductionPacket _ => true
  | .rdInit c => decide (c < 256)
  | .seal c _ _ => decide (c < 256)
  | .sealDone c _ _ => decide (c < 256)
  | .rdClose c => decide (c < 256)
  | .rdChannelEnable c _ _ => decide (c < 256)
  | .frameReceive g _ _ _ _ => decide (g < 32)
  | .frameTransmit g => decide (g < 32)
  | .pause g _ => decide (g < 32)
  | .pfc g _ _ => decide (g < 32)
  | .pauseTimerExpiry g _ => decide (g < 32)
  | .pauseResendExpiry g => decide (g < 32)
  | .cbsCreditRecovered g _ => decide (g < 32)
  | .linkUp g => decide (g < 32)
  | .linkDown g _ => decide (g < 32)
  | .ldholdExpiry g => decide (g < 32)
  | .anTimeout g => decide (g < 32)
  | .anRestart g => decide (g < 32)
  | .macFlush g => decide (g < 32)
  | .macEnable g _ => decide (g < 32)
  | .macXmodeWrite x _ => decide (x < 4)
  | .macCbsWrite g _ _ _ => decide (g < 32)
  | .wynFrame g => decide (g < 32)
  | .frameOriginate _ => true
  | .linkAck g link _ => decide (g < 32) && decide (link ≤ 256)
  | .linkNak g link _ _ => decide (g < 32) && decide (link ≤ 256)
  | .ackdlyExpiry g link => decide (g < 32) && decide (link ≤ 256)
  | .replayTimeout g link => decide (g < 32) && decide (link ≤ 256)
  | .rstlrt g => decide (g < 32)
  | .fbSwapFwd => true
  | .fbSwapCopy => true
  | .fbDomWrite _ _ => true
  | .feedPacket _ _ => true
  | .recordPlace _ => true
  | .slotRelease _ _ _ => true
  | .fdEnable _ _ _ => true
  | .fdDisable _ => true
  | .memoryLineAccess _ _ n p unit _ => decide (n ≤ 64) && decide (p < 64) && decide (unit < 21)
  | .read _ _ => true
  | .write _ _ => true
  | .readRsp _ _ => true
  | .writeAck _ _ => true
  | .error _ _ => true
  | .patrolScrub _ => true
  | .selfRefreshEntry _ _ => true
  | .selfRefreshExit _ => true
  | .mtRegionWrite _ _ _ _ => true
  | .mirror _ _ => true
  | .mirrorAck _ _ => true
  | .mark _ _ => true
  | .markAck _ _ => true
  | .cometRead _ _ => true
  | .cometReadRsp _ _ => true
  | .cometError _ _ => true
  | .mirrorTimeout _ _ _ => true
  | .restore _ => true
  | .cmCtlWrite _ _ => true
  | .cmWinWrite _ _ _ _ => true
  | .cmHostWrite _ _ _ => true
  | .clFence cl _ => decide (cl < 640)
  | .unfence cl _ => decide (cl < 640)
  | .heartbeatSend => true
  | .heartbeat _ => true
  | .heartbeatTimeout _ => true
  | .hbWatchWrite _ _ => true
  | .sqDoorbell _ q _ => decide (q < 512)
  | .cqDoorbell _ q _ => decide (q < 512)
  | .sqEnable _ q _ => decide (q < 512)
  | .sqDisable _ q _ => decide (q < 512)
  | .sqFetch _ q entry _ => decide (q < 512) && (entry.length == 64)
  | .nop _ q _ => decide (q < 512)
  | .h2d _ q _ _ _ => decide (q < 512)
  | .d2h _ q _ => decide (q < 512)
  | .h2s _ q _ _ _ => decide (q < 512)
  | .s2h _ q _ => decide (q < 512)
  | .fill _ q _ => decide (q < 512)
  | .commandComplete _ q => decide (q < 512)
  | .moderationTimerExpiry _ q => decide (q < 512)
  | .vectorUnmask _ _ => true
  | .flr _ => true
  | .vfDisable => true
  | .d3hot _ => true
  | .d0 _ => true
  | .busMasterEnableWrite _ _ => true
  | .bar2Access _ _ _ _ => true
  | .hiPartWrite _ _ _ => true
  | .admitReq _ _ _ _ _ _ => true
  | .start _ _ _ _ _ _ => true
  | .token _ _ _ _ _ _ => true
  | .hold _ _ _ _ _ _ => true
  | .svResume _ _ _ _ _ _ => true
  | .abort _ _ _ _ _ _ => true
  | .release _ _ _ _ _ _ => true
  | .setprio _ _ _ _ _ _ => true
  | .select _ _ _ _ _ _ => true
  | .flush _ _ _ _ _ _ => true
  | .fillTimeout _ _ => true
  | .batchNotify _ _ => true
  | .svInit _ => true
  | .svPartWrite _ _ _ => true
  | .svModelEnable _ _ _ => true
  | .dapRead r => decide (r.bytes.length ≤ 1100)
  | .dapWrite r => decide (r.bytes.length ≤ 1100)
  | .dapDescribe r => decide (r.bytes.length ≤ 1100)
  | .dapNext r => decide (r.bytes.length ≤ 1100)
  | .flashWriteDone _ => true
  | .dapAssemblyTimeout obj => decide (obj < 2 ^ 24)
  | .dictRestore r => decide (r.bytes.length ≤ 1100)
  | .go _ _ => true
  | .setEndpointId _ _ _ => true
  | .getEndpointId _ => true
  | .getEndpointUuid _ => true
  | .getMctpVersionSupport _ _ => true
  | .getMessageTypeSupport _ => true
  | .getVendorDefinedMessageSupport _ _ => true
  | .arp _ _ _ => true
  | .neighbourDiscovery _ _ => true
  | .echo _ _ _ _ => true
  | .governorPeriod _ _ _ => true
  | .clusterC0ToC1 cl => decide (cl < 640)
  | .clusterC1ToC2 cl => decide (cl < 640)
  | .clusterC2ToC3 cl => decide (cl < 640)
  | .clusterC1ToC0 cl => decide (cl < 640)
  | .clusterC2ToC0 cl => decide (cl < 640)
  | .clusterC3ToC0 cl => decide (cl < 640)
  | .dieDiToDs _ => true
  | .dieDsToDi _ => true
  | .deviceP0ToP1 => true
  | .deviceP1ToP2 => true
  | .deviceP2ToP0 => true
  | .powerTransitionComplete row _ => decide (row.toNat < 14)
  | .standby => true
  | .active => true
  | .pwrSwapPst => true
  | .pwrSwapCopy => true
  | .clmaxWrite w _ => decide (w < 40)
  | .clmaxBc _ => true
  | .thermalTrip => true
  | .pllLoss _ => true
  | .pllRelock _ _ => true
  | .shepherdIdleExpiry => true
  | .evcClaim => true
  | .evcComplete _ => true
  | .eventPin _ _ => true
  | .nak j _ lane _ _ => decide (j.toNat < 12) && decide (lane < 66)
  | .retrain j => decide (j.toNat < 12)
  | .retrainingComplete j _ _ => decide (j.toNat < 12)
  | .powerOn => true
  | .porstN => true
  | .shpRst _ => true
  | .packageResetObject => true
  | .perst => true
  | .bootStageComplete _ _ => true
  | .bootWatchdog => true
  | .extest => true
  | .idcode => true
  | .samplePreload => true
  | .clamp => true
  | .highz => true
  | .extestPulse => true
  | .extestTrain => true
  | .bypass _ => true
  | .tchal => true
  | .tresp _ _ => true
  | .captureFreeze => true
  | .captureClear => true
  | .captureFlashWrite => true
  | .svnRaise _ => true
  | .lifetimeHour => true
  | .registerWrite _ _ off _ _ => decide (off < 0x2000000)
  | .registerRead _ _ off _ => decide (off < 0x2000000)
  | .powerLoss => true
  | .shepherdPllLocked => true
  | .tlastAgeLimit _ _ => true
  | .dramTemperatureReport _ _ _ => true

end Sys2Proof
end

