-- ==== Sys2Proof/Tests/Slice0.lean ====
section
/-!
SUPPORT. The model's own tests: well-formedness at the edges of every range, instruction words written out from R54, and for each statement of
the certificates that has hypotheses one theorem with states and operands that meet them, each clause at a value of its range.
-/

namespace Sys2Proof
open Machine

set_option Elab.async false

/-! ### Well-formedness: each check refuses a term just outside its range, and the largest index inside it passes -/

theorem test_wf_core : (Instr.addi 10240 1 0 0).wf = false ∧ (Instr.addi 10239 1 0 0).wf = true := by decide +kernel
theorem test_wf_cluster : (Instr.aliasWrite 640 0 0).wf = false ∧ (Instr.clusterC2ToC3 639).wf = true := by decide +kernel
theorem test_wf_partition : (Instr.begin 64).wf = false ∧ (Instr.begin 63).wf = true := by decide +kernel
theorem test_wf_ballot :
    (Instr.ballot 65536 0 0 0 0).wf = false ∧ (Instr.ballot 0 (2 ^ 32) 0 0 0).wf = false ∧ (Instr.ballot 0 0 256 0 0).wf = false ∧
    (Instr.ballot 0 0 0 256 0).wf = false ∧ (Instr.ballot 0 0 0 0 65536).wf = false ∧ (Instr.outcome 0 0 256 true 0).wf = false ∧
    (Instr.ballot 65535 (2 ^ 32 - 1) 255 255 65535).wf = true := by decide +kernel
theorem test_wf_record :
    (Instr.readerTake 64 0 0).wf = false ∧ (Instr.readerTake 0 65536 0).wf = false ∧ (Instr.recordLineWrite 0 0 128 []).wf = false ∧
    (Instr.readerTake 63 65535 0).wf = true ∧ (Instr.recordLineWrite 63 65535 127 []).wf = true := by decide +kernel
theorem test_wf_site : (Instr.ueArm 8 0).wf = false ∧ (Instr.ueArm 0 64).wf = false ∧ (Instr.ueArm 7 63).wf = true := by decide +kernel
theorem test_wf_reemit : (Instr.reemit 0 (2 ^ 17)).wf = false ∧ (Instr.reemit 63 (2 ^ 17 - 1)).wf = true := by decide +kernel
theorem test_wf_channel : (Instr.rdInit 256).wf = false ∧ (Instr.rdInit 255).wf = true := by decide +kernel
theorem test_wf_port : (Instr.frameTransmit 32).wf = false ∧ (Instr.frameTransmit 31).wf = true ∧ (Instr.macXmodeWrite 4 0).wf = false ∧
    (Instr.macXmodeWrite 3 0).wf = true := by decide +kernel
theorem test_wf_retry_link : (Instr.linkAck 32 0 0).wf = false ∧ (Instr.linkAck 0 257 0).wf = false ∧ (Instr.linkAck 31 256 0).wf = true := by decide +kernel
theorem test_wf_memory_line :
    (Instr.memoryLineAccess 0 0 65 0 0 none).wf = false ∧ (Instr.memoryLineAccess 0 0 64 64 0 none).wf = false ∧
    (Instr.memoryLineAccess 0 0 64 0 21 none).wf = false ∧ (Instr.memoryLineAccess 7 0 64 63 20 none).wf = true := by decide +kernel
theorem test_wf_queue : (Instr.sqDoorbell 0 512 0).wf = false ∧ (Instr.sqFetch 0 511 [] true).wf = false ∧
    (Instr.sqFetch 0 511 (List.replicate 64 0) true).wf = true := by decide +kernel
theorem test_wf_dictionary : (Instr.dapRead ⟨.mbx 0, List.replicate 1101 0⟩).wf = false ∧ (Instr.dapAssemblyTimeout (2 ^ 24)).wf = false ∧
    (Instr.dapRead ⟨.mbx 0, List.replicate 1100 0⟩).wf = true := by decide +kernel
theorem test_wf_power : (Instr.powerTransitionComplete 14 0).wf = false ∧ (Instr.powerTransitionComplete 13 0).wf = true ∧
    (Instr.clmaxWrite 40 0).wf = false ∧ (Instr.clmaxWrite 39 0).wf = true := by decide +kernel
theorem test_wf_link : (Instr.nak 12 false 0 0 false).wf = false ∧ (Instr.nak 0 false 66 0 false).wf = false ∧ (Instr.retrain 12).wf = false ∧
    (Instr.nak 11 true 65 0 true).wf = true := by decide +kernel
theorem test_wf_register : (Instr.registerWrite 0 0 0x2000000 4 0).wf = false ∧ (Instr.registerRead 63 0 0x1FFFFFC 4).wf = true := by decide +kernel

/-! ### Words of R54, written out bit by bit -/

theorem test_word_addi : coreWord 7 0b000010_00001_00010_1111111111111111#32 = some (.addi 7 1 2 0xFFFF) := by decide +kernel
theorem test_word_alu : coreWord 7 0b000001_00001_00010_00011_00000_000001#32 = some (.alu 7 1 2 3 0 1) := by decide +kernel
theorem test_word_lw : coreWord 7 0b010100_00001_00010_0000000000000100#32 = some (.lw 7 1 2 4) := by decide +kernel
theorem test_word_beq : coreWord 7 0b100000_00001_00010_1111111111111100#32 = some (.beq 7 1 2 0xFFFC) := by decide +kernel
theorem test_word_jal : coreWord 7 0b100110_00001_100000000000000000001#32 = some (.jal 7 1 0x100001) := by decide +kernel
theorem test_word_issue : coreWord 7 0b110100_00110_00101_00000_00000_010000#32 = some (.issue 7 6 5 0 0 0x10) := by decide +kernel
theorem test_word_csrrs : coreWord 7 0b111010_00001_00010_010000000011_0001#32 = some (.csrrs 7 1 2 0x403) := by decide +kernel
theorem test_word_halt : coreWord 7 0b111011_00000_00000_00000000_00000011#32 = some (.halt 7 0 0 3) := by decide +kernel
theorem test_word_reserved : coreWord 7 0 = none ∧ coreWord 7 0xFFFFFFFF = none := by decide +kernel

/-! ### The queue (log entry 2) -/

theorem test_step_takes_the_front : { State.reset with pending := [.standby, .active] }.pending.head? = some .standby ∧
    decodeTableWord 8 0 = none := by decide +kernel

/-! ### Witnesses: for each statement with hypotheses, states and operands that meet them -/

/-- The machine after reset with core 0 in RUN, changed further by `f`. -/
def ready (f : Core → Core) : State := State.reset.modCore 0 fun k => f (k.setRs 1)

/-- The machine after reset with core 0 waiting, changed further by `f`. -/
def waits (w : Wait) (f : Core → Core) : State := State.reset.modCore 0 fun k => f { k.setRs 2 with wait := some w }

/-- Device memory under no region, record, release page or command port is plain memory. -/
theorem plain_of {s : State} {p a n t o : Nat}
    (h : s.chunks p a n = some [⟨t, o, n⟩] ∧ s.recsIn p a n = [] ∧ s.pageAt p a n = none ∧ s.cportAt p a n = none ∧
      (∀ r, r < 16 → (s.region t r).valid = false) ∧ errIn s.memErr 64 (memIdx t o) n = []) : s.Plain p a n t o := by
  refine ⟨h.1, h.2.1, h.2.2.1, h.2.2.2.1, fun who w => ?_, h.2.2.2.2.2⟩
  unfold State.regionRefuses
  rw [List.any_eq_false]
  intro r hr
  simp only [h.2.2.2.2.1 r (List.mem_range.mp hr), Bool.false_and, Bool.false_eq_true, not_false_eq_true]

theorem ready_id : (ready id).Ready 0 := ⟨by decide, by decide, by decide, by decide, by decide⟩

/-- A core whose s1 holds +infinity. -/
def readyInf : State := ready fun k => k.setS 1 0x7F800000#32

theorem witness_ImmediateInstructionsWriteTheirResult :
    (ready id).Ready 0 ∧ (31#16).toNat < 32 ∧ ((ready id).core 0).tm = false ∧ 32 ≤ (32#16).toNat ∧ (1 : Reg) ≠ 0 := ⟨ready_id, by decide⟩

theorem witness_AluOperationsWriteTheirResult :
    (ready id).Ready 0 ∧ ((ready id).core 0).tm = false ∧ (0x13#6 ∈ [0x0E#6, 0x0F#6, 0x13#6] ∨ 0x1B ≤ (0x13#6).toNat) ∧ 0x1B ≤ (0x1B#6).toNat ∧
      (1 : Reg) ≠ 0 ∧ 0x1A#6 ∈ [0x18#6, 0x19#6, 0x1A#6] := ⟨ready_id, by decide⟩

/-- Infinity less infinity traps; 0 + 0 does not. -/
theorem witness_Fp32InstructionsWriteResultAndFlags :
    readyInf.Ready 0 ∧ (readyInf.core 0).NanTrap (fpOp 1 ((readyInf.core 0).roundingMode 0) ((readyInf.core 0).s 1) ((readyInf.core 0).s 1)).2 ∧
      ¬ (readyInf.core 0).NanTrap (fpOp 0 ((readyInf.core 0).roundingMode 0) ((readyInf.core 0).s 2) ((readyInf.core 0).s 2)).2 ∧
      (readyInf.core 0).tm = false ∧ (0x13#6).toNat ≤ 0x13 ∧ (7 : Reg).toNat < 8 ∧ (1#6 ∉ fpUnary) ∧ (0x13#6 ∈ fpUnary ∧ (0 : Reg) = 0) ∧
      (31#6).toNat < 32 ∧ (31#6).toNat / 4 ≠ 5 ∧ (31#6).toNat / 4 ≠ 6 ∧ 0x13 < (0x14#6).toNat ∧ 8 ≤ (8 : Reg).toNat ∧
      (0 : BitVec 6) ∈ fpRounds ∧ 32 ≤ (32#6).toNat ∧ (20#6).toNat / 4 = 5 ∧ (24#6).toNat / 4 = 6 := by
  refine ⟨⟨by decide, by decide, by decide, by decide, by decide⟩, ?_, ?_, by decide⟩ <;> unfold Core.NanTrap <;> decide

theorem witness_Fp32SpecialValues : IsNan32 0x7F800001#32 ∧ ¬ IsNan32 0xFF800000#32 ∧ IsNan32 0xFFFFFFFF#32 := by
  unfold IsNan32
  decide

/-- Words at 8 and 16 with a correctable and an uncorrectable error; s1 to s5 hold addresses on both sides of the tests. -/
def readySpad : State := ready fun k =>
  { ((((k.setS 1 8).setS 2 16).setS 3 0x2FFFC#32).setS 4 0x30000#32).setS 5 1 with spadErr := [(1, 1), (2, 2)] }

theorem readySpad_ready : readySpad.Ready 0 := ⟨by decide, by decide, by decide, by decide, by decide⟩

theorem witness_LoadsReadTheScratchpad :
    readySpad.Ready 0 ∧ (readySpad.core 0).tm = false ∧
      (let k := readySpad.core 0
       errIn k.spadErr 8 ((k.s 3).toNat) 4 = [] ∧ (k.s 3).toNat % 4 = 0 ∧ (k.s 3).toNat + 4 ≤ 0x30000 ∧
       (errIn k.spadErr 8 ((k.s 1).toNat) 4 = [(1, 1)]) ∧ (errIn k.spadErr 8 ((k.s 2).toNat) 4 = [(2, 2)]) ∧
       (k.s 5).toNat % 2 ≠ 0 ∧ (k.s 4).toNat % 4 = 0 ∧ 0x30000 < (k.s 4).toNat + 1) := ⟨readySpad_ready, by decide⟩

theorem witness_StoresWriteTheScratchpad :
    readySpad.Ready 0 ∧ (readySpad.core 0).tm = false ∧
      (let k := readySpad.core 0
       (k.s 3).toNat % 4 = 0 ∧ (k.s 3).toNat + 4 ≤ 0x30000 ∧ errIn k.spadErr 8 ((k.s 3).toNat) 4 = [] ∧
       (k.s 5).toNat % 2 ≠ 0 ∧ (k.s 4).toNat % 4 = 0 ∧ 0x30000 < (k.s 4).toNat + 1) := ⟨readySpad_ready, by decide⟩

theorem witness_BranchesAndJumpsMoveThePc :
    (ready id).Ready 0 ∧ ((ready id).core 0).tm = false ∧ ((ready id).core 0).stepping = false ∧
      0x6000 ≤ (((ready id).core 0).pc + 4 * (0x100000#21).signExtend 32).toNat := ⟨ready_id, by decide⟩

/-- Number 0x7FF has no register; CC_CYCLE counts time, CC_SCRATCH (0x005) and CC_INSTRET's high half (0x025) do not. -/
theorem witness_CsrInstructionsReadThenWrite :
    (ready id).Ready 0 ∧ findCsr (0xFFF#12).toNat = none ∧ ((ready id).core 0).tm = false ∧ (findCsr (0x25#12).toNat).isSome = true ∧
      (findCsr (0x2B0#12).toNat).isSome = true ∧ (findCsr (0x20#12).toNat).isSome = true ∧
      ((ready id).core 0).latch.get none0 0x25 = none ∧ ((ready id).core 0).timed 0x25 = false ∧ ((ready id).core 0).timed 0x20 = true ∧
      csrHiHalf 0x25 = true ∧ (0x005#12, 0xFFFFFFFF#32) ∈ plainCsrs := ⟨ready_id, by decide⟩

/-- A core in its trap handler. -/
def readyTm : State := ready fun k => k.put 1 (setBit (k.get 1) 3 true)

theorem readyTm_ready : readyTm.Ready 0 := ⟨by decide, by decide, by decide, by decide, by decide⟩

theorem witness_SystemInstructionsTrapReturnAndHalt :
    (ready id).Ready 0 ∧ ((ready id).core 0).tm = false ∧ 255 < 256 ∧ readyTm.Ready 0 ∧ (readyTm.core 0).tm = true ∧ (1 : Reg) ≠ 0 ∧
      256 ≤ (256#16).toNat ∧ (1#16).toNat % 256 ≠ 0 := ⟨ready_id, by decide, by decide, readyTm_ready, by decide⟩

/-- A core whose PC is outside instruction memory, and one whose word 0 is uncorrectable. -/
theorem witness_FetchingRaisesFetchAndImemUe :
    (let s := ready fun k => { k with pc := 0x6000#32 }
     isCore 0 = true ∧ (s.core 0).rs = 1 ∧ s.clocked 0 = true ∧ (s.core 0).tm = false ∧ 0x6000 ≤ (s.core 0).pc.toNat) ∧
    (let s := ready fun k => { k with imemErr := [(0, 2)] }
     isCore 0 = true ∧ (s.core 0).rs = 1 ∧ s.clocked 0 = true ∧ (s.core 0).tm = false ∧ (s.core 0).pc.toNat < 0x6000 ∧
       2 ≤ (s.core 0).imemErr.get nat0 ((s.core 0).pc.toNat / 4)) := by decide

/-- Interrupt 7 pending and enabled alone; and nothing pending. -/
theorem witness_AnInterruptIsTakenLowestFirst :
    (let k := (ready fun k => (((k.put 1 (setBit (k.get 1) 4 true)).put 0x16 0x80#32).put 0x17 0x80#32)).core 0
     isCore 0 = true ∧ k.rs = 1 ∧ 7 < 8 ∧ k.ie = true ∧ k.tm = false ∧ bit k.tpend 7 = true ∧ bit (k.get 0x16) 7 = true ∧
       ∀ m, m < 7 → bit k.tpend m = false ∨ bit (k.get 0x16) m = false) ∧
    (let k := (ready id).core 0
     k.ie = false ∧ ∀ m, m < 8 → bit k.tpend m = false ∨ bit (k.get 0x16) m = false) := by decide

/-- Queue 0 holds a record, s1 selects every queue, s2 holds the last place of a record; s3 and s4 name queues 12 and 13. -/
def readyRec : State := ready fun k =>
  { (((k.setS 1 0x1FFF#32).setS 2 0x2FFF0#32).setS 3 12).setS 4 13 with rx := [(0, { Rxq.reset with recs := [[1, 2, 3, 4]] })] }

theorem readyRec_ready : readyRec.Ready 0 := ⟨by decide, by decide, by decide, by decide, by decide⟩

theorem witness_PollqAndWaitqSelectNonEmptyQueues :
    readyRec.Ready 0 ∧ (readyRec.core 0).SomeReady (fld ((readyRec.core 0).s 1) 0 13) ∧ ¬ (readyRec.core 0).SomeReady (fld ((readyRec.core 0).s 0) 0 13) ∧
      (readyRec.core 0).tm = false ∧ (1 : Reg) ≠ 0 := by
  refine ⟨readyRec_ready, ⟨0, by decide⟩, ?_, by decide⟩
  rintro ⟨q, _, h, _⟩
  simp only [show fld ((readyRec.core 0).s 0) 0 13 = 0 by decide, Nat.zero_testBit, Bool.false_eq_true] at h

theorem witness_WaitsEndWhenTheirConditionHolds :
    (let s := waits (.waitq 1 1) fun k => { k with rx := [(0, { Rxq.reset with recs := [[1, 2, 3, 4]] })] }
     s.Waits 0 (.waitq 1 1) ∧ (s.core 0).SomeReady 1) ∧
    ((waits (.waitq 1 0) id).Waits 0 (.waitq 1 0) ∧ ¬ ((waits (.waitq 1 0) id).core 0).SomeReady 0) ∧
    (let s := waits (.fence 3) fun k => { k with saccFar := [7] }
     s.Waits 0 (.fence 3) ∧ ((s.core 0).farAccepted 3).fenceDone 3 = true) ∧
    (let s := waits (.fence 2) fun k => { k with sacc := [7] }
     s.Waits 0 (.fence 2) ∧ ((s.core 0).farAccepted 2).fenceDone 2 = false) ∧
    (State.reset.core 0).wait = none := by
  refine ⟨⟨⟨by decide, by decide⟩, 0, by decide⟩, ⟨⟨by decide, by decide⟩, ?_⟩, ⟨⟨by decide, by decide⟩, by decide⟩, ⟨⟨by decide, by decide⟩, by decide⟩, by decide⟩
  rintro ⟨q, _, h, _⟩
  simp at h

theorem witness_FenceWaitsForItsConditions :
    (ready id).Ready 0 ∧ (15#16).toNat < 16 ∧ ((ready id).core 0).sendq = [] ∧ ((ready id).core 0).sacc = [] ∧ ((ready id).core 0).saccFar = [] ∧
      (∀ e, e < 5 → (((ready id).core 0).eng e).queue = [] ∧ (((ready id).core 0).eng e).jobs = []) ∧
      (ready fun k => { k with sacc := [7] }).Ready 0 ∧ ((ready fun k => { k with sacc := [7] }).core 0).sacc ≠ [] ∧ (2#16).toNat.testBit 1 = true ∧
      ((ready id).core 0).tm = false ∧ 16 ≤ (16#16).toNat :=
  ⟨ready_id, by decide, by decide, by decide, by decide, by decide, ⟨by decide, by decide, by decide, by decide, by decide⟩, by decide⟩

/-- Queue 0 with a record, queue 12 empty, queue 13 reserved, the last place of the scratchpad. -/
theorem witness_RecvRemovesTheOldestRecord :
    readyRec.Ready 0 ∧
      (let k := readyRec.core 0
       fld (k.s 0) 0 4 ≤ 12 ∧ (k.s 2).toNat % 16 = 0 ∧ (k.s 2).toNat + 16 ≤ 0x30000 ∧ k.queueRecs (fld (k.s 0) 0 4) = [[1, 2, 3, 4]] ∧
       ([1, 2, 3, 4] : List Word).length = 4 ∧ errIn k.spadErr 8 (k.s 2).toNat 16 = [] ∧ (k.eng 0).heldRec = none ∧
       fld (k.s 3) 0 4 ≤ 12 ∧ k.queueRecs (fld (k.s 3) 0 4) = [] ∧ k.tm = false ∧ 12 < fld (k.s 4) 0 4 ∧ (k.s 3).toNat % 16 ≠ 0) :=
  ⟨readyRec_ready, by decide⟩

/-- A descriptor of no meaning, for a queue to hold. -/
def desc0 : Desc := ⟨1, 0, false, List.replicate 32 0, [], 0, 0⟩
/-- Engine e's queue is full. -/
def fullQ (e : Nat) (k : Core) : Core := k.setEng e { Eng.reset with queue := List.replicate 8 desc0 }

theorem witness_IssueQueuesADescriptor :
    (let s := ready fun k => (k.setS 1 0x2FFE0#32).setS 2 0x30000#32
     let k := s.core 0
     s.Ready 0 ∧ (4#6).toNat % 8 < 5 ∧ (0x1C#6).toNat < 32 ∧ (k.s 1).toNat % 32 = 0 ∧ (k.s 1).toNat + 32 ≤ 0x30000 ∧
       (k.eng 4).queue.length < 8 ∧ errIn k.spadErr 8 (k.s 1).toNat 32 = [] ∧ k.tm = false ∧ 0x30000 < (k.s 2).toNat + 32 ∧ 5 ≤ (5#6).toNat % 8 ∧
       32 ≤ (32#6).toNat) ∧
    (let s := ready (fullQ 4)
     s.Ready 0 ∧ 8 ≤ ((s.core 0).eng 4).queue.length ∧ (0x0C#6).toNat.testBit 3 = true ∧ (4#6).toNat.testBit 3 = false) ∧
    (let s := waits (.issue 1 2 4) id
     s.Waits 0 (.issue 1 2 4) ∧ ((s.core 0).eng 4).queue.length < 8 ∧ errIn (s.core 0).spadErr 8 ((s.core 0).s 2).toNat 32 = []) ∧
    (let s := waits (.issue 1 2 4) (fullQ 4)
     s.Waits 0 (.issue 1 2 4) ∧ 8 ≤ ((s.core 0).eng 4).queue.length) := by
  refine ⟨⟨⟨by decide, by decide, by decide, by decide, by decide⟩, by decide⟩, ⟨⟨by decide, by decide, by decide, by decide, by decide⟩, by decide⟩,
    ⟨⟨by decide, by decide⟩, by decide⟩, ⟨⟨by decide, by decide⟩, by decide⟩⟩

/-- A core that may SEND 32 bytes from address 0 to core 1 (s1 = its address, s2 = 0, s3 = length and channel). -/
def readySend (f : Core → Core) : State := ready fun k => f ((k.setS 1 1).setS 3 0x10020#32)

/-- A send that stands at the message unit. -/
def item0 : SendItem := ⟨1, true, 0x2FFE0, 32, 1, 0, 0, 1, 0, 0⟩

theorem witness_SendTakesATicketAndItsPayloadIsRead :
    (let s := readySend id
     let k := s.core 0
     s.Ready 0 ∧ (4#6).toNat % 4 = 0 ∧ (4#6).toNat < 8 ∧ s.sendFault 0 (k.s 1) (k.s 2) (k.s 3) = none ∧ bit (k.get 0x202) 4 = false ∧
       (∀ x ∈ k.sendq, x.live = true) ∧ k.sendq = [] ∧ k.tm = false ∧ s.sendFault 0 (k.s 1) (k.s 2) (k.s 0) = some 2 ∧
       (3#6).toNat % 4 = 3 ∧ 8 ≤ (8#6).toNat) ∧
    (let s := readySend fun k => { k with sendq := [item0] }
     let k := s.core 0
     isCore 0 = true ∧ s.clocked 0 = true ∧ k.sendq = [item0] ∧ item0.cls = 0 ∧ errIn k.spadErr 8 item0.addr item0.len = []) := by
  refine ⟨⟨⟨by decide, by decide, by decide, by decide, by decide⟩, by decide⟩, by decide⟩

/-- A transmit entry to core 1, channel 1. -/
def entry0 (rot : Bool) (cred : Nat) : TxEntry := ⟨1, 1, rot, 0, cred, 31, 4, 31⟩

/-- Class 1 spends a unit and a record, class 2 a zone; without credit the SEND waits, or writes 0 where NB is set. -/
theorem witness_StreamAndRotateSendsSpendCredit :
    (∀ cls, cls = 1 ∨ cls = 2 → ∀ cred, cred = 0 ∨ cred = 1 →
      let s := readySend fun k => { k with tx := [(0, some (entry0 (cls == 2) cred))] }
      let k := s.core 0
      (isCore 0 = true ∧ k.rs = 1 ∧ s.clocked 0 = true ∧ k.pc.toNat < 0x6000 ∧ k.imemErr.get nat0 (k.pc.toNat / 4) = 0) ∧
        bit (k.get 0x202) 4 = false ∧ addrDev (k.s 1).toNat ≠ 0xFFFF ∧
        s.txFind 0 (k.s 1).toNat (fld (k.s 3) 16 12) (cls == 2) = some (0, entry0 (cls == 2) cred) ∧ (fld (k.s 3) 0 14 + 31) / 32 = 1 ∧
        (∀ x ∈ k.sendq, x.live = true) ∧ s.sendFault 0 (k.s 1) (k.s 2) (k.s 3) = none) ∧
    (entry0 false 1).pos + 1 ≤ (entry0 false 1).cap + 1 ∧ 0 < (entry0 false 1).recs ∧ (6#6).toNat % 4 = 2 ∧ (6#6).toNat.testBit 2 = true ∧
    (let s := waits (.send 4 1 2 3 1) fun k => { (k.setS 1 1).setS 3 0x10020#32 with tx := [(0, some (entry0 false 1))] }
     s.Waits 0 (.send 4 1 2 3 1) ∧ s.txFind 0 ((s.core 0).s 1).toNat 1 false = some (0, entry0 false 1)) := by
  refine ⟨by intro cls h cred g; rcases h with rfl | rfl <;> rcases g with rfl | rfl <;> decide, by decide, by decide, by decide, by decide, ⟨by decide, by decide⟩, by decide⟩

/-- Core 0 with core 1 arrived and waiting at the cluster's barrier. -/
def readyBar (b : Option Barrier) (f : Core → Core) : State :=
  { (ready f).modCore 1 fun k => { (k.setRs 2).put 1 ((k.setRs 2).get 1 ||| 32) with wait := some (.bar 0) } with
    barC := match b with
      | some x => [(0, some x)]
      | none => [] }

/-- Cores 0 and 1 take part, 1 has arrived. -/
def bar01 : Barrier := ⟨0xFFFF, [0, 1], [1]⟩

theorem witness_ClusterBarriersReleaseTogether :
    (ready fun k => k.put 1 (k.get 1 ||| 64)).Ready 0 ∧ ((ready fun k => k.put 1 (k.get 1 ||| 64)).core 0).bard = true ∧
    (ready fun k => { k with sacc := [7] }).Ready 0 ∧ ((ready fun k => { k with sacc := [7] }).core 0).fenceDone ((0x2000#16).toNat / 2 ^ 12) = false ∧
      (0x2000#16).toNat / 2 % 2 ^ 11 = 0 ∧ (0x2000#16).toNat.testBit 0 = false ∧
    (ready id).Ready 0 ∧ ((ready id).core 0).bard = false ∧ ((ready id).core 0).barw = false ∧ ((ready id).core 0).fenceDone 0 = true ∧
      (ready id).barC.get none0 0 = none ∧ 0 ∈ (ready id).barParts 0 false ∧ (∃ x ∈ (ready id).barParts 0 false, x ≠ 0) ∧
    (readyBar (some bar01) id).Ready 0 ∧
      (let s := readyBar (some bar01) id
       s.barC.get none0 (coreCluster 0) = some bar01 ∧ bar01.arrived ≠ [] ∧ (∃ x ∈ bar01.parts, x ∉ bar01.arrived) ∧
         bar01.mask = fld ((s.core 0).get 0x40) 0 16 ∧ 0 ∈ bar01.parts ∧ (∀ x ∈ bar01.parts, x ∈ bar01.arrived ∨ x = 0) ∧
         (s.core 1).barw = true ∧ (s.core 1).rs = 2 ∧ (s.core 1).wait = some (.bar 0) ∧ (s.core 0).barw = false ∧ (s.core 0).bard = false ∧
         (s.core 0).fenceDone 0 = true ∧ (s.core 0).tm = false ∧ ({ bar01 with mask := 3 } : Barrier).mask ≠ fld ((s.core 0).get 0x40) 0 16) := by
  refine ⟨⟨by decide, by decide, by decide, by decide, by decide⟩, by decide, ⟨by decide, by decide, by decide, by decide, by decide⟩, by decide, by decide,
    by decide, ready_id, by decide, by decide, by decide, by decide, by decide, by decide, ⟨by decide, by decide, by decide, by decide, by decide⟩, by decide⟩

/-- A halted, a running, a waiting, a fenced core; one with something outstanding. -/
theorem witness_RunControlMovesTheRunState :
    isCore 0 = true ∧ (State.reset.core 0).rs = 0 ∧ (State.reset.core 0).outstanding = false ∧ ((ready id).core 0).rs = 1 ∧
      fld (((ready id).core 0).get 2) 0 1 = 0 ∧ ((waits (.fence 1) id).core 0).rs = 2 ∧ ((ready (·.setRs 4)).core 0).rs = 4 ∧
      ((ready fun k => { k.setRs 0 with sacc := [7] }).core 0).outstanding = true ∧ ((ready fun k => { k.setRs 0 with sacc := [7] }).core 0).rs = 0 := by
  decide

/-- A program image of one word of code, with the CRC it gives. -/
def image (crc : Nat) : List Byte :=
  leBytes 4 0x3149434B ++ leBytes 4 1 ++ leBytes 4 0 ++ leBytes 4 4 ++ leBytes 4 0 ++ leBytes 4 0 ++ leBytes 4 crc ++ leBytes 4 0
/-- Core 0 loads, with an image at partition address 0, which is byte 0 of M-tile 1. -/
def loading (b : List Byte) : State := { ready (·.setRs 3) with mem := Map.setN byte0 [] (memIdx 1 0) b }

theorem witness_ALoadStartsTheImageOrHalts :
    isCore 0 = true ∧ ((loading []).core 0).rs = 3 ∧ (loading []).corePart 0 = 0 ∧ ((ready fun k => (k.setRs 3).put 5 1).core 0).get 5 = 1 ∧
      (loading []).DiesUp ∧ (loading []).Plain 0 0 32 1 0 ∧ imageHeader ((loading []).mem.getN byte0 (memIdx 1 0) 32) = .error 1 ∧
      (∀ crc, crc = 0 ∨ crc = 0x2144DF1C →
        imageHeader ((loading (image crc)).mem.getN byte0 (memIdx 1 0) 32) = .ok { entry := 0, ilen := 4, slen := 0, sbase := 0, crc := crc }) ∧
      (loading (image 0)).Plain 0 32 4 1 32 ∧ crc32 ((loading (image 0)).mem.getN byte0 (memIdx 1 32) 4) = 0x2144DF1C ∧
      errIn ((loading (image 0)).core 0).spadErr 8 0 0 = [] := by
  refine ⟨by decide, by decide, by decide, by decide, by unfold State.DiesUp; decide, plain_of (by decide +kernel), by rfl, ?_, plain_of (by decide +kernel), by decide +kernel, by decide⟩
  intro crc h
  rcases h with rfl | rfl <;> rfl

theorem witness_TimersAndWatchdogExpireAsConfigured :
    (let s := ready fun k => ((((k.put 0x28 1).put 0x29 1).put 0x2C 3).put 0x2D 1).put 0x30 0x80000001#32
     let k := s.core 0
     isCore 0 = true ∧ fld (k.get 0x28) 0 1 = 1 ∧ k.get 0x29 ≠ 0 ∧ fld (k.get 0x2C) 0 1 = 1 ∧ k.get 0x2D ≠ 0 ∧ k.rs = 1 ∧ s.clocked 0 = true ∧
       bit (k.get 0x30) 31 = true ∧ bit (k.get 0x30) 29 = false ∧ k.rs ≠ 4 ∧ (0xA4 : Word) ≠ 0xA5) ∧
    bit (((ready fun k => k.put 0x30 0xA0000001#32).core 0).get 0x30) 29 = true ∧ ((ready (·.setRs 4)).core 0).rs = 4 := by decide

/-- A message from core 1 to core 0. -/
def msg0 (cls seq n : Nat) : Msg := ⟨0, 1, 0, cls, 5, seq, 1, 0, 1, List.replicate n 7⟩
/-- Queue 0 of core 0 in a mode, 1,024 bytes at 0x1000, 4 records deep, for channel 5 from core 1; and a message on its way. -/
def arriving (mode cls seq n : Nat) (f : Core → Core) : State :=
  { ready fun k => f ((((((((k.put 0x210 (BitVec.ofNat 32 (0x400 + mode))).put 0x211 0x1000).put 0x212 0x400).put 0x213 0x50005).put 0x214 1).put 0x215 0x1000).put 0x216
      0x1000)) with net := [.msg (msg0 cls seq n)] }

theorem witness_MessagesArriveInTheirQueue :
    (∀ mode, mode = 1 ∨ mode = 2 ∨ mode = 3 →
      let m := msg0 (mode - 1) 1 512
      let s := arriving mode (mode - 1) 1 512 id
      let k := s.core 0
      s.firstMsg m = true ∧ s.isOwn (addrDev m.dst) = true ∧ s.toCore m.part m.dst = some 0 ∧ s.redirect 0 = none ∧ s.matchQueue 0 m = some 0 ∧
        fld (k.get 0x2A8) 0 14 = 0 ∧ k.rqMode 0 = mode ∧ (k.rxq 0).recs.length < k.rqDepth 0 ∧ k.ringPlace 0 m.payload.length = some (0x1000, 0x1200, 0x1000) ∧
        errIn k.spadErr 8 0x1000 512 = [] ∧ m.payload.length ≤ k.rqSize 0 / 2 ∧ m.seq % 2 ∉ (k.rxq 0).zones) ∧
    (arriving 1 0 1 512 id).Awake 0 ∧
    (let s := arriving 3 2 1 512 fun k => k.setRxq 0 { Rxq.reset with zones := [1], recs := [[0, 0, 0, 0]] }
     (s.core 0).rqMode 0 = 3 ∧ (msg0 2 1 512).seq % 2 ∈ ((s.core 0).rxq 0).zones) ∧
    ((arriving 3 2 1 513 id).core 0).rqSize 0 / 2 < (msg0 2 1 513).payload.length ∧ (msg0 2 1 513).origin = 0 ∧
    (arriving 0 0 1 32 id).matchQueue 0 (msg0 0 1 32) = none := by
  refine ⟨by intro mode h; rcases h with rfl | rfl | rfl <;> decide +kernel, ⟨by decide +kernel, by unfold State.DiesUp; decide +kernel⟩, by decide +kernel, by decide +kernel, by decide +kernel, by decide +kernel⟩

/-- Queue 0 of core 0 as set up for messages, with nothing on its way. -/
def queue0 (mode : Nat) (f : Core → Core) : State := { arriving mode 0 0 0 f with net := [] }

/-- A refusal, a grant and a close for core 0 from core 1, channel 1. -/
def refusal0 : Refused := ⟨0, 0, 1, 1, 7, 0, 0⟩
def grant0 (first : Bool) : Grant := ⟨0, 0, 1, 1, false, first, 8, 4, 31⟩
def close0 (refused : Bool) : Close := ⟨0, 0, 1, 1, false, refused, 7, 0, 0⟩

theorem awake_reset : State.reset.Awake 0 := ⟨by decide, by unfold State.DiesUp; decide⟩

/-- The entry is there, or there is room for one; a first grant and a further one. -/
theorem witness_RefusalsGrantsAndClosesReachTheirSource :
    (let s : State := { State.reset.modCore 0 fun k => { k with sacc := [7], tx := [(0, some (entry0 false 1))] } with
        net := [.refusal refusal0, .grant (grant0 true), .grant (grant0 false), .close (close0 true), .close (close0 false)] }
     .refusal refusal0 ∈ s.net ∧ s.isOwn 0 = true ∧ s.waiter 0 = some 0 ∧ .grant (grant0 true) ∈ s.net ∧ .grant (grant0 false) ∈ s.net ∧ .close (close0 true) ∈ s.net ∧
       .close (close0 false) ∈ s.net ∧ s.toUnit 0 0 = some 0 ∧ s.clState (coreCluster 0) = 0 ∧ (∀ d, d < 4 → s.dieState d ≠ 2) ∧ ((s.core 0).eng 4).jobs = [] ∧ (s.core 0).wait = none ∧
       (s.core 0).tx.get none0 0 = some (entry0 false 1) ∧ s.normAddr (entry0 false 1).dst = s.normAddr (grant0 true).src ∧ (entry0 false 1).ch = (grant0 true).ch ∧
       s.txFind 0 1 1 false = some (0, entry0 false 1) ∧ bit ((s.core 0).get 0x205) 31 = false ∧ ((s.core 0).get 0x204).toNat + 1 < 2 ^ 32) ∧
    (∀ j, j < 16 → (State.reset.core 0).tx.get none0 j = none) := by decide +kernel

/-- A request of core 1 for four bytes of core 0. -/
def req0 (op : Nat) : Rq := ⟨0, 1, 3, 1, 0, 0, 0, op, 0x2FFFC, 4, if op = 0 then [] else [1, 2, 3, 4], 0⟩
/-- A read of the DMA that core 0 awaits, and its job. -/
def rq0 : Rq := ⟨0, 0, 4, 1, 0, 65536, 1, 0, 0, 4, [], 0x100⟩
def job0 : Job := { Job.fresh desc0 0 0 with stage := 1, out := [rq0] }
def rsp0 (err : Bool) : Rsp := ⟨0, 0, 4, 1, 0, err, [1, 2, 3, 4]⟩

theorem witness_RemoteRequestsAreServedAndAnswered :
    (∀ op, op < 5 →
      let s : State := { State.reset with net := [.req (req0 op)] }
      (req0 op).space = 0 ∧ (req0 op).op = op ∧ (s.net.find? fun x => match x with
        | .req q => q.space == 0 && q.part == 0 && q.src == 1 && q.dst == 0
        | _ => false) = some (.req (req0 op)) ∧ s.toCore 0 0 = some 0 ∧ s.clState (coreCluster 0) = 0 ∧ (∀ d, d < 4 → s.dieState d ≠ 2) ∧
        s.redirect 0 = none ∧ (s.core 0).spadErr = []) ∧
    (∀ err, err = true ∨ err = false →
      let s : State := { ready fun k => k.setEng 4 { Eng.reset with jobs := [job0] } with net := [.rsp (rsp0 err)] }
      .rsp (rsp0 err) ∈ s.net ∧ (rsp0 err).err = err ∧ (rsp0 err).eng = 4 ∧ s.toCore 0 0 = some 0 ∧ s.clState (coreCluster 0) ≠ 3 ∧ s.isFenced 0 = false ∧
        ((s.core 0).eng 4).jobs = [job0] ∧ job0.desc.ticket = (rsp0 err).ticket ∧ job0.fault = 0 ∧ job0.request 0 = some rq0 ∧ rq0.op = 0 ∧
        (s.core 0).spadErr = [] ∧ job0.todo = [] ∧ (job0.out.filter fun x => x.pos ≠ 0) = []) ∧
    (∀ e : Bool,
      let s := ready fun k => (k.setEng (if e then 4 else 3) { Eng.reset with jobs := [job0] }).put 0x200 0x10000#32
      ((s.core 0).eng (if e then 4 else 3)).jobs = [job0] ∧ fld ((s.core 0).get 0x200) 16 8 ≠ 0 ∧ job0.out = [rq0]) := by
  refine ⟨by decide +kernel, ?_, ?_⟩
  · rintro err (rfl | rfl) <;> decide +kernel
  · rintro (_ | _) <;> decide +kernel

/-- 32 bytes of a descriptor from fields: offset, length, value. -/
def fields (l : List (Nat × Nat × Nat)) : List Byte :=
  (List.range 32).map fun i => BitVec.ofNat 8 (l.map fun x => if x.1 ≤ i ∧ i < x.1 + x.2.1 then x.2.2 / 256 ^ (i - x.1) % 256 else 0).sum
/-- Engine e of core 0 has the descriptor of these bytes at the head of its queue; then without it. -/
def queued (e : Nat) (b : List Byte) (f : Core → Core) : State := ready fun k => f (k.setEng e { Eng.reset with queue := [{ desc0 with bytes := b }] })
def taken (s : State) (e : Nat) : State := s.setCore 0 ((s.core 0).setEng e { (s.core 0).eng e with queue := [] })

/-- Whether engine e of core 0 may take the descriptor at the head of its queue, and what it then holds. -/
def Takes (s : State) (e : Nat) (b : List Byte) : Prop :=
  ((s.core 0).eng e).jobs = [] ∧ s.takeDesc 0 e = some ({ desc0 with bytes := b }, taken s e) ∧ (s.core 0).spadErr = []

/-- A transfer of 4 bytes, or of 32 from core 0 to core 1 on channel 1. -/
def dma0 (kind : Nat) : List Byte :=
  if kind < 2 then fields [(2, 1, kind), (4, 3, 4)]
  else fields [(2, 1, kind + 16), (4, 3, 32), (12, 4, 1), (24, 2, 1)]
def bad0 (kind : Nat) : List Byte := fields [(2, 1, kind), (3, 1, 1)]
def stream1 (k : Core) : Core := { k with tx := [(0, some (entry0 false 1))] }
/-- A job that has ended, with a fault or without, and signals semaphore 0. -/
def ended0 (fault : Nat) : Job := { Job.fresh { desc0 with bytes := fields [(1, 1, 0x40)] } 0 0 with stage := 3, fault := fault, detail := fault }

theorem witness_TransfersMoveTheirBytesOrFault :
    (∀ kind, kind < 4 → Takes (queued 4 (bad0 kind) id) 4 (bad0 kind) ∧ (dmaDesc (bad0 kind)).kind = kind ∧
      (taken (queued 4 (bad0 kind) id) 4).dmaCheck 0 (bad0 kind) = (6, 0)) ∧
    (∀ kind, kind < 2 → Takes (queued 4 (dma0 kind) id) 4 (dma0 kind) ∧ (dmaDesc (dma0 kind)).kind = kind ∧
      (taken (queued 4 (dma0 kind) id) 4).dmaCheck 0 (dma0 kind) = (0, 0) ∧ (taken (queued 4 (dma0 kind) id) 4).isOwn 0 = true ∧ (dmaDesc (dma0 kind)).dest = 0) ∧
    (taken (queued 4 (dma0 0) id) 4).Plain 0 0 4 1 0 ∧ (taken (queued 4 (dma0 1) id) 4).Plain 0 0 4 1 0 ∧
    (∀ kind, kind = 2 ∨ kind = 3 →
      let s := queued 4 (dma0 kind) stream1
      let x := dmaDesc (dma0 kind)
      Takes s 4 (dma0 kind) ∧ x.kind = kind ∧ (taken s 4).dmaCheck 0 (dma0 kind) = (0, 0) ∧ x.cls = 1 ∧ 0 < (entry0 false 1).recs ∧ x.len = 32 ∧
        (taken s 4).txFind 0 x.dest x.ch (x.cls == 2) = some (0, entry0 false 1) ∧ (taken s 4).sourceAddr 0 = some 0 ∧
        ((entry0 false 1).charge ((x.len + 31) / 32)).1 ≤ (entry0 false 1).cred) ∧
    (taken (queued 4 (dma0 3) stream1) 4).Plain 0 0 32 1 0 ∧
    (∀ e, e = 3 ∨ e = 4 → ∀ fault, fault = 0 ∨ fault = 2 →
      let s := ready fun k => k.setEng e { Eng.reset with jobs := [ended0 fault] }
      ((s.core 0).eng e).jobs = [ended0 fault] ∧ (ended0 fault).finished = true ∧ (ended0 fault).rvDone = true ∧
        s.MayEnd 0 e (ended0 fault) (ended0 fault).fault (ended0 fault).detail) := by
  refine ⟨by unfold Takes; decide +kernel, by unfold Takes; decide +kernel, plain_of (by decide +kernel), plain_of (by decide +kernel), ?_, plain_of (by decide +kernel), ?_⟩
  · rintro kind (rfl | rfl) <;> unfold Takes <;> decide +kernel
  · rintro e (rfl | rfl) fault (rfl | rfl) <;> refine ⟨by decide +kernel, by decide +kernel, by decide +kernel, by decide, by decide, by decide, by decide, by decide, fun n h => ?_⟩ <;>
      (rw [show (ended0 _).desc.ssem = some 0 from rfl] at h; cases h; decide)

theorem witness_QueueAndSemaphoreWritesActAsTheRulesSay :
    isCore 0 = true ∧
    (∀ mode, mode < 4 →
      let k := (queue0 mode id).core 0
      bit (k.get 0x2A8) 30 = true ∧ fld (k.get 0x2A8) 0 14 = 0 ∧ k.rqMode 0 = mode ∧ 0 < k.rqSize 0 ∧ k.rqBase 0 = 0x1000 ∧ k.rqSize 0 = 0x400) ∧
    (∀ mode, mode < 4 → mode ≠ 0 →
      let cfg := BitVec.ofNat 32 (0x2000 + mode)
      let k := (queue0 0 id).core 0
      fld cfg 0 2 = mode ∧ fld cfg 8 6 = 32 ∧ k.rqBase 0 + k.rqSize 0 ≤ spadSize ∧ k.rqBase 0 % 32 = 0 ∧ k.rqSize 0 % 64 = 0 ∧
        fld cfg 8 6 + (((List.range 8).filter fun r => r ≠ 0 ∧ k.rqMode r ≠ 0).map k.rqDepth).sum ≤ 128 ∧ k.rqChLo 0 ≤ k.rqChHi 0 ∧
        addrBad (k.rqSrc 0) = false ∧ ∀ r, r < 8 → r ≠ 0 → k.rqMode r < 2) ∧
    -- the ring holds a unit: freeing it is right, one unit more or half a unit is not; a second of these is the threshold's
    (let k := (queue0 2 fun k => k.put 0x215 0x1020).core 0
     k.ringUsed 0 = 32 ∧ (0x1400 + k.rqSize 0 - k.rqBase 0) % k.rqSize 0 = 0 ∧ k.ringUsed 0 < 64 ∧ (k.rxq 0).ungrR = 0 ∧ (k.rxq 0).ungrU + 1 < max 1 (fld (k.get 0x200) 24 8)) ∧
    (let k := (queue0 2 fun k => (k.put 0x215 0x1020).setRxq 0 { Rxq.reset with ungrU := 63 }).core 0
     max 1 (fld (k.get 0x200) 24 8) = (k.rxq 0).ungrU + 1) ∧
    (((queue0 3 fun k => k.setRxq 0 { Rxq.reset with zones := [1] }).core 0).rxq 0).zones = [1] := by
  refine ⟨by decide, by decide +kernel, ?_, by decide +kernel, by decide +kernel, by decide +kernel⟩
  intro mode h g
  obtain rfl | rfl | rfl : mode = 1 ∨ mode = 2 ∨ mode = 3 := by omega
  all_goals decide +kernel

/-- The host interface is open, window 0 of the PF selects core 0, and core 1 is fenced. -/
def windowed (f : Core → Core) : State := (((ready f).setReg 0x2000 8).setReg (selKey 0 0) 0x80000000#32).setReg (clKey 0 + 4) 0x200

theorem witness_AliasesWindowsAndMeshLinksActAsTheRulesSay :
    (let s := windowed id
     clusterCore 0 1 = 1 ∧ s.isFenced 1 = true ∧ s.isFenced 0 = false ∧ bit (0x100#32) 8 = true ∧ fld 0x100#32 0 4 = 0 ∧ (0 : Nat) ≠ (1#4).toNat ∧ bit (s.reg (clKey 0)) 8 = false ∧
       bit (s.reg (clKey 639 + 0x4C)) 31 = false ∧ (s.reg (clKey 639 + 0x48)).toNat + 2 ^ 32 * ((s.reg (clKey 639 + 0x4C)).toNat % 2 ^ 16) + 7 < 2 ^ 48 ∧
       s.decodes 0 = true ∧ bit (s.reg (selKey 0 0)) 31 = true ∧ s.toCore 0 (fld (s.reg (selKey 0 0)) 0 7 + fld (s.reg (selKey 0 0)) 8 7 * 256) = some 0 ∧
       s.clState (coreCluster 0) = 0 ∧ (∀ d, d < 4 → s.dieState d ≠ 2) ∧ (s.core 0).rs = 1 ∧ (0x3FFFC#18).toNat = 0x10000 + 0x2FFFC ∧
       errIn (s.core 0).spadErr 8 0x2FFFC 4 = [] ∧ findCsr ((0x14#18).toNat / 4) ≠ none ∧ (0x14#18).toNat / 4 ≠ 0x8A0 ∧ (0xDFFC#18).toNat = 0x8000 + 0x5FFC ∧
       bit (s.reg (selKey 0 1)) 31 = false) := by decide +kernel

/-- Descriptors of the Retriever on the core's own scratchpad, by OP. -/
def rv0 (op : Nat) : List Byte :=
  if op = 3 then fields [(2, 1, 3), (3, 1, 8), (4, 3, 1), (12, 4, 0x100), (16, 4, 0x200), (24, 4, 4)]
  else if op < 4 then fields [(2, 1, op), (3, 1, 8), (4, 3, 1), (8, 4, 0), (12, 4, 0x100), (16, 4, 0x200), (24, 4, 4)]
  else if op < 6 then fields [(2, 1, op), (3, 1, 8), (4, 3, 1), (12, 4, 0x100), (16, 4, 0x1000), (24, 4, 0x104), (28, 1, 14)]
  else fields [(2, 1, op), (3, 1, 8), (4, 3, 2), (12, 4, 0x100), (16, 4, 0x40), (24, 4, 0x200), (28, 3, 2)]
def rvState (op : Nat) (l : List (Nat × Nat)) : State :=
  queued 3 (rv0 op) fun k => { k with spad := l.foldl (fun m x => Map.setN byte0 m x.1 (leBytes 4 x.2)) [] }

theorem witness_RetrieverOperationsDoTheirWork :
    (∀ op, op < 8 → let b := fields [(2, 1, op), (7, 1, 1)]
      Takes (queued 3 b id) 3 b ∧ (rvDesc b).op = op ∧ rvCheck b ≠ 0) ∧
    (∀ op, op < 8 → Takes (rvState op []) 3 (rv0 op) ∧ (rvDesc (rv0 op)).op = op ∧ rvCheck (rv0 op) = 0 ∧ (rvDesc (rv0 op)).space = 0) ∧
    (∀ op, op < 4 → let x := rvDesc (rv0 op)
      x.e = 4 ∧ x.count = 1 ∧ x.idx = 0 ∧ x.data = 0x100 ∧ x.base = 0x200 ∧ x.stride = 4 ∧ x.aux = 0 ∧ x.dtype = 1) ∧
    (let word (s : State) (a : Nat) : Nat := ((s.core 0).spadWord a).toNat
     Takes (rvState 3 [(0, 1)]) 3 (rv0 3) ∧ word (rvState 3 [(0, 1)]) 4 < word (rvState 3 [(0, 1)]) 0 ∧
     Takes (rvState 3 [(4, 1)]) 3 (rv0 3) ∧ word (rvState 3 [(4, 1)]) 4 = word (rvState 3 [(4, 1)]) 0 + 1 ∧ (segReduce 1 0 4 [[0, 0, 0, 0]]).2 &&& flNP = 0 ∧
     word (rvState 3 []) 4 = word (rvState 3 []) 0 ∧
     hashOf 0 14 % 2 ^ 14 = 0 ∧ word (rvState 4 []) 0x1000 = word (rvState 4 []) 0 ∧ word (rvState 4 []) 0 ≠ 0xFFFFFFFF ∧
     Takes (rvState 5 [(0x1000, 0xFFFFFFFF)]) 3 (rv0 5) ∧ word (rvState 5 [(0x1000, 0xFFFFFFFF)]) 0x1000 = 0xFFFFFFFF ∧
     ∀ op, op = 6 ∨ op = 7 → let s := rvState op [(0, 1), (4, 2), (0x40, 2), (0x44, 3)]
       Takes s 3 (rv0 op) ∧ word s 0 < word s 4 ∧ word s 0x40 < word s 0x44 ∧ (rvDesc (rv0 op)).count = 2 ∧ (rvDesc (rv0 op)).aux % 2 ^ 24 = 2) := by
  refine ⟨by unfold Takes; decide +kernel, by unfold Takes; decide +kernel, by decide +kernel, ?_⟩
  refine ⟨by unfold Takes; decide +kernel, by decide +kernel, by unfold Takes; decide +kernel, by decide +kernel, by decide +kernel, by decide +kernel, by decide +kernel,
    by decide +kernel, by decide +kernel, by unfold Takes; decide +kernel, by decide +kernel, ?_⟩
  rintro op (rfl | rfl) <;> unfold Takes <;> decide +kernel

/-- A product of 8 rows, 8 or 32 columns and 32 terms of bfloat16 operands, output in binary32. -/
def mm0 (op chain : Nat) : List Byte := fields [(2, 1, op + 4 * chain), (8, 1, 2), (9, 1, 2), (18, 2, 32), (20, 2, 64)]
def mjob (stage chain : Nat) : Job := { Job.fresh { desc0 with bytes := mm0 0 chain } 0 0 with stage := stage }
/-- A hand-off of 8 blocks to channel 0 against an open context whose exponents carry their tags. -/
def red0 : List Byte := fields [(3, 1, 1), (4, 4, 0xC0), (8, 1, 2), (9, 1, 2)]
def rjob : Job := { Job.fresh { desc0 with bytes := red0 } 0 0 with stage := 2 }
def ctx0 : RdCtx := ⟨0, 0, 0, 8, 0, 1, 8, 0, 0, 0, 0, false, false, false⟩
def jobs0 (e : Nat) (l : List Job) (f : Core → Core) : State := ready fun k => f (k.setEng e { Eng.reset with jobs := l })

theorem witness_MatrixEnginesStartComputeAndComplete :
    (∀ e, e < 2 → ∀ op, op < 3 → Takes (queued e (fields [(1, 1, 0x80), (2, 1, op)]) id) e (fields [(1, 1, 0x80), (2, 1, op)]) ∧
      (mdesc (fields [(1, 1, 0x80), (2, 1, op)])).op = op ∧ firstNonzero (mdescMask (mdesc (fields [(1, 1, 0x80), (2, 1, op)]))) (fields [(1, 1, 0x80), (2, 1, op)]) = some 1) ∧
    (∀ chain, chain < 2 → ∀ op, op < 3 → let x := mdesc (mm0 op chain)
      Takes (queued 1 (mm0 op chain) fun k => k.put 0x500 1) 1 (mm0 op chain) ∧ Takes (queued 0 (mm0 op chain) id) 0 (mm0 op chain) ∧
        firstNonzero (mdescMask x) (mm0 op chain) = none ∧ x.op = op ∧ x.mask = 0 ∧ x.reden = false ∧ x.chain = chain ∧ x.cen = false) ∧
    (let k := (queued 1 (mm0 0 0) fun k => k.put 0x500 1).core 0
     let x := mdesc (mm0 0 0)
     bit (k.get 0x500) 0 = true ∧ k.fmtSel k.act x.fa = some (fmtBf16, []) ∧ k.fmtSel k.act x.fb = some (fmtBf16, []) ∧ k.fmtSel k.act (x.ocv % 256) = some (fmt32, []) ∧
       fmtBf16.rate ≠ 3 ∧ fmtBf16.block = false ∧ fmt32.block = false ∧ rndOk fmt32 (x.ocv / 256 % 8) = true ∧ fmt32.kind ≠ 4 ∧ x.m * x.n ≤ halfSize 0 ∧
       x.m * x.n ≤ halfSize 1 ∧ (k.eng 1).half = none ∧ (k.eng 0).half = none ∧ ∀ a ∈ x.areas fmtBf16 fmtBf16 fmt32, a.1 + a.2 ≤ spadSize) ∧
    (∀ e, e < 2 → ∀ chain, chain < 2 → let k := (jobs0 e [mjob 1 chain] id).core 0
      (k.eng e).jobs = [mjob 1 chain] ∧ (mjob 1 chain).stage = 1 ∧ (mjob 1 chain).drop = false ∧ k.spadErr = [] ∧ (mdesc (mjob 1 chain).desc.bytes).chain = chain) ∧
    (∀ e, e < 2 → ((jobs0 e [ended0 2] id).core 0 |>.eng e).jobs = [ended0 2] ∧ (jobs0 e [ended0 2] id).MayEnd 0 e (ended0 2) 2 2) ∧
    (∀ e, e < 2 → let s := jobs0 e [{ mjob 2 0 with acc := List.replicate 64 0 }] id
      let r := s.drain 0 e { mjob 2 0 with acc := List.replicate 64 0 }
      r.2 = none ∧ ((s.core 0).eng e).heldRec = none ∧ ((r.1.core 0).mFmts 0 (mdesc (mm0 0 0))).2.2.1.block = false ∧ (mdesc (mm0 0 0)).reden = false ∧
        r.1.MayEnd 0 e { mjob 2 0 with acc := List.replicate 64 0 } 0 0) ∧
    (let s := jobs0 0 [{ rjob with acc := List.replicate 256 0 }] fun k =>
       { k with ctxs := [(0, some ctx0)], spad := Map.setN byte0 [] 0 [0, 0, 0, 1, 0, 2, 0, 3, 0, 4, 0, 5, 0, 6, 0, 7] }
     let k := s.core 0
     let d := mdesc red0
     let blocks := d.blocksOf (if d.mask = 0 then 0 else k.spadW d.mkAt d.maskBytes)
     d.reden = true ∧ d.ben = false ∧ k.otherHandoff 0 d.rch = false ∧ k.redCtx d 0 = some (0, ctx0) ∧ s.redPending 0 ctx0.ch < 8 ∧ blocks ≠ [] ∧ blocks.length ≤ 16 ∧
       ∀ q ∈ blocks, (k.spadByte (32 * ctx0.eln + 2 * ((ctx0.cbase + (d.tag + 65536 - ctx0.tag0) % 65536 * ctx0.tblk + q.2.2) - ctx0.ebase) + 1)).toNat =
         (ctx0.step + (ctx0.cbase + (d.tag + 65536 - ctx0.tag0) % 65536 * ctx0.tblk + q.2.2)) % 256) := by
  refine ⟨by unfold Takes; decide +kernel, ?_, by decide +kernel, by decide +kernel, ?_, ?_, by decide +kernel⟩
  · intro chain h op g
    obtain rfl | rfl : chain = 0 ∨ chain = 1 := by omega
    all_goals (obtain rfl | rfl | rfl : op = 0 ∨ op = 1 ∨ op = 2 := by omega) <;> unfold Takes <;> decide +kernel
  · intro e h
    obtain rfl | rfl : e = 0 ∨ e = 1 := by omega
    all_goals refine ⟨by decide +kernel, by decide, by decide, by decide, by decide, by decide, fun n h => ?_⟩
    all_goals (rw [show (ended0 _).desc.ssem = some 0 from rfl] at h; cases h; decide)
  · intro e h
    obtain rfl | rfl : e = 0 ∨ e = 1 := by omega
    all_goals refine ⟨by decide +kernel, by decide +kernel, by decide +kernel, by decide +kernel, ⟨by decide +kernel, by decide +kernel, by decide +kernel, by decide, by decide, fun n h => ?_⟩⟩
    all_goals (rw [show ({ mjob 2 0 with acc := List.replicate 64 0 } : Job).desc.ssem = none from rfl] at h; cases h)

/-- A vector of 32 binary32 elements in and out: MAP, REDUCE with its Q output, SORT, MERGE. -/
def ve0 (op : Nat) : List Byte :=
  fields ([(2, 1, op), (3, 1, if op = 1 then 0xC1 else 0x41), (5, 2, 0x1F0), (26, 2, 4)] ++ if op = 1 then [(28, 2, 8)] else [])
/-- The same with a combination that is not allowed. -/
def veBad (op : Nat) : List Byte :=
  if op = 0 then fields [(2, 1, 0x40), (3, 1, 0x41), (5, 2, 0x1F0), (26, 2, 4)] else fields [(2, 1, op), (3, 1, 0x01), (5, 2, 0x1F0)]
def vjob (stage op : Nat) : Job := { Job.fresh { desc0 with bytes := ve0 op } 0 0 with stage := stage }
/-- Program 0 is one FT of slot 0, which is valid. -/
def program0 (k : Core) : Core := ((k.setT (bkt 0 0x1200) 0x400#32).setT (bkt 0 0x1000) 0x5C000000#32).setT (bkt 0 0x800) 1

theorem witness_VectorCommandsStartCompleteSwapAndCopy :
    (∀ op, op < 4 → let b := fields [(1, 1, 0x80), (2, 1, op)]
      Takes (queued 2 b id) 2 b ∧ (vdesc b).op = op ∧ firstNonzero (vdescMask (vdesc b)) b = some 1) ∧
    (∀ op, op < 4 → Takes (queued 2 (veBad op) id) 2 (veBad op) ∧ (vdesc (veBad op)).op = op ∧
      firstNonzero (vdescMask (vdesc (veBad op))) (veBad op) = none ∧ (vdesc (veBad op)).opBad = true) ∧
    (∀ op, op < 4 → Takes (queued 2 (ve0 op) program0) 2 (ve0 op)) ∧
    (∀ op, op < 4 → let k := (queued 2 (ve0 op) program0).core 0
      let x := vdesc (ve0 op)
      x.op = op ∧ firstNonzero (vdescMask x) (ve0 op) = none ∧ x.opBad = false ∧ k.vFormat k.act x = none ∧ k.vShape k.act x = none ∧
        k.epValid (k.bank 1) x.prog = true ∧ (k.progWords k.act x.prog).filterMap ftSlot = [0] ∧ k.ftValid (k.bank 0) 0 = true) ∧
    (∀ op, op < 4 → let k := (queued 2 (ve0 op) program0).core 0
      let x := vdesc (ve0 op)
      (∀ n, n < 3 → (k.vFmt k.act (x.sel n)).1.block = false) ∧ (k.vFmt k.act (x.ocp % 256)).1.block = false ∧
        (∀ a ∈ k.vAreas k.act x, a.1 + a.2 ≤ spadSize) ∧ x.rows = 1 ∧ x.cols = 32 ∧ (op ≠ 1 → x.qen = false)) ∧
    ((jobs0 2 [ended0 2] id).core 0 |>.eng 2).jobs = [ended0 2] ∧ (jobs0 2 [ended0 2] id).MayEnd 0 2 (ended0 2) 2 2 ∧
    (∀ op, op = 2 ∨ op = 3 → let s := jobs0 2 [vjob 1 op] id
      ((s.core 0).eng 2).jobs = [vjob 1 op] ∧ (vjob 1 op).stage = 1 ∧ (s.core 0).spadErr = [] ∧ s.MayEnd 0 2 (vjob 1 op) 0 0) ∧
    isCore 0 = true ∧ (0x3FF#10).getLsbD 6 = true ∧ (0#10).getLsbD 6 = false ∧ Map.wf tabReset (State.reset.core 0).tab = true ∧
    (State.reset.core 0).veIdle = true ∧ (State.reset.core 0).busy 9 = false ∧
    (let k := (jobs0 2 [{ vjob 1 2 with banks := 0x3FF }] id).core 0
     k.veIdle = false ∧ k.busy 9 = true) := by
  refine ⟨by unfold Takes; decide +kernel, by unfold Takes; decide +kernel, by unfold Takes; decide +kernel, by decide +kernel, by decide +kernel, by decide +kernel, ⟨by decide +kernel, by decide +kernel, by decide,
    by decide, by decide, fun n h => ?_⟩, ?_, by decide +kernel⟩
  · rw [show (ended0 2).desc.ssem = some 0 from rfl] at h
    cases h
    decide
  · rintro op (rfl | rfl) <;> refine ⟨by decide +kernel, by decide, by decide, ⟨by decide +kernel, by decide +kernel, by decide, by decide, by decide, fun n h => ?_⟩⟩
    all_goals (rw [show (vjob 1 _).desc.ssem = none from rfl] at h; cases h)

/-- Scale entry 63 in MODE 1 rolls on the core's own rolls (ROLLSRC 1) or on the steps'. -/
def entry63 (src : Nat) (k : Core) : Core := (k.setT (bkt 0 (0x3001 + 4 * 63)) 0x10000#32).setT (bkt 0 (0x3000 + 4 * 63)) (BitVec.ofNat 32 (0x40001 + src * 2 ^ 15))

theorem witness_TableWritesAndRollsActOnTheScaleEntries :
    isCore 0 = true ∧
    (let k := State.reset.core 0
     (k.tableWord 0x833).map (·.2.1) = some (1 - k.bank 9) ∧ k.bank 9 = 0 ∧ k.busy 9 = false ∧ ((k.put 0x618 0x200#32).tableWord 0x619).map (·.2.1) = some (k.bank 1) ∧
       hrOk 0x7F80 = false ∧ hrOk 0x7F7F = true ∧ k.busy 7 = false ∧
       32 * fld 0x1000#32 0 13 + 4 * 512 ≤ spadSize ∧ sigmaOk (k.spadWord 0) = false ∧ k.busy 2 = false ∧ k.spadErr = []) ∧
    (let k := (jobs0 2 [{ vjob 1 2 with banks := 0x3FF }] id).core 0
     k.busy 9 = true ∧ k.busy 7 = true) ∧
    (let k := (ready fun k => { k with spad := Map.setN byte0 [] 0 (leBytes 4 0x3F800000) }).core 0
     bit 0x10000#32 16 = true ∧ ∀ i, i < 1 → sigmaOk (k.spadWord (4 * i)) = true) ∧
    (∀ src, src < 2 → let k := (ready (entry63 src)).core 0
      (k.seCfg (k.bank 6) 63).valid = true ∧ (k.seCfg (k.bank 6) 63).rollsrc = src ∧ (∀ e, e < 3 → ∀ j ∈ (k.eng e).jobs, j.rollWait = false)) ∧
    (let s : State := { jobs0 0 [{ mjob 1 0 with step := 7 }] id with rolls := [⟨0, 7, true⟩] }
     (s.rolls.find? fun r => r.core == 0) = some ⟨0, 7, true⟩ ∧ (s.core 0).startedOf 7 = true ∧ ((ready id).core 0).startedOf 7 = false) := by
  refine ⟨by decide, by decide +kernel, by decide +kernel, by decide +kernel, by decide +kernel, by decide +kernel⟩

/-- A step of number `n`, as it stands after BEGIN. -/
def step0 (n : Nat) : OpenStep := ⟨n, 0, false, false, false, false, none⟩
/-- Partition 63 with steps A and B in states `sa` and `sb`, and ST_CTL as given. -/
def stepping (ctl : Word) (sa sb : Nat) (a b : Option OpenStep) : State :=
  ((State.reset.setReg (stKey 63 0) ctl).setReg (stKey 63 4) (BitVec.ofNat 32 (sa + 4 * sb))).setStCtl 63 ⟨a, b, [], []⟩
/-- The apply of step 1, its tile's share lost or not, with nothing left to write. -/
def apply0 (lost : Bool) : Apply :=
  { step := 1, att := 0, opt := 0, facs := [], tiles := [{ tile := 0, run := 0, blk := 0, wait := false, ended := true, lost := lost, sums := [] }], copies := [], mirFailed := false, markSent := false,
    marked := false, restored := false, disarm := false }
/-- Partition 63 votes in group 5, through channel 255. -/
def voting (s : State) : State := (s.setReg (stKey 63 0x30) 0x800005#32).setReg (stKey 63 0x5C) 0x80000000#32

theorem witness_StepControllerOpensDecidesAndClosesSteps :
    (let s := stepping 0 0 0 none none
     (s.stCtl 63).a = none ∧ bit (s.reg (stKey 63 0)) 0 = false ∧ (s.stCtl 63).b = none ∧ bit (s.reg (stKey 63 0)) 1 = false ∧ s.vrNum 63 = 0 ∧
       s.apply 63 = none) ∧
    (let s := stepping 0x7 0 0 none none
     bit (s.reg (stKey 63 4)) 5 = false ∧ (s.stCtl 63).b = none ∧ bit (s.reg (stKey 63 0x80)) 31 = false ∧ bit (s.reg (stKey 63 0)) 1 = true ∧
       (s.stCtl 63).a = none ∧ bit (s.reg (stKey 63 0)) 0 = true) ∧
    (let s := stepping 0x7 3 0 (some (step0 0xFFFFFFFF)) none
     bit (s.reg (stKey 63 4)) 5 = false ∧ (s.stCtl 63).b = none ∧ bit (s.reg (stKey 63 0x80)) 31 = false ∧ bit (s.reg (stKey 63 0)) 1 = true ∧
       (s.stCtl 63).a = some (step0 0xFFFFFFFF) ∧ s.sa 63 = 3 ∧ bit (s.reg (stKey 63 0)) 2 = true) ∧
    (let s := stepping 0x7 3 4 (some (step0 1)) (some (step0 2))
     (s.stCtl 63).b = some (step0 2) ∧ s.sb 63 = 4) ∧
    (let s := voting (stepping 0x2 1 0 (some (step0 1)) none)
     (s.stCtl 63).a = some (step0 1) ∧ (s.stCtl 63).b = none ∧ bit (s.reg (stKey 63 0)) 1 = true ∧ s.sa 63 = 1 ∧ (step0 1).hclosed = false ∧
       (step0 1).ready = false ∧ 255 ∈ s.voteChs 63 ∧ ∀ r ∈ (s.stCtl 63).reports, r.ch ≠ 255) ∧
    (let s := (stepping 0 0 0 none none).setReg (stKey 63 0x68) 1
     s.vrNum 63 ≠ 0) ∧
    (let s := (stepping 0x7 3 0 (some (step0 1)) none).setApply 63 (some (apply0 true))
     s.apply 63 = some (apply0 true) ∧ s.sa 63 = 3 ∧ (apply0 true).lost = true ∧ bit (s.reg (cmKey 63 4)) 1 = false ∧ (apply0 true).copies = [] ∧
       (apply0 true).disarm = false ∧ (s.stCtl 63).b = none ∧ s.rdChans 63 = []) ∧
    (let s := voting (stepping 0 0 0 none none)
     s.voteParts 5 = [63] ∧ (s.stCtl 63).a = none ∧ (s.stCtl 63).b = none ∧ s.inWindow 63 1 0 = true ∧ s.inWindow 63 1 1 = false) ∧
    (let s := voting (stepping 0x7 3 2 (some (step0 1)) (some (step0 2)))
     s.voteParts 5 = [63] ∧ (s.stCtl 63).a = some (step0 1) ∧ (step0 1).num ≠ 2 ∧ (s.stCtl 63).b = some (step0 2) ∧ (step0 2).num = 2 ∧
       (step0 2).att = 0 ∧ s.sb 63 ≤ 2) ∧
    (let s := voting (stepping 0x7 2 0 (some (step0 1)) none)
     s.voteParts 5 = [63] ∧ (s.stCtl 63).a = some (step0 1) ∧ (step0 1).num = 1 ∧ (step0 1).att = 0 ∧ s.sa 63 = 2 ∧ (s.stCtl 63).b = none ∧
       s.rdChans 63 = [] ∧ bit (s.reg (stKey 63 0x80)) 31 = false ∧ s.regFld (stKey 63 0) 8 8 = 0 ∧ s.grpNum 63 = 0 ∧
       bit (s.reg (cmKey 63 0)) 0 = false) ∧
    (let s := (stepping 0x7 3 0 (some (step0 1)) none).setApply 63 (some (apply0 false))
     s.apply 63 = some (apply0 false) ∧ (s.stCtl 63).a = some (step0 1) ∧ s.sa 63 = 3 ∧ s.step4 63 (apply0 false) = true ∧ (apply0 false).copies = [] ∧
       (apply0 false).facs = [] ∧ (apply0 false).disarm = false ∧ (s.stCtl 63).b = none ∧ s.rdChans 63 = [] ∧ bit (s.reg (stKey 63 0x80)) 31 = false) ∧
    (let s := (stepping 0x7 2 0 (some { step0 1 with ready := true }) none).setReg (stKey 63 0x3C) 1
     (s.stCtl 63).a = some { step0 1 with ready := true } ∧ s.regFld (stKey 63 0x3C) 0 24 ≠ 0 ∧ s.sa 63 ≠ 3) := by
  refine ⟨?_, ?_, ?_, ?_, ?_, ?_, ?_, ?_, ?_, ?_, ?_, ?_⟩ <;> decide +kernel

/-- A record as it is stored: versions 5 and 4, its control byte, its counts. -/
def vrec (ctrl : Nat) (rd ls : Nat × Nat) : VRec := { ver := (5, 4), ctrl := ctrl, last := 0, rd := rd, ls := ls, t := (0, 0) }

/-- `s` with one version record of partition 0, at address 0, which holds `r`; the hold limit is `tmo`. -/
def recorded (s : State) (tmo : Word) (r : VRec) : State :=
  { (s.setReg (stKey 0 0x68) 1).setReg (stKey 0 0x6C) tmo with mem := Map.setN byte0 s.mem (memIdx 1 0) r.bytes }

/-- The first page of a partition's memory lies in the first tile. -/
theorem xlate_first {s : State} {p t a : Nat} (ht : s.fuse.tiles.head? = some t) (hb : fld (s.reg (0x78004 + 0x20 * p)) 0 9 = 0)
    (hs : 0 < fld (s.reg (0x78004 + 0x20 * p)) 16 9) (ha : a < 4096) : s.xlate p a = some (t, a) := by
  unfold State.xlate
  cases h : s.fuse.tiles with
  | nil => simp [h] at ht
  | cons x l =>
    simp only [h, List.head?_cons, Option.some.injEq] at ht
    subst ht
    have hp : a / 4096 = 0 := Nat.div_eq_of_lt ha
    have hlt : a < (x :: l).length * (2 ^ 28 * fld (s.reg (0x78004 + 0x20 * p)) 16 9) := by
      have : 1 * (2 ^ 28 * 1) ≤ (x :: l).length * (2 ^ 28 * fld (s.reg (0x78004 + 0x20 * p)) 16 9) :=
        Nat.mul_le_mul (by simp) (Nat.mul_le_mul_left _ hs)
      omega
    simp only [hlt, if_true, hp, hb, Nat.zero_mod, Nat.zero_div, Nat.mul_zero, Nat.zero_mul, Nat.zero_add, List.getD_cons_zero]
    rw [Nat.mod_eq_of_lt ha]

/-- A record at address 0 under no region, its lines clean. -/
theorem recordAt_of {s : State} {p t : Nat} (ht : s.fuse.tiles.head? = some t)
    (h : p < 64 ∧ 0 < s.vrNum p ∧ s.vrBase p = 0 ∧ fld (s.reg (0x78004 + 0x20 * p)) 0 9 = 0 ∧ 0 < fld (s.reg (0x78004 + 0x20 * p)) 16 9 ∧
      (∀ l, l < 2 → errIn s.memErr 64 (memIdx t 0 + 32 * l) 32 = []) ∧ ∀ r, r < 16 → (s.region t r).valid = false) : s.RecordAt p 0 t 0 := by
  obtain ⟨hp, hn, hb, h0, h1, hl, hr⟩ := h
  refine ⟨hp, hn, ?_, hl, fun a n w _ hle => ?_⟩
  · simp only [State.recPlace, hb, Nat.zero_add, Nat.mul_zero]
    exact xlate_first ht h0 h1 (by omega)
  · rw [hb] at hle
    unfold State.regionsRefuse State.chunks
    have hdiv : n / 4096 = 0 := Nat.div_eq_of_lt (by omega)
    simp only [hdiv, Nat.zero_add]
    rcases Nat.eq_zero_or_pos n with rfl | hpos
    · simp [State.chunksAux]
    · have hx := xlate_first (s := s) (p := p) (a := a) ht h0 h1 (by omega)
      have hm : min n (4096 - a % 4096) = n := by omega
      have hg : s.regionRefuses p .ordinary w ⟨t, a, n⟩ = false := by
        unfold State.regionRefuses
        rw [List.any_eq_false]
        intro r hr'
        simp only [hr r (List.mem_range.mp hr'), Bool.false_and, Bool.false_eq_true, not_false_eq_true]
      simp [State.chunksAux, hx, hm, Nat.pos_iff_ne_zero.mp hpos, hg]

/-- `recorded` of the machine after reset. -/
def recorded0 (tmo : Word) (ctrl : Nat) (rd ls : Nat × Nat) : State := recorded State.reset tmo (vrec ctrl rd ls)

/-- The same at time 2^8 of the counter, past a hold limit of 1. -/
def late (ctrl : Nat) (rd ls : Nat × Nat) : State := { recorded0 1 ctrl rd ls with sclk := 2 ^ 40 }

theorem witness_VersionRecordsCountHoldersAndExpire :
    (let s := recorded0 0 0x03 (0, 0) (0, 0)
     s.RecordAt 0 0 1 0 ∧ (∀ k, k < 2 → s.slotDue 0 (s.record 1 0) k = false) ∧ (s.record 1 0).valid = true ∧ (s.record 1 0).two = true ∧
       pick (s.record 1 0).rd (s.record 1 0).cur ≠ 0xFFFF ∧ pick (s.record 1 0).ls (s.record 1 0).cur ≠ 0xFFFF ∧
       (s.record 1 0).slotOf (6 : Word).toNat = none ∧ (s.record 1 0).idle = true ∧ [1#8] ≠ [] ∧ 0x3F + [1#8].length ≤ 0x40 ∧
       s.chunks 0 (s.vrBase 0 + 128 * 0 + 0x3F) 1 = some [⟨1, 0 + 0x3F, 1⟩]) ∧
    (let s := recorded0 0 0x41 (0, 0) (0, 0)
     s.RecordAt 0 0 1 0 ∧ (∀ k, k < 2 → s.slotDue 0 (s.record 1 0) k = false) ∧ (s.record 1 0).two = false ∧ (s.record 1 0).pub = true) ∧
    (let s := recorded0 0 0x0B (1, 0xFFFF) (0xFFFF, 1)
     s.RecordAt 0 0 1 0 ∧ (∀ k, k < 2 → s.slotDue 0 (s.record 1 0) k = false) ∧ (s.record 1 0).slotOf (5 : Word).toNat = some 0 ∧
       (s.record 1 0).slotOf (4 : Word).toNat = some 1 ∧ 0 < pick (s.record 1 0).rd 0 ∧ 0 < pick (s.record 1 0).ls 0 ∧
       0 < pick (s.record 1 0).rd 1 ∧ 0 < pick (s.record 1 0).ls 1 ∧ (s.record 1 0).idle = false) ∧
    (let s := (recorded0 0 0x3B (1, 1) (0, 0)).setReg (stKey 0 4) 0x100
     s.RecordAt 0 0 1 0 ∧ (∀ k, k < 2 → s.slotDue 0 (s.record 1 0) k = false) ∧ bit (s.reg (stKey 0 4)) 8 = true ∧ (s.record 1 0).exp 1 = true) ∧
    (let s := late 0x03 (1, 0) (0, 0)
     s.RecordAt 0 0 1 0 ∧ s.slotDue 0 (s.record 1 0) 0 = true ∧ s.slotDue 0 (s.record 1 0) 1 = false) ∧
    (let s := late 0x03 (0, 0) (0, 1)
     s.RecordAt 0 0 1 0 ∧ s.slotDue 0 (s.record 1 0) 1 = true ∧ s.slotDue 0 (s.record 1 0) 0 = false) := by
  refine ⟨⟨recordAt_of (by rfl) (by decide +kernel), by decide +kernel⟩, ⟨recordAt_of (by rfl) (by decide +kernel), by decide +kernel⟩, ⟨recordAt_of (by rfl) (by decide +kernel), by decide +kernel⟩,
    ⟨recordAt_of (by rfl) (by decide +kernel), by decide +kernel⟩, ⟨recordAt_of (by rfl) (by decide +kernel), by decide +kernel⟩, ⟨recordAt_of (by rfl) (by decide +kernel), by decide +kernel⟩⟩

/-- A run table entry of one block at offset 4096 of tile 1, of group 0: no record, or record 0, its last run. -/
def run0 (norec : Bool) : List Byte :=
  fields ([(0, 6, 0x801000001000), (6, 1, 2), (8, 3, 1)] ++ if norec then [(16, 4, 2 ^ 31)] else [(20, 4, 2 ^ 31)])
/-- Pages 1 and 2 of tile 1 are master state of partition 0, which owns group 0 and whose run table of one entry lies at address 0. -/
def mastered (n : Nat) : State :=
  { (((((State.reset.setReg (mtKey 1 + 0x400) 1).setReg (mtKey 1 + 0x404) 2).setReg (mtKey 1 + 0x408) 0x80000002#32).setReg (uePart 0 0) 0x100#32).setReg
      (ueKey 1 0x1008) (BitVec.ofNat 32 n)) with mem := Map.setN byte0 [] (memIdx 1 0) (run0 true) }

def tile0 : UeTile := { tile := 1, run := 0, blk := 0, wait := false, ended := false, lost := false, sums := [] }
/-- Partition 0 in APPLYING of step 1: tile 1 is at its run's block. -/
def applying (facs : List Factor) : State :=
  (((mastered 1).setRunTab 1 0 [parseRun (run0 true)]).setReg (stKey 0 4) 3).setApply 0
    (some { apply0 false with facs := facs, tiles := [tile0] })
def factor0 : Factor := { group := 0, lr := 0, c1 := 0, k := 0, p := 0x3F800000, gscale := 0, clip := 0, rlo := 0, rhi := 0, row := List.replicate 10 0 ++ [0x3F800000] }

/-- The copy of record 0 by REEMIT on tile 1, with `out` writes unanswered. -/
def copy0 (phase out slot : Nat) (failed : Bool) : Copy :=
  { tile := 1, vrec := 0, slot := slot, ver := 6, phase := phase, failed := failed, locs := [], cfsel := 0, floor := 0, tgt := 0, rows := 1, lblk := 0,
    out := out, run := 0, reemit := true }
def reemitting (c : Copy) (s : State) : State := { s with reemits := [(0, some c)] }
/-- Its write to memory at address 8192. -/
def write0 : CopyWrite := { tile := 1, part := 0, vrec := 0, loc := 2 ^ 62 + 8192, reemit := true, run := 0, blk := 0, pieces := [(63, [7])] }
/-- Record 0 has its master in the run of tile 1. -/
def emitting : State := (recorded0 0 0x03 (0, 0) (0, 0)).setRunTab 1 0 [parseRun (run0 false)]

theorem witness_UpdateEnginesArmApplyPublishAndSwap :
    State.reset.fuse.hasTile 1 = true ∧ ((mastered 0).setReg (stKey 0 4) 1).stepOpen 0 = true ∧
    (∀ n, n ≤ 1 → (mastered n).stepOpen 0 = false ∧ (mastered n).regFld (ueKey 1 (0x1008 + 0x10 * 0)) 0 13 = n ∧
      n ≤ (mastered n).runFree 1 + ((mastered n).runTab 1 0).length) ∧
    (let q := (mastered 1).ueRead 1 0 ((mastered 1).reg64 (ueKey 1 (0x1000 + 0x10 * 0)) % 2 ^ 48 + 32 * 0) 32
     q.2 = .ok (run0 true) ∧ q.1.runBad 0 (run0 true) = false ∧ q.1.runPlaced 0 1 (parseRun (run0 true)) = true) ∧ runChainBad [parseRun (run0 true)] = none ∧
    (let s := applying []
     s.sa 0 = 3 ∧ (let u := tile0
       let r := parseRun (run0 true)
       let a := { apply0 false with facs := [], tiles := [tile0] }
       s.apply 0 = some a ∧ a.tiles.find? (fun u => u.tile == 1) = some u ∧ u.tile = 1 ∧ u.ended = false ∧
       (s.runTab 1 0)[u.run]? = some r ∧ s.xlate 0 (r.state + u.blk * layoutSize r.layout) = some (1, 4096) ∧
       errIn s.memErr 64 (memIdx 1 4096) (layoutSize r.layout) = [] ∧ a.facs.find? (fun x => x.group == r.group) = none) ∧
       s.reemits.get none0 0 = none ∧ bit (s.reg (cmKey 0 0)) 0 = false) ∧
    (let s := applying [factor0]
     let u := tile0
     let r := parseRun (run0 true)
     let a := { apply0 false with facs := [factor0], tiles := [tile0] }
     s.apply 0 = some a ∧ a.tiles.find? (fun u => u.tile == 1) = some u ∧ (s.runTab 1 0)[u.run]? = some r ∧
       a.facs.find? (fun x => x.group == r.group) = some factor0 ∧ r.norec = true ∧ r.layout < 4 ∧ r.rch < 256 ∧ bit (s.reg (rdKey r.rch 0)) 0 = false ∧
       ((List.range 32).map fun i => factor0.step (elemOf r.layout (s.mem.getN byte0 (memIdx 1 4096) (layoutSize r.layout)) i) 0).all
         (fun e => e.finite r.layout) = true) ∧
    (∀ slot, slot < 2 → (copy0 2 0 slot false).tile = 1 ∧ (copy0 2 0 slot false).phase = 2 ∧ (copy0 2 0 slot false).out = 0 ∧ (copy0 2 0 slot false).slot < 2) ∧
    (let s := reemitting (copy0 2 0 1 false) (recorded0 0 0x03 (0, 0) (0, 0))
     s.reemits.get none0 0 = some (copy0 2 0 1 false) ∧ s.RecordAt 0 0 1 0 ∧ ∀ k, k < 2 → s.slotDue 0 (s.record 1 0) k = false) ∧
    (let s := reemitting (copy0 1 1 0 false) { State.reset with copyq := [write0] }
     s.popCopy 0 1 = some (write0, { s with copyq := s.copyq.erase write0 }) ∧ write0.loc / 2 ^ 62 % 4 = 1 ∧ write0.pieces = [(63, [7])] ∧
       s.Plain 0 (write0.loc % 2 ^ 48 + 63) 1 3 63 ∧ (copy0 1 1 0 false).reemit = true ∧ (copy0 1 1 0 false).failed = false) ∧
    (emitting.sa 0 ≠ 3 ∧ emitting.reemits.get none0 0 = none ∧ emitting.fuse.tiles.find? (fun t => (emitting.runTab t 0).any fun r => !r.norec && r.vrec == 0) = some 1 ∧
      emitting.RecordAt 0 0 1 0 ∧ (emitting.record 1 0).valid = true ∧ (∀ k, k < 2 → emitting.slotDue 0 (emitting.record 1 0) k = false) ∧
      ∀ t ∈ emitting.fuse.tiles, ∀ r ∈ emitting.runTab t 0, r.norec = true ∨ r.vrec ≠ 1) ∧
    (let s := (State.reset.setReg (stKey 0 4) 3).setApply 0 (some { apply0 true with restored := true })
     ({ apply0 true with restored := true } : Apply).lost = true ∧ s.sa 0 = 3) ∧ State.reset.apply 0 = none ∧
    (State.reset.grpBase 0 + State.reset.grpNum 0 ≤ 256 ∧ bit (0x10000#32) 31 = false ∧ (∀ t ∈ State.reset.fuse.tiles, State.reset.regFld (ueKey t (0x100C + 0x10 * 0)) 0 1 = 0) ∧
      ∀ q, q < 64 → q ≠ 0 → rangesOverlap (fld 0x10000#32 0 8) (fld 0x10000#32 8 9) (State.reset.grpBase q) (State.reset.grpNum q) = false) := by
  refine ⟨by decide +kernel, by decide +kernel, by decide +kernel, by decide +kernel, by decide +kernel, by decide +kernel, by decide +kernel, by decide +kernel, ⟨by decide +kernel, recordAt_of (by rfl) (by decide +kernel), by decide +kernel⟩,
    ⟨by decide +kernel, by decide +kernel, by decide +kernel, plain_of (by decide +kernel), by decide +kernel⟩,
    ⟨by decide +kernel, by decide +kernel, by decide +kernel, recordAt_of (by rfl) (by decide +kernel), by decide +kernel⟩, by decide +kernel, by decide +kernel, by decide +kernel⟩

/-- Partition 0 with step 1 open; channel 255 is its channel, at tile 1, of one block and one contributor, with `cfg` the bits EN, MODE, OWNER. -/
def reducing (cfg : Nat) : State :=
  ((((((State.reset.setReg (stKey 0 4) 1).setReg (stKey 0 0x10) 1).setStCtl 0 ⟨some (step0 1), none, [], []⟩).setReg (rdKey 255 0) (BitVec.ofNat 32 (cfg + 8))).setReg
    (rdKey 255 8) 1).setReg (rdKey 255 0xC) 1).setReg (rdKey 255 0x40) 1
/-- The same with no step open. -/
def reducible (cfg : Nat) : State := (reducing cfg).setReg (stKey 0 4) 0

/-- A context of the channel: one exponent, one tile of one block. -/
def ctxBytes : List Byte := fields [(0, 1, 255), (8, 3, 1), (14, 2, 1), (16, 3, 1)]
/-- Core 0 holds it as context 15 of 16. -/
def contexts : State := (reducing 1).modCore 0 fun k => { (k.put 0x2C0 0x100000#32) with spad := Map.setN byte0 [] 480 ctxBytes }
def rdctx0 : RdCtx := (parseCtx ctxBytes).getD ⟨0, 0, 0, 0, 0, 0, 0, 0, 0, 0, 0, false, false, false⟩

def rec0 : RedRec := { kind := 0, j := 0, s := 0, tag := 1, nf := false, rg := false, ck := false, mx := 0, count := 1, sum := 32, vals := List.replicate 32 1 }
def pkt0 (ch step : Nat) (stale : Bool) : RedPkt :=
  { part := 0, ch := ch, step := step, attempt := 0, src := 0, core := 0, nf := false, rg := false, ck := 32, stale := stale, recs := [rec0] }
/-- The packet is on its way to the channel, whose combine state of step 1 is open. -/
def reduced (k : RedPkt) : State := { (reducing 1).setRedStep 255 1 (some (RedStep.fresh 1 0)) with net := [.red k] }

/-- A bucket of step 1 is sealed in area 1, its exponents come. -/
def seal0 (area : Nat) (exps : List (Nat × List Byte)) : Seal := { ch := 255, area := area, k := 0, step := 1, att := 0, need := 1, exps := exps }
def sealing (area : Nat) (exps : List (Nat × List Byte)) : State :=
  { (reducing 3).setRedStep 255 1 (some (RedStep.fresh 1 0)) with seals := [seal0 area exps] }

/-- The combine area's block is mapped, under no region and without error. -/
theorem clean0 {s : State} (h : s.chunks 0 (s.rdAddr 255 0x10 + (1 * s.rdNblk 255 + 0) * 288) 288 = some [⟨1, 288, 288⟩] ∧ errIn s.memErr 64 (memIdx 1 288) 288 = [] ∧
      s.rdPart 255 = 0 ∧ s.regionRefuses 0 .ordinary true ⟨1, 288, 288⟩ = false) :
    ∃ l, s.chunks (s.rdPart 255) (s.rdAddr 255 0x10 + (1 * s.rdNblk 255 + 0) * 288) 288 = some l ∧
      ∀ x ∈ l, s.regionRefuses (s.rdPart 255) .ordinary true x = false ∧ errIn s.memErr 64 (memIdx x.tile x.off) x.len = [] := by
  refine ⟨_, by rw [h.2.2.1]; exact h.1, fun x hx => ?_⟩
  rw [List.mem_singleton] at hx
  subst hx
  exact ⟨by rw [h.2.2.1]; exact h.2.2.2, h.2.1⟩

theorem witness_ReductionChannelsCombineRecordsAndBuckets :
    isCore 0 = true ∧ (State.reset.core 0).cf 0x2C0 16 5 ≤ (0#4).toNat ∧
    (let s := contexts
     let k := s.core 0
     let x := rdctx0
     (15#4).toNat < k.cf 0x2C0 16 5 ∧ k.ctxs.get none0 15 = none ∧ errIn k.spadErr 8 (32 * k.cf 0x2C0 0 13 + 32 * 15) 32 = [] ∧ inSpad (32 * k.cf 0x2C0 0 13 + 32 * 15) 32 = true ∧
       parseCtx (k.spad.getN byte0 (32 * k.cf 0x2C0 0 13 + 32 * 15) 32) = some x ∧ bit (s.reg (rdKey x.ch 0)) 0 = true ∧ bit (s.reg (rdKey x.ch 0)) 1 = false ∧
       s.stepOpen (s.corePart 0) = true ∧ (∀ e ∈ k.ctxs, ∀ y, e.2 = some y → y.ch ≠ x.ch)) ∧
    (let s := contexts.modCore 0 fun k => { k with ctxs := [(15, some rdctx0)] }
     (s.core 0).ctxs.get none0 15 = some rdctx0) ∧
    (∀ k ∈ [pkt0 254 1 false, pkt0 255 3 false, pkt0 255 1 true],
      (reduced k).net.find? (fun x => match x with
        | .red q => q.ch == k.ch && q.src == k.src && q.core == k.core && q.part == k.part
        | _ => false) = some (.red k) ∧ k.recs ≠ [] ∧
        ((reduced k).rdEn k.ch = false ∨ (reduced k).inWindow k.part k.step k.attempt = false ∨ k.stale = true)) ∧
    (let k := pkt0 255 1 false
     let s := reduced k
     let r := rec0
     let x := RedStep.fresh 1 0
     k.ch < 256 ∧ s.rdEn k.ch = true ∧ s.rdPart k.ch = k.part ∧ s.inWindow k.part k.step k.attempt = true ∧ k.stale = false ∧ s.cancelled k.part k.step = false ∧
       s.redWaits k.part k.step = false ∧ k.recs = [r] ∧ k.nf = false ∧ k.rg = false ∧ k.ck = r.sum % 2 ^ 64 ∧ r.kind < 3 ∧ r.j < s.rdNblk k.ch ∧ r.tag = (k.step + r.j) % 256 ∧
       r.nf = false ∧ r.rg = false ∧ r.ck = false ∧ s.redStep k.ch (k.step % 2) = some x ∧ x.step = k.step ∧ x.att = k.attempt ∧
       x.ends < s.rdNlocal k.ch + s.rdNchild k.ch ∧ s.combAt k.ch (k.step % 2) r.j = none) ∧
    (∃ l, (reduced (pkt0 255 1 false)).chunks ((reduced (pkt0 255 1 false)).rdPart 255) ((reduced (pkt0 255 1 false)).rdAddr 255 0x10 + (1 * (reduced (pkt0 255 1 false)).rdNblk 255 + 0) * 288) 288 = some l ∧
      ∀ x ∈ l, (reduced (pkt0 255 1 false)).regionRefuses ((reduced (pkt0 255 1 false)).rdPart 255) .ordinary true x = false ∧ errIn (reduced (pkt0 255 1 false)).memErr 64 (memIdx x.tile x.off) x.len = []) ∧
    (let s := (reduced (pkt0 255 1 false)).setComb 255 1 0 (some { rec0 with kind := 1 })
     s.combAt 255 1 0 = some { rec0 with kind := 1 } ∧ (({ rec0 with kind := 1 } : RedRec).add rec0).2 = 0) ∧
    ((reducible 5).stepOpen 0 = false ∧ (reducible 5).rdOwner 255 = true ∧ (reducing 5).stepOpen 0 = true ∧ (reducing 1).rdOwner 255 = false) ∧
    (let s := (reducing 3).setRedStep 255 1 (some (RedStep.fresh 1 0))
     bit (s.reg (rdKey 255 0x54)) 1 = false ∧ (0#24).toNat * s.bucketBB 255 < s.rdNblk 255 ∧ s.rdNblk 255 ≤ (1#24).toNat * s.bucketBB 255 ∧ s.stepOpen (s.rdPart 255) = true ∧
       s.rdEn 255 = true ∧ bit (s.reg (rdKey 255 0)) 1 = true ∧ s.redStep 255 ((s.stepNo 0).toNat % 2) = some (RedStep.fresh 1 0) ∧
       (RedStep.fresh 1 0).step = (s.stepNo 0).toNat ∧ (RedStep.fresh 1 0).att = s.curAttempt 0 ∧ (RedStep.fresh 1 0).closed = false ∧ (0#24).toNat ∉ (RedStep.fresh 1 0).sealed) ∧
    (State.reset.sealAt 255 true (0#24).toNat = none) ∧
    (let s := sealing 0 []
     s.sealAt 255 false (0#24).toNat = some (seal0 0 []) ∧ (seal0 0 []).exps.length < (seal0 0 []).need ∧
       (RedStep.fresh 1 0).closing = false ∧ s.regFld (rdKey 255 0x40) 8 4 = 0 ∧ seal0 0 [] ∈ s.seals ∧ (seal0 0 []).ch = 255 ∧ (seal0 0 []).step = (s.stepNo 0).toNat) ∧
    (let s := reducible 0
     let w : Word := 0x40B#32
     s.rdEn 255 = false ∧ bit w 0 = true ∧ ((s.setReg (rdKey 255 0) (w &&& 0x3F3F3E#32)).rdEnableBad 255 = true) ∧
       (((s.setReg (rdKey 255 4) 1).setReg (rdKey 255 0) (w &&& 0x3F3F3E#32)).rdEnableBad 255 = false)) ∧
    ((reducing 1).rdEn 255 = true ∧ (reducible 1).rdEn 255 = true ∧ bit (0#32) 0 = false ∧ (reducible 1).stepOpen ((reducible 1).rdPart 255) = false) ∧
    (let s := sealing 1 [(0, [5, 1])]
     let x := seal0 1 [(0, [5, 1])]
     let xs := (List.range 32).map fun i => BitVec.ofNat 32 (leAt (s.mem.getN byte0 (memIdx 1 0) 128) (4 * i) 4)
     let q := s.bucketRec 255 x.step 0 (byteAt [5#8, 1#8] 0, byteAt [5#8, 1#8] 1) xs none
     s.sealAt 255 true (0#24).toNat = some x ∧ x.area < 2 ∧ x.need ≤ 1 ∧ s.bucketBlocks 255 x.k = [0] ∧ s.rdOwner 255 = false ∧
       s.regFld (rdKey 255 0x40) 8 4 = 0 ∧ bit (s.reg (rdKey 255 0x40)) 7 = false ∧ s.cancelled 0 x.step = false ∧ q.1.nf = false ∧ q.1.rg = false ∧ q.2 = (0, 0) ∧
       0 < s.rdNblk 255 ∧ byteAt [5#8, 1#8] 1 = (x.step + 0) % 256 ∧ s.combAt 255 1 0 = none ∧ s.redStep 255 1 = some (RedStep.fresh 1 0)) ∧
    (sealing 1 [(0, [5, 1])]).Plain 0 ((sealing 1 [(0, [5, 1])]).rdAddr 255 (0x28 + 8 * 1) + 128 * 0) 128 1 0 := by
  refine ⟨by decide +kernel, by decide +kernel, by decide +kernel, by decide +kernel, by decide +kernel, by decide +kernel, clean0 (by decide +kernel), by decide +kernel, by decide +kernel, by decide +kernel,
    by decide +kernel, by decide +kernel, by decide +kernel, by decide +kernel, by decide +kernel,
    plain_of (by decide +kernel)⟩

/-- Port 15 with address `da` and no retry or autonegotiation, its link up or down, with MAC_CTL `ctl` and its state `x`. -/
def portedAt (da : Word) (up : Bool) (ctl : Word) (x : Port) : State :=
  (((({ State.reset with regs := [(macKey 15 8, da), (macKey 15 12, 0)] }.setReg (macKey 15 0x2C) 0).setReg (fbKey 15 0) 0).setReg (macKey 15 0) ctl).setReg (macKey 15 4) (if up then 1 else 0)).setPort 15 x
abbrev ported := portedAt 6
/-- A frame of a destination address and an EtherType, with its FCS. -/
def frame0 (da et n : Nat) : List Byte :=
  let d := beBytes 6 da ++ beBytes 6 0 ++ beBytes 2 et ++ List.replicate (n - 18) 0
  d ++ leBytes 4 (crc32 d)
def wyn0 (cls dst tag pri hops : Nat) : Wyn :=
  { cls := cls, nf := false, rg := false, rsp := false, lv := false, av := false, sub := 0, ch := 0, seq := 0, dst := dst, src := 0x90001, tag := tag, hops := hops,
    pri := pri, lseq := 0, lack := 0, ck := 0, payload := [1] }
/-- A frame of transit traffic waits in queue 7. -/
def queued7 : Port := Port.reset.setQueue 7 [⟨64, false, 0, none, wyn0 0 0x80000 0 7 1⟩]

theorem witness_EthernetPortsReceiveTransmitPauseAndLink :
    15 < 64 ∧ 63 ∉ State.reset.portList ∧ 15 ∈ (ported true 7 Port.reset).portList ∧ (ported true 7 Port.reset).linkUp 15 = true ∧
    (let data := frame0 5 0x88B5 64
     let s := ported true 7 Port.reset
     data.length = 64 ∧ leNat (data.drop 60) = crc32 (data.take 60) ∧ data.length ≤ s.regFld (macKey 15 0x10) 0 14 ∧ bit (s.reg (macKey 15 0)) 2 = true ∧
       beAt (data.take 60) 12 2 ≠ 0x8808 ∧ s.accepts 15 (data.take 60) = false ∧ (portedAt 5 true 7 Port.reset).accepts 15 (data.take 60) = true ∧
       (s.port 15).occ 8 + 64 ≤ s.bufSize 15 ∧ bit (s.reg (macKey 15 0x20)) 2 = false) ∧
    (let s := (ported true 5 { Port.reset with due := [(8, 0)] }).setReg (macKey 15 0x20) 0
     s.pauseTx 15 = false ∧ (s.port 15).due ≠ [] ∧ bit (s.reg (macKey 15 0)) 1 = false ∧ (s.port 15).now = none) ∧
    (let s := (ported true 5 { Port.reset with due := [(8, 0)] }).setReg (macKey 15 0x20) 0x10005#32
     s.pauseTx 15 = true ∧ (s.port 15).due = (8, 0) :: []) ∧
    (let s := ported true 7 { queued7 with pause := 1 }
     (s.port 15).due = [] ∧ (s.port 15).pause ≠ 0) ∧
    (let s := ported true 7 queued7
     (s.port 15).due = [] ∧ bit (s.reg (macKey 15 0)) 1 = true ∧ (s.port 15).pause = 0 ∧ s.replayNext 15 = none ∧ s.lrt 15 = false ∧
       (List.range 8).reverse.filter (s.eligible 15) = [7] ∧ (s.queuePick 15 7).isSome = true ∧ s.cbsOn 15 7 = false) ∧
    (let s := ported false 7 { Port.reset with now := some ⟨[], 8⟩ }
     s.linkUp 15 = false ∧ (s.port 15).now = some ⟨[], 8⟩ ∧ (⟨[], 8⟩ : TxNow).queue ≤ 8 ∧ (s.port 15).ctlq = []) ∧
    (∀ m, m < 3 → ((ported true 7 Port.reset).setReg (macKey 15 0x20) (BitVec.ofNat 32 m)).pauseMode 15 = m) ∧
    (let s := (ported true 7 { Port.reset with xoff := [8], rx := [⟨0, List.replicate 60 0⟩] }).setReg (macKey 15 0x20) 0x10005#32
     let pc := s.reg (macKey 15 0x20)
     bit pc 2 = true ∧ fld pc 8 8 < fld pc 16 8 ∧ s.pauseMode 15 = 1 ∧ (s.port 15).xoff = [8] ∧ fld pc 8 8 * 4096 < (s.port 15).occ 8) ∧
    (let s := (ported true 7 { queued7 with credit := [(7, -1)] }).setReg (macKey 15 0xF0) 0x80000001#32
     s.credits 15 (7 : BitVec 3).toNat = true ∧ (s.port 15).credit.get int0 (7 : BitVec 3).toNat < 0) ∧
    (let s := ported false 1 Port.reset
     s.linkUp 15 = false ∧ bit (s.reg (macKey 15 0)) 0 = true ∧ s.pwrHeld.testBit 1 = false ∧ s.lrt 15 = false ∧ s.negotiates 15 = false ∧
       (s.port 15).hold = false ∧ (s.port 15).waiting = []) ∧
    (let s := ported true 0x101 Port.reset
     s.linkUp 15 = true ∧ (s.port 15).now = none ∧ s.regFld (macKey 15 0) 8 8 ≠ 0) ∧
    (let s := ported false 1 { queued7 with hold := true }
     s.linkUp 15 = false ∧ (s.port 15).hold = true ∧ (∀ l ∈ (s.port 15).links, l.2.sent = []) ∧ (s.port 15).waiting ≠ []) ∧
    (let s := (ported false 1 Port.reset).setReg (macKey 15 0x2C) 1
     bit (s.reg (macKey 15 0)) 0 = true ∧ s.negotiates 15 = true ∧ s.linkUp 15 = false ∧ bit (s.reg (macKey 15 4)) 1 = false) ∧
    1 < State.reset.fuse.xdies.length ∧ (∃ i, i < 8 ∧ bit ((ported true 1 Port.reset).reg (macKey (8 * 1 + i) 0)) 0 = true) ∧
    (∀ i, i < 8 → bit (State.reset.reg (macKey (8 * 1 + i) 0)) 0 = false) ∧
    (let s := State.reset.putCode (macKey 15 0xF0) 0x80000000#32
     s.cbsOn 15 (7 : BitVec 3).toNat = true ∧ s.regFld (macKey 15 0xF0) 0 20 = 0) := by
  refine ⟨?_, ?_, ?_, ?_, ?_, ?_, ?_, ?_, ?_, ?_, ?_, ?_, ?_, ?_, ?_, ?_, ?_, ?_, ⟨7, ?_⟩, ?_, ?_⟩ <;> decide +kernel

/-- Device 9 with port 15 up, holding `x`: port 15 alone leads to device 8, and partition 63 is domain 77. -/
def fabric (x : Port) : State :=
  (((((ported true 7 x).setReg 0x104004 9).setReg (fbKey 15 4) 8).setReg (fbKey 15 8) 8).setReg (fbKey 15 12) 1).setReg (0x104100 + 4 * 63) 77
/-- A received frame with the bytes of a WYN frame, or with bytes that are none. -/
def rx0 (et : Nat) (b : List Byte) : RxFrame := ⟨0, beBytes 6 6 ++ beBytes 6 0 ++ beBytes 2 et ++ b⟩
def rxWyn (w : Wyn) : Port := { Port.reset with rx := [rx0 0x88B5 (w.header ++ w.payload)] }
def fbmsg0 : Msg := { part := 63, src := 1, dst := 0x80001, cls := 0, ch := 0, seq := 0, ticket := 0, origin := 0, orig := noCore, payload := [] }
/-- Port 15 with link-layer retry and one frame unacknowledged. -/
def retrying (l : RetryLink) : State := (fabric { Port.reset with links := [(0, l)] }).setReg (fbKey 15 0) 1
def link0 : RetryLink := { RetryLink.reset with sent := [⟨64, false, 0, some 0, wyn0 0 0x80000 0 7 1⟩] }

theorem witness_FabricFramesAreForwardedRetriedAndCounted :
    15 < 32 ∧ State.reset.fuse.xdies.length ≤ 4 ∧ (State.reset.port 15).rx = [] ∧
    (fabric Port.reset).carried 15 (rx0 0x9999 []).bytes = .other ∧
    ((fabric Port.reset).carried 15 (rx0 0x88B5 []).bytes = .wyn (some 0) [] ∧ parseWyn [] = none) ∧
    (∀ w ∈ [wyn0 0 0x80001 0 7 0, wyn0 0 0x80001 0 7 1, wyn0 3 0x70001 0 7 1, wyn0 1 0x90001 5 7 1, wyn0 0 0x90001 77 7 1, wyn0 1 1 0 7 1],
      let s := fabric (rxWyn w)
      (s.port 15).rx = [rx0 0x88B5 (w.header ++ w.payload)] ∧ s.carried 15 (rx0 0x88B5 (w.header ++ w.payload)).bytes = .wyn (some 0) (w.header ++ w.payload) ∧
        parseWyn (w.header ++ w.payload) = some w ∧ s.lrt 15 = false ∧ w.linkControl = false) ∧
    (let s := fabric Port.reset
     s.devId = 9 ∧ s.fwdPorts 8 = [15] ∧ s.fwdPorts 7 = [] ∧ s.orbPorts = [] ∧ s.domPart 5 = none ∧ s.domPart 77 = some 63 ∧ s.udp 15 = false ∧
       s.queueFor 15 64 7 = some 7 ∧ s.frameLen 15 (wyn0 0 0x80001 0 7 1) ≤ s.regFld (macKey 15 0x10) 0 14 ∧ s.lrt 15 = false ∧
       s.guaranteed 15 7 + s.frameLen 15 (wyn0 0 0x80001 0 7 1) ≤ (if s.xmode 15 then 0x8000 else 0x4000)) ∧
    (State.reset.leaves (.msg { fbmsg0 with dst := 1 }) = false) ∧
    (let w := wyn0 0 0x80001 77 7 1
     let s := { (fabric Port.reset).setReg (macKey 15 (0x100 + 8 * 0 + 4)) 0x80000000#32 with net := [.wyn w] }
     let v := { w with hops := s.regFld 0x104000 0 8, pri := s.priOf w }
     s.net.find? (fun y => y.path == (NetItem.wyn w).path) = some (.wyn w) ∧ w.dst / 65536 = 8 ∧ (s.domPart w.tag).getD 64 = 63 ∧
       (s.queueFor 15 63 v.pri).isSome = true ∧ s.frameLen 15 v ≤ s.regFld (macKey 15 0x10) 0 14) ∧
    (let s := { State.reset with net := [.msg fbmsg0] }
     s.net.find? (fun y => y.path == (NetItem.msg fbmsg0).path) = some (.msg fbmsg0) ∧ s.isOwn (addrDev fbmsg0.dst) = false ∧ fbmsg0.cls ≤ 1 ∧ s.devId = 0) ∧
    (let s := retrying { link0 with owed := true }
     s.lrt 15 = true ∧ ((s.port 15).link 0).owed = true ∧ (s.port 15).ctlq = [] ∧ ((s.port 15).link 0).sent ≠ [] ∧ s.linkUp 15 = true ∧
       s.held 15 (s.regFld (macKey 15 0x1C) 21 3) = false ∧ ((s.port 15).link 0).replays < max 1 (s.regFld (fbKey 15 0x10) 24 4)) ∧
    (let s := retrying { link0 with replays := 16 }
     ((s.port 15).link 0).owed = false ∧ max 1 (s.regFld (fbKey 15 0x10) 24 4) ≤ ((s.port 15).link 0).replays) ∧
    (let s := fabric Port.reset
     (∃ q, q < 64 ∧ q ≠ (0 : BitVec 6).toNat ∧ s.domOf q = fld (77 : Word) 0 16 ∧ fld (77 : Word) 0 16 ≠ 0) ∧
       ∀ q, q < 64 → q ≠ (63 : BitVec 6).toNat → s.domOf q ≠ fld (77 : Word) 0 16) := by
  refine ⟨?_, ?_, ?_, ?_, ?_, ?_, ?_, ?_, ?_, ?_, ?_, ?_, ⟨63, ?_⟩, ?_⟩ <;> decide +kernel

/-- Feed channel 63 of partition 0: KIND 0 (2 bytes), records of 2 elements, one group; `on` is EN, `x` its state. -/
def feeding (on : Word) (x : FdCh) : State :=
  ((((State.reset.setReg (fdKey 63 0) on).setReg (fdKey 63 8) 2).setReg (fdKey 63 0x24) 0x10001#32).setReg (fdKey 63 0x2C) 0).setFeed 63 x
def slots0 : FdEntry := { dest := 0, base := 0, nslot := 256, slotln := 2, sem := 63, semen := true, first := 0, count := 2 }
/-- A feed packet of record n, element `at`, with `len` bytes; it is the last or not. -/
def packet0 (n at' len last : Nat) : List Byte := beBytes 4 n ++ beBytes 4 at' ++ beBytes 2 len ++ [0, BitVec.ofNat 8 last, 0, 0, 0, 0] ++ List.replicate len 1
def channel (part : Option FdRecord) (waiting : List FdRecord) (used : Nat) : FdCh :=
  { table := [slots0], started := true, part := part, waiting := waiting, used := if used = 0 then [] else [(0, used)], gaps := [] }
def record0 : FdRecord := ⟨0, 0, [1, 1, 1, 1]⟩
/-- A placement table of one entry at address 0. -/
def tabled : State :=
  { feeding 0 FdCh.reset with mem := Map.setN byte0 [] (memIdx 1 0) (fields [(4, 2, 0), (6, 2, 256), (8, 2, 2), (16, 4, 2)]) }

theorem witness_FeedChannelsAssemblePlaceAndReleaseRecords :
    (feeding 0 FdCh.reset).fdOn (63 : BitVec 6).toNat = false ∧
    (let s := feeding 1 (channel none [] 0)
     s.fdOn 63 = true ∧ (packet0 0 0 1 0).length = 17 ∧ beAt (packet0 0 0 1 0) 8 2 % elemSize (s.fdKind 63) ≠ 0 ∧
       (∀ b ∈ [packet0 0 0 2 0, packet0 0 0 4 1, packet0 0xFFFFFFFF 0 2 0],
         ¬ (b.length < 16 + beAt b 8 2 ∨ beAt b 8 2 % elemSize (s.fdKind 63) ≠ 0 ∨ byteAt b 10 ≠ s.fdKind 63 ∨ 2 ≤ byteAt b 11 ∨ beAt b 12 4 ≠ 0)) ∧
       (s.feed 63).started = true ∧ 2 ^ 31 ≤ (beAt (packet0 0xFFFFFFFF 0 2 0) 0 4 + 2 ^ 32 - s.nextRec 63) % 2 ^ 32 ∧
       beAt (packet0 0 0 4 1) 0 4 = s.nextRec 63 ∧ byteAt (packet0 0 0 2 0) 11 = 0 ∧ byteAt (packet0 0 0 4 1) 11 = 1 ∧
       4 / elemSize (s.fdKind 63) = s.fdReclen 63 ∧ (s.feed 63).waiting = [] ∧ s.canPlace 63 0 = true) ∧
    (let s := feeding 1 (channel (some ⟨0, 0, [1, 1]⟩) [] 0)
     beAt (packet0 0 1 2 1) 4 4 = [1#8, 1#8].length / elemSize (s.fdKind 63) ∧ ((s.feed 63).part.map (·.data.length)) = some 2) ∧
    (let s := feeding 1 (channel none [record0] 256)
     (s.feed 63).waiting = record0 :: [] ∧ s.canPlace 63 record0.num = false) ∧
    (let s := feeding 1 (channel none [record0] 0)
     s.fdOn 63 = true ∧ (s.feed 63).waiting = record0 :: [] ∧ s.canPlace 63 record0.num = true ∧ s.fdGroup 63 record0.num = [(0, slots0)] ∧
       s.toCore (s.fdPart 63) slots0.dest = some 0 ∧ isCore 0 = true ∧ s.servedBy 0 = 0 ∧ (s.fdFmt 63 0).isSome = true ∧ s.fdKind 63 ≠ 4 ∧
       (s.core 0).spadErr = [] ∧ slots0.semen = true ∧ slots0.sem < 64) ∧
    (feeding 1 (channel none [record0] 0)).Awake 0 ∧
    (let s := feeding 1 (channel none [record0] 5)
     let a := s.reg64 (fdKey 63 0x28) % 2 ^ 48 / 4096 * 4096 + 4 * (0 : BitVec 10).toNat
     s.recsIn 0 a 4 = [] ∧ s.pageAt 0 a 4 = some (63, some (4 * (0 : BitVec 10).toNat)) ∧ s.regionsRefuse 0 a 4 .ordinary true = none ∧
       (0 : BitVec 10).toNat < (s.feed 63).table.length ∧ (s.feed 63).used.get nat0 (0 : BitVec 10).toNat = 5) ∧
    (let s := feeding 1 (channel none [] 0)
     fld (setBit 0 0 true) 1 5 = fld (s.reg (fdKey 63 0)) 1 5 ∧ fld (setBit (0x100 : Word) 0 true) 8 6 ≠ fld (s.reg (fdKey 63 0)) 8 6) ∧
    ((tabled.putCode (fdKey 63 0) (setBit (setBit 0 0 true) 0 false)).fdTable 63).2 = some [{ slots0 with semen := false, sem := 0 }] ∧
    (let s := (feeding 0 FdCh.reset).putCode (fdKey 63 0) (setBit (setBit 0x38 0 true) 0 false)
     6 ≤ s.fdKind 63) := by
  refine ⟨?_, ?_, ?_, ?_, ?_, ⟨?_, ?_⟩, ?_, ?_, ?_, ?_⟩
  case refine_7 => unfold State.DiesUp; decide +kernel
  all_goals decide +kernel

def inw0 (cls : Nat) (b : List Byte) : Wyn := { wyn0 cls 0x90001 77 0 1 with payload := b }
/-- Tile 1 with a region of partition 1 in its first page, and an error of kind `e` in line 0. -/
def tiled (e : Nat) : State :=
  { ((State.reset.setReg (mtKey 1 + 0x404) 1).setReg (mtKey 1 + 0x408) 0x80000100#32).setReg (mtKey 1 + 8) 1 with memErr := [(2 ^ 30, e)] }
/-- Core 0's DMA unit runs a transfer whose request of operation `op` waits for its answer, number 5 of partition 0. -/
def ask0 (op : Nat) : Rq :=
  { part := 0, src := 0, eng := 4, ticket := 0, pos := 64, dst := 0x70000, space := 1, op := op, addr := 0, len := 4, data := [], land := 32 }
def asking (op : Nat) : State := { jobs0 4 [{ Job.fresh { desc0 with ticket := 0 } 0 0 with stage := 1, out := [ask0 op] }] id with rqOut := [(5, ask0 op)] }

theorem witness_MemoryTilesServeLinesRequestsAndScrub :
    State.reset.fuse.hasTile (0 : BitVec 3).toNat = false ∧ (60 / 64 ≠ (60 + 8 - 1) / 64) ∧
    (let s := State.reset
     s.fuse.hasTile (1 : BitVec 3).toNat = true ∧ 63 + 1 ≤ 2 ^ 36 ∧ 63 / 64 = (63 + 1 - 1) / 64 ∧ s.lineAddr 0 1 63 1 = some 63 ∧ s.recsIn 0 63 1 = [] ∧ s.pageAt 0 63 1 = none ∧
       s.cportAt 0 63 1 = none ∧ s.chunks 0 63 1 = some [⟨1, 63, 1⟩] ∧ s.regionRefuses 0 .ordinary true ⟨1, 63, 1⟩ = false ∧ errIn s.memErr 64 (memIdx 1 63) 1 = []) ∧
    ((tiled 0).regionRefuses 0 .ordinary true ⟨1, 63, 1⟩ = true ∧ (tiled 0).lineAddr 0 1 63 1 = some 63 ∧ (tiled 0).recsIn 0 63 1 = [] ∧
      (tiled 0).pageAt 0 63 1 = none ∧ (tiled 0).cportAt 0 63 1 = none ∧ (tiled 0).chunks 0 63 1 = some [⟨1, 63, 1⟩]) ∧
    (memHeader (inw0 5 []).payload = none ∧ memHeader (leBytes 8 64 ++ leBytes 8 4) = some (64, 4)) ∧
    State.reset.Plain (0 : BitVec 6).toNat 64 4 1 64 ∧
    (∀ q ∈ State.reset.rqOut, q.1 ≠ (inw0 5 []).seq ∨ q.2.part ≠ (0 : BitVec 6).toNat) ∧
    (∀ op, op < 2 → let s := asking op
      let w := { inw0 5 [] with seq := 5 }
      let j := { Job.fresh { desc0 with ticket := 0 } 0 0 with stage := 1, out := [ask0 op] }
      s.rqOut.find? (fun q => q.1 == w.seq && q.2.part == (0 : BitVec 6).toNat) = some (5, ask0 op) ∧ s.toCore 0 (ask0 op).src = some 0 ∧ (ask0 op).eng ≠ 5 ∧
        ((s.core 0).eng (ask0 op).eng).jobs = [j] ∧ j.request (ask0 op).pos = some (ask0 op) ∧ j.desc.ticket = (ask0 op).ticket ∧ j.fault = 0 ∧ s.isFenced 0 = false ∧
        (ask0 op).eng = 4 ∧ j.todo = [] ∧ (j.out.filter fun x => x.pos ≠ (ask0 op).pos) = [] ∧ (ask0 op).op = op ∧ (s.core 0).spadErr = []) ∧
    (asking 0).Awake 0 ∧
    (let s := tiled 0
     s.fuse.hasTile 1 = true ∧ bit (s.reg (mtKey 1 + 8)) 0 = true ∧ s.regFld (mtKey 1 + 4) 1 2 = 0 ∧ s.memErr.get nat0 (1 * 2 ^ 30 + s.scrub.get nat0 1) = 0) ∧
    (2 ≤ (tiled 2).memErr.get nat0 (1 * 2 ^ 30 + (tiled 2).scrub.get nat0 1)) ∧
    (let s := { State.reset.setReg (mtKey 1) 1 with pwrHeld := 1 }
     s.regFld (mtKey 1 + 4) 1 2 = 0 ∧ (∀ b : Bool, (if b then s.pwrHeld.testBit 0 else bit (s.reg (mtKey 1)) 0) = true) ∧ s.tileBusy 1 = false ∧ s.tileHolds 1 = false) ∧
    (State.reset.setReg (mtKey 1 + 4) 4).regFld (mtKey 1 + 4) 1 2 ≠ 0 ∧
    (let s := State.reset
     let s' := s.putCode (mtKey 1 + 0x400 + 0x10 * (15 : BitVec 4).toNat + 4 * (2 : BitVec 2).toNat) 0x80000001#32
     s.regionHeld 1 (s.region 1 15) = false ∧ s'.regionHeld 1 (s'.region 1 15) = false ∧ s.regionBad 1 15 (s.region 1 15) = false ∧ s.regionBad 1 15 (s'.region 1 15) = true) := by
  refine ⟨?_, ?_, ?_, ?_, ?_, plain_of ?_, ?_, ?_, ⟨?_, ?_⟩, ?_, ?_, ?_, ?_, ?_⟩
  case refine_10 => unfold State.DiesUp; decide +kernel
  all_goals decide +kernel

theorem witness_AnEmptyQueueCountsOneCycle : State.reset.pending = [] := rfl

theorem canonical_reset : State.reset.Canonical := ⟨by decide, by decide, by decide⟩

/-- A step from a state in canonical form and within the bounds answers a next state in which the minimum SVN stands. -/
theorem witness_EveryStepKeepsTheCanonicalForms :
    State.reset.Canonical ∧ ∃ t, step { State.reset with pending := [.svnRaise 3] } = .next t := ⟨canonical_reset, _, rfl⟩

theorem witness_NoStepLowersTheMinimumSvn :
    State.reset.ServiceBounds ∧ ∃ t, step { State.reset with pending := [.svnRaise 3] } = .next t := ⟨⟨by decide, by decide, by decide⟩, _, rfl⟩

theorem witness_SystemInstructionsCompleteWithTheirFields :
    (ready id).Ready 0 ∧ ((ready id).core 0).tm = false ∧ (0xFF00#16).toNat % 256 = 0 ∧ readyTm.Ready 0 ∧ (readyTm.core 0).tm = true :=
  ⟨ready_id, by decide, by decide, readyTm_ready, by decide⟩

theorem witness_InstructionWordsStandForTheirInstruction :
    (ready id).Ready 0 ∧ ((ready id).core 0).tm = false ∧ (0xFC00003F#32).toNat / 2 ^ 26 = 0x3F ∧ (0x7FFFFFFF#32).toNat / 2 ^ 26 = 0x1F ∧
      ((0xE8000003#32).toNat / 2 ^ 26 = 0x3A ∧ (0xE8000003#32).toNat % 16 = 3) ∧ ((0xEC000004#32).toNat / 2 ^ 26 = 0x3B ∧ 4 ≤ (0xEC000004#32).toNat % 256) ∧
      (coreWord 0 0xD0C50010#32).isSome = true :=
  ⟨ready_id, by decide, by decide, by decide, by decide, by decide, by decide⟩

/-- Hosting entry 15 of device 9's partition 0, site 3, on tile 1: pages 0 and 1 are its generations; A and B stand as `states` and `steps` say. -/
def hosting (states a b : Nat) : State :=
  (((((State.reset.setReg (hostKey 15 0) 0x80130009#32).setReg (hostKey 15 4) 1).setReg (hostKey 15 12) 1).setReg (hostKey 15 0x10) (BitVec.ofNat 32 states)).setReg
    (hostKey 15 0x14) (BitVec.ofNat 32 a)).setReg (hostKey 15 0x18) (BitVec.ofNat 32 b)
def cm0 (site step line n : Nat) (data : List Byte) : Wyn := { wyn0 5 0x10000 0 0 1 with payload := words4 site step line n ++ data }
/-- A request of partition 0 that its buddy has not answered. -/
def cmReq (kind step line : Nat) : CmReq := { part := 0, tile := 1, seq := 5, kind := kind, step := step, line := line, len := 64 }
/-- Its answer, on the channel of `line`. -/
def cmAnswer (line : Nat) : Wyn := { cm0 4 1 0 0 (List.replicate 64 7) with seq := 5, ch := line / 128 % 4096 }
/-- Partition 0 mirrors to device 9; its window of tile 1 is page 2, in a master-state region. -/
def mirroring (l : List CmReq) : State :=
  { (((((mastered 0).setReg (cmKey 0 0) 0x00094001#32).setReg (cmKey 0 0x50) 2).setReg (cmKey 0 0x54) 1).setReg (cmKey 0 0x58) 0x80000000#32) with cmReqs := l }
def restore0 : Restore := { step := 1, opt := none, wins := [1], line := 127, marking := false }
/-- The apply of step 1, all of whose blocks are written. -/
def written : Apply := { apply0 false with tiles := [{ tile0 with ended := true }] }

theorem witness_CometMirrorsMarksAndRestores :
    State.reset.hostsOf 0 9 = [] ∧
    (let s := hosting 0 0 0
     s.hostsOf 0 9 = [15] ∧ s.hostFind 0 9 3 = some 15 ∧ s.genPlace 15 0 0 = (1, 0) ∧ s.genPlace 15 1 63 = (1, 4096 + 64 * 63) ∧ 63 + 64 / 64 ≤ 64 * s.regFld (hostKey 15 4) 0 25 ∧
       errIn s.memErr 64 (memIdx 1 0) 64 = [] ∧ s.genState 15 0 = 0 ∧ s.genState 15 1 = 0) ∧
    (let w := cm0 3 1 63 0 (List.replicate 64 7)
     w.src / 65536 = 9 ∧ leAt w.payload 0 4 = 3 ∧ leAt w.payload 4 4 = 1 ∧ leAt w.payload 8 4 = 63 ∧ leAt w.payload 12 4 = 0 ∧ (w.payload.drop 16).length = 64) ∧
    (let s := hosting 5 0 1
     s.genState 15 1 = 1 ∧ s.genStep 15 1 = 1 ∧ s.genStep 15 0 ≠ 1 ∧ s.hostFind 0 9 3 = some 15) ∧
    (let s := hosting 2 1 0
     2 ≤ s.genState 15 0 ∧ s.genStep 15 0 = 1 ∧ s.hostFind 0 9 3 = some 15 ∧ leAt (cm0 3 1 0 64 []).payload 12 4 = 64 ∧ leAt (cm0 3 1 0 4096 []).payload 12 4 = 4096) ∧
    (∀ r ∈ (mirroring []).cmReqs, r.part ≠ 0 ∨ r.seq ≠ (cmAnswer 0).seq) ∧
    (let s := mirroring [cmReq 0 1 128]
     s.cmReqs = cmReq 0 1 128 :: [] ∧ (cmReq 0 1 128).line / 128 % 4096 = (cmAnswer 128).ch ∧ s.apply 0 = none) ∧
    (let s := (mirroring [cmReq 0 1 0]).setApply 0 (some written)
     s.apply 0 = some written ∧ bit (s.reg (cmKey 0 0)) 0 = true ∧ written.reported = true ∧ written.mirFailed = false ∧ written.markSent = false ∧
       written.step = (cmReq 0 1 0).step) ∧
    (let s := (mirroring [cmReq 0 1 0, cmReq 0 1 1]).setApply 0 (some written)
     ∃ q, q ∈ [cmReq 0 1 1] ∧ q.part = 0 ∧ q.kind = 0 ∧ q.step = written.step ∧ s.apply 0 = some written) ∧
    ((cmReq 1 1 0).kind = 1 ∧ (cmAnswer 0).ch = 0) ∧
    (let s := { mirroring [cmReq 2 1 0] with restores := [(0, some restore0)] }
     s.restores.get none0 0 = some restore0 ∧ s.cmWin 0 (cmReq 2 1 0).tile = some (2, 1) ∧ restore0.opt = none ∧
       s.regionRefuses 0 (.updateEngine 1) true ⟨1, 2 * 4096 + 64 * 0, 64⟩ = false ∧ errIn s.memErr 64 (memIdx 1 (2 * 4096 + 64 * 0)) 64 = []) ∧
    (∀ r ∈ State.reset.cmReqs, r.part ≠ 0 ∨ r.tile ≠ (1 : BitVec 3).toNat ∨ r.seq ≠ (5 : BitVec 16).toNat) ∧
    bit (State.reset.reg (cmKey 0 0)) 0 = false ∧
    (let s := mirroring []
     s.stepOpen 0 = false ∧ bit (s.reg (cmKey 0 0)) 0 = true ∧ s.restores.get none0 0 = none ∧ ((List.range 8).filter fun k => (s.cmWin 0 k).isSome) = 1 :: [] ∧
       s.cmWin 0 1 = some (2, 1) ∧ (∀ r ∈ s.cmReqs, r.part ≠ 0 ∨ r.kind < 2)) ∧
    (let s := ((mirroring []).setReg (stKey 0 4) 3).setApply 0 (some (apply0 true))
     s.sa 0 = 3 ∧ s.apply 0 = some (apply0 true) ∧ (apply0 true).lost = true) := by
  refine ⟨?_, ?_, ?_, ?_, ?_, ?_, ?_, ?_, ⟨cmReq 0 1 1, ?_⟩, ?_, ?_, ?_, ?_, ?_, ?_⟩ <;> decide +kernel

/-- The next state of an outcome. -/
def nextOf : Host.Outcome State Fault Refusal → State
  | .next t => t
  | _ => State.reset

/-- Partition 0 has master-state pages 1 and 2 of tile 1 and mirrors to `dev`, with STALE 0. -/
def cometed (ctl : Word) (open' : Bool) : State :=
  ((mastered 0).setReg (cmKey 0 0) ctl).setReg (stKey 0 4) (if open' then 1 else 0)
/-- A buddy region of partition 0 on tile 1, pages 0 to 1, and entry 15 ready for its VALID bit. -/
def hostable (pages : Nat) : State :=
  (((((State.reset.setReg (mtKey 1 + 0x404) 2).setReg (mtKey 1 + 0x408) 0x80000003#32).setReg (hostKey 15 4) (BitVec.ofNat 32 pages)).setReg (hostKey 15 12) 1).setReg
    (hostKey 15 0) 0x130009#32)
/-- Device 9 sends heartbeats to device 7, entry 3, and watches device 5 in entry 7, in state `st`. -/
def beating (st : Nat) : State :=
  ((((State.reset.setReg 0x104004 9).setReg 0xA8000 1).setReg (0xA8010 + 4 * 3) 0x80000007#32).setReg 0xA8004 1).setReg (hbKey 7) (BitVec.ofNat 32 (2 ^ 31 + st * 2 ^ 16 + 5))
def beat (dev st : Nat) : Wyn := { wyn0 7 0x90000 0 0 1 with sub := 3, payload := words4 (dev + st * 2 ^ 16) 1 2 0 }
/-- Core 0 is fenced, with or without an alias of its cluster that names it. -/
def fencedCore (named : Bool) : State := (nextOf (exec (.clFence 0 0) (State.reset.setReg (clKey 0 + 4) (if named then 0x100 else 0))))

theorem witness_CometRegistersFencesAndHeartbeats :
    (let s := cometed 0x00090001#32 true
     s.stepOpen (0 : BitVec 6).toNat = true ∧ bit (0x00090301#32) 0 = bit (s.reg (cmKey 0 0)) 0 ∧ fld (0x00090301#32) 16 16 = fld (s.reg (cmKey 0 0)) 16 16 ∧
       bit (0x00090300#32) 0 ≠ bit (s.reg (cmKey 0 0)) 0 ∧ (2 : BitVec 2).toNat < 3) ∧
    (let s := cometed 0x00080001#32 false
     s.stepOpen 0 = false ∧ fld (0x00090001#32) 16 16 = 9 ∧ 9 ≠ s.devId ∧ 9 ≠ fld (s.reg (cmKey 0 0)) 16 16 ∧ s.devId = 0) ∧
    (let s' := (cometed 0 false).putCode (cmKey 0 (0x40 + 0x10 * (1 : BitVec 3).toNat + 4 * (2 : BitVec 2).toNat)) 0
     s'.cmWin 0 1 = none) ∧
    (let s' := (((cometed 0 false).setReg (cmKey 0 0x50) 2).setReg (cmKey 0 0x54) 1).putCode (cmKey 0 (0x40 + 0x10 * (1 : BitVec 3).toNat + 4 * (2 : BitVec 2).toNat)) 0x80000000#32
     let s := cometed 0 false
     s'.cmWin 0 1 = some (2, 1) ∧ s.fuse.hasTile 1 = true ∧ (s.region 1 0).valid = true ∧ (s.region 1 0).kind = 2 ∧ (s.region 1 0).part = 0 ∧ (s.region 1 0).base ≤ 2 ∧
       2 + 1 ≤ (s.region 1 0).base + (s.region 1 0).pages) ∧
    ((hosting 0 0 0).hostValid (15 : BitVec 4).toNat = true ∧ (hostable 1).hostValid 15 = false ∧
      ((hostable 1).putCode (hostKey 15 0 + 4 * (0 : BitVec 2).toNat) 0x80130009#32).hostBad 15 = false ∧
      ((hostable 2).putCode (hostKey 15 0 + 4 * (0 : BitVec 2).toNat) 0x80130009#32).hostBad 15 = true) ∧
    ((fencedCore false).isFenced (clusterCore 0 (0 : BitVec 4).toNat) = true ∧ (fencedCore true).isFenced (clusterCore 0 (0 : BitVec 4).toNat) = true ∧
      (∀ j, j < 16 → bit ((fencedCore false).reg (clKey 0 + 4 * j)) 8 = false) ∧
      (bit ((fencedCore true).reg (clKey 0 + 4 * 1)) 8 = true ∧ fld ((fencedCore true).reg (clKey 0 + 4 * 1)) 0 4 = (0 : BitVec 4).toNat) ∧
      State.reset.isFenced (clusterCore 639 (15 : BitVec 4).toNat) = false) ∧
    (State.reset.setReg 0xA8000 0).regFld 0xA8000 0 16 = 0 ∧
    (let s := beating 0
     s.regFld 0xA8000 0 16 ≠ 0 ∧ s.devId ≠ 0 ∧ bit (s.reg (0xA8010 + 4 * 3)) 31 = true ∧ (∀ j, j < 4 → j ≠ 3 → bit (s.reg (0xA8010 + 4 * j)) 31 = false) ∧
       s.regFld 0xA8004 0 24 ≠ 0 ∧ bit (s.reg (hbKey 7)) 31 = true ∧ s.regFld (hbKey 7) 16 2 = 0 ∧
       leAt (beat 5 2).payload 0 4 % 2 ^ 16 = s.regFld (hbKey 7) 0 16 ∧ leAt (beat 5 2).payload 0 4 / 2 ^ 16 % 4 = 2 ∧
       (∀ j, j < 8 → j ≠ (7 : BitVec 3).toNat → bit (s.reg (hbKey j)) 31 = false) ∧
       ∀ j, j < 8 → ¬ (bit (s.reg (hbKey j)) 31 = true ∧ s.regFld (hbKey j) 0 16 = leAt (beat 6 2).payload 0 4 % 2 ^ 16)) ∧
    (2 ≤ (beating 2).regFld (hbKey 7) 16 2) := by
  refine ⟨?_, ?_, ?_, ?_, ?_, ⟨?_, ?_, ?_, ?_, ?_⟩, ?_, ?_, ?_⟩ <;> decide +kernel

/-- Function 1 with `f` and queue 0 of partition 1, which is queue 511: SQ and CQ of two entries, in state `st`, holding `h`; boot stage 8.
Partition 1 has the first 256 MiB of every tile and the first clusters. -/
def fnOn : HostFn := { fn0 1 with busMaster := true, enabled := true }
def hosted (f : HostFn) (st : Nat) (h : HostQ) : State :=
  let s := (((((State.reset.setReg 0x2000 8).setReg 0x78028 0x101FF#32).setReg 0x78024 0x10000#32).setReg 0x78020 0x01010000#32).setReg (qKey 511 + 8) 1).setReg (qKey 511 + 0x14) 1
  ((s.setReg (qKey 511 + 0x1C) (BitVec.ofNat 32 (2 ^ 13 * st + 2 ^ 12))).setFn 1 f).setHq 511 h
/-- The command with identifier 7, opcode `opc`, 8 bytes of host address 64 to or from address 0. -/
def cmd0 (opc : Nat) (done : Option (Nat × Nat × Nat)) : HostCmd :=
  { age := 0, head := 1, bytes := sliceB (fields [(0, 1, opc), (2, 2, 7), (4, 3, 8), (8, 8, 64)]) 0 64, done := done, issued := 1, fl := 0, step := 0 }
def commanded (opc : Nat) (done : Option (Nat × Nat × Nat)) : State := hosted fnOn 1 { tail := 0, cqHead := 0, cmds := [cmd0 opc done] }

theorem witness_HostQueuesFetchMoveAndComplete :
    (State.reset.decodes 1 = false ∧ (hosted fnOn 1 HostQ.reset).queueOf (1 : BitVec 6).toNat 0 = some 511 ∧ (hosted fnOn 1 HostQ.reset).decodes 1 = true ∧
      (hosted fnOn 0 HostQ.reset).qState 511 = 0 ∧ (hosted fnOn 2 HostQ.reset).qState 511 = 2) ∧
    (let s := hosted fnOn 1 { HostQ.reset with cqHead := 1 }
     s.qState 511 = 1 ∧ (1#32).toNat < s.sqSize 511 ∧ s.sqSize 511 ≤ (2#32).toNat ∧ s.cqSize 511 ≤ (2#32).toNat ∧
       ((0#32).toNat + s.cqSize 511 - (s.hq 511).cqHead) % s.cqSize 511 ≤ (s.cqTail 511 + s.cqSize 511 - (s.hq 511).cqHead) % s.cqSize 511 ∧ (0#32).toNat = s.cqTail 511 ∧
       (1#32).toNat ≠ s.cqTail 511) ∧
    (let s := hosted fnOn 0 HostQ.reset
     bit (s.reg (qKey 511 + 8)) 31 = false ∧ s.regFld (qKey 511) 0 12 = 0 ∧ s.regFld (qKey 511 + 12) 0 12 = 0 ∧ 1 ≤ fld (12#32) 0 4 ∧ fld (12#32) 0 4 ≤ 12 ∧
       1 ≤ s.regFld (qKey 511 + 0x14) 0 4 ∧ s.regFld (qKey 511 + 0x14) 0 4 ≤ 12 ∧ s.regFld (qKey 511 + 0x14) 4 11 < 64 ∧ 12 < fld (13#32) 0 4) ∧
    (let s := hosted fnOn 1 { HostQ.reset with tail := 1 }
     s.qState 511 = 1 ∧ s.sqHead 511 ≠ (s.hq 511).tail ∧ s.hostOk 1 = true ∧ bit (s.reg 0x2004) 0 = false ∧ s.sqSize 511 ≤ 4096 ∧
       cmdBad (sliceB (fields [(0, 1, 6)]) 0 64) = some 0 ∧ cmdBad (sliceB [] 0 64) = none) ∧
    (∀ opc, opc < 6 → let s := commanded opc none
      let c := cmd0 opc none
      (s.hq 511).cmds = [c] ∧ c.done = none ∧ c.cid = (7#16).toNat ∧ c.moved < c.issued ∧ c.conv = false ∧ c.carry = [] ∧ c.opc = opc ∧ s.hostOk 1 = true ∧
        (0 < opc → (c.seg 0).1 = 0 ∧ (c.seg 0).2 = 8) ∧ (c.daddr + c.dst) / 64 = (c.daddr + c.dst + 8 - 1) / 64 ∧ addrDev (leAt c.bytes 16 4) = 0 ∧
        s.toCore 1 (leAt c.bytes 16 4) = some 0 ∧ isCore 0 = true ∧ s.servedBy 0 = 0 ∧ bit (s.reg 0x2004) 0 = false ∧ (s.core 0).spadErr = [] ∧
        leAt c.bytes 20 4 % 2 ^ 18 + c.dstLen ≤ 0x30000 ∧ leAt c.bytes 20 4 % 2 ^ 18 + c.len ≤ 0x30000) ∧
    (commanded 1 none).Plain 1 0 8 1 0 ∧ (commanded 1 none).Awake 0 ∧ (hosted (fn0 1) 1 HostQ.reset).hostOk 1 = false ∧
    (∀ st, st < 2 → let s := commanded 0 (some (st, 0, 0))
      (s.hq 511).cmds = cmd0 0 (some (st, 0, 0)) :: [] ∧ (cmd0 0 (some (st, 0, 0))).done = some (st, 0, 0) ∧ (byteAt (cmd0 0 (some (st, 0, 0))).bytes 1).testBit 1 = false ∧
        s.hostOk 1 = true ∧ (s.cqTail 511 + 1) % s.cqSize 511 ≠ (s.hq 511).cqHead ∧ bit (s.reg (qKey 511 + 0x14)) 15 = false ∧ s.qState 511 ≠ 3 ∧ s.cqSize 511 ≤ 4096) ∧
    (let c := { cmd0 0 (some (0, 0, 0)) with bytes := sliceB [0, 2, 7] 0 64 }
     (byteAt c.bytes 1).testBit 1 = true ∧ c.done = some (0, 0, 0)) ∧
    (let s := hosted fnOn 1 HostQ.reset
     (s.hq 511).cmds = [] ∧ bit (s.reg (qKey 511 + 0x14)) 15 = false ∧ (s.fn 1).msixEn = false ∧ (s.fn 1).d3hot = false) ∧
    (∀ mask, let s := ((hosted { fnOn with msixEn := true, fnMask := mask, table := [(3, 0)] } 1 HostQ.reset).setReg (qKey 511 + 0x14) 0x8001#32).setReg (qKey 511 + 0x24) 1
      bit (s.reg (qKey 511 + 0x14)) 15 = true ∧ s.regFld (qKey 511 + 0x24) 0 13 ≠ 0 ∧ s.regFld (qKey 511 + 0x14) 4 11 = 0 ∧ (s.fn 1).d3hot = false ∧ (s.fn 1).msixEn = true ∧
        (s.fn 1).busMaster = true ∧ (s.fn 1).fnMask = mask ∧ (s.fn 1).vecMask 0 = false) := by
  refine ⟨?_, ?_, ?_, ?_, ?_, plain_of ?_, ⟨?_, ?_⟩, ?_, ?_, ?_, ?_, ?_⟩
  case refine_8 => unfold State.DiesUp; decide +kernel
  all_goals decide +kernel

theorem witness_HostFunctionsResetMaskAndMapMemory :
    (let s := hosted fnOn 1 HostQ.reset
     (∀ v, v < State.vectors 1 → s.vecDue 1 v = false ∧ (s.fn 1).pbaBit v = false) ∧ (∀ v, v < State.vectors 1 → s.vecDue 1 v = false)) ∧
    (let s := hosted { fnOn with msixEn := true, table := [(3, 0)], pba := [(63, true)] } 1 HostQ.reset
     (s.fn 1).pbaBit (63 : BitVec 11).toNat = true ∧ (s.fn 1).msixEn = true ∧ (s.fn 1).busMaster = true ∧ (s.fn 1).fnMask = false ∧ (s.fn 1).d3hot = false) ∧
    (let s := hosted { fnOn with msixEn := true, fnMask := true, table := [(3, 0)], pba := [(0, true)] } 1 HostQ.reset
     (s.fn 1).pbaBit 0 = true ∧ 0 < State.vectors 1 ∧ (∀ j, j < State.vectors 1 → j ≠ 0 → s.vecDue 1 j = false ∧ (s.fn 1).pbaBit j = false) ∧ (s.fn 1).vecMask 0 = false) ∧
    (let s := (hosted fnOn 1 HostQ.reset).setReg (qKey 511 + 0x14) 0x8001#32 |>.setReg (qKey 511 + 0x24) 1
     s.qpBase 1 ≤ 511 ∧ 511 < s.qpBase 1 + s.qpNum 1 ∧ bit (s.reg (qKey 511 + 0x14)) 15 = true ∧ s.regFld (qKey 511 + 0x24) 0 13 ≠ 0) ∧
    (let s := hosted fnOn 1 HostQ.reset
     s.rdChans 1 = [] ∧ s.apply 1 = none ∧ 0 ∈ s.partCores 1 ∧ s.isFenced 0 = false ∧ (∀ c, c < 256 → s.rdEn c = true → s.rdOwner c = false)) ∧
    (let s := hosted fnOn 1 HostQ.reset
     let a := 2 ^ 28 * (s.reg64 (fnKey 1 0x70010) % 2 ^ 48 / 2 ^ 28) + 4092
     s.decodes 1 = true ∧ 4092 + 4 ≤ s.bar2Size 1 ∧ a / 4096 = (a + 4 - 1) / 4096) ∧
    (hosted fnOn 1 HostQ.reset).Plain 1 4092 4 1 4092 ∧ (hosted fnOn 1 HostQ.reset).DiesUp ∧
    (let s := (hosted fnOn 1 HostQ.reset).setReg 0x78024 0
     let a := 2 ^ 28 * (s.reg64 (fnKey 1 0x70010) % 2 ^ 48 / 2 ^ 28) + 0
     s.chunks 1 a 4 = none ∧ s.recsIn 1 a 4 = [] ∧ s.pageAt 1 a 4 = none ∧ s.cportAt 1 a 4 = none ∧ s.decodes 1 = true ∧ a / 4096 = (a + 4 - 1) / 4096) ∧
    (let s := State.reset.setReg 0x78008 0
     s.idle 63 = true ∧ s.partBad 63 (2 : BitVec 2).toNat 0x101FF#32 = false ∧ s.partBad 63 (2 : BitVec 2).toNat 0x201FF#32 = true ∧
       ((stepping 1 1 0 (some (step0 1)) none).idle 63 = false)) := by
  refine ⟨?_, ?_, ?_, ?_, ?_, ?_, plain_of ?_, ?_, ?_, ?_⟩
  case refine_8 => unfold State.DiesUp; decide +kernel
  all_goals decide +kernel

/-- The serving unit of partition 0 is on, with two request ids and five free pages; model 7 is on, with batches of up to `bmax` and a fill time.
Request 1 is `q`. -/
def serving (bmax : Nat) (q : Req) : State :=
  let s := ((((((State.reset.setReg (svKey 0 0) 1).setReg (svKey 0 4) 2).setReg (svKey 0 12) 2).setReg (svKey 0 0x38) 5).setReg (svKey 0 0x2C) 16).setReg (svKey 0 0x30) 0x100000#32)
  (((s.setReg (smKey 0 7 0) (BitVec.ofNat 32 (1 + (bmax - 1) * 2 ^ 16))).setReg (smKey 0 7 4) 1).setReg (smKey 0 7 0x10) 0x8000#32).setReq 0 1 q
/-- Request 1 of model 7 in a state. -/
def request (state : Nat) : Req := { Req.reset with state := state, model := 7, len := 1, maxlen := 4, npages := 1, seq := 3 }
def words (op prio : Nat) (a b : Word) : SvWords := ⟨BitVec.ofNat 32 (op + 7 * 16 + prio * 256), if op = 10 then 0 else 1, a, b⟩
def batch0 (sent : Bool) : Batch := ⟨0, 7, 3, 1, [1], 1, sent⟩
/-- The state a command of the row finds its request in. -/
def found : Nat → Nat
  | 1 => 0 | 2 => 1 | 3 => 3 | 4 => 2 | 5 => 4 | 6 => 1 | 7 => 5 | 8 => 1 | _ => 2

theorem witness_ServingCommandsActOnTheirRequest :
    (∀ op, op < 11 → 1 ≤ op → (words op 0 0 0).op = op) ∧
    ((serving 2 (request 0)).svq = [] ∧ (serving 2 (request 0)).svTest 0 0 (words 2 0 0 0) = 1 ∧ (serving 2 (request 0)).svTest 0 9 (words 2 0 0 0) = 1 ∧
      bit ((serving 2 (request 0)).reg (svKey 0 0x60)) 31 = false) ∧
    (let s := { serving 2 (request 0) with svq := [⟨1, 9, false, []⟩] }
     s.svq ≠ [] ∧ (⟨0, 9, false, (words 2 0 0 0).nats⟩ : SvCmd) ∉ s.svq) ∧
    (∀ op, op < 9 → 1 ≤ op → let s := serving 2 (request (found op))
      let c := if op = 1 then words 1 5 1 4 else if op = 3 then words 3 0 9 3 else words op 0 0 0
      s.svTest 0 0 c = 0 ∧ s.regFld (smKey 0 c.model 0x18) 0 2 = 0 ∧ c.op = op ∧ c.model = 7 ∧ c.req = 1 ∧ (s.req 0 1).state = found op) ∧
    (∀ st ∈ [0, 1, 3, 4, 5], let s := serving 2 (request st)
      s.readyOf 0 7 = [] ∧ 2 ≤ s.smBmax 0 7 ∧ s.regFld (smKey 0 7 4) 0 16 ≠ 0 ∧ (∀ n, n < 8 → s.readyOf 0 n = [])) ∧
    (let s := { serving 2 (request 1) with batches := [batch0 false] }
     s.smDepth 0 7 ≤ s.inFlight 0 7) ∧
    (let s := serving 2 (request 2)
     s.svTest 0 0 (words 3 0 9 3) = 0 ∧ (s.req 0 1).state ≠ 3) ∧
    (let s := { serving 2 (request 3) with batches := [batch0 true] }
     s.svTest 0 0 (words 3 1 9 3) = 0 ∧ (s.req 0 1).seq = (3#32).toNat ∧ s.batchOf 0 7 3 = some (batch0 true) ∧ (batch0 true).await = 1 ∧
       (batch0 true).members.length = (batch0 true).count ∧ s.svTest 0 0 (words 10 0 0 0) = 0 ∧ s.batches = [batch0 true] ∧ (s.req 0 1).model = 7 ∧ (s.req 0 1).state = 3) ∧
    ((serving 2 (request 5)).svFree 0 + (request 5).npages < 2 ^ 25) ∧
    (let s := (serving 2 (request 2)).setReg (smKey 0 7 0) 0x10003#32
     s.svTest 0 0 (words 9 0 5 1) = 0 ∧ s.batchOf 0 7 5 = none) ∧
    (let s := serving 2 (request 0)
     s.svTest 0 0 (words 10 0 0 0) = 0 ∧ s.batches = [] ∧ s.readyOf 0 7 = [] ∧ s.mayForm 0 (7 : BitVec 3).toNat = false) ∧
    (let s := serving 1 (request 2)
     s.mayForm 0 7 = true ∧ s.readyOf 0 7 = [(1, request 2)] ∧ s.req 0 1 = request 2 ∧ s.pagesFor 0 7 ((request 2).len + 1) ≤ 2) ∧
    ((serving 1 { request 2 with npages := 2 }).Plain 0 ((serving 1 { request 2 with npages := 2 }).slotAddr 0 7 0) 64 3 4096 ∧
      (serving 1 { request 2 with npages := 2 }).pagesFor 0 7 2 ≤ 2 ∧ (serving 1 { request 2 with npages := 2 }).reg (smKey 0 7 0x24) = 0) ∧
    (let s := { serving 2 (request 3) with batches := [batch0 false] }
     s.batches = batch0 false :: [] ∧ (batch0 false).sent = false ∧ (batch0 false).members.length = (batch0 false).count ∧ s.regFld (smKey 0 7 0x18) 0 2 = 0) ∧
    (let s := (serving 2 (request 0)).setReg (smKey 0 7 0) 0
     let new := s.putCode (smKey 0 7 0) 0x10001#32
     s.smEn 0 7 = false ∧ bit (0x10001#32) 0 = true ∧ (new.clrReg (smKey 0 7 0) 1).smOk 0 7 = true ∧
       ((s.setReg (smKey 0 7 0x18) 1).putCode (smKey 0 7 0) 0x10001#32 |>.clrReg (smKey 0 7 0) 1).smOk 0 7 = false) ∧
    (let s := serving 2 (request 0)
     s.smEn 0 7 = true ∧ bit (0#32) 0 = false ∧ s.inFlight 0 7 = 0) ∧
    ((serving 2 (request 1)).allFree 0 2 = false ∧ (serving 2 (request 0)).allFree ((serving 2 (request 0)).svBase 0) ((serving 2 (request 0)).svNum 0) = true ∧
      (serving 2 (request 0)).poolOk 0 = true ∧ (serving 2 (request 0)).regFld (svKey 0 12) 0 17 = 2) ∧
    (let s := serving 2 (request 0)
     let s' := s.putCode (svKey 63 12) 1
     s'.regFld (svKey 63 12) 0 17 ≠ 0 ∧ s.regFld (svKey 0 12) 0 17 ≠ 0 ∧
       overlaps (s'.regFld (svKey 63 8) 0 16, s'.regFld (svKey 63 12) 0 17) (s.regFld (svKey 0 8) 0 16, s.regFld (svKey 0 12) 0 17) = true ∧
       (∀ y, y < 64 → y ≠ 0 → s.regFld (svKey y 12) 0 17 = 0)) ∧
    (let s := { serving 2 (request 2) with batches := [batch0 false], sclk := BitVec.ofNat 64 (25 * 2 ^ 31) }
     (1 : BitVec 17).toNat < s.svNum 0 ∧ s.age (request 2) = 2 ^ 31 ∧ s.smDepth 0 7 ≤ s.inFlight 0 7) := by
  refine ⟨?_, ?_, ?_, ?_, ?_, ?_, ?_, ?_, ?_, ?_, ?_, ?_, ⟨plain_of ?_, ?_⟩, ?_, ?_, ?_, ?_, ?_, ?_⟩ <;> decide +kernel

/-- A Dictionary request of transaction 5 in the PF's view. -/
def dap (op idx sub : Nat) (last : Bool) (d : List Byte) : DapReq :=
  ⟨.mctp 9 1, [0x10, BitVec.ofNat 8 op] ++ beBytes 2 5 ++ beBytes 2 idx ++ [BitVec.ofNat 8 sub, 0, 0, if last = true then 1 else 0] ++ beBytes 2 d.length ++ beBytes 4 0 ++ d⟩
/-- An object the PF sees. -/
def objOf (i sub : Nat) : Obj := (State.reset.viewObj 0 i sub).getD (ro 2 none)
def flashing (r : DapReq) : State :=
  { State.reset with dapWrite := some ⟨r, objKey (parseDap r.bytes).idx (parseDap r.bytes).sub, (parseDap r.bytes).data⟩ }
/-- A mailbox request of `n` bytes stands in the buffer of function 63. -/
def mailbox (busy : Nat) : State := (State.reset.setReg (fnKey 63 0x8004) (BitVec.ofNat 32 busy)).setReg (fnKey 63 0x8800) 0x10#32

theorem witness_DictionaryRequestsAreAnswered :
    (∀ op, op < 5 → 1 ≤ op → (parseDap (dap op 0x101 1 false []).bytes).op = op) ∧
    (State.reset.dapq = [] ∧ State.reset.dapWrite = none ∧ (dap 1 0x101 1 false []).src.net ≠ none ∧ State.reset.dapLevel (dap 1 0x101 1 false []).src ≠ 0 ∧
      State.reset.kept (dap 1 0x101 1 false []).src 5 = none) ∧
    (let s := { State.reset with objs := [(objKey 0x181 2, 0)] }
     s.dapLevel (dap 1 0x101 1 false []).src = 0) ∧
    (let r := dap 1 0x101 1 false []
     { State.reset with dapKept := [⟨1, 9, 5, [7]⟩] }.kept r.src (parseDap r.bytes).tid = some [7]) ∧
    (let r := dap 1 0x101 1 false []
     { State.reset with dapq := [r] }.dapq.head? = some r ∧ { State.reset with dapq := [r] }.dapq = r :: [] ∧ (flashing r).dapWrite ≠ none ∧
       { State.reset with dapq := [r] }.dapq ≠ [] ∧ dap 2 0x101 1 false [] ∉ [r] ∧ [r].length < 16) ∧
    (let r := dap 1 0x101 9 false []
     State.reset.dapStatus r.src (parseDap r.bytes) = 2 ∧ (parseDap r.bytes).op ≠ 2) ∧
    (let r := dap 1 0x101 1 false []
     State.reset.dapStatus r.src (parseDap r.bytes) = 0 ∧ State.reset.viewObj 0 0x101 1 = some (objOf 0x101 1) ∧ (objOf 0x101 1).typ ≠ 11 ∧ (objOf 0x101 1).typ ≠ 12) ∧
    (let r := dap 1 0x7200 1 false []
     State.reset.dapStatus r.src (parseDap r.bytes) = 0 ∧ State.reset.viewObj 0 0x7200 1 = some (objOf 0x7200 1) ∧ (objOf 0x7200 1).typ = 12) ∧
    (let r := dap 3 0x101 1 false []
     State.reset.dapStatus r.src (parseDap r.bytes) = 0) ∧
    (let r := dap 4 0x101 1 false []
     State.reset.dapStatus r.src (parseDap r.bytes) = 0 ∧ State.reset.nextObj 0 0x101 1 = some (0x101, 2)) ∧
    (let s := State.reset
     (let r := dap 2 0x106 1 true [1, 2]
      s.dapStatus r.src (parseDap r.bytes) = 0 ∧ s.viewObj 0 0x106 1 = some (objOf 0x106 1) ∧ (objOf 0x106 1).typ ≠ 12 ∧ (objOf 0x106 1).acc = 3) ∧
     (let r := dap 2 0x7200 1 false [1, 2, 3, 4]
      s.dapStatus r.src (parseDap r.bytes) = 0 ∧ (objOf 0x7200 1).typ = 12 ∧ (parseDap r.bytes).last = false ∧ (parseDap r.bytes).off = 0) ∧
     (let r := dap 2 0x1006 1 true (beBytes 4 0x20001)
      s.dapStatus r.src (parseDap r.bytes) = 0) ∧
     (let r := dap 2 0x183 1 true [0, 0, 0, 1]
      s.dapStatus r.src (parseDap r.bytes) = 0)) ∧
    (let r := dap 2 0x106 1 true [1, 2]
     beAt r.bytes 4 2 ≠ 0x183 ∧ (flashing r).dapWrite = some ⟨r, objKey 0x106 1, [1, 2]⟩ ∧ r.src.net ≠ none ∧ (flashing r).kept r.src 5 = none ∧
       objKey 0x106 1 ∉ [objKey 0x183 1, objKey 0x7200 1, objKey 0x1001 1, objKey 0x1003 1]) ∧
    ((flashing (dap 2 0x7200 1 true [])).dapWrite = some ⟨dap 2 0x7200 1 true [], objKey 0x7200 1, []⟩ ∧
      (flashing (dap 2 0x183 1 true [0, 0, 0, 1])).dapWrite = some ⟨dap 2 0x183 1 true [0, 0, 0, 1], objKey 0x183 1, [0, 0, 0, 1]⟩) ∧
    (bit ((mailbox 1).reg (fnKey 63 0x8004)) 0 = true ∧ bit ((mailbox 0).reg (fnKey 63 0x8004)) 0 = false ∧
      (let msg := ((List.range 260).flatMap fun i => leBytes 4 ((mailbox 0).reg (fnKey 63 (0x8800 + 4 * i))).toNat).take 16
       16 = 16 + leAt msg 2 2 ∧ fld (16#32) 0 11 = 16 ∧ fld (0#32) 0 11 < 16)) := by
  refine ⟨?_, ?_, ?_, ?_, ?_, ?_, ?_, ?_, ?_, ?_, ?_, ?_, ?_, ?_⟩ <;> decide +kernel

/-- The management interface has IPv4 address 10.0.0.1 and one IPv6 word. -/
def managed : State := { State.reset with objs := [(objKey 0x180 2, 0x0A000001), (objKey 0x180 8, 1)] }

theorem witness_ManagementPortsAnswer :
    (2 ≤ (2 : BitVec 2).toNat ∧ (8 : Byte).toNat ≥ 8 ∧ (8 : Byte) ≠ 0xFF ∧ (0xFE : Byte) ≠ 0xFF ∧ (1 : BitVec 2).toNat < 2) ∧
    ((0x7E : Byte) ∈ ([0xFF, 0, 0x7E] : List Byte) ∧ (1 : Byte) ∉ ([0xFF, 0, 0x7E] : List Byte)) ∧
    ((0x0A000001 : BitVec 32).toNat = managed.obj 0x180 2 ∧ (0x0A000002 : BitVec 32).toNat ≠ managed.obj 0x180 2) ∧
    ((1 : BitVec 128) ≠ 0 ∧ (1 : BitVec 128).toNat = managed.mgmtIp6) ∧
    ((0x0A000001 : BitVec 128) ≠ 0 ∧ (0x0A000001 : BitVec 128).toNat = managed.obj 0x180 2 ∧ (2 : BitVec 128).toNat ≠ managed.obj 0x180 2) ∧
    (∃ d : BitVec 128, d.toNat ≠ linkLocal ∧ d.toNat ≠ managed.mgmtIp6) := by
  refine ⟨?_, ?_, ?_, ?_, ?_, ?_⟩
  case refine_6 =>
    by_cases h : linkLocal = 2
    · exact ⟨3, by rw [h]; decide, by decide +kernel⟩
    · exact ⟨2, fun e => h e.symm, by decide +kernel⟩
  all_goals decide +kernel

/-- Cluster 7 in state `st`, its die's state and the device's as given; rows of the power-state table in force are on; CLMAX is `v`. -/
def power0 (st die dev : Nat) (v : Word) (l : List Trans) : State :=
  ((({ State.reset with trans := l }.setClState 7 st).setDieState 0 die).setRegFld 0x20000 0 2 dev).setReg 0x20200 v
def move0 (row unit : Nat) : Trans := ⟨row, unit, 0, false⟩
/-- Every die asleep, the device in state `dev`, STANDBY asked for; no actions in row 12. -/
def asleep (dev : Nat) : State :=
  (((List.range 4).foldl (fun (s : State) d => s.setDieState d 2) (State.reset.setRegFld 0x20000 0 2 dev)).orReg 0x20000 (2 ^ 10)).setReg (bankKey 0 0x20164) 0
/-- Every cluster of die 1 in C2, and the die in DI. -/
def drowsy : State := (dieClusters 1).foldl (fun (s : State) y => s.setClState y 2) (State.reset.setDieState 1 1)

theorem witness_PowerStatesFollowTheirTable :
    (∀ row, row < 3 → let s := power0 row 0 0 0xFFFFFFFF [move0 3 8]
      7 < 640 ∧ s.clState 7 = row ∧ s.moving 0 7 = none ∧ s.rowOn row = true ∧ row < s.clmax 7 ∧ s.clIdle 7 = true ∧ s.clState 8 ≠ row + 1) ∧
    (∀ row, row < 4 → 1 ≤ row → let s := power0 row 0 0 0 []
      s.clState 7 = row ∧ 7 < 640 ∧ s.clmax 7 ≤ 2 ∧ s.moving 0 7 = none ∧ s.dieState (clusterDie 7) ≠ 2 ∧
        (power0 row 0 0 0 [move0 (2 + row) 7]).moving 0 7 = some (move0 (2 + row) 7) ∧ (power0 row 0 0 0 [move0 (row - 1) 7]).moving 0 7 = some (move0 (row - 1) 7)) ∧
    ((power0 3 0 0 0xFFFFFFFF []).clState 7 = 3 ∧ 2 < (power0 3 0 0 0xFFFFFFFF []).clmax 7) ∧
    (drowsy.dieState (1 : BitVec 2).toNat = 1 ∧ drowsy.moving 1 1 = none ∧ drowsy.rowOn 8 = true ∧ drowsy.xfwd = false ∧
      ∀ y ∈ dieClusters 1, 2 ≤ drowsy.clState y ∧ drowsy.moving 0 y = none) ∧
    (∀ dev, dev < 3 → (asleep dev).dieState (3 : BitVec 2).toNat = 2 ∧ (asleep dev).moving 1 3 = none ∧ (asleep dev).moving 2 0 = none ∧
      (asleep dev).regFld 0x20000 0 2 = dev ∧ ∀ y, y < 4 → (asleep dev).dieState y = 2) ∧
    (State.reset.dieState 3 ≠ 2 ∧ (asleep 0).rowOn 10 = true ∧ fld ((asleep 0).pst 10 4) 0 3 = 1 ∧ fld (((asleep 0).setReg (bankKey 0 0x20154) 0).pst 10 4) 0 3 = 0) ∧
    ((asleep 1).rowOn 12 = true ∧ bit ((asleep 1).reg 0x20000) 10 = true ∧ fld ((asleep 1).pst 12 4) 0 3 = 0) ∧
    (∀ t ∈ [move0 3 7], t.row ≠ (0 : BitVec 4).toNat ∨ t.unit ≠ 7) ∧
    ((power0 2 0 0 0 [move0 9 3]).trans = [⟨(9 : BitVec 4).toNat, 3, 0, false⟩] ∧ 3 < 4) ∧
    (∀ row ∈ [0, 1, 2, 3, 4, 5, 8, 12, 13], (power0 2 0 2 0xFFFFFFFF [move0 row 7]).trans = [⟨row, 7, 0, false⟩] ∧
      (power0 2 0 2 0xFFFFFFFF [move0 row 7]).clState 7 ≤ (power0 2 0 2 0xFFFFFFFF [move0 row 7]).clmax 7 ∧
      (power0 2 0 2 0xFFFFFFFF [move0 row 7]).dieState (clusterDie 7) ≠ 2 ∧ (power0 2 0 2 0xFFFFFFFF [move0 row 7]).regFld 0x20000 0 2 = 2) ∧
    (let s := { State.reset with trans := [⟨0, 7, 1, false⟩] }
     (∃ t ∈ s.trans, t.bank ≠ s.devBank 1) ∧ ∀ t ∈ [move0 0 7], t.bank = State.reset.devBank 1) ∧
    (State.reset.devBank 1 ≤ 1 ∧ 39 < 40 ∧ ∀ i, i < 16 → State.reset.clState (16 * 39 + i) ≤ fld (0#32) (2 * i) 2) ∧
    (bit (0x10#32) (4 + clusterDie 7) = true ∧ bit (0#32) (4 + clusterDie 639) = false) := by
  refine ⟨?_, ?_, ?_, ?_, ?_, ?_, ?_, ?_, ?_, ?_, ?_, ?_, ?_⟩ <;> decide +kernel

/-- The clocks at `f` MHz of at most `fmax`, with a duty. -/
def clocked (f fmax duty : Nat) : State := (State.reset.setReg 0x20018 (BitVec.ofNat 32 (f + duty * 2 ^ 16))).setRegFld 0x20014 0 11 fmax
/-- Source 7 is pending and enabled at the highest priority. -/
def claimable : State := ((State.reset.orReg 0x10400 0x80).orReg 0x10440 0x80).setReg 0x10004 0xFF000000#32

theorem witness_GovernorClocksEventsAndLinksActAsTheRulesSay :
    (∀ y ∈ ([10, 20, 30, 40] ++ [1, 2] : List (BitVec 16)), y.toInt ≤ (40 : BitVec 16).toInt) ∧
    (∀ e ∈ [(460, 1000, 16), (450, 1000, 16), (450, 450, 1), (1000, 1000, 16)],
      (40 : BitVec 16) ∈ [10, 20, 30, 40] ++ [1, 2] ∧
        ([1, 2] : List (BitVec 16)).length = (clocked e.1 e.2.1 e.2.2).fuse.xdies.length ∧ (40 : BitVec 16).toInt < 105 * 16 ∧
        (clocked e.1 e.2.1 e.2.2).regFld 0x20018 0 11 = e.1 ∧ (clocked e.1 e.2.1 e.2.2).regFld 0x20014 0 11 = e.2.1 ∧ (clocked e.1 e.2.1 e.2.2).regFld 0x20018 16 5 = e.2.2 ∧
        e.1 ≤ e.2.1 ∧ e.2.1 ≤ 1000 ∧ e.2.2 ≤ 16) ∧
    (State.reset.dieState (3 : BitVec 2).toNat ≠ 2 ∧ State.reset.pllLost.testBit (3 : BitVec 2).toNat = false ∧ { State.reset with pllLost := 8 }.pllLost.testBit 3 = true ∧
      coreDie 10239 = 3) ∧
    ((claimable.setReg 0x10004 0).evcBest = none ∧ claimable.evcBest = some 7) ∧
    (512 ≤ (512 : BitVec 10).toNat ∧ (511 : BitVec 10).toNat < 512 ∧ (State.reset.orReg (evcActiveKey 511) (2 ^ 31)).evcActive 511 = true ∧ State.reset.evcEdge 511 = false) ∧
    (let s := (State.reset.orReg (evcActiveKey 0) 1).setReg 0x10700 0x200#32
     s.evcActive 0 = true ∧ s.evcEdge 0 = false ∧ ({ s with pins := 1 }.setReg 0x10700 0x600#32).evcLine 0 = true) ∧
    (let s := State.reset.setReg 0x1071C 0x300#32
     s.regFld 0x20000 0 2 ≠ 2 ∧ bit (s.reg 0x1071C) 8 = true ∧ (true == bit (s.reg 0x1071C) 9) = true ∧ bit (s.reg 0x1071C) 10 = false ∧ s.pins < 256) ∧
    (12 ≤ (12 : BitVec 4).toNat ∧ (11 : BitVec 4).toNat < 12 ∧ State.reset.linkState 11 ≠ 1 ∧ linkData 11 + 2 ≤ 34 ∧ 33 < linkData 11 + 2 ∧
      State.reset.regFld (linkKey 11 + 4) 0 8 = 16 ∧ (((State.reset.plink 11).err true).get nat0 33) + 1 < 16) ∧
    (let s := (State.reset.setReg (linkKey 0) 1).setReg (linkKey 0 + 4) 0
     s.linkState 0 = 1 ∧ (s.plink 0).outAB = [] ∧ (s.plink 0).outBA = [] ∧ s.regFld (linkKey 0 + 4) 0 8 = 0 ∧ 65 < linkData 0 + 2 ∧ s.obj 0x7010 2 ≠ 1 ∧
       s.obj 0x7010 1 ≠ 1 ∧ 0 ∈ dieLinks 0 ∧ 0 ∈ dieLinks 1) := by
  refine ⟨by simp, ?_, ?_, ?_, ?_, ?_, ?_, ?_, ?_⟩
  all_goals decide +kernel

/-- Boot stage `n`, with images of the given SVNs in the slots. -/
def booting (n : Nat) (a b : Option Nat) : State :=
  { State.reset.setReg 0x2000 (BitVec.ofNat 32 n) with svc := { State.reset.svc with slots := [(0, a), (1, b)] } }

theorem witness_ResetsAndBootGoThroughTheirStages :
    (let s := { ((State.reset.setReg 0xA8000 3).setReg 0xA8010 0x80000007#32).setReg (bankKey 0 0x104004) 9 with objs := [(objKey 0x140 1, 1)] }
     s.regFld 0xA8000 0 16 ≠ 0 ∧ s.devId ≠ 0 ∧ bit (s.reg 0xA8010) 31 = true ∧ s.obj 0x140 1 = 1) ∧
    (State.reset.obj 0x140 1 ≠ 1 ∧ State.reset.apply 0 = none ∧ State.reset.qpBase 0 ≤ 511 ∧ 511 < State.reset.qpBase 0 + State.reset.qpNum 0 ∧
      ∀ c, c < 256 → State.reset.rdEn c = true → State.reset.rdOwner c = false) ∧
    ((booting 0x2F none none).regFld 0x2000 0 4 = 15 ∧ bit ((booting 0x20 none none).reg 0x2000) 5 = true ∧ (booting 8 none none).regFld 0x2000 0 4 = 8 ∧
      bit (((booting 8 none none).setReg 0x2004 1).reg 0x2004) 0 = true) ∧
    (∀ n, n < 9 → (booting n (some 5) (some 5)).regFld 0x2000 0 4 = n ∧ bit ((booting n (some 5) (some 5)).reg 0x2000) 5 = false ∧
      bit ((booting n (some 5) (some 5)).reg 0x2004) 0 = false ∧ (booting n (some 5) (some 5)).repairRec = []) ∧
    (let s := booting 0 (some 5) (some 6)
     s.svc.provs < { s.svc with unlocks := 1 }.unlocks ∧ s.svc.unlocks ≤ s.svc.provs ∧ s.svc.slots.get slot0 0 = some 5 ∧ s.svc.slots.get slot0 1 = some 6 ∧
       s.svc.minSvn ≤ 5 ∧ { s.svc with minSvn := 6 }.minSvn ≤ 6 ∧ 5 < { s.svc with minSvn := 6 }.minSvn) ∧
    ((booting 0 none none).svc.slots.get slot0 0 = none ∧ (booting 0 none none).svc.slots.get slot0 1 = none ∧
      (booting 0 none (some 6)).svc.slots.get slot0 1 = some 6 ∧ 6 < { (booting 0 none (some 6)).svc with minSvn := 7 }.minSvn) ∧
    (let s := booting 2 (some 5) (some 5)
     s.regFld 0x2000 0 4 < 3 ∧ s.bootRetry = false ∧ s.svc.slots.get slot0 (1 - s.regFld 0x2000 4 1) = some 5 ∧ s.svc.minSvn ≤ 5 ∧ { s with bootRetry := true }.bootRetry = true) := by
  refine ⟨?_, ?_, ?_, ?_, ?_, ?_, ?_⟩ <;> decide +kernel

theorem witness_JtagCapturesAndServiceLifeActAsTheRulesSay :
    (State.reset.capPend = none ∧ State.reset.svc.capture = none ∧ { State.reset with capPend := some [1] }.capPend = some [1] ∧
      { State.reset.svc with capture := some [1] }.capture.isSome = true) ∧
    ((0x21 : Byte).toNat ∈ [0, 1, 2, 4, 5, 6, 7, 0x20, 0x21] ∧ (0xFF : Byte).toNat ∉ [0, 1, 2, 4, 5, 6, 7, 0x20, 0x21]) ∧
    ({ State.reset with respAt := some 7 }.respAt = some 7 ∧ State.reset.sclk.toNat < 7 + 25000000 ∧ State.reset.respAt = none ∧
      7 + 25000000 ≤ { State.reset with sclk := 25000007 }.sclk.toNat) ∧
    (State.reset.svc.unlocks < 15 ∧ 15 ≤ { State.reset.svc with unlocks := 15 }.unlocks) ∧
    ({ State.reset with challenge := true }.challenge = true ∧ State.reset.challenge = false ∧ State.reset.respFails < 2 ^ 32 - 1) ∧
    (let s := booting 8 (some 5) none
     s.svc.slots.get slot0 (s.regFld 0x2000 4 1) = some (5#32).toNat ∧ s.svc.minSvn < (5#32).toNat ∧ s.svc.raises < 64 ∧
       (5#32).toNat ≤ { s.svc with minSvn := 5 }.minSvn ∧ 64 ≤ { s.svc with raises := 64 }.raises ∧ s.svc.slots.get slot0 (s.regFld 0x2000 4 1) ≠ some (6#32).toNat) := by
  refine ⟨?_, ?_, ?_, ?_, ?_, ?_⟩ <;> decide +kernel

theorem witness_RegisterAccessesWriteAnswerOrAreRefused :
    (State.reset.decodes 0 = false ∧ State.reset.hostOpen 0 = false) ∧
    (let s := { State.reset.setReg 0x2000 8 with hostLink := some (6, 16) }
     s.hostOpen 0 = true ∧ s.hostLink = some (6, 16) ∧ (s.fn 0).enabled = true ∧ (s.fn 63).enabled = false ∧ s.decodes (0 : BitVec 6).toNat = true ∧
       (∀ e ∈ plainRegs, s.unitHere e.1 = true ∧ s.latch.get none0 e.1 = none) ∧
       s.barPlace 0 0x10000 = .found 0x10000 false ∧ s.barPlace 0 0x10004 = .found 0x10004 false ∧
       findBar0 0xFFFFFC = none ∧ s.unitHere 0x800040 = true ∧ s.unitHere 0x4E0000 = true ∧ s.unitHere 0x480000 = false ∧
       (findBar0 0x10000).isSome = true ∧ (s.fn 0).vecMask 2047 = true ∧ bit (1#32) 0 = true) ∧
    (let s := hosted fnOn 1 HostQ.reset
     s.decodes (1 : BitVec 6).toNat = true ∧ (0x3FC % 16 = 12 ∧ 0x3FC < 16 * 64) ∧ (s.fn 1).vecMask 63 = true ∧ 0x800 + 64 / 8 = 0x808) := by
  refine ⟨?_, ?_, ?_⟩ <;> decide +kernel

end Sys2Proof
end

section
/-!
SUPPORT. How an instruction of a ready core ends, stated of the whole instruction: it retires with one register written, retires alone, waits, or
traps (spec/02 R53, R55, R94).
-/

namespace Sys2Proof.Machine

theorem State.Ready.writes {s : State} {c : Nat} (h : s.Ready c) {body : Word → State → IRes} {rd : Reg} {v : Word}
    (e : body (s.core c).pc s = IRes.put c (s.core c).pc s rd v) : s.Writes (s.instr c body) c ((s.core c).pc + 4) rd v := by
  obtain ⟨t, ht, w⟩ := h.put e
  rw [ht]; exact w

theorem State.Ready.writesNone {s : State} {c : Nat} (h : s.Ready c) {body : Word → State → IRes} {npc : Word}
    (e : body (s.core c).pc s = .retire s npc) : s.Writes (s.instr c body) c npc 0 0 := by
  rw [h.instr, e]; exact State.writes_none npc

theorem State.Ready.nowWaits {s : State} {c : Nat} (h : s.Ready c) {body : Word → State → IRes} {w : Wait}
    (e : body (s.core c).pc s = .wait s w) : s.NowWaits (s.instr c body) c w := by
  rw [h.instr, e]; exact State.nowWaits s c w

/-- ILLEGAL carries no value (R55, R96). -/
theorem State.Ready.illegal {s : State} {c : Nat} (h : s.Ready c) (htm : (s.core c).tm = false) {body : Word → State → IRes}
    (e : body (s.core c).pc s = .exc s ILLEGAL 0) : s.Trapped (s.instr c body) c 1 (s.core c).pc 0 :=
  h.exc htm e (by decide)

end Sys2Proof.Machine
end

section
/-!
SUPPORT and proofs. The integer instructions (spec/02 R56-R58).
-/

namespace Sys2Proof.Machine

/-- An immediate instruction whose required-zero fields hold 0 writes its result and retires (R58). -/
theorem State.Ready.imm_writes {s : State} {c : Nat} (h : s.Ready c) {rd ra : Reg} {f : Word → Word} {v : Word}
    (e : f ((s.core c).s ra) = v) : s.Writes (s.immInstr c rd ra true f) c ((s.core c).pc + 4) rd v :=
  h.writes (by rw [← e]; rfl)

/-- One whose required-zero fields do not is ILLEGAL (R55). -/
theorem State.Ready.imm_illegal {s : State} {c : Nat} (h : s.Ready c) (htm : (s.core c).tm = false) {rd ra : Reg} {f : Word → Word} :
    s.Trapped (s.immInstr c rd ra false f) c 1 (s.core c).pc 0 :=
  h.illegal htm rfl

theorem sint_sx16 (i : BitVec 16) : sint (sx16 i) = i.toInt := BitVec.toInt_signExtend_of_le (by decide)

theorem zx16_shiftLeft (i : BitVec 16) : zx16 i <<< 16 = BitVec.ofNat 32 (i.toNat * 2 ^ 16) := by
  apply BitVec.eq_of_toNat_eq
  have hi := i.isLt
  simp only [zx16, BitVec.toNat_shiftLeft, BitVec.toNat_setWidth, BitVec.toNat_ofNat, Nat.shiftLeft_eq]
  omega

/-- Settles O1: each immediate instruction is an operation on its register operand under a condition on its required-zero fields. -/
theorem immediateInstructionsWriteTheirResult : Obligations.ImmediateInstructionsWriteTheirResult := by
  intro s c rd ra imm h
  dsimp only
  refine ⟨⟨_, rfl, h.imm_writes rfl⟩, ⟨_, rfl, h.imm_writes rfl⟩, ⟨_, rfl, h.imm_writes rfl⟩, ⟨_, rfl, h.imm_writes rfl⟩,
    ⟨_, rfl, h.imm_writes ?_⟩, ⟨_, rfl, h.imm_writes rfl⟩, ?_, ⟨_, rfl, h.imm_writes (ra := 0) (zx16_shiftLeft imm)⟩, ?_⟩
  · simp only [sint_sx16]; rfl
  · intro hi
    have hd : decide (imm.toNat < 32) = true := decide_eq_true hi
    refine ⟨⟨_, rfl, ?_⟩, ⟨_, rfl, ?_⟩, ⟨_, rfl, ?_⟩⟩ <;> rw [hd] <;> exact h.imm_writes rfl
  · intro htm
    refine ⟨fun hi => ?_, fun hr => ⟨_, rfl, ?_⟩⟩
    · have hd : decide (imm.toNat < 32) = false := decide_eq_false (by omega)
      refine ⟨⟨_, rfl, ?_⟩, ⟨_, rfl, ?_⟩, ⟨_, rfl, ?_⟩⟩ <;> rw [hd] <;> exact h.imm_illegal htm
    · rw [decide_eq_false hr]; exact h.imm_illegal htm

/-- An ALU operation whose required-zero fields hold 0 writes its result and retires (R56). -/
theorem State.Ready.alu_writes {s : State} {c : Nat} (h : s.Ready c) {rd ra rb : Reg} {fn : BitVec 6} {v : Word} {unary : Bool}
    (e : aluOp fn.toNat ((s.core c).s ra) ((s.core c).s rb) = some (v, unary)) (hu : unary = true → rb = 0) :
    ∃ t, exec (.alu c rd ra rb 0 fn) s = .next t ∧ s.Writes t c ((s.core c).pc + 4) rd v := by
  refine ⟨_, rfl, h.writes ?_⟩
  dsimp only
  rw [e]
  exact if_neg (by rintro (h0 | ⟨h1, h2⟩); exacts [h0 rfl, h2 (hu h1)])

/-- One with a reserved FN or a required-zero field that is not 0 is ILLEGAL (R55). -/
theorem State.Ready.alu_illegal {s : State} {c : Nat} (h : s.Ready c) (htm : (s.core c).tm = false) {rd ra rb rc : Reg} {fn : BitVec 6}
    (e : ∀ v unary, aluOp fn.toNat ((s.core c).s ra) ((s.core c).s rb) = some (v, unary) → rc ≠ 0 ∨ (unary = true ∧ rb ≠ 0)) :
    ∃ t, exec (.alu c rd ra rb rc fn) s = .next t ∧ s.Trapped t c 1 (s.core c).pc 0 := by
  refine ⟨_, rfl, h.illegal htm ?_⟩
  dsimp only
  split
  · rfl
  · rename_i v unary ho
    exact if_pos (e v unary ho)

theorem aluOp_reserved (k : Nat) (a b : Word) : aluOp (k + 0x1B) a b = none := rfl

/-- The FNs that have a meaning, and those whose RB must be 0 (R57). -/
theorem aluOp_shape {fn : BitVec 6} {a b v : Word} {unary : Bool} (h : aluOp fn.toNat a b = some (v, unary)) :
    fn ∉ [0x0E, 0x0F, 0x13] ∧ fn.toNat < 0x1B ∧ (fn ∈ [0x18, 0x19, 0x1A] → unary = true) := by
  refine ⟨fun hf => ?_, ?_, fun hf => ?_⟩
  · simp only [List.mem_cons, List.not_mem_nil, or_false] at hf
    have hn : aluOp fn.toNat a b = none := by rcases hf with rfl | rfl | rfl <;> rfl
    rw [hn] at h
    cases h
  · by_contra hf
    rw [← Nat.sub_add_cancel (not_lt.1 hf), aluOp_reserved] at h
    cases h
  · simp only [List.mem_cons, List.not_mem_nil, or_false] at hf
    obtain ⟨w, hw⟩ : ∃ w, aluOp fn.toNat a b = some (w, true) := by rcases hf with rfl | rfl | rfl <;> exact ⟨_, rfl⟩
    rw [hw] at h
    cases h
    rfl

/-- The smaller of two values, told by which is strictly smaller or by which is at most the other. -/
theorem min_lt_eq_le {α : Type} {x y : Int} {a b : α} : (if y < x then b else a) = if x ≤ y then a else b := by
  simp only [← not_le, ite_not]
theorem max_lt_eq_le {α : Type} {x y : Int} {a b : α} (h : x = y → a = b) : (if x < y then b else a) = if x ≤ y then b else a := by
  rcases lt_trichotomy x y with hlt | heq | hgt
  · rw [if_pos hlt, if_pos hlt.le]
  · rw [if_neg heq.not_lt, if_pos heq.le, h heq]
  · rw [if_neg hgt.not_gt, if_neg hgt.not_ge]

/-- The model's two-operand operations are those of the table of R56. -/
theorem aluOp_of_mem_aluTable {a b : Word} {e : BitVec 6 × Word} (h : e ∈ aluTable a b) : aluOp e.1.toNat a b = some (e.2, false) := by
  have hmin := min_lt_eq_le (x := a.toInt) (y := b.toInt) (a := a) (b := b)
  have hmax := max_lt_eq_le (x := a.toInt) (y := b.toInt) (a := a) (b := b) BitVec.toInt_inj.1
  have hminu : (if b.toNat < a.toNat then b else a) = if a.toNat ≤ b.toNat then a else b := by
    simpa using min_lt_eq_le (x := a.toNat) (y := b.toNat) (a := a) (b := b)
  have hmaxu : (if a.toNat < b.toNat then b else a) = if a.toNat ≤ b.toNat then b else a := by
    simpa using max_lt_eq_le (x := a.toNat) (y := b.toNat) (a := a) (b := b) fun e => BitVec.eq_of_toNat_eq (by exact_mod_cast e)
  have hdiv : BitVec.ofNat 32 (a.toNat / b.toNat) = a / b := BitVec.eq_of_toNat_eq (by
    rw [BitVec.toNat_ofNat, BitVec.toNat_udiv]; exact Nat.mod_eq_of_lt ((Nat.div_le_self ..).trans_lt a.isLt))
  have hmod : BitVec.ofNat 32 (a.toNat % b.toNat) = a % b := BitVec.eq_of_toNat_eq (by
    rw [BitVec.toNat_ofNat, BitVec.toNat_umod]; exact Nat.mod_eq_of_lt ((Nat.mod_le ..).trans_lt a.isLt))
  unfold aluTable at h
  rw [← hmin, ← hmax, ← hminu, ← hmaxu, ← hdiv, ← hmod] at h
  simp only [List.mem_cons, List.not_mem_nil, or_false] at h
  rcases h with rfl | rfl | rfl | rfl | rfl | rfl | rfl | rfl | rfl | rfl | rfl | rfl | rfl | rfl | rfl | rfl | rfl | rfl | rfl | rfl | rfl <;> rfl

theorem clz_le (w : Word) : clz w ≤ 32 := Nat.sub_le _ _

theorem log2_lt_word {w : Word} (h : w ≠ 0) : Nat.log2 w.toNat < 32 :=
  (Nat.log2_lt (fun e => h (BitVec.eq_of_toNat_eq e))).2 w.isLt

/-- The `clz w` highest bits are 0, and the bit below them, if there is one, is not. -/
theorem clz_spec (w : Word) :
    (∀ i, 32 - clz w ≤ i → w.toNat.testBit i = false) ∧ (clz w < 32 → w.toNat.testBit (31 - clz w) = true) := by
  by_cases h : w = 0
  · subst h
    exact ⟨fun i _ => Nat.zero_testBit i, fun hl => absurd hl (by decide)⟩
  · have hn : w.toNat ≠ 0 := fun e => h (BitVec.eq_of_toNat_eq e)
    have hl := log2_lt_word h
    have hc : clz w = 31 - Nat.log2 w.toNat := by unfold clz; rw [if_neg h]; omega
    refine ⟨fun i hi => ?_, fun _ => ?_⟩
    · exact Nat.testBit_lt_two_pow ((Nat.log2_lt hn).1 (by omega))
    · rw [hc, show 31 - (31 - Nat.log2 w.toNat) = Nat.log2 w.toNat by omega]
      exact Nat.testBit_log2 hn

/-- The `ctz w` lowest bits are 0, and the bit above them, if there is one, is not. -/
theorem ctz_spec (w : Word) :
    ctz w ≤ 32 ∧ (∀ i, i < ctz w → w.toNat.testBit i = false) ∧ (ctz w < 32 → w.toNat.testBit (ctz w) = true) := by
  unfold ctz
  cases h : (List.range 32).find? fun i => bit w i with
  | none =>
    refine ⟨Nat.le_refl _, fun i hi => ?_, fun hl => absurd hl (by decide)⟩
    simpa [bit] using List.find?_eq_none.1 h i (List.mem_range.2 hi)
  | some n =>
    obtain ⟨hp, hm, hb⟩ := List.find?_range_eq_some.1 h
    have hn := List.mem_range.1 hm
    exact ⟨hn.le, fun i hi => by simpa [bit] using hb i hi, fun _ => hp⟩

theorem popcount_eq (k n : Nat) : popcount k n = ((List.range k).filter n.testBit).length := by
  induction k generalizing n with
  | zero => rfl
  | succ k ih =>
    have hs : (n.testBit ∘ Nat.succ) = (n / 2).testBit := funext fun i => Nat.testBit_succ n i
    rw [popcount, ih, List.range_succ_eq_map, List.filter_cons, List.filter_map, hs, Nat.testBit_zero]
    rcases Nat.mod_two_eq_zero_or_one n with h | h <;> simp [h, Nat.add_comm]

theorem toNat_ofNat_of_le {n : Nat} (h : n ≤ 32) : (BitVec.ofNat 32 n).toNat = n := by
  rw [BitVec.toNat_ofNat]; exact Nat.mod_eq_of_lt (by omega)

/-- Settles O2: the table of R56 is the model's, the three counts are what R57 says, and what has no meaning is ILLEGAL. -/
theorem aluOperationsWriteTheirResult : Obligations.AluOperationsWriteTheirResult := by
  intro s c rd ra rb rc h
  dsimp only
  generalize ha : (s.core c).s ra = a
  have unary {fn : BitVec 6} {n : Nat} (e : aluOp fn.toNat a ((s.core c).s 0) = some (BitVec.ofNat 32 n, true)) :
      ∃ t, exec (.alu c rd ra 0 0 fn) s = .next t ∧ s.Writes t c ((s.core c).pc + 4) rd (BitVec.ofNat 32 n) :=
    h.alu_writes (ha ▸ e) fun _ => rfl
  refine ⟨fun e he => h.alu_writes (unary := false) (ha ▸ aluOp_of_mem_aluTable he) (by simp), ?_, ?_, ?_, fun htm => ⟨fun fn hf => ?_, fun fn hc => ?_, fun fn hf hb => ?_⟩⟩
  · obtain ⟨t, ht, w⟩ := unary (fn := 0x18) (n := clz a) rfl
    have hv := toNat_ofNat_of_le (clz_le a)
    refine ⟨t, _, ht, w, ?_⟩
    rw [hv]
    exact ⟨clz_le a, fun i hi _ => (clz_spec a).1 i hi, (clz_spec a).2⟩
  · obtain ⟨t, ht, w⟩ := unary (fn := 0x19) (n := ctz a) rfl
    have hv := toNat_ofNat_of_le (ctz_spec a).1
    refine ⟨t, _, ht, w, ?_⟩
    rw [hv]
    exact ctz_spec a
  · obtain ⟨t, ht, w⟩ := unary (fn := 0x1A) (n := popcount 32 a.toNat) rfl
    have hl : popcount 32 a.toNat ≤ 32 := by
      rw [popcount_eq]; exact (List.length_filter_le ..).trans (List.length_range ..).le
    exact ⟨t, _, ht, w, by rw [toNat_ofNat_of_le hl, popcount_eq]⟩
  · refine h.alu_illegal htm fun v u e => ?_
    obtain ⟨h1, h2, -⟩ := aluOp_shape e
    exact hf.elim (fun x => absurd x h1) fun x => by omega
  · exact h.alu_illegal htm fun _ _ _ => Or.inl hc
  · exact h.alu_illegal htm fun v u e => Or.inr ⟨(aluOp_shape e).2.2 hf, hb⟩

end Sys2Proof.Machine
end

section
/-!
SUPPORT and proofs. The fetch, branches and jumps (spec/02 R50, R52, R55, R60).
-/

namespace Sys2Proof.Machine

/-- A core in RUN whose PC lies outside instruction memory raises FETCH with the PC (R50). -/
theorem State.trapped_fetch {s : State} {c : Nat} (hc : isCore c = true) (hr : (s.core c).rs = 1) (hk : s.clocked c = true)
    (htm : (s.core c).tm = false) (hp : 0x6000 ≤ (s.core c).pc.toNat) (body : Word → State → IRes) :
    s.Trapped (s.instr c body) c 2 (s.core c).pc (s.core c).pc := by
  have e : s.instr c body = s.exception c 2 (s.core c).pc (s.core c).pc := by
    unfold State.instr
    simp [hc, hr, hk, hp]
  rw [e]
  exact State.trapped_exception htm (by decide)

/-- A word that reads uncorrectable is logged and raises IMEM_UE with the PC (R52). -/
theorem State.instr_imemUe {s : State} {c : Nat} (hc : isCore c = true) (hr : (s.core c).rs = 1) (hk : s.clocked c = true)
    (hp : (s.core c).pc.toNat < 0x6000) (he : 2 ≤ (s.core c).imemErr.get nat0 ((s.core c).pc.toNat / 4)) (body : Word → State → IRes) :
    ∃ u, s.Quiet u ∧ s.instr c body = u.exception c 3 (s.core c).pc (s.core c).pc := by
  refine ⟨s.log { level := 0x11, unit := 1, cause := 3, action := 1, part := some (s.corePart c),
                  loc := mkAddr 0 (coreRow c) (coreCol c), d2 := 4 * ((s.core c).pc.toNat / 4) }, State.Quiet.log _ _ ?_, ?_⟩
  · have := State.corePart_lt s c
    show s.corePart c < 192
    omega
  · unfold State.instr
    simp only [hc, hr, hk, Nat.not_le.2 hp]
    simp only [Bool.not_true, bne_self_eq_false, Bool.or_self, Bool.false_eq_true, if_false]
    split
    · omega
    · omega
    · rfl

/-- Settles O10: both exceptions are raised before the command is looked at. -/
theorem fetchingRaisesFetchAndImemUe : Obligations.FetchingRaisesFetchAndImemUe := by
  intro s c rd ra imm hc hr hk htm
  refine ⟨fun hp => ⟨_, rfl, State.trapped_fetch hc hr hk htm hp _⟩, fun hp he => ?_⟩
  obtain ⟨u, q, e⟩ := State.instr_imemUe hc hr hk hp he fun pc s =>
    if true then IRes.put c pc s rd ((s.core c).s ra + sx16 imm) else .exc s ILLEGAL 0
  have T : u.Trapped (u.exception c 3 (s.core c).pc (s.core c).pc) c 3 (s.core c).pc (s.core c).pc :=
    State.trapped_exception (by rw [q.core c]; exact htm) (by decide)
  have e' : exec (.addi c rd ra imm) s = .next (u.exception c 3 (s.core c).pc (s.core c).pc) := congrArg Host.Outcome.next e
  refine ⟨_, e', T.cause, T.tpc, T.tval, T.tm, fun r => ?_, fun x hx => ?_⟩
  · rw [T.regs, q.core c]
  · rw [T.only.others x hx, q.core x]

theorem State.OnlyCore.reg {s t : State} {c : Nat} (h : s.OnlyCore t c) (k : Nat) : t.reg k = s.reg k := by rw [h.state]; rfl

theorem State.OnlyCore.clocked {s t : State} {c : Nat} (h : s.OnlyCore t c) (x : Nat) : t.clocked x = s.clocked x := by rw [h.state]; rfl

theorem Core.CsrsKept.tm {k k' : Core} {may : Nat → Prop} (h : k.CsrsKept k' may) : k'.tm = k.tm := h.status 3 (by decide)

/-- Where a ready core has gone to a PC outside instruction memory, the next instruction raises FETCH there. -/
theorem State.Writes.fetch_traps {s t : State} {c : Nat} {npc : Word} {rd : Reg} {v : Word} (h : s.Ready c) (w : s.Writes t c npc rd v)
    (hp : 0x6000 ≤ npc.toNat) (htm : (s.core c).tm = false) (hst : (s.core c).stepping = false) :
    ∃ u, exec (.addi c 0 0 0) t = .next u ∧ t.Trapped u c 2 npc npc := by
  have hpc := w.retired.pc
  refine ⟨_, rfl, ?_⟩
  rw [← hpc]
  refine State.trapped_fetch h.core ?_ ((w.only.clocked c).trans h.clock) (w.csrs.tm.trans htm) (hpc ▸ hp) _
  rw [w.retired.rs, hst]; rfl

/-- Settles O7: a branch or jump retires at its target. -/
theorem branchesAndJumpsMoveThePc : Obligations.BranchesAndJumpsMoveThePc := by
  intro s c rd ra rb off imm joff h
  dsimp only
  have go {i : Instr} {npc : Word} {r : Reg} {v : Word} {t : State} (e : exec i s = .next t) (w : s.Writes t c npc r v) :
      ∃ t, exec i s = .next t ∧ s.Writes t c npc r v ∧ (0x6000 ≤ npc.toNat → (s.core c).tm = false → (s.core c).stepping = false →
        ∃ u, exec (.addi c 0 0 0) t = .next u ∧ t.Trapped u c 2 npc npc) :=
    ⟨t, e, w, fun hp htm hst => w.fetch_traps h hp htm hst⟩
  have branch (cond : Word → Word → Bool) (p : Prop) [Decidable p] (e : cond ((s.core c).s ra) ((s.core c).s rb) = decide p) :
      s.Writes (s.branch c ra rb off cond) c (if p then (s.core c).pc + 4 * off.signExtend 32 else (s.core c).pc + 4) 0 0 :=
    h.writesNone (by simp only [e, decide_eq_true_eq]; rfl)
  refine ⟨go rfl (branch _ _ ?_), go rfl (branch _ _ ?_), go rfl (branch _ _ rfl), go rfl (branch _ _ rfl), go rfl (branch _ _ rfl),
    go rfl (branch _ _ rfl), go rfl ?_, go rfl ?_⟩
  · exact beq_eq_decide _ _
  · exact Bool.eq_iff_iff.2 (by rw [bne_iff_ne, decide_eq_true_eq])
  · rw [h.instr]; exact State.writes_put rd _ _
  · rw [h.instr]; exact State.writes_put rd _ _

end Sys2Proof.Machine
end

section
/-!
SUPPORT and proofs. TRAP, BRK, TRET and HALT (spec/02 R92-R95).
-/

namespace Sys2Proof.Machine

theorem Core.wait_enterTrap (k : Core) (code : Nat) (isInt : Bool) (tpc tval : Word) : (k.enterTrap code isInt tpc tval).wait = none := by
  rw [Core.enterTrap_eq]

theorem Core.get_enterTrap (k : Core) (code : Nat) (isInt : Bool) (tpc tval : Word) {n : Nat} (h1 : n ≠ 1) (h : n < 0x11 ∨ 0x14 < n) :
    (k.enterTrap code isInt tpc tval).get n = k.get n := by
  rw [Core.enterTrap_eq]
  refine (Core.get_setRs _ _ _).trans ?_
  rw [if_neg h1, Core.get_trapCsrs, if_neg h1, if_neg (by omega), if_neg (by omega), if_neg (by omega), if_neg (by omega)]

/-- An instruction of a core outside a handler that completes and then traps: the trap is taken from the core moved on to the next
instruction (R65, R90). -/
theorem State.Ready.excAfter {s u : State} {c code : Nat} {v : Word} (h : s.Ready c) (htm : (u.core c).tm = false) (h0 : code < 2 ^ 29)
    {body : Word → State → IRes} (e : body (s.core c).pc s = .excAfter u code v) :
    ∃ w, u.OnlyCore w c ∧ w.core c = { (u.core c).addTime 0x24 1 with pc := (s.core c).pc + 4 } ∧
      w.Trapped (s.instr c body) c code ((s.core c).pc + 4) v ∧ ((s.instr c body).core c).wait = none ∧
      ∀ n, n ≠ 1 → n < 0x11 ∨ 0x14 < n → ((s.instr c body).core c).get n = (w.core c).get n := by
  have hw : ((u.modCore c fun k => { (k.addTime 0x24 1) with pc := (s.core c).pc + 4 }).core c).tm = false := by
    rw [State.core_modCore_same]
    show bit (((u.core c).addTime 0x24 1).get 1) 3 = false
    rw [Core.get_addTime _ _ _ _ (by decide) (by decide)]; exact htm
  refine ⟨u.modCore c fun k => { (k.addTime 0x24 1) with pc := (s.core c).pc + 4 }, State.onlyCore_modCore u c _, State.core_modCore_same _ _ _,
    ?_, ?_, fun n h1 hn => ?_⟩ <;> rw [h.instr, e]
  · exact State.trapped_exception hw h0
  · show ((State.exception _ c code _ v).core c).wait = none
    unfold State.exception
    rw [hw, if_neg (by decide), State.core_modCore_same, Core.wait_enterTrap]
  · show ((State.exception _ c code _ v).core c).get n = _
    unfold State.exception
    rw [hw, if_neg (by decide), State.core_modCore_same, Core.get_enterTrap _ _ _ _ _ h1 hn]

theorem Core.Retired.congr {k j k' : Core} {npc : Word} (h : k.Retired k' npc) (hs : k.stepping = j.stepping) (hi : k.instret = j.instret) :
    j.Retired k' npc :=
  ⟨h.pc, h.wait, h.stepping, by rw [← hs]; exact h.rs, by rw [← hi]; exact h.instret⟩

theorem Core.instret_congr {k j : Core} (h : ∀ n, n ≠ 1 → k.get n = j.get n) : k.instret = j.instret := by
  unfold Core.instret; rw [h 0x24 (by decide), h 0x25 (by decide)]

theorem Core.get_leaveTrap (k : Core) (n : Nat) :
    k.leaveTrap.get n = if n = 1 then setBit (setBit (k.get 1) 4 (bit (k.get 0x14) 4)) 3 false else k.get n := by
  unfold Core.leaveTrap
  rw [Core.get_setStatusBit, Core.get_setStatusBit, Core.get_setStatusBit]
  split
  · rfl
  · rfl

theorem bit_get_leaveTrap (k : Core) (i : Nat) :
    bit (k.leaveTrap.get 1) i = if i = 3 then false else if i = 4 then bit (k.get 0x14) 4 else bit (k.get 1) i := by
  rw [Core.get_leaveTrap, if_pos rfl, bit_setBit _ _ _ _ (by decide), bit_setBit _ _ _ _ (by decide)]

theorem Core.bit_status_retire (k : Core) (npc : Word) {i : Nat} (h : 3 ≤ i) : bit ((k.retire npc).get 1) i = bit (k.get 1) i :=
  (Core.retire_csrs k npc).status i h

/-- What TRET of a core in its handler does (R95). -/
theorem State.Ready.tret {s : State} {c : Nat} (h : s.Ready c) (htm : (s.core c).tm = true) :
    ∃ t, exec (.tret c 0 0 2) s = .next t ∧ s.OnlyCore t c ∧ (s.core c).Retired (t.core c) ((s.core c).get 0x12) ∧
      (t.core c).ie = bit ((s.core c).get 0x14) 4 ∧ (t.core c).tm = false ∧ (∀ r, (t.core c).s r = (s.core c).s r) ∧
      (t.core c).spad = (s.core c).spad ∧ (∀ n, n ≠ 1 → n ≠ 0x24 → n ≠ 0x25 → (t.core c).get n = (s.core c).get n) := by
  generalize hk : s.core c = k at *
  have ht : exec (.tret c 0 0 2) s = .next ((s.modCore c Core.leaveTrap).modCore c fun j => j.retire (k.get 0x12)) := by
    refine congrArg Host.Outcome.next ?_
    rw [h.instr]
    simp only [show sysOk 2 0 0 2 = true from rfl, hk, htm, Bool.and_self, if_true]
    rfl
  have hc : (((s.modCore c Core.leaveTrap).modCore c fun j => j.retire (k.get 0x12)).core c) = k.leaveTrap.retire (k.get 0x12) := by
    rw [State.core_modCore_same, State.core_modCore_same, hk]
  refine ⟨_, ht, (State.onlyCore_modCore s c _).trans (State.onlyCore_modCore _ c _), ?_⟩
  rw [hc]
  refine ⟨?_, ?_, ?_, fun r => ?_, ?_, fun n h1 h4 h5 => ?_⟩
  · refine (Core.retired k.leaveTrap _).congr rfl (Core.instret_congr fun n hn => ?_)
    rw [Core.get_leaveTrap, if_neg hn]
  · exact (Core.bit_status_retire _ _ (by decide)).trans (bit_get_leaveTrap k 4)
  · exact (Core.bit_status_retire _ _ (by decide)).trans (bit_get_leaveTrap k 3)
  · rw [Core.s_retire]; rfl
  · rw [Core.retire_eq]; rfl
  · rw [Core.get_retire _ _ _ h1 h4 h5, Core.get_leaveTrap, if_neg h1]

/-- What HALT does: it retires, and the core halts (R53, R92). -/
theorem State.Ready.halt {s : State} {c : Nat} (h : s.Ready c) :
    ∃ t, exec (.halt c 0 0 3) s = .next t ∧ s.OnlyCore t c ∧ (t.core c).rs = 0 ∧ (t.core c).pc = (s.core c).pc + 4 ∧ (t.core c).wait = none ∧
      (t.core c).stepping = false ∧ (t.core c).tm = (s.core c).tm ∧ (∀ r, (t.core c).s r = (s.core c).s r) ∧
      (t.core c).spad = (s.core c).spad ∧ (∀ n, n ≠ 1 → n ≠ 0x24 → n ≠ 0x25 → (t.core c).get n = (s.core c).get n) := by
  generalize hk : s.core c = k at *
  have ht : exec (.halt c 0 0 3) s = .next ((s.modCore c fun j => j.retire (k.pc + 4)).modCore c fun j => { j.setRs 0 with stepping := false }) := by
    refine congrArg Host.Outcome.next ?_
    rw [h.instr, hk]
    rfl
  have hc : ((s.modCore c fun j => j.retire (k.pc + 4)).modCore c fun j => { j.setRs 0 with stepping := false }).core c =
      { (k.retire (k.pc + 4)).setRs 0 with stepping := false } := by
    rw [State.core_modCore_same, State.core_modCore_same, hk]
  have hg (n : Nat) : Core.get { (k.retire (k.pc + 4)).setRs 0 with stepping := false } n =
      if n = 1 then setFld ((k.retire (k.pc + 4)).get 1) 0 3 0 else (k.retire (k.pc + 4)).get n := Core.get_setRs _ _ _
  refine ⟨_, ht, (State.onlyCore_modCore s c _).trans (State.onlyCore_modCore _ c _), ?_⟩
  rw [hc]
  refine ⟨Core.rs_setRs _ 0, (Core.retired k _).pc, (Core.retired k _).wait, rfl, ?_, fun r => ?_, ?_, fun n h1 h4 h5 => ?_⟩
  · unfold Core.tm
    rw [hg, if_pos rfl, bit_setFld _ _ _ _ _ (by decide), if_neg (by decide)]
    exact Core.bit_status_retire _ _ (by decide)
  · exact Core.s_retire k _ r
  · show (k.retire _).spad = k.spad
    rw [Core.retire_eq]; rfl
  · rw [hg, if_neg h1, Core.get_retire _ _ _ h1 h4 h5]

/-- What TRAP of a core outside a handler does (R92, R94): CC_TPC is the next instruction, CC_TVAL the number in IMM16[15:8]. -/
theorem State.Ready.trap {s : State} {c : Nat} {imm : BitVec 16} (h : s.Ready c) (htm : (s.core c).tm = false) (hi : imm.toNat % 256 = 0) :
    ∃ t, exec (.trap c 0 0 imm) s = .next t ∧ s.OnlyCore t c ∧ (t.core c).get 0x11 = 7 ∧
      (t.core c).get 0x12 = (((s.core c).pc + 4) &&& 0x7FFC#32) ∧ (t.core c).get 0x13 = BitVec.ofNat 32 (imm.toNat / 256) ∧ (t.core c).tm = true ∧
      (t.core c).ie = false ∧ bit ((t.core c).get 0x14) 4 = (s.core c).ie ∧ (t.core c).wait = none ∧
      (t.core c).pc = ((s.core c).get 0x10 &&& 0x7F80#32) + (if bit ((s.core c).get 0x10) 0 then 28 else 0) ∧
      (∀ r, (t.core c).s r = (s.core c).s r) ∧ (t.core c).spad = (s.core c).spad := by
  have hok : sysOk 0 0 0 imm = true := by simp [sysOk, hi]
  obtain ⟨w, o, hw, T, hwait, -⟩ := h.excAfter (u := s) htm (by decide : 7 < 2 ^ 29) (v := BitVec.ofNat 32 (imm.toNat / 256))
    (body := fun _ s => if sysOk 0 0 0 imm then .excAfter s 7 (BitVec.ofNat 32 (imm.toNat / 256)) else .exc s ILLEGAL 0) (if_pos hok)
  have hg (n : Nat) (h4 : n ≠ 0x24) (h5 : n ≠ 0x25) : (w.core c).get n = (s.core c).get n := by
    rw [hw]; exact Core.get_addTime _ _ _ _ h4 h5
  refine ⟨_, rfl, o.trans T.only, T.cause, T.tpc, T.tval, T.tm, T.ie, ?_, hwait, ?_, fun r => ?_, ?_⟩
  · rw [T.pie]; exact congrArg (bit · 4) (hg 1 (by decide) (by decide))
  · rw [T.pc, hg 0x10 (by decide) (by decide)]; rfl
  · rw [T.regs, hw]; rfl
  · rw [T.spad, hw]; rfl

theorem sysOk_false {sel : Nat} {rd ra : Reg} {imm : BitVec 16} (h : rd ≠ 0 ∨ ra ≠ 0 ∨ imm.toNat % 256 ≠ sel ∨ (sel ≠ 0 ∧ 256 ≤ imm.toNat)) :
    sysOk sel rd ra imm = false := by
  rw [Bool.eq_false_iff]
  intro e
  simp only [sysOk, Bool.and_eq_true, Bool.or_eq_true, beq_iff_eq, decide_eq_true_eq] at e
  obtain ⟨⟨⟨h1, h2⟩, h3⟩, h4⟩ := e
  rcases h with h | h | h | ⟨h, hi⟩
  · exact h h1
  · exact h h2
  · exact h h3
  · exact h4.elim h (by omega)

/-- A SYS instruction that its fields make ILLEGAL (R55, R92). -/
theorem State.Ready.sys_illegal {s : State} {c : Nat} (h : s.Ready c) (htm : (s.core c).tm = false) {sel : Nat} {rd ra : Reg} {imm : BitVec 16}
    (hok : sysOk sel rd ra imm = false) (r : Word → State → IRes) :
    s.Trapped (s.instr c fun pc s => if sysOk sel rd ra imm then r pc s else .exc s ILLEGAL 0) c 1 (s.core c).pc 0 :=
  h.illegal htm (by rw [hok]; rfl)

/-- TRET outside a handler, or with a field that must be 0 and is not, is ILLEGAL (R90, R95). -/
theorem State.Ready.tret_illegal {s : State} {c : Nat} (h : s.Ready c) (htm : (s.core c).tm = false) (rd ra : Reg) (imm : BitVec 16) :
    ∃ t, exec (.tret c rd ra imm) s = .next t ∧ s.Trapped t c 1 (s.core c).pc 0 :=
  ⟨_, rfl, h.illegal htm (by rw [htm, Bool.and_false]; rfl)⟩

/-- Settles O9. -/
theorem systemInstructionsTrapReturnAndHalt : Obligations.SystemInstructionsTrapReturnAndHalt := by
  intro s c rd ra imm h
  dsimp only
  refine ⟨fun htm n hn => ?_, fun htm => ⟨_, rfl, h.exc htm rfl (by decide)⟩, fun htm => ?_, ?_, fun htm => h.tret_illegal htm 0 0 2,
    fun htm hf => ⟨⟨_, rfl, h.sys_illegal htm (sysOk_false ?_) _⟩, h.tret_illegal htm rd ra imm, ⟨_, rfl, h.sys_illegal htm (sysOk_false ?_) _⟩⟩,
    fun htm hf => ⟨_, rfl, h.sys_illegal htm (sysOk_false ?_) _⟩⟩
  · have hi : (BitVec.ofNat 16 (256 * n)).toNat = 256 * n := by rw [BitVec.toNat_ofNat]; omega
    obtain ⟨t, ht, o, h1, h2, h3, h4, h5, h6, -, -, h7, -⟩ := h.trap (imm := BitVec.ofNat 16 (256 * n)) htm (by omega)
    rw [hi, Nat.mul_div_cancel_left _ (by decide)] at h3
    exact ⟨t, ht, o, h1, h2, h3, h6, h5, h4, h7⟩
  · obtain ⟨t, ht, o, h1, h2, h3, h4, -, h5⟩ := h.tret htm
    exact ⟨t, ht, o, h1, h2, h3, h4, h5⟩
  · obtain ⟨t, ht, o, h1, h2, h3, -, -, h4, -, h5⟩ := h.halt
    exact ⟨t, ht, o, h1, h2, h3, h4, h5⟩
  · exact hf.imp_right (·.imp_right fun hi => Or.inr ⟨by decide, hi⟩)
  · exact hf.imp_right (·.imp_right fun hi => Or.inr ⟨by decide, hi⟩)
  · exact hf.imp_right (·.imp_right Or.inl)

/-- Settles O47. -/
theorem systemInstructionsCompleteWithTheirFields : Obligations.SystemInstructionsCompleteWithTheirFields := by
  rintro s c _ _ imm h rfl rfl
  dsimp only
  refine ⟨fun htm hi => h.trap htm hi, fun htm hi => ⟨_, rfl, hi ▸ h.exc htm rfl (by decide)⟩, fun htm hi => ?_, fun hi => ?_⟩
  · obtain ⟨t, ht, o, h1, h2, h3, h4, h5, -⟩ := h.tret htm
    exact ⟨t, hi ▸ ht, o, h1, h2, h3, h4, h5⟩
  · obtain ⟨t, ht, o, h1, h2, h3, h4, h5, h6, h7, -⟩ := h.halt
    exact ⟨t, hi ▸ ht, o, h1, h2, h3, h4, h5, h6, h7⟩

end Sys2Proof.Machine
end

section
/-!
SUPPORT and proofs. Instruction words (spec/02 R54, R55, R83, R92).
-/

namespace Sys2Proof.Machine

theorem toNat_append_add {m n : Nat} (x : BitVec m) (y : BitVec n) : (x ++ y).toNat = x.toNat * 2 ^ n + y.toNat := by
  rw [BitVec.toNat_append, Nat.shiftLeft_eq, Nat.mul_comm, ← Nat.two_pow_add_eq_or_of_lt y.isLt]

/-- A field of a word is a stretch of its number. -/
theorem toNat_extract (w : Word) (lo len : Nat) : (w.extractLsb' lo len).toNat = w.toNat / 2 ^ lo % 2 ^ len := by
  rw [BitVec.extractLsb'_toNat, Nat.shiftRight_eq_div_pow]

section Formats
variable (op : BitVec 6) (rd ra rb rc : Reg) (fn : BitVec 6) (imm : BitVec 16) (off : BitVec 21) (csr : BitVec 12) (f : BitVec 4) (n b : Byte)

/-- The words of the formats of R54 and R83, and of SYS (R92). -/
def wordR : Word := op ++ rd ++ ra ++ rb ++ rc ++ fn
def wordI : Word := op ++ rd ++ ra ++ imm
def wordJ : Word := op ++ rd ++ off
def wordC : Word := op ++ rd ++ ra ++ csr ++ f
def wordS : Word := op ++ rd ++ ra ++ n ++ b

theorem toNat_wordR : (wordR op rd ra rb rc fn).toNat =
    op.toNat * 2 ^ 26 + rd.toNat * 2 ^ 21 + ra.toNat * 2 ^ 16 + rb.toNat * 2 ^ 11 + rc.toNat * 2 ^ 6 + fn.toNat := by
  unfold wordR
  simp only [toNat_append_add]
  omega
theorem toNat_wordI : (wordI op rd ra imm).toNat = op.toNat * 2 ^ 26 + rd.toNat * 2 ^ 21 + ra.toNat * 2 ^ 16 + imm.toNat := by
  unfold wordI
  simp only [toNat_append_add]
  omega
theorem toNat_wordJ : (wordJ op rd off).toNat = op.toNat * 2 ^ 26 + rd.toNat * 2 ^ 21 + off.toNat := by
  unfold wordJ
  simp only [toNat_append_add]
  omega
theorem wordC_eq : wordC op rd ra csr f = wordI op rd ra (csr ++ f) := by
  apply BitVec.eq_of_toNat_eq
  rw [toNat_wordI]
  unfold wordC
  simp only [toNat_append_add]
  omega
theorem wordS_eq : wordS op rd ra n b = wordI op rd ra (n ++ b) := by
  apply BitVec.eq_of_toNat_eq
  rw [toNat_wordI]
  unfold wordS
  simp only [toNat_append_add]
  omega

theorem wordR_fields : opOf (wordR op rd ra rb rc fn) = op ∧ rdOf (wordR op rd ra rb rc fn) = rd ∧ raOf (wordR op rd ra rb rc fn) = ra ∧
    rbOf (wordR op rd ra rb rc fn) = rb ∧ rcOf (wordR op rd ra rb rc fn) = rc ∧ fnOf (wordR op rd ra rb rc fn) = fn := by
  have h := toNat_wordR op rd ra rb rc fn
  have h1 := op.isLt; have h2 := rd.isLt; have h3 := ra.isLt; have h4 := rb.isLt; have h5 := rc.isLt; have h6 := fn.isLt
  refine ⟨?_, ?_, ?_, ?_, ?_, ?_⟩ <;> apply BitVec.eq_of_toNat_eq
  · rw [opOf, toNat_extract, h]; omega
  · rw [rdOf, toNat_extract, h]; omega
  · rw [raOf, toNat_extract, h]; omega
  · rw [rbOf, toNat_extract, h]; omega
  · rw [rcOf, toNat_extract, h]; omega
  · rw [fnOf, toNat_extract, h]; omega

theorem wordI_fields : opOf (wordI op rd ra imm) = op ∧ rdOf (wordI op rd ra imm) = rd ∧ raOf (wordI op rd ra imm) = ra ∧
    immOf (wordI op rd ra imm) = imm ∧ braOf (wordI op rd ra imm) = rd ∧ brbOf (wordI op rd ra imm) = ra := by
  have h := toNat_wordI op rd ra imm
  have h1 := op.isLt; have h2 := rd.isLt; have h3 := ra.isLt; have h4 := imm.isLt
  have hd : rdOf (wordI op rd ra imm) = rd := BitVec.eq_of_toNat_eq (by rw [rdOf, toNat_extract, h]; omega)
  have ha : raOf (wordI op rd ra imm) = ra := BitVec.eq_of_toNat_eq (by rw [raOf, toNat_extract, h]; omega)
  refine ⟨?_, hd, ha, ?_, hd, ha⟩ <;> apply BitVec.eq_of_toNat_eq
  · rw [opOf, toNat_extract, h]; omega
  · rw [immOf, toNat_extract, h]; omega

theorem wordJ_fields : opOf (wordJ op rd off) = op ∧ rdOf (wordJ op rd off) = rd ∧ off21Of (wordJ op rd off) = off := by
  have h := toNat_wordJ op rd off
  have h1 := op.isLt; have h2 := rd.isLt; have h3 := off.isLt
  refine ⟨?_, ?_, ?_⟩ <;> apply BitVec.eq_of_toNat_eq
  · rw [opOf, toNat_extract, h]; omega
  · rw [rdOf, toNat_extract, h]; omega
  · rw [off21Of, toNat_extract, h]; omega

theorem wordC_fields : opOf (wordC op rd ra csr f) = op ∧ rdOf (wordC op rd ra csr f) = rd ∧ raOf (wordC op rd ra csr f) = ra ∧
    csrOf (wordC op rd ra csr f) = csr ∧ cfnOf (wordC op rd ra csr f) = f.toNat := by
  have h := toNat_wordI op rd ra (csr ++ f)
  have h1 := op.isLt; have h2 := rd.isLt; have h3 := ra.isLt; have h4 := csr.isLt; have h5 := f.isLt
  rw [toNat_append_add] at h
  rw [wordC_eq]
  obtain ⟨a, b, c, -⟩ := wordI_fields op rd ra (csr ++ f)
  refine ⟨a, b, c, BitVec.eq_of_toNat_eq ?_, ?_⟩
  · rw [csrOf, toNat_extract, h]; omega
  · rw [cfnOf, toNat_extract, h]; omega

end Formats

section Meaning
variable {c : Nat} {op : BitVec 6} {rd ra rb rc : Reg} {fn : BitVec 6} {imm : BitVec 16} {off : BitVec 21}

theorem coreWord_wordR {F : Nat → Reg → Reg → Reg → Reg → BitVec 6 → Instr}
    (h : ∀ w, opOf w = op → coreWord c w = some (F c (rdOf w) (raOf w) (rbOf w) (rcOf w) (fnOf w))) :
    coreWord c (wordR op rd ra rb rc fn) = some (F c rd ra rb rc fn) := by
  obtain ⟨ho, h1, h2, h3, h4, h5⟩ := wordR_fields op rd ra rb rc fn
  rw [h _ ho, h1, h2, h3, h4, h5]

theorem coreWord_wordI {F : Nat → Reg → Reg → BitVec 16 → Instr}
    (h : ∀ w, opOf w = op → coreWord c w = some (F c (rdOf w) (raOf w) (immOf w))) :
    coreWord c (wordI op rd ra imm) = some (F c rd ra imm) := by
  obtain ⟨ho, h1, h2, h3, -⟩ := wordI_fields op rd ra imm
  rw [h _ ho, h1, h2, h3]

/-- Branches: the fields of format B stand where those of format I do. -/
theorem coreWord_wordB {F : Nat → Reg → Reg → BitVec 16 → Instr}
    (h : ∀ w, opOf w = op → coreWord c w = some (F c (braOf w) (brbOf w) (immOf w))) :
    coreWord c (wordI op rd ra imm) = some (F c rd ra imm) := coreWord_wordI h

theorem coreWord_wordJ {F : Nat → Reg → BitVec 21 → Instr} (h : ∀ w, opOf w = op → coreWord c w = some (F c (rdOf w) (off21Of w))) :
    coreWord c (wordJ op rd off) = some (F c rd off) := by
  obtain ⟨ho, h1, h2⟩ := wordJ_fields op rd off
  rw [h _ ho, h1, h2]

theorem coreWord_csr {w : Word} (h : opOf w = 0x3A#6) : coreWord c w = csrWord c w := by unfold coreWord; rw [h]; rfl
theorem coreWord_sys {w : Word} (h : opOf w = 0x3B#6) : coreWord c w = sysWord c w := by unfold coreWord; rw [h]; rfl

theorem coreWord_wordC {F : Nat → Reg → Reg → BitVec 12 → Instr} {f : BitVec 4} {csr : BitVec 12}
    (h : ∀ w, cfnOf w = f.toNat → csrWord c w = some (F c (rdOf w) (raOf w) (csrOf w))) :
    coreWord c (wordC 0x3A#6 rd ra csr f) = some (F c rd ra csr) := by
  obtain ⟨ho, h1, h2, h3, h4⟩ := wordC_fields 0x3A#6 rd ra csr f
  rw [coreWord_csr ho, h _ h4, h1, h2, h3]

theorem coreWord_wordS {F : Nat → Reg → Reg → BitVec 16 → Instr} {n b : Byte}
    (h : ∀ w, (immOf w).toNat % 256 = b.toNat → sysWord c w = some (F c (rdOf w) (raOf w) (immOf w))) :
    coreWord c (wordS 0x3B#6 rd ra n b) = some (F c rd ra (n ++ b)) := by
  rw [wordS_eq]
  obtain ⟨ho, h1, h2, h3, -⟩ := wordI_fields 0x3B#6 rd ra (n ++ b)
  have hb : (n ++ b).toNat % 256 = b.toNat := by
    have := b.isLt
    rw [toNat_append_add]; omega
  rw [coreWord_sys ho, h _ (by rw [h3]; exact hb), h1, h2, h3]

end Meaning

theorem toNat_opOf (w : Word) : (opOf w).toNat = w.toNat / 2 ^ 26 := by
  have := w.isLt
  rw [opOf, toNat_extract]; omega

/-- The reserved operation codes (R55). -/
def reservedOps : List Nat :=
  [0x00, 0x0E, 0x0F, 0x15, 0x16, 0x17, 0x1B, 0x1C, 0x1D, 0x1E, 0x1F, 0x28, 0x29, 0x2A, 0x2B, 0x2C, 0x2D, 0x2E, 0x2F, 0x35, 0x36, 0x37,
   0x3C, 0x3D, 0x3E, 0x3F]

theorem mem_reservedOps {n : Nat} (hn : n < 64)
    (h : n ∈ [0x00, 0x0E, 0x0F, 0x15, 0x16, 0x17, 0x35, 0x36, 0x37] ∨ (0x1B ≤ n ∧ n ≤ 0x1F) ∨ (0x28 ≤ n ∧ n ≤ 0x2F) ∨ 0x3C ≤ n) :
    n ∈ reservedOps := by
  revert n
  decide

theorem coreWord_reservedOp {w : Word} (c : Nat) (h : w.toNat / 2 ^ 26 ∈ reservedOps) : coreWord c w = none := by
  rw [← toNat_opOf] at h
  unfold coreWord
  generalize (opOf w).toNat = n at h
  simp only [reservedOps, List.mem_cons, List.not_mem_nil, or_false] at h
  rcases h with rfl | rfl | rfl | rfl | rfl | rfl | rfl | rfl | rfl | rfl | rfl | rfl | rfl | rfl | rfl | rfl | rfl | rfl | rfl | rfl | rfl |
    rfl | rfl | rfl | rfl | rfl <;> rfl

theorem csrWord_reserved {w : Word} (c : Nat) (h : w.toNat % 16 = 3 ∨ 7 ≤ w.toNat % 16) : csrWord c w = none := by
  have hf : cfnOf w = w.toNat % 16 := by rw [cfnOf, toNat_extract]; omega
  unfold csrWord
  rw [hf]
  split
  case h_7 => rfl
  all_goals omega

theorem sysWord_reserved {w : Word} (c : Nat) (h : 4 ≤ w.toNat % 256) : sysWord c w = none := by
  have hf : (immOf w).toNat % 256 = w.toNat % 256 := by rw [immOf, toNat_extract]; omega
  unfold sysWord
  rw [hf]
  split
  case h_5 => rfl
  all_goals omega

/-- Settles O48: the words of each format by their fields; what `coreWord` does not give is ILLEGAL. -/
theorem instructionWordsStandForTheirInstruction : Obligations.InstructionWordsStandForTheirInstruction := by
  intro s c rd ra rb rc fn imm off csr w
  refine ⟨coreWord_wordR fun w e => ?_, coreWord_wordR fun w e => ?_, coreWord_wordR fun w e => ?_, coreWord_wordR fun w e => ?_,
    coreWord_wordR fun w e => ?_, coreWord_wordR fun w e => ?_, coreWord_wordR fun w e => ?_, coreWord_wordR fun w e => ?_,
    coreWord_wordI fun w e => ?_, coreWord_wordI fun w e => ?_, coreWord_wordI fun w e => ?_, coreWord_wordI fun w e => ?_,
    coreWord_wordI fun w e => ?_, coreWord_wordI fun w e => ?_, coreWord_wordI fun w e => ?_, coreWord_wordI fun w e => ?_,
    coreWord_wordI fun w e => ?_, coreWord_wordI fun w e => ?_, coreWord_wordI fun w e => ?_, coreWord_wordI fun w e => ?_,
    coreWord_wordI fun w e => ?_, coreWord_wordI fun w e => ?_, coreWord_wordI fun w e => ?_, coreWord_wordI fun w e => ?_,
    coreWord_wordI fun w e => ?_, coreWord_wordI fun w e => ?_, coreWord_wordB fun w e => ?_, coreWord_wordB fun w e => ?_,
    coreWord_wordB fun w e => ?_, coreWord_wordB fun w e => ?_, coreWord_wordB fun w e => ?_, coreWord_wordB fun w e => ?_,
    coreWord_wordJ fun w e => ?_, coreWord_wordI fun w e => ?_, coreWord_wordI fun w e => ?_, coreWord_wordI fun w e => ?_,
    coreWord_wordC fun w e => ?_, coreWord_wordC fun w e => ?_, coreWord_wordC fun w e => ?_, coreWord_wordC fun w e => ?_,
    coreWord_wordC fun w e => ?_, coreWord_wordC fun w e => ?_,
    fun n => ⟨coreWord_wordS fun w e => ?_, coreWord_wordS fun w e => ?_, coreWord_wordS fun w e => ?_, coreWord_wordS fun w e => ?_⟩,
    fun e he => ?_, fun h htm hw => ?_⟩
  case refine_47 => unfold State.runWord; rw [he]
  case refine_48 =>
    have hn : coreWord c w = none := by
      have hlt := w.isLt
      rcases hw with rfl | rfl | hw | hw | hw | hw | ⟨ho, hw⟩ | ⟨ho, hw⟩
      · rfl
      · rfl
      · exact coreWord_reservedOp c (mem_reservedOps (by omega) (Or.inl hw))
      · exact coreWord_reservedOp c (mem_reservedOps (by omega) (Or.inr (Or.inl hw)))
      · exact coreWord_reservedOp c (mem_reservedOps (by omega) (Or.inr (Or.inr (Or.inl hw))))
      · exact coreWord_reservedOp c (mem_reservedOps (by omega) (Or.inr (Or.inr (Or.inr hw))))
      · rw [coreWord_csr (BitVec.eq_of_toNat_eq ((toNat_opOf w).trans ho))]; exact csrWord_reserved c hw
      · rw [coreWord_sys (BitVec.eq_of_toNat_eq ((toNat_opOf w).trans ho))]; exact sysWord_reserved c hw
    refine ⟨_, ?_, h.illegal htm (body := fun _ s => .exc s ILLEGAL 0) rfl⟩
    unfold State.runWord
    rw [hn]
  case refine_1 | refine_2 | refine_3 | refine_4 | refine_5 | refine_6 | refine_7 | refine_8 | refine_9 | refine_10 | refine_11 |
      refine_12 | refine_13 | refine_14 | refine_15 | refine_16 | refine_17 | refine_18 | refine_19 | refine_20 | refine_21 | refine_22 |
      refine_23 | refine_24 | refine_25 | refine_26 | refine_27 | refine_28 | refine_29 | refine_30 | refine_31 | refine_32 | refine_33 |
      refine_34 | refine_35 | refine_36 =>
    unfold coreWord; rw [e]; rfl
  case refine_37 | refine_38 | refine_39 | refine_40 | refine_41 | refine_42 =>
    unfold csrWord; rw [e]; rfl
  case refine_43 | refine_44 | refine_45 | refine_46 =>
    unfold sysWord; rw [e]; rfl

end Sys2Proof.Machine
end

section
/-!
SUPPORT and proofs. Interrupts, POLLQ, WAITQ and FENCE, and the ends of their waits (spec/02 R53, R76, R78, R91-R94).
-/

namespace Sys2Proof.Machine

/-! ### Counts of waiting -/

theorem State.Counted.refl (s : State) (c : Nat) : s.Counted s c := ⟨rfl, fun _ _ => rfl, rfl, fun _ _ => rfl, fun _ _ => rfl⟩

theorem State.Counted.trans {a b d : State} {c : Nat} (h : a.Counted b c) (g : b.Counted d c) : a.Counted d c := by
  refine ⟨?_, fun k hk => (g.regs k hk).trans (h.regs k hk), ?_, fun n hn => (g.csrs n hn).trans (h.csrs n hn),
    fun x hx => (g.others x hx).trans (h.others x hx)⟩
  · rw [g.state, h.state]
  · rw [g.core, h.core]

theorem State.Counted.freeVal (s : State) (c : Nat) : s.Counted s.freeVal.2 c := ⟨rfl, fun _ _ => rfl, rfl, fun _ _ => rfl, fun _ _ => rfl⟩

theorem State.Counted.bumpCsr (s : State) (c n d : Nat) (h : 0x2B0 ≤ n) (h1 : n < 0x2B3) : s.Counted (s.bumpCsr c n d) c := by
  obtain ⟨v, u, q, -, -⟩ := State.bumpCsr_eq s c n d
  obtain ⟨k, -, o⟩ := State.bumpCsr_core s c n d
  refine ⟨?_, fun j hj => q.regs j hj, k.core, fun j hj => k.csrs j (by omega), o⟩
  rw [q.state]; rfl

/-- What counting the waits under way changes (R412, R413). -/
theorem State.Counted.stallTick (s : State) (c : Nat) : s.Counted (s.stallTick c) c := by
  have step (b : Bool) (n : Nat) (h : 0x2B0 ≤ n) (h1 : n < 0x2B3) (u : State) :
      u.Counted (if b then u.freeVal.2.bumpCsr c n u.freeVal.1.toNat else u) c := by
    split
    · exact (State.Counted.freeVal u c).trans (.bumpCsr _ c n _ h h1)
    · exact .refl u c
  unfold State.stallTick
  dsimp only
  split
  · exact .refl s c
  · exact (step _ 0x2B0 (by decide) (by decide) s).trans (step _ 0x2B2 (by decide) (by decide) _)

section
variable {s u : State} {c : Nat} (h : s.Counted u c)
include h

theorem State.Counted.get {n : Nat} (hn : n < 0x2B0 ∨ 0x2B4 ≤ n) : (u.core c).get n = (s.core c).get n := h.csrs n hn
theorem State.Counted.rs : (u.core c).rs = (s.core c).rs := congrArg (fld · 0 3) (h.get (Or.inl (by decide)))
theorem State.Counted.ie : (u.core c).ie = (s.core c).ie := congrArg (bit · 4) (h.get (Or.inl (by decide)))
theorem State.Counted.tm : (u.core c).tm = (s.core c).tm := congrArg (bit · 3) (h.get (Or.inl (by decide)))
theorem State.Counted.pc : (u.core c).pc = (s.core c).pc := by rw [h.core]
theorem State.Counted.regS (r : Reg) : (u.core c).s r = (s.core c).s r := by rw [h.core]; rfl
theorem State.Counted.spad : (u.core c).spad = (s.core c).spad := by rw [h.core]
theorem State.Counted.faults : (u.core c).faults = (s.core c).faults := by rw [h.core]
theorem State.Counted.queueRecs (q : Nat) : (u.core c).queueRecs q = (s.core c).queueRecs q := by rw [h.core]; rfl
theorem State.Counted.ready (mask : Nat) : (u.core c).ready mask = (s.core c).ready mask := by
  unfold Core.ready; simp only [h.queueRecs]

theorem State.Counted.tpend : (u.core c).tpend = (s.core c).tpend := by
  have hr (q : Nat) : (u.core c).rxq q = (s.core c).rxq q := by rw [h.core]; rfl
  unfold Core.tpend Core.cf
  simp only [h.get (n := 0x17) (by decide), h.get (n := 0x30) (by decide), h.get (n := 0x18) (by decide), h.faults, hr]

theorem State.Counted.irq : (u.core c).irq = (s.core c).irq := by
  unfold Core.irq
  rw [h.ie, h.tm, h.tpend, h.get (n := 0x16) (by decide)]

theorem State.Counted.irqVal (n : Nat) : (u.core c).irqVal n = (s.core c).irqVal n := by
  unfold Core.irqVal
  rw [h.faults]
end

/-! ### Interrupts -/

/-- The lowest enabled pending interrupt (R93). -/
theorem Core.irq_eq_some {k : Core} {n : Nat} (hn : n < 8) (hie : k.ie = true) (htm : k.tm = false) (hp : bit k.tpend n = true)
    (he : bit (k.get 0x16) n = true) (hm : ∀ m, m < n → bit k.tpend m = false ∨ bit (k.get 0x16) m = false) : k.irq = some n := by
  unfold Core.irq
  simp only [hie, htm, Bool.not_false, Bool.and_self, if_true, List.find?_range_eq_some]
  refine ⟨by rw [hp, he]; rfl, List.mem_range.2 hn, fun m hl => ?_⟩
  rcases hm m hl with e | e <;> simp [e]

theorem Core.irq_eq_none {k : Core} (h : k.ie = false ∨ k.tm = true ∨ ∀ m, m < 8 → bit k.tpend m = false ∨ bit (k.get 0x16) m = false) :
    k.irq = none := by
  unfold Core.irq
  rcases h with h | h | h
  · rw [h]; rfl
  · rw [h, Bool.not_true, Bool.and_false]; rfl
  · split
    · refine List.find?_eq_none.2 fun m hm => ?_
      rcases h m (List.mem_range.1 hm) with e | e <;> simp [e]
    · rfl

theorem State.modCore_congr (s : State) (c : Nat) {f g : Core → Core} (h : f (s.core c) = g (s.core c)) : s.modCore c f = s.modCore c g :=
  congrArg (s.setCore c) h

/-- A change of a core that gives the same core leaves every core as it was. -/
theorem State.Counted.modCore_self {s u : State} {c : Nat} (h : s.Counted u c) {f : Core → Core} (hf : f (u.core c) = u.core c) :
    s.Counted (u.modCore c f) c := by
  have e : (u.modCore c f).core c = u.core c := by rw [State.core_modCore_same, hf]
  refine ⟨?_, h.regs, ?_, fun n hn => ?_, fun x hx => ?_⟩
  · conv => lhs; rw [h.state]
    rfl
  · rw [e]; exact h.core
  · rw [e]; exact h.csrs n hn
  · rw [State.core_modCore_ne _ _ hx]; exact h.others x hx

/-- Settles O11. -/
theorem anInterruptIsTakenLowestFirst : Obligations.AnInterruptIsTakenLowestFirst := by
  intro s c n hc hr
  dsimp only
  have hu := State.Counted.stallTick s c
  have ht : exec (.interrupt c) s = .next ((s.stallTick c).modCore c Core.takeIrq) := congrArg Host.Outcome.next (if_pos hc)
  generalize s.stallTick c = u at hu ht
  have hru : (u.core c).rs = 1 ∨ (u.core c).rs = 2 := by rw [hu.rs]; exact hr
  refine ⟨fun hn hie htm hp he hm => ?_, fun h => ?_⟩
  · have hi : (u.core c).irq = some n := hu.irq.trans (Core.irq_eq_some hn hie htm hp he hm)
    have hx : u.modCore c Core.takeIrq =
        u.modCore c fun k => k.enterTrap (16 + n) true (s.core c).pc ((s.core c).irqVal n) := by
      refine State.modCore_congr u c ?_
      unfold Core.takeIrq
      rw [if_pos hru, hi, hu.pc]
      dsimp only
      rw [hu.irqVal]
    rw [hx] at ht
    refine ⟨_, u, ht, hu, State.trapped_enterTrap u c (16 + n) true _ _ (by omega), ?_⟩
    rw [State.core_modCore_same, Core.wait_enterTrap]
  · have hi : (u.core c).irq = none := hu.irq.trans (Core.irq_eq_none h)
    refine ⟨_, ht, hu.modCore_self ?_⟩
    unfold Core.takeIrq
    rw [if_pos hru, hi]

/-! ### POLLQ and WAITQ -/

/-- A sum of distinct powers of two has just their bits. -/
theorem testBit_sum_two_pow (p : Nat → Bool) (n : Nat) :
    ((List.range n).map fun q => if p q then 2 ^ q else 0).sum < 2 ^ n ∧
      ∀ q, q < n → (((List.range n).map fun q => if p q then 2 ^ q else 0).sum).testBit q = p q := by
  induction n with
  | zero => exact ⟨by simp, fun q hq => absurd hq (Nat.not_lt_zero q)⟩
  | succ n ih =>
    obtain ⟨hl, hb⟩ := ih
    rw [List.range_succ, List.map_append, List.sum_append]
    generalize ((List.range n).map fun q => if p q then 2 ^ q else 0).sum = x at hl hb ⊢
    have hx : x + ([n].map fun q => if p q then 2 ^ q else 0).sum = 2 ^ n * (if p n then 1 else 0) + x := by
      cases hp : p n <;> simp [hp, Nat.add_comm]
    rw [hx]
    refine ⟨?_, fun q hq => ?_⟩
    · split <;> omega
    · rw [Nat.two_pow_add_eq_or_of_lt hl, Nat.testBit_or, Nat.mul_comm, Nat.testBit_mul_two_pow]
      rcases Nat.lt_succ_iff_lt_or_eq.1 hq with hq | rfl
      · rw [hb q hq, decide_eq_false (by omega), Bool.false_and, Bool.false_or]
      · rw [Nat.testBit_lt_two_pow hl, Nat.sub_self]
        cases p q <;> simp

/-- The mask that POLLQ and WAITQ give is that of the selected queues that are not empty (R76). -/
theorem Core.isReady_ready (k : Core) (mask : Nat) : k.IsReady mask (k.ready mask) := by
  obtain ⟨hl, hb⟩ := testBit_sum_two_pow (fun q => mask.testBit q && !(k.queueRecs q).isEmpty) 13
  unfold Core.IsReady Core.ready
  rw [BitVec.toNat_ofNat, Nat.mod_eq_of_lt (hl.trans (by decide))]
  exact ⟨hl, hb⟩

theorem Core.ready_ne_zero_iff (k : Core) (mask : Nat) : k.ready mask ≠ 0 ↔ k.SomeReady mask := by
  obtain ⟨hl, hb⟩ := k.isReady_ready mask
  constructor
  · intro hz
    have hn : (k.ready mask).toNat ≠ 0 := fun e => hz (BitVec.eq_of_toNat_eq e)
    obtain ⟨q, hq⟩ := Nat.exists_testBit_of_ne_zero hn
    have h13 : q < 13 := by
      by_contra hc
      rw [Nat.testBit_lt_two_pow (hl.trans_le (Nat.pow_le_pow_right (by decide) (not_lt.1 hc)))] at hq
      cases hq
    rw [hb q h13] at hq
    simp only [Bool.and_eq_true, Bool.not_eq_true', List.isEmpty_eq_false_iff] at hq
    exact ⟨q, h13, hq⟩
  · rintro ⟨q, h13, hm, hr⟩ hz
    have := hb q h13
    rw [hz, hm] at this
    simp [hr] at this

/-- Settles O12. -/
theorem pollqAndWaitqSelectNonEmptyQueues : Obligations.PollqAndWaitqSelectNonEmptyQueues := by
  intro s c rd ra rb rc fn h
  dsimp only
  have hz : ¬ ((0 : Reg) ≠ 0 ∨ (0 : Reg) ≠ 0 ∨ (0 : BitVec 6) ≠ 0) := by decide
  refine ⟨⟨_, _, rfl, Core.isReady_ready _ _, h.writes (if_neg hz)⟩, fun hr => ?_, fun hr => ?_, fun htm hf => ⟨⟨_, rfl, ?_⟩, ⟨_, rfl, ?_⟩⟩⟩
  · refine ⟨_, _, rfl, Core.isReady_ready _ _, h.writes ?_⟩
    dsimp only
    rw [if_neg hz, if_pos ((Core.ready_ne_zero_iff _ _).2 hr)]
  · refine ⟨_, rfl, h.nowWaits ?_⟩
    dsimp only
    rw [if_neg hz, if_neg fun e => hr ((Core.ready_ne_zero_iff _ _).1 e)]
  · exact h.illegal htm (if_pos hf)
  · exact h.illegal htm (if_pos hf)

/-! ### FENCE -/

/-- What FENCE waits for, by the bits of its mask (R78). -/
theorem Core.fenceDone_iff (k : Core) (m : Nat) : k.fenceDone m = true ↔
    (m.testBit 0 → k.sendq = []) ∧ (m.testBit 1 → k.sacc = [] ∧ k.saccFar = []) ∧
      (m.testBit 2 → ∀ e, e < 4 → (k.eng e).queue = [] ∧ (k.eng e).jobs = []) ∧ (m.testBit 3 → (k.eng 4).queue = [] ∧ (k.eng 4).jobs = []) := by
  have he (e : Nat) : k.engDone e = true ↔ (k.eng e).queue = [] ∧ (k.eng e).jobs = [] := by
    unfold Core.engDone; rw [Bool.and_eq_true, List.isEmpty_iff, List.isEmpty_iff]
  have hb (b x : Bool) : (!b || x) = true ↔ (b = true → x = true) := by cases b <;> simp
  unfold Core.fenceDone
  simp only [Bool.and_eq_true, hb, List.isEmpty_iff, List.all_eq_true, List.mem_range, he, and_assoc]

/-- Settles O14. -/
theorem fenceWaitsForItsConditions : Obligations.FenceWaitsForItsConditions := by
  intro s c rd ra imm h
  dsimp only
  have hz (hm : imm.toNat < 16) : ¬ ((0 : Reg) ≠ 0 ∨ (0 : Reg) ≠ 0 ∨ 16 ≤ imm.toNat) := by
    rintro (e | e | e); exacts [e rfl, e rfl, by omega]
  rw [← Core.fenceDone_iff]
  refine ⟨fun hm hd => ⟨_, rfl, h.writesNone ?_⟩, fun hm hd => ⟨_, rfl, h.nowWaits ?_⟩, fun htm hf => ⟨_, rfl, h.illegal htm (if_pos hf)⟩⟩
  · rw [if_neg (hz hm), if_pos hd]
  · rw [if_neg (hz hm), if_neg hd]

/-! ### The ends of waits -/

/-- A core that has changed alone, by writing one register and retiring. -/
theorem State.writes_of {s t : State} {c : Nat} {rd : Reg} {v npc : Word} (o : s.OnlyCore t c)
    (e : t.core c = ((s.core c).setS rd v).retire npc) : s.Writes t c npc rd v := by
  obtain ⟨h1, h2, h3, h4⟩ := Core.setS_retire (s.core c) rd v npc
  exact ⟨o, e ▸ h1, e ▸ h2, e ▸ h3, e ▸ h4⟩

theorem State.Waits.exec_waitqWake {s : State} {c : Nat} {rd : Reg} {mask : Nat} (h : s.Waits c (.waitq rd mask)) :
    exec (.waitqWake c) s = .next (if (s.core c).ready mask ≠ 0 then
      (s.stallTick c).modCore c fun k => (k.setS rd (k.ready mask)).retire (k.pc + 4) else s) := by
  refine congrArg Host.Outcome.next ?_
  rw [h.wait, h.rs]
  simp only [true_and]

theorem State.Waits.exec_fenceComplete {s : State} {c : Nat} {mask : Nat} (h : s.Waits c (.fence mask)) :
    exec (.fenceComplete c) s = .next (if ((s.core c).farAccepted mask).fenceDone mask = true then
      s.modCore c fun k => (k.farAccepted mask).retire (k.pc + 4) else s) := by
  refine congrArg Host.Outcome.next ?_
  dsimp only
  rw [h.wait, h.rs]
  simp only [true_and]

/-- Settles O13. -/
theorem waitsEndWhenTheirConditionHolds : Obligations.WaitsEndWhenTheirConditionHolds := by
  intro s c
  dsimp only
  refine ⟨fun rd mask h hr => ?_, fun rd mask h hr => ?_, fun mask h hd => ?_, fun mask h hd => ?_, fun hw => ?_⟩
  · have hu := State.Counted.stallTick s c
    rw [h.exec_waitqWake, if_pos ((Core.ready_ne_zero_iff _ _).2 hr)]
    refine ⟨_, s.stallTick c, (s.core c).ready mask, rfl, hu, Core.isReady_ready _ _, State.writes_of (State.onlyCore_modCore _ c _) ?_⟩
    rw [State.core_modCore_same, hu.ready, hu.pc]
  · rw [h.exec_waitqWake, if_neg fun e => hr ((Core.ready_ne_zero_iff _ _).1 e)]
  · rw [h.exec_fenceComplete, if_pos hd]
    refine ⟨_, rfl, State.writes_of ⟨rfl, fun x hx => ?_⟩ ?_⟩
    · rw [State.core_modCore_ne _ _ hx, State.core_setCore_ne _ _ hx]
    · rw [State.core_modCore_same, State.core_setCore_same]; rfl
  · rw [h.exec_fenceComplete, hd]; rfl
  · refine ⟨congrArg Host.Outcome.next ?_, congrArg Host.Outcome.next ?_, congrArg Host.Outcome.next ?_, congrArg Host.Outcome.next ?_⟩ <;>
      simp only [hw]

end Sys2Proof.Machine
end

section
/-!
SUPPORT and proofs. Loads and stores (spec/02 R59, R90; spec/03 R109, R110).
-/

namespace Sys2Proof.Machine

theorem inSpad_of_le {a n : Nat} (h : a + n ≤ 0x30000) : inSpad a n = true := decide_eq_true h
theorem notInSpad {a n : Nat} (h : 0x30000 < a + n) : (!inSpad a n) = true := by
  rw [Bool.not_eq_true']; exact decide_eq_false (not_le.2 h)
theorem not_notInSpad {a n : Nat} (h : a + n ≤ 0x30000) : ¬ (!inSpad a n) = true := by rw [inSpad_of_le h]; decide

/-! ### Accounting for failing words keeps what an instruction reads -/

section
variable {s u : State} {c : Nat} (h : s.Scanned u c)
include h

theorem State.Scanned.get {n : Nat} (hn : ¬ spadCsr n) : (u.core c).get n = (s.core c).get n := h.csrs n hn
theorem State.Scanned.tm : (u.core c).tm = (s.core c).tm := congrArg (bit · 3) (h.get (by unfold spadCsr; omega))
theorem State.Scanned.pc : (u.core c).pc = (s.core c).pc := by rw [h.core]
theorem State.Scanned.spad : (u.core c).spad = (s.core c).spad := by rw [h.core]
theorem State.Scanned.regS (r : Reg) : (u.core c).s r = (s.core c).s r := by rw [h.core]; rfl
end

theorem Core.Wrote.congr {k j k' : Core} {rd : Reg} {v : Word} (h : k.Wrote k' rd v) (hs : ∀ r, k.s r = j.s r) : j.Wrote k' rd v :=
  ⟨h.dest, h.zero, fun r hr => (h.regs r hr).trans (hs r)⟩

/-! ### Loads -/

/-- The value a load of n bytes at `a` gives (R59). -/
def Core.loadValue (k : Core) (a n : Nat) (signed : Bool) : Word :=
  if signed then wordOfInt (sfld (leNat (k.spad.getN byte0 a n)) 0 (8 * n)) else BitVec.ofNat 32 (leNat (k.spad.getN byte0 a n))

/-- The low `m` bits of a value read as a two's complement integer, and as a word. -/
theorem sfld_toNat {m : Nat} (x : BitVec m) (hm : 0 < m) : sfld x.toNat 0 m = x.toInt := by
  have hx := x.isLt
  have hp : 2 ^ m = 2 * 2 ^ (m - 1) := by rw [← Nat.pow_succ']; congr; omega
  have hv : nfld x.toNat 0 m = x.toNat := by unfold nfld; rw [Nat.shiftRight_zero, Nat.mod_eq_of_lt hx]
  unfold sfld
  rw [hv, BitVec.toInt_eq_toNat_cond]
  dsimp only
  by_cases h : x.toNat < 2 ^ (m - 1)
  · rw [if_pos h, if_pos (by omega)]
  · rw [if_neg h, if_neg (by omega)]; norm_cast

theorem wordOfInt_toInt {m : Nat} (x : BitVec m) (hm : m ≤ 32) : wordOfInt x.toInt = x.signExtend 32 := by
  apply BitVec.eq_of_toInt_eq
  rw [wordOfInt, BitVec.toInt_ofInt, BitVec.toInt_signExtend_of_le hm, ← BitVec.toInt_signExtend_of_le (v := 32) hm,
    ← BitVec.toInt_ofInt, BitVec.ofInt_toInt]

section
variable (k : Core) (a : Nat)

theorem Core.loadValue_byte_signed : k.loadValue a 1 true = (k.spadByte a).signExtend 32 := by
  rw [Core.loadValue, leNat_getN1, if_pos rfl, sfld_toNat _ (by decide), wordOfInt_toInt _ (by decide)]
theorem Core.loadValue_half_signed : k.loadValue a 2 true = (k.spadHalf a).signExtend 32 := by
  rw [Core.loadValue, leNat_getN2, if_pos rfl, sfld_toNat _ (by decide), wordOfInt_toInt _ (by decide)]
theorem Core.loadValue_byte : k.loadValue a 1 false = (k.spadByte a).zeroExtend 32 := by
  rw [Core.loadValue, leNat_getN1]; exact BitVec.ofNat_toNat ..
theorem Core.loadValue_half : k.loadValue a 2 false = (k.spadHalf a).zeroExtend 32 := by
  rw [Core.loadValue, leNat_getN2]; exact BitVec.ofNat_toNat ..
theorem Core.loadValue_word : k.loadValue a 4 false = k.spadWord a := by
  rw [Core.loadValue, leNat_getN4]; exact (BitVec.ofNat_toNat ..).trans (BitVec.setWidth_eq _)
end

section
variable {s : State} {c : Nat} (h : s.Ready c) {rd ra : Reg} {imm : BitVec 16} {n : Nat} (signed : Bool)
include h

/-- MISALIGN comes before ACCESS (R90). -/
theorem State.Ready.load_misaligned (htm : (s.core c).tm = false) (ha : ((s.core c).s ra + sx16 imm).toNat % n ≠ 0) :
    s.Trapped (s.loadInstr c rd ra imm n signed) c 4 (s.core c).pc ((s.core c).s ra + sx16 imm) :=
  h.exc htm (if_pos ha) (by decide)

theorem State.Ready.load_outside (htm : (s.core c).tm = false) (ha : ((s.core c).s ra + sx16 imm).toNat % n = 0)
    (hx : 0x30000 < ((s.core c).s ra + sx16 imm).toNat + n) :
    s.Trapped (s.loadInstr c rd ra imm n signed) c 5 (s.core c).pc ((s.core c).s ra + sx16 imm) :=
  h.exc htm ((if_neg (not_not.2 ha)).trans (if_pos (notInSpad hx))) (by decide)

/-- A load of bytes in the scratchpad: it retires with its value, or raises SPAD_UE where a word was uncorrectable. -/
theorem State.Ready.load_inside (ha : ((s.core c).s ra + sx16 imm).toNat % n = 0) (hx : ((s.core c).s ra + sx16 imm).toNat + n ≤ 0x30000) :
    ∃ u, s.Scanned u c ∧ (errIn (s.core c).spadErr 8 ((s.core c).s ra + sx16 imm).toNat n = [] → u = s) ∧
      ((∀ e ∈ errIn (s.core c).spadErr 8 ((s.core c).s ra + sx16 imm).toNat n, e.2 = 1) →
        s.loadInstr c rd ra imm n signed = (u.modCore c fun k =>
          k.setS rd ((s.core c).loadValue ((s.core c).s ra + sx16 imm).toNat n signed)).modCore c fun k => k.retire ((s.core c).pc + 4)) ∧
      ((∃ e ∈ errIn (s.core c).spadErr 8 ((s.core c).s ra + sx16 imm).toNat n, e.2 ≠ 1) →
        s.loadInstr c rd ra imm n signed = u.exception c 6 (s.core c).pc ((s.core c).s ra + sx16 imm)) := by
  generalize hA : (s.core c).s ra + sx16 imm = a at ha hx ⊢
  obtain ⟨hs, hd, hok, hbad⟩ := State.spadRead_spec s c a.toNat n 6 1
  have hclean := State.spadRead_clean (s := s) (c := c) (a := a.toNat) (n := n) 6 1
  rcases hr : s.spadRead c a.toNat n 6 1 with ⟨u, d, o⟩
  rw [hr] at hs hd hok hbad hclean
  refine ⟨u, hs, fun he => (Prod.mk.inj (hclean he)).1, ?_, ?_⟩
  all_goals
    intro he
    unfold State.loadInstr
    rw [h.instr, hA]
    dsimp only
    rw [if_neg (not_not.2 ha), if_neg (not_notInSpad hx), hr]
  · obtain rfl : o = none := hok he
    obtain rfl : d = (s.core c).spad.getN byte0 a.toNat n := hd
    rfl
  · obtain ⟨w, rfl⟩ := Option.isSome_iff_exists.1 (hbad he)
    rfl
end

/-- Settles O5: the five loads are one instruction, at three widths and two extensions. -/
theorem loadsReadTheScratchpad : Obligations.LoadsReadTheScratchpad := by
  intro s c rd ra imm h k a x load
  have key (n : Nat) (signed : Bool) {i : Instr} {v : Word} (hi : exec i s = .next (s.loadInstr c rd ra imm n signed))
      (hv : k.loadValue x n signed = v) : load i n v := by
    subst hv
    refine ⟨fun ha hx => ?_, fun htm ha => ⟨_, hi, h.load_misaligned signed htm ha⟩, fun htm ha hx => ⟨_, hi, h.load_outside signed htm ha hx⟩⟩
    obtain ⟨u, hs, hclean, hok, hbad⟩ := h.load_inside (rd := rd) signed ha hx
    have W := State.writes_put (s := u) (c := c) rd (k.loadValue x n signed) (k.pc + 4)
    refine ⟨fun he => ⟨_, hi, ?_⟩, fun he => ⟨_, hi, ?_⟩, fun he htm => ⟨_, hi, ?_⟩⟩
    · rw [hok fun e hm => absurd (he ▸ hm) (List.not_mem_nil), hclean he]
      rw [hclean he] at W
      exact W
    · rw [hok he]
      exact ⟨W.wrote.congr hs.regS, W.retired.pc⟩
    · rw [hbad he]
      have T := State.trapped_exception (s := u) (c := c) (code := 6) (tpc := k.pc) (tval := a) (hs.tm.trans htm) (by decide)
      exact ⟨T.cause, T.tpc, T.tval, T.tm, fun r => (T.regs r).trans (hs.regS r), T.spad.trans hs.spad⟩
  exact ⟨key 1 true rfl (k.loadValue_byte_signed x), key 1 false rfl (k.loadValue_byte x), key 2 true rfl (k.loadValue_half_signed x),
    key 2 false rfl (k.loadValue_half x), key 4 false rfl (k.loadValue_word x)⟩

/-! ### Stores -/

section
variable {s : State} {c : Nat} (h : s.Ready c) {rd ra : Reg} {imm : BitVec 16} {n : Nat}
include h

theorem State.Ready.store_misaligned (htm : (s.core c).tm = false) (ha : ((s.core c).s ra + sx16 imm).toNat % n ≠ 0) :
    s.Trapped (s.storeInstr c rd ra imm n) c 4 (s.core c).pc ((s.core c).s ra + sx16 imm) :=
  h.exc htm (if_pos ha) (by decide)

theorem State.Ready.store_outside (htm : (s.core c).tm = false) (ha : ((s.core c).s ra + sx16 imm).toNat % n = 0)
    (hx : 0x30000 < ((s.core c).s ra + sx16 imm).toNat + n) :
    s.Trapped (s.storeInstr c rd ra imm n) c 5 (s.core c).pc ((s.core c).s ra + sx16 imm) :=
  h.exc htm ((if_neg (not_not.2 ha)).trans (if_pos (notInSpad hx))) (by decide)

theorem State.Ready.store_inside (ha : ((s.core c).s ra + sx16 imm).toNat % n = 0) (hx : ((s.core c).s ra + sx16 imm).toNat + n ≤ 0x30000)
    (he : errIn (s.core c).spadErr 8 ((s.core c).s ra + sx16 imm).toNat n = []) :
    s.Stores (s.storeInstr c rd ra imm n) c ((s.core c).pc + 4) ((s.core c).s ra + sx16 imm).toNat n ((s.core c).s rd) := by
  have hw := State.spadWrite_clean (s := s) (c := c) (a := ((s.core c).s ra + sx16 imm).toNat) (d := leBytes n ((s.core c).s rd).toNat) 6 0
    (by rw [length_leBytes]; exact he)
  unfold State.storeInstr
  rw [h.instr]
  dsimp only
  rw [if_neg (not_not.2 ha), if_neg (not_notInSpad hx), hw]
  exact State.stores_put _ _ n _
end

/-- Settles O6. -/
theorem storesWriteTheScratchpad : Obligations.StoresWriteTheScratchpad := by
  intro s c rd ra imm h k a x store
  have key (n : Nat) {i : Instr} (hi : exec i s = .next (s.storeInstr c rd ra imm n)) : store i n :=
    ⟨fun ha hx he => ⟨_, hi, h.store_inside ha hx he⟩, fun htm ha => ⟨_, hi, h.store_misaligned htm ha⟩,
      fun htm ha hx => ⟨_, hi, h.store_outside htm ha hx⟩⟩
  exact ⟨key 1 rfl, key 2 rfl, key 4 rfl⟩

end Sys2Proof.Machine
end

section
/-!
SUPPORT and proofs. ISSUE and RECV (spec/02 R67-R71, R74, R91).
-/

namespace Sys2Proof.Machine

/-! ### What writing a register and retiring leave of a core -/

@[simp] theorem Core.eng_setS (k : Core) (r : Reg) (v : Word) (e : Nat) : (k.setS r v).eng e = k.eng e := by rw [Core.setS_rest]; rfl
@[simp] theorem Core.spad_setS (k : Core) (r : Reg) (v : Word) : (k.setS r v).spad = k.spad := by rw [Core.setS_rest]
@[simp] theorem Core.pc_setS (k : Core) (r : Reg) (v : Word) : (k.setS r v).pc = k.pc := by rw [Core.setS_rest]
@[simp] theorem Core.rx_setS (k : Core) (r : Reg) (v : Word) : (k.setS r v).rx = k.rx := by rw [Core.setS_rest]
@[simp] theorem Core.eng_retire (k : Core) (npc : Word) (e : Nat) : (k.retire npc).eng e = k.eng e := by rw [Core.retire_eq]; rfl
@[simp] theorem Core.spad_retire (k : Core) (npc : Word) : (k.retire npc).spad = k.spad := by rw [Core.retire_eq]; rfl
@[simp] theorem Core.rx_retire (k : Core) (npc : Word) : (k.retire npc).rx = k.rx := by rw [Core.retire_eq]; rfl
@[simp] theorem Core.pc_retire (k : Core) (npc : Word) : (k.retire npc).pc = npc := (Core.retired k npc).pc
@[simp] theorem Core.wait_retire (k : Core) (npc : Word) : (k.retire npc).wait = none := (Core.retired k npc).wait

/-- Writing a register and retiring, on a core whose registers are those of `k`. -/
theorem Core.wrote_setS_retire {k j : Core} (rd : Reg) (v npc : Word) (h : ∀ r, j.s r = k.s r) : k.Wrote ((j.setS rd v).retire npc) rd v :=
  (Core.setS_retire j rd v npc).2.1.congr h

/-! ### ISSUE -/

theorem State.issueNow_clean {s : State} {c : Nat} {ra : Reg} (rd : Reg) (fn : Nat) (pc : Word)
    (he : errIn (s.core c).spadErr 8 ((s.core c).s ra).toNat 32 = []) :
    s.issueNow c rd ra fn pc = .retire (s.enqueue c (fn % 8) ((s.core c).s ra).toNat (fn.testBit 4)
      ((s.core c).spad.getN byte0 ((s.core c).s ra).toNat 32) rd pc) (pc + 4) := by
  unfold State.issueNow
  dsimp only
  rw [State.spadRead_clean 6 1 he]

/-- A descriptor joins its queue and the ISSUE retires. -/
theorem State.issued_enqueue (s : State) (c : Nat) (rd ra : Reg) (fn : Nat) :
    s.Issued ((s.enqueue c (fn % 8) ((s.core c).s ra).toNat (fn.testBit 4) ((s.core c).spad.getN byte0 ((s.core c).s ra).toNat 32) rd
      (s.core c).pc).modCore c fun k => k.retire ((s.core c).pc + 4)) c rd ra fn := by
  generalize hk : s.core c = k
  refine ⟨(State.onlyCore_modCore s c _).trans (State.onlyCore_modCore _ c _), ?_, ?_, ?_, ?_, fun e he => ?_, ?_⟩ <;>
    rw [State.core_modCore_same, State.enqueue, State.core_modCore_same, hk]
  · exact Core.wrote_setS_retire rd _ _ fun _ => rfl
  · exact Core.pc_retire _ _
  · exact Core.wait_retire _ _
  · rw [Core.eng_retire, Core.eng_setS, Core.eng_setEng_same]; rfl
  · rw [Core.eng_retire, Core.eng_setS, Core.eng_setEng, if_neg he]
  · rw [Core.spad_retire, Core.spad_setS]; rfl

/-- Settles O16. -/
theorem issueQueuesADescriptor : Obligations.IssueQueuesADescriptor := by
  intro s c rd ra rb rc fn
  dsimp only
  have hz (he : fn.toNat % 8 < 5) (hf : fn.toNat < 32) : ¬ ((0 : Reg) ≠ 0 ∨ (0 : Reg) ≠ 0 ∨ 5 ≤ fn.toNat % 8 ∨ 32 ≤ fn.toNat) := by
    rintro (h | h | h | h); exacts [h rfl, h rfl, by omega, by omega]
  refine ⟨fun h he hf ha hx => ?_, fun h => ⟨fun hl hc => ?_, fun hl => ?_⟩, fun h htm => ⟨fun he hf ha => ⟨_, rfl, ?_⟩, fun hf => ⟨_, rfl, ?_⟩⟩⟩
  · have hb : ¬ (((s.core c).s ra).toNat % 32 ≠ 0 ∨ (!inSpad ((s.core c).s ra).toNat 32) = true) := by
      rintro (h | h); exacts [h ha, not_notInSpad hx h]
    refine ⟨fun hl hc => ⟨_, rfl, ?_⟩, fun hl hn => ⟨_, rfl, h.writes ?_⟩, fun hl hn => ⟨_, rfl, h.nowWaits ?_⟩⟩
    · rw [h.instr]
      dsimp only
      rw [if_neg (hz he hf), if_neg hb, if_neg (by omega), State.issueNow_clean rd _ _ hc]
      exact State.issued_enqueue s c rd ra fn.toNat
    · dsimp only
      rw [if_neg (hz he hf), if_neg hb, if_pos hl, if_pos hn]
    · dsimp only
      rw [if_neg (hz he hf), if_neg hb, if_pos hl, hn]; rfl
  · refine ⟨_, congrArg Host.Outcome.next ?_, State.issued_enqueue s c rd ra fn.toNat⟩
    rw [h.wait, h.rs]
    dsimp only
    rw [if_pos ⟨rfl, hl⟩, State.issueNow_clean rd _ _ hc]
    rfl
  · refine congrArg Host.Outcome.next ?_
    rw [h.wait]
    dsimp only
    rw [if_neg fun e => by omega]
  · refine h.exc htm ?_ (by decide)
    dsimp only
    rw [if_neg (hz he hf), if_pos (ha.imp_right notInSpad)]
  · exact h.illegal htm (if_pos hf)

/-! ### RECV -/

/-- What taking a record off a queue changes of core c: its receive queues, its engines and its fault records. -/
structure State.Popped (s t : State) (c : Nat) : Prop where
  core : t.core c = { s.core c with rx := (t.core c).rx, engs := (t.core c).engs, faults := (t.core c).faults }
  others : ∀ x, x ≠ c → t.core x = s.core x
  mem : t.mem = s.mem

theorem State.Popped.refl (s : State) (c : Nat) : s.Popped s c := ⟨rfl, fun _ _ => rfl, rfl⟩
theorem State.Popped.trans {a b d : State} {c : Nat} (h : a.Popped b c) (g : b.Popped d c) : a.Popped d c :=
  ⟨by rw [g.core, h.core], fun x hx => (g.others x hx).trans (h.others x hx), g.mem.trans h.mem⟩
theorem State.Popped.setCore {s : State} {c : Nat} {k : Core} (h : k = { s.core c with rx := k.rx, engs := k.engs, faults := k.faults }) :
    s.Popped (s.setCore c k) c :=
  ⟨by rw [State.core_setCore_same]; exact h, fun x hx => State.core_setCore_ne _ _ hx, rfl⟩

/-- A grant leaves the records of every queue. -/
theorem State.grantCheck_popped (s : State) (c q : Nat) (now : Bool) :
    s.Popped (s.grantCheck c q now) c ∧ ∀ r, (((s.grantCheck c q now).core c).rxq r).recs = ((s.core c).rxq r).recs := by
  unfold State.grantCheck
  dsimp only
  split
  · unfold State.grantAll
    dsimp only
    generalize hu : s.sendGrant c q _ _ false = u
    have hc (x : Nat) : u.core x = s.core x := by rw [← hu]; rfl
    refine ⟨⟨?_, fun x hx => ?_, by rw [← hu]; rfl⟩, fun r => ?_⟩
    · rw [State.core_modCore_same, hc]; rfl
    · rw [State.core_modCore_ne _ _ hx, hc]
    · rw [State.core_modCore_same, hc, Core.rxq_setRxq]
      split
      · rename_i e; rw [e]
      · rfl
  · exact ⟨.refl s c, fun _ => rfl⟩

theorem State.recordFreed_popped (s : State) (c q : Nat) :
    s.Popped (s.recordFreed c q) c ∧ ∀ r, (((s.recordFreed c q).core c).rxq r).recs = ((s.core c).rxq r).recs := by
  unfold State.recordFreed
  dsimp only
  split
  · obtain ⟨p, hr⟩ := State.grantCheck_popped
      (s.setCore c ((s.core c).setRxq q { (s.core c).rxq q with ungrR := ((s.core c).rxq q).ungrR + 1 })) c q ((s.core c).rxq q).recs.isEmpty
    refine ⟨(State.Popped.setCore rfl).trans p, fun r => ?_⟩
    rw [hr, State.core_setCore_same, Core.rxq_setRxq]
    split
    · rename_i e; rw [e]
    · rfl
  · exact ⟨.refl s c, fun _ => rfl⟩

theorem Core.postRec_popped (k : Core) (e : Nat) (r : List Word) :
    k.postRec e r = { k with engs := (k.postRec e r).engs, faults := (k.postRec e r).faults } := by
  unfold Core.postRec
  dsimp only
  split
  · split <;> rfl
  · rfl

/-- The oldest record leaves its queue; a completion queue without a held record holds the others (R70, R74). -/
theorem State.popRec_popped (s : State) (c q : Nat) : s.Popped (s.popRec c q) c ∧
    (((s.core c).eng (q - 8)).heldRec = none → ((s.popRec c q).core c).queueRecs q = ((s.core c).queueRecs q).drop 1) := by
  unfold State.popRec
  dsimp only
  split
  · rename_i hq
    obtain ⟨p, hr⟩ := State.recordFreed_popped
      (s.setCore c ((s.core c).setRxq q { (s.core c).rxq q with recs := ((s.core c).rxq q).recs.drop 1 })) c q
    refine ⟨(State.Popped.setCore rfl).trans p, fun _ => ?_⟩
    unfold Core.queueRecs
    rw [if_pos hq, if_pos hq, hr, State.core_setCore_same, Core.rxq_setRxq_same]
  · rename_i hq
    generalize hf : (if fld _ 24 8 = 0 then (s.core c).faults else _) = f
    generalize hk : ({ (s.core c).setEng (q - 8) _ with faults := f } : Core) = k
    have he : k.eng (q - 8) = { (s.core c).eng (q - 8) with comp := ((s.core c).eng (q - 8)).comp.drop 1, heldRec := none } := by
      rw [← hk]; exact Core.eng_setEng_same _ _ _
    have hp : k = { s.core c with engs := k.engs, faults := k.faults } := by rw [← hk]; rfl
    refine ⟨State.Popped.setCore ?_, fun hn => ?_⟩
    · split
      · rw [Core.postRec_popped, hp]
      · rw [hp]
    · rw [hn]
      dsimp only
      unfold Core.queueRecs
      rw [if_neg hq, if_neg hq, State.core_setCore_same, he]

theorem length_recBytes (r : List Word) : (r.flatMap fun w => leBytes 4 w.toNat).length = 4 * r.length := by
  induction r with
  | nil => rfl
  | cons w t ih => rw [List.flatMap_cons, List.length_append, ih, length_leBytes, List.length_cons]; omega

/-- Bytes just stored read back, others as before. -/
theorem Core.spadByte_setN {k k' : Core} {a : Nat} {l : List Byte} (h : k'.spad = Map.setN byte0 k.spad a l) :
    (∀ i, i < l.length → k'.spadByte (a + i) = l.getD i 0) ∧ ∀ x, x < a ∨ a + l.length ≤ x → k'.spadByte x = k.spadByte x := by
  refine ⟨fun i hi => ?_, fun x hx => ?_⟩ <;> unfold Core.spadByte <;> rw [h, Map.get_setN]
  · rw [dif_pos (by omega), List.getD_eq_getElem _ _ hi]
    simp only [Nat.add_sub_cancel_left]
  · rw [dif_neg (by omega)]

/-- Settles O15. -/
theorem recvRemovesTheOldestRecord : Obligations.RecvRemovesTheOldestRecord := by
  intro s c rd ra rb rc fn h
  dsimp only
  generalize hq : fld ((s.core c).s ra) 0 4 = q
  have hz (h12 : q ≤ 12) : ¬ ((0 : Reg) ≠ 0 ∨ (0 : BitVec 6) ≠ 0 ∨ 12 < q) := by
    rintro (e | e | e); exacts [e rfl, e rfl, by omega]
  refine ⟨fun h12 ha hx => ?_, fun htm hf => ⟨_, rfl, h.illegal htm ?_⟩, fun htm h12 hf => ⟨_, rfl, h.exc htm ?_ (by decide)⟩⟩
  · have hb : ¬ (((s.core c).s rb).toNat % 16 ≠ 0 ∨ (!inSpad ((s.core c).s rb).toNat 16) = true) := by
      rintro (e | e); exacts [e ha, not_notInSpad hx e]
    refine ⟨fun hr => ⟨_, rfl, h.writes ?_⟩, fun r tl hr hl he => ?_⟩
    · dsimp only
      rw [hq, if_neg (hz h12), if_neg hb, hr]
    · obtain ⟨p, hpop⟩ := State.popRec_popped s c q
      generalize hu : s.popRec c q = u at p hpop
      have hlen : (r.flatMap fun w => leBytes 4 w.toNat).length = 16 := by rw [length_recBytes, hl]
      have hw := State.spadWrite_clean (s := u) (c := c) (a := ((s.core c).s rb).toNat) (d := r.flatMap fun w => leBytes 4 w.toNat) 6 0
        (by rw [p.core, hlen]; exact he)
      have ht : exec (.recv c rd ra rb 0 0) s = .next (((u.modCore c fun k =>
          { k with spad := Map.setN byte0 k.spad ((s.core c).s rb).toNat (r.flatMap fun w => leBytes 4 w.toNat) }).modCore c fun k =>
          k.setS rd (BitVec.ofNat 32 (1 + tl.length))).modCore c fun k => k.retire ((s.core c).pc + 4)) := by
        refine congrArg Host.Outcome.next ?_
        rw [h.instr]
        dsimp only
        rw [hq, if_neg (hz h12), if_neg hb, hr]
        dsimp only
        rw [hu, hw]
        rfl
      generalize hT : State.modCore _ c (fun k => k.retire ((s.core c).pc + 4)) = t at ht
      have hcore : t.core c = (({ u.core c with
          spad := Map.setN byte0 (s.core c).spad ((s.core c).s rb).toNat (r.flatMap fun w => leBytes 4 w.toNat)
          } : Core).setS rd (BitVec.ofNat 32 (1 + tl.length))).retire ((s.core c).pc + 4) := by
        rw [← hT, State.core_modCore_same, State.core_modCore_same, State.core_modCore_same]
        congr 2
        rw [p.core]
      obtain ⟨hin, hout⟩ := Core.spadByte_setN (k := s.core c) (k' := t.core c) (a := ((s.core c).s rb).toNat) (l := r.flatMap fun w => leBytes 4 w.toNat)
        (by rw [hcore, Core.spad_retire, Core.spad_setS])
      rw [hlen] at hin hout
      refine ⟨t, ht, ?_, ?_, hin, hout, fun hn => ?_, fun x hx => ?_, ?_⟩
      · rw [hcore]
        exact Core.wrote_setS_retire rd _ _ fun x => by rw [p.core]; rfl
      · rw [hcore, Core.pc_retire]
      · rw [hr] at hpop
        refine Eq.trans ?_ (hpop hn)
        simp only [hcore, Core.queueRecs, Core.eng_retire, Core.eng_setS, Core.rxq, Core.rx_retire, Core.rx_setS]
        rfl
      · rw [← hT, State.core_modCore_ne _ _ hx, State.core_modCore_ne _ _ hx, State.core_modCore_ne _ _ hx, p.others x hx]
      · rw [← hT]; exact p.mem
  · dsimp only; rw [hq]; exact if_pos hf
  · dsimp only
    rw [hq, if_neg (hz h12), if_pos (hf.imp_right notInSpad)]

end Sys2Proof.Machine
end

section
/-!
SUPPORT and proofs. The binary32 instructions (spec/02 R61-R65).
-/

namespace Sys2Proof.Machine

/-! ### How a binary32 instruction ends -/

/-- The core after a result and its flags are written (R65). -/
def Core.fpWritten (k : Core) (rd : Reg) (r : Word × FFlags) : Core := (k.setS rd r.1).orCsr 4 r.2.toNat

theorem Core.get_fpWritten (k : Core) (rd : Reg) (r : Word × FFlags) (n : Nat) :
    (k.fpWritten rd r).get n = if n = 4 then k.get 4 ||| BitVec.ofNat 32 r.2.toNat else k.get n := by
  unfold Core.fpWritten
  rw [Core.get_orCsr, Core.get_setS, Core.get_setS]
  rfl

theorem Core.s_fpWritten (k : Core) (rd : Reg) (r : Word × FFlags) (x : Reg) : (k.fpWritten rd r).s x = (k.setS rd r.1).s x := rfl

theorem flags_np_iff (f : FFlags) : f &&& flNP ≠ 0 ↔ f.getLsbD 5 = true := by
  revert f; decide

theorem Core.nanTrap_iff (k : Core) (rd : Reg) (r : Word × FFlags) :
    (r.2 &&& flNP ≠ 0 ∧ (!bit ((k.fpWritten rd r).get 0x60) 3) = true ∧ bit ((k.fpWritten rd r).get 0x800) 4 = true) ↔ k.NanTrap r.2 := by
  rw [flags_np_iff, Core.get_fpWritten, Core.get_fpWritten, if_neg (by decide), if_neg (by decide), Bool.not_eq_true']
  rfl

/-- A core that may capture a NaN of its own records it and leaves every other CSR as it was (R183). -/
theorem Core.captureNan_core {k : Core} (h3 : bit (k.get 0x60) 3 = false) (h4 : bit (k.get 0x800) 4 = true) (mb pc : Nat) :
    ∃ csr, k.captureNan 4 1 mb 0 pc 0 0 0 0 = { k with csr := csr } ∧ bit ((k.captureNan 4 1 mb 0 pc 0 0 0 0).get 0x60) 3 = true ∧
      ∀ n, n < 0x60 → (k.captureNan 4 1 mb 0 pc 0 0 0 0).get n = k.get n := by
  have e : k.captureNan 4 1 mb 0 pc 0 0 0 0 = (((k.put 0x60 (BitVec.ofNat 32 (4 + 8 + 1 * 16 + mb % 65536 * 65536))).put 0x61
      (BitVec.ofNat 32 (0 % 2 ^ 18 + pc / 4 % 2 ^ 13 * 2 ^ 18))).put 0x62 (BitVec.ofNat 32 (0 % 65536 + 0 * 65536))).put 0x63
      (BitVec.ofNat 32 (0 % 65536 + 0 * 65536)) := by
    unfold Core.captureNan
    rw [h3, h4]
    rfl
  refine ⟨_, e, ?_, fun n hn => ?_⟩ <;> rw [e]
  · rw [Core.get_put_ne _ _ (by decide), Core.get_put_ne _ _ (by decide), Core.get_put_ne _ _ (by decide), Core.get_put_same]
    show (BitVec.ofNat 32 _).toNat.testBit 3 = true
    rw [BitVec.toNat_ofNat, Nat.testBit_eq_decide_div_mod_eq]
    exact decide_eq_true (by omega)
  · rw [Core.get_put_ne _ _ (by omega), Core.get_put_ne _ _ (by omega), Core.get_put_ne _ _ (by omega), Core.get_put_ne _ _ (by omega)]

/-- What an instruction whose result is `r` does (R61, R65). -/
def State.FpEnds (s t : State) (c : Nat) (rd : Reg) (r : Word × FFlags) : Prop :=
  (¬ (s.core c).NanTrap r.2 → s.WritesBut t c ((s.core c).pc + 4) rd r.1 (· = 4) ∧
    (t.core c).get 4 = ((s.core c).get 4 ||| BitVec.ofNat 32 r.2.toNat)) ∧
  ((s.core c).NanTrap r.2 → (s.core c).tm = false → s.OnlyCore t c ∧ (s.core c).Wrote (t.core c) rd r.1 ∧
    (t.core c).get 4 = ((s.core c).get 4 ||| BitVec.ofNat 32 r.2.toNat) ∧ bit ((t.core c).get 0x60) 3 = true ∧
    (t.core c).get 0x11 = 9 ∧ (t.core c).get 0x12 = (((s.core c).pc + 4) &&& 0x7FFC#32) ∧ (t.core c).tm = true)

section
variable {s : State} {c : Nat} {rd : Reg} {r : Word × FFlags}

theorem Core.wrote_fpWritten (k : Core) : k.Wrote (k.fpWritten rd r) rd r.1 :=
  ⟨fun h => (Core.s_setS k rd rd r.1).trans (if_pos ⟨rfl, h⟩), rfl, fun x hx => (Core.s_setS k rd x r.1).trans (if_neg fun e => hx e.1)⟩

/-- An instruction that writes a CSR and a register has retired. -/
theorem State.writesBut_put {t : State} {n : Nat} {w v npc : Word} (hn : n ≠ 1 ∧ n ≠ 0x24 ∧ n ≠ 0x25) (o : s.OnlyCore t c)
    (e : t.core c = (((s.core c).put n w).setS rd v).retire npc) : s.WritesBut t c npc rd v (· = n) ∧ (t.core c).get n = w := by
  obtain ⟨h1, h24, h25⟩ := hn
  obtain ⟨hret, hwrote, hcsrs, hrest⟩ := Core.setS_retire ((s.core c).put n w) rd v npc
  have hget {j : Nat} (h : j ≠ n) : ((s.core c).put n w).get j = (s.core c).get j := Core.get_put_ne _ _ h
  refine ⟨⟨o, ?_, ?_, ⟨fun j j1 j4 j5 hj => ?_, fun i hi => ?_⟩, ?_⟩, ?_⟩ <;> rw [e]
  · exact hret.congr rfl (by unfold Core.instret; rw [hget h24.symm, hget h25.symm])
  · exact hwrote.congr fun x => Core.s_put _ _ _ x
  · rw [hcsrs.csrs j j1 j4 j5 id, hget hj]
  · rw [hcsrs.status i hi, hget h1.symm]
  · rw [hrest]; rfl
  · rw [hcsrs.csrs n h1 h24 h25 id, Core.get_put_same]

/-- A result whose flags do not trap retires. -/
theorem State.writesBut_fpWritten :
    s.WritesBut ((s.setCore c ((s.core c).fpWritten rd r)).modCore c fun k => k.retire ((s.core c).pc + 4)) c ((s.core c).pc + 4) rd r.1 (· = 4) := by
  refine (State.writesBut_put (n := 4) (w := orBits ((s.core c).get 4) r.2.toNat) (by decide) ⟨rfl, fun x hx => ?_⟩ ?_).1
  · exact (State.core_modCore_ne _ _ hx).trans (State.core_setCore_ne _ _ hx)
  · rw [State.core_modCore_same, State.core_setCore_same]
    congr 1
    unfold Core.fpWritten Core.orCsr Core.setS
    split <;> rfl

/-- An instruction that gives the result `r` writes it with its flags, or captures the first NaN and traps (R61, R65, R183). -/
theorem State.Ready.fp_ends (h : s.Ready c) {body : Word → State → IRes} (e : body (s.core c).pc s = s.fpResult c (s.core c).pc rd r) :
    s.FpEnds (s.instr c body) c rd r := by
  generalize hk : (s.core c).fpWritten rd r = k
  have hg (n : Nat) : k.get n = if n = 4 then (s.core c).get 4 ||| BitVec.ofNat 32 r.2.toNat else (s.core c).get n := by
    rw [← hk, Core.get_fpWritten]
  have hn := Core.nanTrap_iff (s.core c) rd r
  rw [hk] at hn
  have hf : s.fpResult c (s.core c).pc rd r =
      if r.2 &&& flNP ≠ 0 ∧ (!bit (k.get 0x60) 3) = true ∧ bit (k.get 0x800) 4 = true then
        .excAfter (s.setCore c (k.captureNan 4 1 (k.cf 0x802 0 16) 0 (s.core c).pc.toNat 0 0 0 0)) 9 (s.core c).pc
      else .retire (s.setCore c k) ((s.core c).pc + 4) := by
    rw [← hk]; rfl
  refine ⟨fun ht => ?_, fun ht htm => ?_⟩
  · rw [hf, if_neg (hn.not.2 ht)] at e
    have hr : s.instr c body = (s.setCore c k).modCore c fun j => j.retire ((s.core c).pc + 4) := by rw [h.instr, e]; rfl
    rw [hr]
    refine ⟨hk ▸ State.writesBut_fpWritten, ?_⟩
    rw [State.core_modCore_same, State.core_setCore_same, Core.get_retire _ _ _ (by decide) (by decide) (by decide), hg, if_pos rfl]
  · rw [hf, if_pos (hn.2 ht)] at e
    obtain ⟨csr, hcap, h60, hlow⟩ := Core.captureNan_core (k := k) (by rw [hg]; exact ht.2.1) (by rw [hg]; exact ht.2.2) (k.cf 0x802 0 16)
      (s.core c).pc.toNat
    generalize hj : k.captureNan 4 1 (k.cf 0x802 0 16) 0 (s.core c).pc.toNat 0 0 0 0 = j at *
    have htj : ((s.setCore c j).core c).tm = false := by
      rw [State.core_setCore_same]; exact (congrArg (bit · 3) ((hlow 1 (by decide)).trans (hg 1))).trans htm
    obtain ⟨w, o, hw, T, -, hkept⟩ := h.excAfter htj (by decide : 9 < 2 ^ 29) e
    rw [State.core_setCore_same] at hw
    have hgw (n : Nat) (h1 : n ≠ 1) (h4 : n < 0x11 ∨ 0x14 < n) (h5 : n ≠ 0x24 ∧ n ≠ 0x25) : ((s.instr c body).core c).get n = j.get n := by
      rw [hkept n h1 h4, hw]; exact Core.get_addTime _ _ _ _ h5.1 h5.2
    have o' : s.OnlyCore (s.setCore c j) c := ⟨rfl, fun x hx => State.core_setCore_ne _ _ hx⟩
    refine ⟨(o'.trans o).trans T.only, ?_, ?_, ?_, T.cause, T.tpc, T.tm⟩
    · have hs (x : Reg) : ((s.instr c body).core c).s x = k.s x := by rw [T.regs, hw, hcap]; rfl
      have w' : (s.core c).Wrote k rd r.1 := hk ▸ Core.wrote_fpWritten (s.core c)
      exact ⟨fun hd => (hs rd).trans (w'.dest hd), hs 0, fun x hx => (hs x).trans (w'.regs x hx)⟩
    · rw [hgw 4 (by decide) (by decide) (by decide), hlow 4 (by decide), hg, if_pos rfl]
    · rw [hgw 0x60 (by decide) (by decide) (by decide), h60]

end

/-! ### Which functions and rounding codes have a meaning -/

theorem Core.rmode_eq (k : Core) {code : Nat} (h : code < 8) (h5 : code ≠ 5) (h6 : code ≠ 6) : k.rmode code = some (k.roundingMode code) := by
  unfold Core.rmode Core.roundingMode
  by_cases h7 : code = 7
  · rw [if_pos h7, if_pos h7]; rfl
  · rw [if_neg h7, if_neg h7, if_pos (by omega)]

theorem Core.rmode_none (k : Core) {code : Nat} (h : code = 5 ∨ code = 6) : k.rmode code = none := by
  unfold Core.rmode
  rw [if_neg (by omega), if_neg (by omega)]

/-- The model's shape of a function is what the tables of R61 say. -/
theorem fpShape_eq (fn : BitVec 6) : fpShape fn.toNat = if fn.toNat ≤ 0x13 then some (decide (fn ∈ fpRounds), decide (fn ∉ fpUnary)) else none := by
  revert fn; decide

theorem reg_toNat_ne {r : Reg} {n : Nat} (hn : n < 32) (h : r ≠ BitVec.ofNat 5 n) : r.toNat ≠ n :=
  fun e => h (BitVec.eq_of_toNat_eq (by rw [e, BitVec.toNat_ofNat]; exact (Nat.mod_eq_of_lt hn).symm))

/-- Settles O3: every binary32 instruction ends in the same way, and the tables of R61 say which have a meaning. -/
theorem fp32InstructionsWriteResultAndFlags : Obligations.Fp32InstructionsWriteResultAndFlags := by
  intro s c rd ra rb rc fn h k run
  have ends {i : Instr} {r : Word × FFlags} {t : State} (ht : exec i s = .next t) (e : s.FpEnds t c rd r) : run i r :=
    ⟨fun hn => ⟨t, ht, e.1 hn⟩, fun hn htm => ⟨t, ht, e.2 hn htm⟩⟩
  refine ⟨fun hfn hrc hun hrnd => ?_, fun hlt h5 h6 => ?_, fun htm => ⟨fun hbad => ⟨_, rfl, h.illegal htm ?_⟩, fun hbad => ⟨_, rfl, h.illegal htm ?_⟩⟩⟩
  · refine ends rfl (h.fp_ends ?_)
    have hz : ¬ (8 ≤ rc.toNat ∨ (!decide (fn ∉ fpUnary)) = true ∧ rb ≠ 0) := by
      rintro (h8 | ⟨hu, hb⟩)
      · omega
      · exact hb (hun (by simpa using hu))
    dsimp only
    rw [fpShape_eq, if_pos hfn]
    dsimp only
    rw [if_neg hz]
    by_cases hr : fn ∈ fpRounds
    · rw [if_pos (decide_eq_true hr), Core.rmode_eq _ hrc (reg_toNat_ne (by decide) (hrnd hr).1) (reg_toNat_ne (by decide) (hrnd hr).2), if_pos hr]
    · rw [if_neg (by rwa [decide_eq_true_iff]), if_neg hr]
  · refine ends rfl (h.fp_ends ?_)
    dsimp only
    rw [if_neg (by omega), Core.rmode_eq _ (by omega) h5 h6]
  · dsimp only
    rw [fpShape_eq]
    by_cases hfn : fn.toNat ≤ 0x13
    · rw [if_pos hfn]
      dsimp only
      by_cases hz : 8 ≤ rc.toNat ∨ (!decide (fn ∉ fpUnary)) = true ∧ rb ≠ 0
      · rw [if_pos hz]
      · obtain ⟨hr, h56⟩ : fn ∈ fpRounds ∧ (rc = 5 ∨ rc = 6) := by
          rcases hbad with h1 | h1 | ⟨hu, hb⟩ | h1
          · omega
          · exact absurd (Or.inl h1) hz
          · exact absurd (Or.inr ⟨by simpa using hu, hb⟩) hz
          · exact h1
        rw [if_neg hz, if_pos (decide_eq_true hr), Core.rmode_none]
        exact h56.imp (congrArg BitVec.toNat) (congrArg BitVec.toNat)
    · rw [if_neg hfn]
  · dsimp only
    by_cases h32 : 32 ≤ fn.toNat
    · rw [if_pos h32]
    · rw [if_neg h32, Core.rmode_none _ (hbad.resolve_left h32)]

end Sys2Proof.Machine
end

section
/-!
SUPPORT and proofs. The special values of the binary32 operations (spec/02 R61-R64).
-/

namespace Sys2Proof.Machine

/-! ### NaN patterns as values -/

/-- A value that is a NaN which, quieted, is the pattern `w`. -/
def NanOf (v : Fv) (w : Word) : Prop := ∃ n s p, v = .nan n s p 22 ∧ BitVec.ofNat 32 (carryNan fmt32 n p 22) = w

theorem or_quiet (w : Word) : w ||| 0x400000#32 = if w.getLsbD 22 then w else w + 0x400000#32 := by
  have ht : (0x400000#32) = BitVec.twoPow 32 22 := rfl
  split
  · rename_i h
    refine BitVec.eq_of_getLsbD_eq fun i hi => ?_
    rw [BitVec.getLsbD_or, ht, BitVec.getLsbD_twoPow]
    by_cases h22 : 22 = i
    · subst h22; rw [h]; rfl
    · rw [decide_eq_false h22, Bool.and_false, Bool.or_false]
  · rename_i h
    refine (BitVec.add_eq_or_of_and_eq_zero _ _ ?_).symm
    rw [ht, BitVec.and_twoPow, if_neg h]

theorem toNat_or_quiet (w : Word) : (w ||| 0x400000#32).toNat = w.toNat / 2 ^ 23 * 2 ^ 23 + 2 ^ 22 + w.toNat % 2 ^ 22 := by
  have hb : w.getLsbD 22 = decide (w.toNat / 2 ^ 22 % 2 = 1) := Nat.testBit_eq_decide_div_mod_eq
  have hw := w.isLt
  rw [or_quiet, hb]
  split
  · rename_i h
    have := of_decide_eq_true h
    omega
  · rename_i h
    have : ¬ w.toNat / 2 ^ 22 % 2 = 1 := fun e => h (decide_eq_true e)
    rw [BitVec.toNat_add, BitVec.toNat_ofNat]
    omega

/-- The pattern of a NaN is a NaN, and quieted it is the pattern with its quiet bit set (R62, R170). -/
theorem f32_nan {w : Word} (h : IsNan32 w) : NanOf (f32 w) (w ||| 0x400000#32) := by
  have h0 : 0x7F800000 < w.toNat % 2 ^ 31 := h
  have hw := w.isLt
  have he : (w.toNat >>> 23) % 2 ^ 8 = 2 ^ 8 - 1 := by rw [Nat.shiftRight_eq_div_pow]; omega
  have hm : ¬ w.toNat % 2 ^ 23 = 0 := by omega
  refine ⟨w.toNat.testBit 31, !w.toNat.testBit 22, w.toNat % 2 ^ 22, ?_, ?_⟩
  · show decodeFloat fmt32 w.toNat = _
    unfold decodeFloat
    refine (if_pos ⟨Or.inl rfl, he⟩).trans ((if_neg hm).trans ((if_neg (by decide)).trans ?_))
    show Fv.nan _ _ _ _ = _
    rw [show w.toNat % 2 ^ fmt32.mbits % 2 ^ (fmt32.mbits - 1) = w.toNat % 2 ^ 22 from Nat.mod_mod_of_dvd _ ⟨2, rfl⟩,
      show (w.toNat % 2 ^ fmt32.mbits).testBit (fmt32.mbits - 1) = w.toNat.testBit 22 from Nat.testBit_mod_two_pow .. ]
    rfl
  · apply BitVec.eq_of_toNat_eq
    rw [toNat_or_quiet, BitVec.toNat_ofNat]
    show signed fmt32 _ (((2 ^ 8 - 1) <<< 23) + 2 ^ 22 + (w.toNat % 2 ^ 22) >>> 0) % 2 ^ 32 = _
    unfold signed
    have hs : w.toNat.testBit 31 = decide (w.toNat / 2 ^ 31 % 2 = 1) := Nat.testBit_eq_decide_div_mod_eq
    rw [hs, Nat.shiftRight_zero]
    show (if decide _ = true then _ + 2 ^ (8 + 23) else _) % _ = _
    split
    · rename_i h1
      have := of_decide_eq_true h1
      omega
    · rename_i h1
      have : ¬ w.toNat / 2 ^ 31 % 2 = 1 := fun e => h1 (decide_eq_true e)
      omega

theorem f32_not_nan {w : Word} (h : ¬ IsNan32 w) : (f32 w).isNan = false := by
  have h0 : ¬ 0x7F800000 < w.toNat % 2 ^ 31 := h
  have hw := w.isLt
  show (decodeFloat fmt32 w.toNat).isNan = false
  unfold decodeFloat
  by_cases he : (w.toNat >>> 23) % 2 ^ 8 = 2 ^ 8 - 1
  · have hm : w.toNat % 2 ^ 23 = 0 := by rw [Nat.shiftRight_eq_div_pow] at he; omega
    exact congrArg Fv.isNan ((if_pos ⟨Or.inl rfl, he⟩).trans (if_pos hm))
  · refine (congrArg Fv.isNan ((if_neg fun e => he e.2).trans (if_neg fun e => he e.2.1))).trans ?_
    split <;> rfl

theorem NanOf.isNan {v : Fv} {w : Word} (h : NanOf v w) : v.isNan = true := by
  obtain ⟨n, s, p, rfl, -⟩ := h; rfl

theorem NanOf.neg1 {v : Fv} {w : Word} (h : NanOf v w) : NanOf v.neg1 w := by
  have e : v.neg1 = v := if_pos h.isNan
  rwa [e]

theorem Fv.isNan_neg1 (v : Fv) : v.neg1.isNan = v.isNan := by cases v <;> rfl

/-! ### Results with a NaN operand -/

theorem NanOf.finish {v : Fv} {w : Word} (h : NanOf v w) (mode : RMode) (l : List Fv) (x : Ex) : (w32 (finish fmt32 mode (v :: l) x)).1 = w := by
  obtain ⟨n, s, p, rfl, hw⟩ := h
  exact hw

theorem finish_second {u v : Fv} {w : Word} (hu : u.isNan = false) (h : NanOf v w) (mode : RMode) (l : List Fv) (x : Ex) :
    (w32 (finish fmt32 mode (u :: v :: l) x)).1 = w := by
  obtain ⟨n, s, p, rfl, hw⟩ := h
  cases u with
  | nan => cases hu
  | inf => exact hw
  | fin => exact hw

theorem fCmp_nan {x y : Fv} (h : (x.isNan || y.isNan) = true) (which : Nat) :
    fCmp which x y = (false, if which = 0 then sigFlag [x, y] else flNV) := if_pos h

theorem NanOf.fToInt {v : Fv} {w : Word} (h : NanOf v w) (u : Bool) (mode : RMode) : w32 (fToInt u mode v) = (0, flNV) := by
  obtain ⟨n, s, p, rfl, -⟩ := h; rfl

/-- The operations that round two operands, on a first operand that is a NaN and on a second that is (R62). -/
theorem fpOp_nan (mode : RMode) {a b w : Word}
    (h : ∀ (m : RMode) (y : Fv) (l : List Fv) (x : Ex), y = f32 b ∨ y = (f32 b).neg1 → (w32 (finish fmt32 m (f32 a :: y :: l) x)).1 = w) :
    ∀ fn ∈ [0x00, 0x01, 0x02, 0x03, 0x05, 0x06], (fpOp fn mode a b).1 = w := by
  intro fn hf
  simp only [List.mem_cons, List.not_mem_nil, or_false] at hf
  rcases hf with rfl | rfl | rfl | rfl | rfl | rfl
  · exact h mode _ [] _ (Or.inl rfl)
  · exact h mode _ [] _ (Or.inr rfl)
  · exact h mode _ [] _ (Or.inl rfl)
  · exact h mode _ [] _ (Or.inl rfl)
  · exact h 0 _ [] _ (Or.inl rfl)
  · exact h 0 _ [] _ (Or.inl rfl)

/-- The comparisons with a NaN (R63). -/
theorem fpOp_cmp_nan (mode : RMode) {a b : Word} (h : ((f32 a).isNan || (f32 b).isNan) = true) :
    (∀ fn ∈ [0x09, 0x0A, 0x0B], (fpOp fn mode a b).1 = 0) ∧ (fpOp 0x0A mode a b).2 = flNV ∧ (fpOp 0x0B mode a b).2 = flNV := by
  have e (which : Nat) := fCmp_nan h which
  have h9 : (fpOp 0x09 mode a b).1 = boolW (fCmp 0 (f32 a) (f32 b)).1 := rfl
  have hA : fpOp 0x0A mode a b = (boolW (fCmp 1 (f32 a) (f32 b)).1, (fCmp 1 (f32 a) (f32 b)).2) := rfl
  have hB : fpOp 0x0B mode a b = (boolW (fCmp 2 (f32 a) (f32 b)).1, (fCmp 2 (f32 a) (f32 b)).2) := rfl
  rw [e] at h9 hA hB
  refine ⟨fun fn hf => ?_, by rw [hA]; rfl, by rw [hB]; rfl⟩
  simp only [List.mem_cons, List.not_mem_nil, or_false] at hf
  rcases hf with rfl | rfl | rfl
  · exact h9
  · rw [hA]; rfl
  · rw [hB]; rfl

/-- The multiply-adds round three operands, the first with its sign or the opposite one (R61). -/
theorem fmaOp_fst (var : Nat) (mode : RMode) (a b d : Word) : ∃ x l e, (x = f32 a ∨ x = (f32 a).neg1) ∧
    (fmaOp var mode a b d).1 = (w32 (finish fmt32 mode (x :: f32 b :: l) e)).1 := by
  refine ⟨if 2 ≤ var then (f32 a).neg1 else f32 a, _, _, ?_, rfl⟩
  split
  · exact Or.inr rfl
  · exact Or.inl rfl

/-- Settles O4: the first NaN operand, quieted, is what `finish` gives; comparisons and conversions ask for a NaN first. -/
theorem fp32SpecialValues : Obligations.Fp32SpecialValues := by
  intro mode a b d
  refine ⟨rfl, rfl, rfl, fun ha => ?_, fun ha hb => ?_⟩
  · have hn := f32_nan ha
    obtain ⟨c1, c2, c3⟩ := fpOp_cmp_nan mode (a := a) (b := b) (by rw [hn.isNan, Bool.true_or])
    have hbin := fpOp_nan mode (b := b) fun m y l x _ => hn.finish m (y :: l) x
    refine ⟨fun fn hf => ?_, c1, c2, c3, hn.fToInt false mode, hn.fToInt true mode, fun var => ?_⟩
    · by_cases h4 : fn = 0x04
      · subst h4; exact hn.finish mode [] _
      · exact hbin fn (by simp only [List.mem_cons, List.not_mem_nil, or_false] at hf ⊢; omega)
    · obtain ⟨x, l, e, hx, he⟩ := fmaOp_fst var mode a b d
      rw [he]
      rcases hx with rfl | rfl
      · exact hn.finish mode _ e
      · exact hn.neg1.finish mode _ e
  · have hf := f32_not_nan ha
    have hn := f32_nan hb
    obtain ⟨c1, c2, c3⟩ := fpOp_cmp_nan mode (a := a) (b := b) (by rw [hn.isNan, Bool.or_true])
    refine ⟨fpOp_nan mode fun m y l x hy => ?_, c1, c2, c3, fun var => ?_⟩
    · rcases hy with rfl | rfl
      · exact finish_second hf hn m l x
      · exact finish_second hf hn.neg1 m l x
    · obtain ⟨x, l, e, hx, he⟩ := fmaOp_fst var mode a b d
      rw [he]
      refine finish_second ?_ hn mode l e
      rcases hx with rfl | rfl
      · exact hf
      · rw [Fv.isNan_neg1, hf]

end Sys2Proof.Machine
end

section
/-!
SUPPORT and proofs. The CSR instructions (spec/02 R83-R86).
-/

namespace Sys2Proof.Machine

theorem State.OnlyCore.modCore {s t : State} {c : Nat} (o : s.OnlyCore t c) (f : Core → Core) : s.OnlyCore (t.modCore c f) c :=
  o.trans (State.onlyCore_modCore t c f)

/-! ### What reading a CSR does to the core -/

/-- The read of a CSR instruction: with RD = s0 it has no side effect (R83). -/
def State.csrFetch (s : State) (c n : Nat) (rd : Reg) (r : RegDesc) : State × Word :=
  if rd = 0 then ((s.csrValue c n).1, readCode r (s.csrValue c n).2) else s.csrRead c n

theorem Core.autoInc_only (k : Core) (n : Nat) : k.autoInc n = { k with csr := (k.autoInc n).csr } := by
  have go (sel ainc lo len : Nat) : (if bit (k.get sel) ainc then k.put sel (setFld (k.get sel) lo len (k.cf sel lo len + 1)) else k) =
      { k with csr := (if bit (k.get sel) ainc then k.put sel (setFld (k.get sel) lo len (k.cf sel lo len + 1)) else k).csr } := by
    split <;> rfl
  unfold Core.autoInc
  dsimp only
  split
  · exact go ..
  split
  · exact go ..
  split
  · exact go ..
  split
  · exact go ..
  · rfl

/-- The side effects of a read on the core: an index may advance, a low half may be noted (R86). -/
def Core.readSide (k : Core) (n : Nat) : Core := if n = 0x629 ∧ !(k.autoInc n).veIdle then (k.autoInc n).orCsr 0x600 0x400 else k.autoInc n

theorem Core.readSide_only (k : Core) (n : Nat) : k.readSide n = { k with csr := (k.readSide n).csr } := by
  unfold Core.readSide
  split
  · rw [Core.autoInc_only]; rfl
  · exact Core.autoInc_only k n

theorem Core.regs_readSide (k : Core) (n : Nat) : (k.readSide n).regs = k.regs := by rw [Core.readSide_only]
theorem Core.latch_readSide (k : Core) (n : Nat) : (k.readSide n).latch = k.latch := by rw [Core.readSide_only]

variable {s : State} {c n : Nat} {r : RegDesc} {rd : Reg}

theorem State.csrRead_eq (hf : findCsr n = some r) (hl : (s.core c).latch.get none0 n = none) :
    s.csrRead c n = (((if csrHiHalf n then (s.csrValue c n).1.modCore c fun k =>
      { k with latch := k.latch.set none0 (n - 1) (some ((s.csrValue c n).1.csrPeek c (n - 1))) } else (s.csrValue c n).1).modCore c fun k =>
      k.readSide n), readCode r (s.csrValue c n).2) := by
  unfold State.csrRead
  rw [hf]
  dsimp only
  rw [hl]
  rfl

/-- What a CSR instruction's read gives and leaves. -/
theorem State.csrFetch_spec (hf : findCsr n = some r) (hl : (s.core c).latch.get none0 n = none) :
    ∃ t, s.csrFetch c n rd r = (t, readCode r ((s.csrValue c n).1.csrPeek c n)) ∧ (t.core c).regs = ((s.csrValue c n).1.core c).regs ∧
      (csrHiHalf n = true → rd ≠ 0 → (t.core c).latch.get none0 (n - 1) = some ((s.csrValue c n).1.csrPeek c (n - 1))) := by
  have hv : (s.csrValue c n).2 = (s.csrValue c n).1.csrPeek c n := rfl
  unfold State.csrFetch
  by_cases h0 : rd = 0
  · rw [if_pos h0]
    exact ⟨_, rfl, rfl, fun _ h => absurd h0 h⟩
  · rw [if_neg h0, State.csrRead_eq hf hl, hv]
    generalize (s.csrValue c n).1 = u
    refine ⟨_, rfl, ?_, fun hh _ => ?_⟩
    · rw [State.core_modCore_same, Core.regs_readSide]
      split
      · rw [State.core_modCore_same]
      · rfl
    · rw [State.core_modCore_same, Core.latch_readSide, if_pos hh, State.core_modCore_same]
      dsimp only
      rw [Map.get_set_same]

/-- A count of no time is brought up to date by counting alone. -/
theorem State.counted_csrValue (h : (s.core c).timed n = false) : s.Counted (s.csrValue c n).1 c ∧ (n < 0x2B0 ∨ 0x2B4 ≤ n → (s.csrValue c n).1 = s) := by
  have e : (s.csrValue c n).1 = if 0x2B0 ≤ n ∧ n < 0x2B4 then s.stallTick c else s := by
    unfold State.csrValue
    rw [h]
    rfl
  rw [e]
  split
  · exact ⟨State.Counted.stallTick s c, fun hn => by omega⟩
  · exact ⟨State.Counted.refl s c, fun _ => rfl⟩

theorem State.core_csrValue_timed (h : (s.core c).timed n = true) : ((s.csrValue c n).1.core c) = (s.core c).pass n s.freeVal.1 := by
  have e : (s.csrValue c n).1 = s.freeVal.2.modCore c fun k => k.pass n s.freeVal.1 := by
    unfold State.csrValue
    rw [h]
    rfl
  rw [e, State.core_modCore_same]
  rfl

theorem Core.regs_pass (k : Core) (n : Nat) (w : Word) : (k.pass n w).regs = k.regs := by
  unfold Core.pass
  split <;> rfl

/-- A CSR instruction that makes no write (R83). -/
theorem State.Ready.csr_reads (h : s.Ready c) {num : BitVec 12} (hf : findCsr num.toNat = some r)
    (hl : (s.core c).latch.get none0 num.toNat = none) (how : Nat) (opnd : State → Word) :
    (((s.csrValue c num.toNat).1.core c).regs = (s.core c).regs → (s.core c).Wrote ((s.csrInstr c how rd num opnd false).core c) rd
      ((s.csrValue c num.toNat).1.csrPeek c num.toNat &&& BitVec.ofNat 32 r.rd)) ∧
    ((s.csrInstr c how rd num opnd false).core c).pc = (s.core c).pc + 4 ∧
    (csrHiHalf num.toNat = true → rd ≠ 0 → ((s.csrInstr c how rd num opnd false).core c).latch.get none0 (num.toNat - 1) =
      some ((s.csrValue c num.toNat).1.csrPeek c (num.toNat - 1))) := by
  obtain ⟨t, ht, hregs, hlatch⟩ := State.csrFetch_spec (rd := rd) hf hl
  have e : s.csrInstr c how rd num opnd false = (((s.csrFetch c num.toNat rd r).1.modCore c fun k =>
      k.setS rd (s.csrFetch c num.toNat rd r).2).modCore c fun k => k.retire ((s.core c).pc + 4)) := by
    unfold State.csrInstr
    rw [h.instr]
    dsimp only
    rw [hf]
    rfl
  rw [e, ht, State.core_modCore_same, State.core_modCore_same]
  refine ⟨fun hr => Core.wrote_setS_retire _ _ _ fun x => ?_, Core.pc_retire _ _, fun hh h0 => ?_⟩
  · unfold Core.s; rw [hregs, hr]
  · rw [Core.retire_eq, Core.setS_rest]; exact hlatch hh h0

/-- A count of time that is a down-counter is not read above what it held (log entry 5). -/
theorem Core.get_pass_le {k : Core} (h : k.timed n = true) (ht : tickBit n ≠ none) (w : Word) : ((k.pass n w).get n).toNat ≤ (k.get n).toNat := by
  cases hb : tickBit n with
  | none => exact absurd hb ht
  | some b =>
    have hn : n ≠ 0x20 ∧ n ≠ 0x21 := by constructor <;> rintro rfl <;> exact ht rfl
    have hg : k.get n ≠ 0 := by
      unfold Core.timed at h
      rw [hb, beq_eq_false_iff_ne.2 hn.1, beq_eq_false_iff_ne.2 hn.2] at h
      simpa using (Bool.and_eq_true_iff.1 h).2
    have hp : (k.pass n w).get n = BitVec.ofNat 32 (1 + w.toNat % (k.get n).toNat) := by
      unfold Core.pass
      rw [hb]
      exact Core.get_put_same _ _ _
    have h0 : 0 < (k.get n).toNat := Nat.pos_of_ne_zero fun e => hg (BitVec.eq_of_toNat_eq e)
    have := Nat.mod_lt w.toNat h0
    rw [hp, BitVec.toNat_ofNat]
    exact (Nat.mod_le _ _).trans (by omega)

theorem tickBit_cases (h : tickBit n ≠ none) : n = 0x29 ∨ n = 0x2D ∨ n = 0x31 := by
  unfold tickBit at h
  by_contra hn
  rw [not_or, not_or] at hn
  rw [if_neg hn.1, if_neg hn.2.1, if_neg hn.2.2] at h
  exact h rfl

/-! ### What a CSR reads as where nothing but its register speaks -/

theorem Core.tableWord_low (k : Core) (h : n < 0x100) : k.tableWord n = none := by
  unfold Core.tableWord
  dsimp only
  repeat rw [if_neg (by omega)]

theorem State.csrPeek_low (s : State) (c : Nat) (h : 4 ≤ n) (h1 : n < 0x100) (h2 : n ≠ 0x17) (h3 : n ≠ 0x22) (h4 : n ≠ 0x23) :
    s.csrPeek c n = (s.core c).get n := by
  unfold State.csrPeek
  dsimp only
  repeat rw [if_neg (by omega)]
  rw [Core.tableWord_low _ h1]

/-- Below 0x20 a read has no side effect (R86). -/
theorem State.csrFetch_low (hf : findCsr n = some r) (hl : (s.core c).latch.get none0 n = none) (h4 : 4 ≤ n) (h : n < 0x20) (h17 : n ≠ 0x17) :
    ∃ t, s.csrFetch c n rd r = (t, (s.core c).get n &&& BitVec.ofNat 32 r.rd) ∧ s.OnlyCore t c ∧ t.core c = s.core c := by
  have htick : tickBit n = none := by unfold tickBit; repeat rw [if_neg (by omega)]
  have ht : (s.core c).timed n = false := by
    unfold Core.timed
    rw [htick, beq_eq_false_iff_ne.2 (by omega), beq_eq_false_iff_ne.2 (by omega)]
    rfl
  have hv := (State.counted_csrValue ht).2 (Or.inl (by omega))
  have hhi : csrHiHalf n = false := by
    unfold csrHiHalf
    simp only [List.mem_cons, List.not_mem_nil, or_false, decide_eq_false_iff_not]
    omega
  have hside (k : Core) : k.readSide n = k := by
    have ha : k.autoInc n = k := by unfold Core.autoInc; dsimp only; repeat rw [if_neg (by omega)]
    unfold Core.readSide
    rw [if_neg fun e => by omega, ha]
  have hp : (s.csrValue c n).2 = (s.core c).get n := by
    show (s.csrValue c n).1.csrPeek c n = _
    rw [hv, State.csrPeek_low s c h4 (by omega) h17 (by omega) (by omega)]
  unfold State.csrFetch
  split
  · rw [hv, hp]
    exact ⟨s, rfl, ⟨rfl, fun _ _ => rfl⟩, rfl⟩
  · rw [State.csrRead_eq hf hl, hv, hp, hhi]
    refine ⟨_, rfl, State.onlyCore_modCore s c _, ?_⟩
    rw [if_neg (by decide), State.core_modCore_same, hside]

/-! ### The CSRs a write changes by their access codes alone -/

theorem plainCsrs_codes : ∀ e ∈ plainCsrs, 4 < e.1.toNat ∧ e.1.toNat < 0x20 ∧ e.1.toNat ≠ 0x17 ∧
    ((findCsr e.1.toNat).map fun r => (BitVec.ofNat 32 r.rd, BitVec.ofNat 32 r.rw, r.w1c, r.w1s)) = some (e.2, e.2, 0, 0) := by decide +kernel

theorem State.csrHook_low (s : State) (c : Nat) (v : Word) (hr : r.w1c = 0) (h4 : 4 < n) (h : n < 0x20) : s.csrHook c n v r = none := by
  unfold State.csrHook
  dsimp only
  repeat rw [if_neg (by omega)]
  rw [hr, if_neg fun e => absurd e.2 (by decide)]
  repeat rw [if_neg (by omega)]
  rw [Core.tableWord_low _ (by omega)]

theorem State.csrWrite_low (s : State) (c : Nat) (v : Word) (hf : findCsr n = some r) (hr : r.w1c = 0) (hs : r.w1s = 0) (h4 : 4 < n)
    (h : n < 0x20) : s.csrWrite c n v = (s.modCore c fun k =>
      k.put n ((k.get n &&& ~~~(BitVec.ofNat 32 r.rw)) ||| (v &&& BitVec.ofNat 32 r.rw)), none) := by
  unfold State.csrWrite
  rw [hf]
  dsimp only
  rw [if_neg (by omega), State.csrHook_low s c v hr h4 h]
  have hw (old : Word) : writeCode r old v = (old &&& ~~~(BitVec.ofNat 32 r.rw)) ||| (v &&& BitVec.ofNat 32 r.rw) := by
    unfold writeCode
    rw [hr, hs]
    simp only [BitVec.and_zero, BitVec.or_zero, BitVec.not_zero, BitVec.and_allOnes]
  simp only [hw]

/-- What a CSR instruction on one of them does. -/
theorem State.Ready.csr_plain (h : s.Ready c) {num : BitVec 12} {mask : Word} (hm : (num, mask) ∈ plainCsrs)
    (hl : (s.core c).latch.get none0 num.toNat = none) (how : Nat) (opnd : State → Word) (w : Bool) :
    s.WritesBut (s.csrInstr c how rd num opnd w) c ((s.core c).pc + 4) rd ((s.core c).get num.toNat &&& mask) (· = num.toNat) ∧
      ((s.csrInstr c how rd num opnd w).core c).get num.toNat =
        if w then ((s.core c).get num.toNat &&& ~~~mask) ||| (csrCombine how ((s.core c).get num.toNat &&& mask) (opnd s) &&& mask)
        else (s.core c).get num.toNat := by
  obtain ⟨h4, h20, h17, hcode⟩ := plainCsrs_codes _ hm
  dsimp only at h4 h20 h17 hcode
  obtain ⟨r, hf, hr⟩ := Option.map_eq_some_iff.1 hcode
  obtain ⟨hrd, hrw, hc, hs⟩ : BitVec.ofNat 32 r.rd = mask ∧ BitVec.ofNat 32 r.rw = mask ∧ r.w1c = 0 ∧ r.w1s = 0 := by simpa using hr
  obtain ⟨t, ht, o, hcore⟩ := State.csrFetch_low (rd := rd) hf hl h4.le h20 h17
  have hbody : s.csrInstr c how rd num opnd w = s.finishInstr c (if w then
      IRes.put c (s.core c).pc (t.modCore c fun k => k.put num.toNat ((k.get num.toNat &&& ~~~mask) |||
        (csrCombine how ((s.core c).get num.toNat &&& mask) (opnd s) &&& mask))) rd ((s.core c).get num.toNat &&& mask)
      else IRes.put c (s.core c).pc t rd ((s.core c).get num.toNat &&& mask)) := by
    unfold State.csrInstr
    rw [h.instr]
    dsimp only
    rw [hf]
    dsimp only
    have hx : (if rd = 0 then ((s.csrValue c num.toNat).1, readCode r (s.csrValue c num.toNat).2) else s.csrRead c num.toNat) =
        (t, (s.core c).get num.toNat &&& mask) := hrd ▸ ht
    rw [hx]
    dsimp only
    cases w with
    | false => rfl
    | true =>
      rw [if_neg (by decide), if_neg (by omega), State.csrWrite_low t c _ hf hc hs h4 h20, hrw]
      rfl
  have hfin (u : State) : s.finishInstr c (IRes.put c (s.core c).pc u rd ((s.core c).get num.toNat &&& mask)) =
      (u.modCore c fun k => k.setS rd ((s.core c).get num.toNat &&& mask)).modCore c fun k => k.retire ((s.core c).pc + 4) := rfl
  cases w with
  | true =>
    rw [hbody, if_pos rfl, if_pos rfl, hfin]
    refine State.writesBut_put (by omega) (((o.modCore _).modCore _).modCore _) ?_
    rw [State.core_modCore_same, State.core_modCore_same, State.core_modCore_same, hcore]
  | false =>
    rw [hbody, if_neg (by decide), if_neg (by decide), hfin]
    have W : s.Writes ((t.modCore c fun k => k.setS rd ((s.core c).get num.toNat &&& mask)).modCore c fun k =>
        k.retire ((s.core c).pc + 4)) c ((s.core c).pc + 4) rd ((s.core c).get num.toNat &&& mask) :=
      State.writes_of ((o.modCore _).modCore _) (by rw [State.core_modCore_same, State.core_modCore_same, hcore])
    exact ⟨⟨W.only, W.retired, W.wrote, ⟨fun m h1 h4 h5 _ => W.csrs.csrs m h1 h4 h5 id, W.csrs.status⟩, W.rest⟩,
      W.csrs.csrs num.toNat (by omega) (by omega) (by omega) id⟩

theorem and_not_zero (x : Word) : x &&& ~~~0 = x := BitVec.and_allOnes

theorem and_not_or_and (x m : Word) : (x &&& ~~~m) ||| (x &&& m) = x := by
  rw [← BitVec.and_or_distrib_left, BitVec.or_comm, BitVec.or_not_self, BitVec.and_allOnes]

/-- Settles O8: what a read gives is `csrFetch_spec`, and what a write by access codes alone gives is `csr_plain`. -/
theorem csrInstructionsReadThenWrite : Obligations.CsrInstructionsReadThenWrite := by
  intro s c rd ra u num h k
  refine ⟨fun hf htm => ?_, fun r hf hl i hi => ?_, fun mask hm hl => ?_⟩
  · have ill (how : Nat) (opnd : State → Word) (w : Bool) : s.Trapped (s.csrInstr c how rd num opnd w) c 1 k.pc 0 :=
      h.illegal htm (by dsimp only; rw [hf])
    exact ⟨⟨_, rfl, ill ..⟩, ⟨_, rfl, ill ..⟩, ⟨_, rfl, ill ..⟩, ⟨_, rfl, ill ..⟩, ⟨_, rfl, ill ..⟩, ⟨_, rfl, ill ..⟩⟩
  · obtain ⟨how, opnd, he⟩ : ∃ how opnd, exec i s = .next (s.csrInstr c how rd num opnd false) := by
      simp only [List.mem_cons, List.not_mem_nil, or_false] at hi
      rcases hi with rfl | rfl | rfl | rfl <;> exact ⟨_, _, rfl⟩
    obtain ⟨hw, hpc, hlatch⟩ := h.csr_reads (rd := rd) hf hl how opnd
    refine ⟨fun ht => ?_, fun ht => ?_⟩
    · obtain ⟨hc, hs⟩ := State.counted_csrValue ht
      exact ⟨_, _, he, hc, hs, hw (by rw [hc.core]), hpc, hlatch⟩
    · have hcore := State.core_csrValue_timed ht
      refine ⟨_, _, he, hw (by rw [hcore, Core.regs_pass]), hpc, fun htick => ?_⟩
      have hn := tickBit_cases htick
      rw [State.csrPeek_low _ _ (by omega) (by omega) (by omega) (by omega) (by omega), hcore, BitVec.toNat_and]
      exact Nat.and_le_left.trans (Core.get_pass_le ht htick _)
  · intro old run
    have wr {i : Instr} {how : Nat} {opnd : State → Word} {v : Word} (he : exec i s = .next (s.csrInstr c how rd num opnd true))
        (hv : csrCombine how old (opnd s) = v) : run i v := by
      obtain ⟨w, hg⟩ := h.csr_plain (rd := rd) hm hl how opnd true
      exact ⟨_, he, w, by rw [hg, if_pos rfl, ← hv]⟩
    have rdOnly {i : Instr} {how : Nat} {opnd : State → Word} {v : Word} (he : exec i s = .next (s.csrInstr c how rd num opnd false))
        (hv : old = v) : run i v := by
      obtain ⟨w, hg⟩ := h.csr_plain (rd := rd) hm hl how opnd false
      refine ⟨_, he, w, ?_⟩
      rw [hg, if_neg (by decide), ← hv, BitVec.and_assoc, BitVec.and_self, and_not_or_and]
    refine ⟨wr rfl rfl, ?_, ?_, wr rfl rfl, ?_, ?_⟩
    · by_cases h0 : ra = 0
      · subst h0; exact rdOnly rfl (BitVec.or_zero ..).symm
      · exact wr (congrArg (fun w => Host.Outcome.next (s.csrInstr c 1 rd num _ w)) (decide_eq_true h0)) rfl
    · by_cases h0 : ra = 0
      · subst h0; exact rdOnly rfl (and_not_zero old).symm
      · exact wr (congrArg (fun w => Host.Outcome.next (s.csrInstr c 2 rd num _ w)) (decide_eq_true h0)) rfl
    · by_cases h0 : u = 0
      · subst h0; exact rdOnly rfl (BitVec.or_zero ..).symm
      · exact wr (congrArg (fun w => Host.Outcome.next (s.csrInstr c 1 rd num _ w)) (decide_eq_true h0)) rfl
    · by_cases h0 : u = 0
      · subst h0; exact rdOnly rfl (BitVec.and_allOnes ..).symm
      · exact wr (congrArg (fun w => Host.Outcome.next (s.csrInstr c 2 rd num _ w)) (decide_eq_true h0)) rfl

end Sys2Proof.Machine
end

section
/-!
SUPPORT and proofs. Timers, the watchdog, fencing and run control (spec/02 R53, R88, R97-R105, R185).
-/

namespace Sys2Proof.Machine

/-! ### The timers (R99, R100) -/

/-- The core with its overflow and pending bits set for the expiry of timer `n` (R99). -/
def Core.timerNoted (k : Core) (n : Nat) : Core :=
  (if bit (k.get 0x17) (3 + n) then k.orCsr (0x28 + 4 * n) 8 else k).orCsr 0x17 (2 ^ (3 + n))

/-- The core after the expiry of timer `n`: noted, and the count reloaded or stopped (R100). -/
def Core.timerExpired (k : Core) (n : Nat) : Core :=
  if (k.timerNoted n).cf (0x28 + 4 * n) 1 1 = 1 then (k.timerNoted n).put (0x28 + 4 * n + 1) ((k.timerNoted n).get (0x28 + 4 * n + 2))
  else ((k.timerNoted n).put (0x28 + 4 * n + 1) 0).clrCsr (0x28 + 4 * n) 1

theorem Core.timerNoted_only (k : Core) (n : Nat) : k.timerNoted n = { k with csr := (k.timerNoted n).csr } := by
  unfold Core.timerNoted; split <;> rfl

theorem Core.timerExpired_only (k : Core) (n : Nat) : k.timerExpired n = { k with csr := (k.timerExpired n).csr } := by
  unfold Core.timerExpired
  split <;> rw [Core.timerNoted_only] <;> rfl

theorem Core.get_timerNoted (k : Core) {n : Nat} (hn : n < 2) (j : Nat) : (k.timerNoted n).get j =
    if j = 0x17 then orBits (k.get 0x17) (2 ^ (3 + n))
    else if j = 0x28 + 4 * n ∧ bit (k.get 0x17) (3 + n) = true then orBits (k.get j) 8 else k.get j := by
  have hin : (if bit (k.get 0x17) (3 + n) then k.orCsr (0x28 + 4 * n) 8 else k).get j =
      if j = 0x28 + 4 * n ∧ bit (k.get 0x17) (3 + n) = true then orBits (k.get j) 8 else k.get j := by
    by_cases hb : bit (k.get 0x17) (3 + n) = true
    · rw [if_pos hb, Core.get_orCsr]
      by_cases hj : j = 0x28 + 4 * n
      · rw [if_pos hj, if_pos ⟨hj, hb⟩, hj]
      · rw [if_neg hj, if_neg fun e => hj e.1]
    · rw [if_neg hb, if_neg fun e => hb e.2]
  unfold Core.timerNoted
  rw [Core.get_orCsr, ← hin]
  by_cases hj : j = 0x17
  · subst hj
    rw [if_pos rfl, if_pos rfl, hin, if_neg fun e => by omega]
  · rw [if_neg hj, if_neg hj]

theorem Core.timerNoted_mode (k : Core) {n : Nat} (hn : n < 2) : (k.timerNoted n).cf (0x28 + 4 * n) 1 1 = fld (k.get (0x28 + 4 * n)) 1 1 := by
  unfold Core.cf
  refine fld_ext fun i hi => ?_
  rw [Core.get_timerNoted _ hn, if_neg (by omega)]
  split
  · rw [bit_orBits _ _ _ (by omega), show i = 0 by omega]
    exact Bool.or_false _
  · rfl

theorem Core.timerNoted_ovr (k : Core) {n : Nat} (hn : n < 2) (h : bit (k.get 0x17) (3 + n) = true) :
    bit ((k.timerNoted n).get (0x28 + 4 * n)) 3 = true := by
  rw [Core.get_timerNoted _ hn, if_neg (by omega), if_pos ⟨rfl, h⟩, bit_orBits _ _ _ (by decide)]
  exact Bool.or_true _

theorem Core.timerExpired_spec (k : Core) {n : Nat} (hn : n < 2) :
    (∀ j, j ≠ 0x17 → j ≠ 0x28 + 4 * n → j ≠ 0x28 + 4 * n + 1 → (k.timerExpired n).get j = k.get j) ∧
    bit ((k.timerExpired n).get 0x17) (3 + n) = true ∧
    (bit (k.get 0x17) (3 + n) = true → bit ((k.timerExpired n).get (0x28 + 4 * n)) 3 = true) ∧
    (fld (k.get (0x28 + 4 * n)) 1 1 = 1 → (k.timerExpired n).get (0x28 + 4 * n + 1) = k.get (0x28 + 4 * n + 2)) ∧
    (fld (k.get (0x28 + 4 * n)) 1 1 = 0 → (k.timerExpired n).get (0x28 + 4 * n + 1) = 0 ∧ bit ((k.timerExpired n).get (0x28 + 4 * n)) 0 = false) := by
  have hpend : bit ((k.timerNoted n).get 0x17) (3 + n) = true := by
    rw [Core.get_timerNoted _ hn, if_pos rfl, bit_orBits _ _ _ (by omega), Nat.testBit_two_pow_self, Bool.or_true]
  have hother {j : Nat} (h1 : j ≠ 0x17) (h2 : j ≠ 0x28 + 4 * n) : (k.timerNoted n).get j = k.get j := by
    rw [Core.get_timerNoted _ hn, if_neg h1, if_neg fun e => h2 e.1]
  unfold Core.timerExpired
  rw [Core.timerNoted_mode _ hn]
  by_cases hm : fld (k.get (0x28 + 4 * n)) 1 1 = 1
  · rw [if_pos hm]
    refine ⟨fun j h1 h2 h3 => ?_, ?_, fun h => ?_, fun _ => ?_, fun h => by omega⟩
    · rw [Core.get_put_ne _ _ h3, hother h1 h2]
    · rw [Core.get_put_ne _ _ (by omega), hpend]
    · rw [Core.get_put_ne _ _ (by omega), k.timerNoted_ovr hn h]
    · rw [Core.get_put_same, hother (by omega) (by omega)]
  · rw [if_neg hm]
    refine ⟨fun j h1 h2 h3 => ?_, ?_, fun h => ?_, fun h => absurd h hm, fun _ => ⟨?_, ?_⟩⟩
    · rw [Core.get_clrCsr, if_neg h2, Core.get_put_ne _ _ h3, hother h1 h2]
    · rw [Core.get_clrCsr, if_neg (by omega), Core.get_put_ne _ _ (by omega), hpend]
    · rw [Core.get_clrCsr, if_pos rfl, bit_clr _ _ _ (by decide), Core.get_put_ne _ _ (by omega), k.timerNoted_ovr hn h]
      rfl
    · rw [Core.get_clrCsr, if_neg (by omega), Core.get_put_same]
    · rw [Core.get_clrCsr, if_pos rfl, bit_clr _ _ _ (by decide)]
      exact Bool.and_false _

theorem State.clocked_clState {s : State} {c : Nat} (h : s.clocked c = true) : s.clState (coreCluster c) = 0 := by
  unfold State.clocked at h
  simp only [Bool.and_eq_true, beq_iff_eq] at h
  exact h.1.1

/-- The expiry of a timer that counts and ticks (R99, R100). -/
theorem State.timerExpiry_spec {s : State} {c n : Nat} (he : fld ((s.core c).get (0x28 + 4 * n)) 0 1 = 1)
    (h0 : (s.core c).get (0x28 + 4 * n + 1) ≠ 0) (hr : (s.core c).rs = 1 ∨ (s.core c).rs = 2) (hk : s.clocked c = true) :
    (s.timerExpiry c n).core c = (s.core c).timerExpired n := by
  have ht : (if (s.core c).cf (0x28 + 4 * n) 2 1 = 1 then decide (s.clState (coreCluster c) < 3) else s.clocked c) = true := by
    split
    · rw [State.clocked_clState hk]; rfl
    · exact hk
  have e : s.timerExpiry c n = (s.wakeFor (coreCluster c)).modCore c fun k => k.timerExpired n := by
    unfold State.timerExpiry
    exact if_pos ⟨he, h0, hr, ht⟩
  rw [e, State.core_modCore_same, State.wakeFor_core]

/-! ### The watchdog (R101) -/

theorem Core.retick_only (k : Core) (n : Nat) : k.retick n = { k with ticked := (k.retick n).ticked } := rfl

theorem Core.wdogKick_only (k : Core) (v : Word) : k.wdogKick v = { k with csr := (k.wdogKick v).csr, ticked := (k.wdogKick v).ticked } := by
  unfold Core.wdogKick
  split <;> rfl

/-- The right value restores the watchdog's first stage. -/
theorem Core.get_wdogKick (k : Core) (j : Nat) : (k.wdogKick 0xA5).get j =
    if j = 0x31 then BitVec.ofNat 32 (max 1 (fld (k.get 0x30) 0 24)) else if j = 0x30 then k.get 0x30 &&& ~~~(BitVec.ofNat 32 (2 ^ 29)) else k.get j := by
  show (((k.clrCsr 0x30 (2 ^ 29)).put 0x31 _).retick 0x31).get j = _
  rw [Core.retick_only]
  show ((k.clrCsr 0x30 (2 ^ 29)).put 0x31 _).get j = _
  rw [Core.get_put, Core.get_clrCsr]
  rfl

/-- Any other value is noted as a bad kick. -/
theorem Core.get_wdogKick_bad (k : Core) {v : Word} (h : v ≠ 0xA5) (j : Nat) :
    (k.wdogKick v).get j = if j = 0x30 then orBits (k.get 0x30) (2 ^ 30) else k.get j := by
  unfold Core.wdogKick
  rw [if_neg h, Core.get_orCsr]

theorem Core.rs_fenced (k : Core) : k.fenced.rs = 4 := by
  have e (j : Core) : ((j.setRs 4).setStatusBit 5 false).rs = (j.setRs 4).rs := fld_ext fun i hi => by
    rw [Core.get_setStatusBit, if_pos rfl, bit_setBit _ _ _ _ (by decide), if_neg (by omega)]
  exact (e _).trans (Core.rs_setRs _ 4)

/-- A watchdog that counts in a running core. -/
theorem Core.wdog_counts {k : Core} (h31 : bit (k.get 0x30) 31 = true) (hr : k.rs = 1 ∨ k.rs = 2) :
    ¬ (!bit (k.get 0x30) 31 || !(k.rs == 1 || k.rs == 2)) = true := by
  rw [h31]
  rcases hr with h | h <;> rw [h] <;> decide

theorem State.wdogExpiry_warns {s : State} {c : Nat} (h31 : bit ((s.core c).get 0x30) 31 = true) (hr : (s.core c).rs = 1 ∨ (s.core c).rs = 2)
    (h29 : bit ((s.core c).get 0x30) 29 = false) :
    s.wdogExpiry c = s.setCore c (((s.core c).orCsr 0x30 (2 ^ 29)).put 0x31 (s.core c).wdogTimeout) := by
  unfold State.wdogExpiry
  dsimp only
  rw [if_neg (Core.wdog_counts h31 hr), h29]
  rfl

theorem State.wdogExpiry_fences {s : State} {c : Nat} (h31 : bit ((s.core c).get 0x30) 31 = true) (hr : (s.core c).rs = 1 ∨ (s.core c).rs = 2)
    (h29 : bit ((s.core c).get 0x30) 29 = true) : s.wdogExpiry c = s.fence c 3 := by
  unfold State.wdogExpiry
  dsimp only
  rw [if_neg (Core.wdog_counts h31 hr), if_pos h29]

theorem Core.bit_tpend_wdog (k : Core) : bit k.tpend 5 = bit (k.get 0x30) 29 := by
  unfold Core.tpend
  dsimp only
  rw [bit_setBit _ _ _ _ (by decide), if_neg (by decide), bit_setBit _ _ _ _ (by decide), if_pos rfl]

theorem rs_ne_four {s : State} {c : Nat} (hc : isCore c = true) (h4 : (s.core c).rs ≠ 4) : (isCore c && (s.core c).rs != 4) = true := by
  rw [hc, Bool.true_and]; exact bne_iff_ne.2 h4

/-! ### The first-NaN record (R185) -/

theorem Core.get_clearNan (k : Core) (j : Nat) : k.clearNan.get j = if 0x60 ≤ j ∧ j < 0x64 then 0 else k.get j := by
  have e : k.clearNan.get j = ((((k.put 0x60 0).put 0x61 0).put 0x62 0).put 0x63 0).get j := rfl
  rw [e, Core.get_put, Core.get_put, Core.get_put, Core.get_put]
  split
  · rw [if_pos (by omega)]
  split
  · rw [if_pos (by omega)]
  split
  · rw [if_pos (by omega)]
  split
  · rw [if_pos (by omega)]
  · rw [if_neg (by omega)]

theorem Core.clearNan_stopped (k : Core) (e : Nat) : (k.clearNan.eng e).stopped = false :=
  Map.get_mapAll_of eng0 (fun x : Eng => x.stopped = false) _ _ _ rfl fun _ _ => rfl

/-- Settles O22: each command is one update of the core, whose CSRs the lemmas above name; a second watchdog expiry is a fence. -/
theorem timersAndWatchdogExpireAsConfigured : Obligations.TimersAndWatchdogExpireAsConfigured := by
  intro s c hc k kept
  have csrOnly {may : Nat → Prop} (t : State) {csr : Map Word} {tk : Nat} {engs : Map Eng} (e : t.core c = { k with csr := csr, ticked := tk, engs := engs })
      (hg : ∀ n, ¬ may n → (t.core c).get n = k.get n) : kept t may := ⟨fun r => by rw [e]; rfl, by rw [e], by rw [e], hg⟩
  refine ⟨fun tm n b hn hb he h0 hr hk => ?_, fun h31 hr => ⟨fun h29 => ?_, fun h29 => ?_⟩, fun h4 => ⟨fun v => ?_, ?_⟩, fun h4 => ?_, fun v h4 hv => ?_,
    fun h4 => ?_⟩
  · subst hb
    have hn2 : n < 2 := by rw [hn]; split <;> decide
    have hcore := State.timerExpiry_spec he h0 hr hk
    obtain ⟨hother, hpend, hovr, hre, hstop⟩ := Core.timerExpired_spec k hn2
    have ht : exec (.timerExpiry c tm) s = .next (s.timerExpiry c n) := by
      rw [hn]; exact congrArg Host.Outcome.next (if_pos hc)
    have hp : kept _ fun j => j = 0x17 ∨ j = 0x28 + 4 * n ∨ j = 0x28 + 4 * n + 1 :=
      csrOnly _ (hcore.trans (Core.timerExpired_only k n)) fun j hj => by rw [hcore]; exact hother j (by omega) (by omega) (by omega)
    rw [← hcore] at hpend hovr hre hstop
    exact ⟨_, ht, hp, hpend, hovr, hre, hstop⟩
  · have hcore : (s.wdogExpiry c).core c = (k.orCsr 0x30 (2 ^ 29)).put 0x31 k.wdogTimeout := by
      rw [State.wdogExpiry_warns h31 hr h29, State.core_setCore_same]
    have hget (n : Nat) : ((s.wdogExpiry c).core c).get n =
        if n = 0x31 then k.wdogTimeout else if n = 0x30 then orBits (k.get 0x30) (2 ^ 29) else k.get n := by
      rw [hcore, Core.get_put, Core.get_orCsr]
    have hwarn : bit (((s.wdogExpiry c).core c).get 0x30) 29 = true := by
      rw [hget, if_neg (by decide), if_pos rfl, bit_orBits _ _ _ (by decide)]
      exact Bool.or_true _
    refine ⟨_, congrArg Host.Outcome.next (if_pos hc), csrOnly _ hcore fun n hn => ?_, hwarn, ?_, ?_⟩
    · rw [not_or] at hn
      rw [hget, if_neg hn.2, if_neg hn.1]
    · rw [hget, if_pos rfl]; rfl
    · rw [Core.bit_tpend_wdog, hwarn]
  · obtain ⟨hcore, hfen, hcause⟩ := State.fence_spec (s := s) hc 3
    refine ⟨_, congrArg Host.Outcome.next (if_pos hc), ?_⟩
    rw [State.wdogExpiry_fences h31 hr h29, hcore]
    exact ⟨Core.rs_fenced _, hfen, hcause⟩
  · exact congrArg Host.Outcome.next (if_neg fun e => bne_iff_ne.1 (Bool.and_eq_true_iff.1 e).2 h4)
  · exact congrArg Host.Outcome.next (if_neg fun e => bne_iff_ne.1 (Bool.and_eq_true_iff.1 e).2 h4)
  · have hcore : (s.modCore c fun k => k.wdogKick 0xA5).core c = k.wdogKick 0xA5 := State.core_modCore_same ..
    refine ⟨_, congrArg Host.Outcome.next (if_pos (rs_ne_four hc h4)), csrOnly _ (hcore.trans (Core.wdogKick_only k _)) fun n hn => ?_, ?_, ?_⟩
    · rw [not_or] at hn
      rw [hcore, Core.get_wdogKick, if_neg hn.2, if_neg hn.1]
    · rw [hcore, Core.get_wdogKick, if_neg (by decide), if_pos rfl, bit_clr _ _ _ (by decide)]
      exact Bool.and_false _
    · rw [hcore, Core.get_wdogKick, if_pos rfl]
  · have hcore : (s.modCore c fun k => k.wdogKick v).core c = k.wdogKick v := State.core_modCore_same ..
    refine ⟨_, congrArg Host.Outcome.next (if_pos (rs_ne_four hc h4)), csrOnly _ (hcore.trans (Core.wdogKick_only k _)) fun n hn => ?_, ?_, ?_⟩
    · rw [hcore, Core.get_wdogKick_bad _ hv, if_neg hn]
    · rw [hcore, Core.get_wdogKick_bad _ hv, if_pos rfl, bit_orBits _ _ _ (by decide)]
      exact Bool.or_true _
    · rw [hcore, Core.get_wdogKick_bad _ hv, if_pos rfl, bit_orBits _ _ _ (by decide)]
      exact Bool.or_false _
  · have hcore : (s.modCore c Core.clearNan).core c = k.clearNan := State.core_modCore_same ..
    refine ⟨_, congrArg Host.Outcome.next (if_pos (rs_ne_four hc h4)), csrOnly _ hcore fun n hn => ?_, fun j h1 h2 => ?_, fun e => ?_⟩
    · rw [hcore, Core.get_clearNan, if_neg hn]
    · rw [hcore, Core.get_clearNan, if_pos ⟨h1, h2⟩]
    · rw [hcore, Core.clearNan_stopped]

end Sys2Proof.Machine
end

section
/-!
SUPPORT and proofs. Run control: writes of CC_CTL (spec/02 R53, R88, R91, R97, R105).
-/

namespace Sys2Proof.Machine

/-! ### What a write of CC_CTL does to the core -/

/-- GO is written, and HINT makes HOST pending (R91, R104). -/
def Core.ctlNoted (v : Word) (k : Core) : Core :=
  if bit v 4 then (k.put 2 (setBit (k.get 2) 3 (bit v 3))).orCsr 0x17 0x80 else k.put 2 (setBit (k.get 2) 3 (bit v 3))

def Core.setRun (b : Bool) (k : Core) : Core := k.put 2 (setBit (k.get 2) 0 b)

/-- The core's timers and watchdog tick from now on. -/
def Core.started (k : Core) : Core := { k with ticked := k.ticked ||| k.counting }

/-- The run state a write leaves (R53, R88, R105); `rs` is the one it met. -/
def Core.ctlMove (rs : Nat) (v : Word) (k : Core) : Core :=
  if rs = 0 then
    if bit v 2 then if (k.setRun false).outstanding then (k.setRun false).putFld 1 8 4 7 else (k.setRun false).setRs 3
    else if bit v 1 then { ((k.setRun false).setRs 1).started with stepping := true }
    else if bit v 0 then ((k.setRun true).setRs 1).started else k.setRun false
  else if !bit v 0 && (rs == 1 || rs == 2) then { ((k.setRun (bit v 0)).setRs 0) with wait := none, stepping := false } else k.setRun (bit v 0)

/-- A write of CC_CTL but for UNRECOV. -/
def State.ctlMoved (s : State) (c rs : Nat) (v : Word) : State :=
  (if rs = 0 ∨ bit v 0 = true then s.modCore c (Core.ctlNoted v) else (s.modCore c (Core.ctlNoted v)).stallTick c).modCore c (Core.ctlMove rs v)

theorem State.ctlWrite_eq (s : State) (c : Nat) {rs : Nat} (v : Word) (h : rs ≠ 4) :
    s.ctlWrite c rs v = if bit v 5 then (s.ctlMoved c rs v).fence c 2 else s.ctlMoved c rs v := by
  have e : (s.ctlMoved c rs v) = if rs = 0 then
      if bit v 2 then (s.modCore c (Core.ctlNoted v)).modCore c fun k =>
        if (k.setRun false).outstanding then (k.setRun false).putFld 1 8 4 7 else (k.setRun false).setRs 3
      else if bit v 1 then (s.modCore c (Core.ctlNoted v)).modCore c fun k => { ((k.setRun false).setRs 1).started with stepping := true }
      else (s.modCore c (Core.ctlNoted v)).modCore c fun k => if bit v 0 then ((k.setRun true).setRs 1).started else k.setRun false
      else (if bit v 0 then s.modCore c (Core.ctlNoted v) else (s.modCore c (Core.ctlNoted v)).stallTick c).modCore c fun k =>
        if !bit v 0 && (rs == 1 || rs == 2) then { ((k.setRun (bit v 0)).setRs 0) with wait := none, stepping := false } else k.setRun (bit v 0) := by
    unfold State.ctlMoved
    by_cases h0 : rs = 0
    · rw [if_pos (Or.inl h0), if_pos h0]
      subst h0
      split
      · rename_i h2
        exact State.modCore_congr _ _ (by unfold Core.ctlMove; rw [if_pos rfl, if_pos h2])
      split
      · rename_i h2 h1
        exact State.modCore_congr _ _ (by unfold Core.ctlMove; rw [if_pos rfl, if_neg h2, if_pos h1])
      · rename_i h2 h1
        exact State.modCore_congr _ _ (by unfold Core.ctlMove; rw [if_pos rfl, if_neg h2, if_neg h1])
    · rw [if_neg h0]
      have hb : (if rs = 0 ∨ bit v 0 = true then s.modCore c (Core.ctlNoted v) else (s.modCore c (Core.ctlNoted v)).stallTick c) =
          if bit v 0 then s.modCore c (Core.ctlNoted v) else (s.modCore c (Core.ctlNoted v)).stallTick c := by
        by_cases hv : bit v 0 = true
        · rw [if_pos (Or.inr hv), if_pos hv]
        · rw [if_neg (by rintro (e | e); exacts [h0 e, hv e]), if_neg hv]
      rw [hb]
      exact State.modCore_congr _ _ (by unfold Core.ctlMove; rw [if_neg h0])
  unfold State.ctlWrite
  rw [if_neg h, e]
  rfl

section
variable (rs : Nat) (v : Word) (k : Core)

theorem Core.ctlNoted_only : k.ctlNoted v = { k with csr := (k.ctlNoted v).csr } := by
  unfold Core.ctlNoted; split <;> rfl

theorem Core.get_ctlNoted {n : Nat} (h2 : n ≠ 2) (h : n ≠ 0x17) : (k.ctlNoted v).get n = k.get n := by
  unfold Core.ctlNoted
  split
  · rw [Core.get_orCsr, if_neg h, Core.get_put_ne _ _ h2]
  · rw [Core.get_put_ne _ _ h2]

theorem Core.bit_ctlNoted_host (h : bit v 4 = true) : bit ((k.ctlNoted v).get 0x17) 7 = true := by
  unfold Core.ctlNoted
  rw [if_pos h, Core.get_orCsr, if_pos rfl, bit_orBits _ _ _ (by decide)]
  exact Bool.or_true _

theorem Core.ctlMove_only : k.ctlMove rs v =
    { k with csr := (k.ctlMove rs v).csr, ticked := (k.ctlMove rs v).ticked, wait := (k.ctlMove rs v).wait, stepping := (k.ctlMove rs v).stepping } := by
  unfold Core.ctlMove Core.started
  split
  · split
    · split <;> rfl
    split
    · rfl
    · split <;> rfl
  · split <;> rfl

theorem Core.get_setRun (b : Bool) {n : Nat} (h : n ≠ 2) : (k.setRun b).get n = k.get n := Core.get_put_ne _ _ h

theorem Core.get_setRs_ne (j : Core) (x : Nat) {n : Nat} (h : n ≠ 1) : (j.setRs x).get n = j.get n := by rw [Core.get_setRs, if_neg h]

theorem Core.get_ctlMove_two : ∃ b, (k.ctlMove rs v).get 2 = (k.setRun b).get 2 ∧
    b = if rs = 0 then !bit v 2 && (!bit v 1 && bit v 0) else bit v 0 := by
  unfold Core.ctlMove
  split
  · split
    · rename_i h2
      refine ⟨false, ?_, by rw [h2]; rfl⟩
      split
      · exact Core.get_putFld .. |>.trans (if_neg (by decide))
      · exact Core.get_setRs_ne _ _ (by decide)
    · rename_i h2
      rw [Bool.not_eq_true] at h2
      split
      · rename_i h1
        exact ⟨false, Core.get_setRs_ne _ _ (by decide), by rw [h2, h1]; rfl⟩
      · rename_i h1
        rw [Bool.not_eq_true] at h1
        split
        · rename_i h0
          exact ⟨true, Core.get_setRs_ne _ _ (by decide), by rw [h2, h1, h0]; rfl⟩
        · rename_i h0
          rw [Bool.not_eq_true] at h0
          exact ⟨false, rfl, by rw [h2, h1, h0]; rfl⟩
  · refine ⟨bit v 0, ?_, rfl⟩
    split
    · exact Core.get_setRs_ne _ _ (by decide)
    · rfl

theorem Core.bit_ctlMove_run : bit ((k.ctlMove rs v).get 2) 0 = if rs = 0 then !bit v 2 && (!bit v 1 && bit v 0) else bit v 0 := by
  obtain ⟨b, h, hb⟩ := k.get_ctlMove_two rs v
  rw [h, ← hb]
  show bit ((k.put 2 _).get 2) 0 = b
  rw [Core.get_put_same, bit_setBit _ _ _ _ (by decide), if_pos rfl]

theorem Core.get_ctlMove {n : Nat} (h1 : n ≠ 1) (h2 : n ≠ 2) : (k.ctlMove rs v).get n = k.get n := by
  have hr (b : Bool) (x : Nat) : ((k.setRun b).setRs x).get n = k.get n := (Core.get_setRs_ne _ _ h1).trans (k.get_setRun b h2)
  unfold Core.ctlMove
  split
  · split
    · split
      · rw [Core.get_putFld, if_neg h1, Core.get_setRun _ _ h2]
      · exact hr _ _
    split
    · exact hr _ _
    split
    · exact hr _ _
    · exact k.get_setRun _ h2
  · split
    · exact hr _ _
    · exact k.get_setRun _ h2

theorem Core.rs_ctlMove (h : k.rs = rs) : (k.ctlMove rs v).rs =
    if rs = 0 then if bit v 2 then if k.outstanding then 0 else 3 else if bit v 1 then 1 else if bit v 0 then 1 else 0
    else if !bit v 0 && (rs == 1 || rs == 2) then 0 else rs := by
  have hs (b : Bool) : (k.setRun b).rs = rs := (congrArg (fld · 0 3) (k.get_setRun b (by decide))).trans h
  have hr (b : Bool) (x : Nat) : ((k.setRun b).setRs x).rs = x % 2 ^ 3 := Core.rs_setRs _ x
  have ho : (k.setRun false).outstanding = k.outstanding := rfl
  unfold Core.ctlMove
  rw [ho]
  split
  · rename_i h0
    split
    · split
      · have e : (((k.setRun false).putFld 1 8 4 7).rs) = (k.setRun false).rs := by
          show fld (((k.setRun false).putFld 1 8 4 7).get 1) 0 3 = _
          rw [Core.get_putFld, if_pos rfl, fld_setFld_other _ _ _ _ _ _ (by decide) (by decide)]
          rfl
        rw [e, hs, h0]
      · exact hr false 3
    split
    · exact hr false 1
    split
    · exact hr true 1
    · rw [hs, h0]
  · split
    · exact hr _ 0
    · exact hs _

theorem Core.ctlMove_steps (h2 : bit v 2 = false) (h1 : bit v 1 = true) : (k.ctlMove 0 v).stepping = true := by
  unfold Core.ctlMove
  rw [if_pos rfl, h2, if_neg (by decide), if_pos h1]

/-- A load with something outstanding is refused (R105). -/
theorem Core.ctlMove_loaderr (h2 : bit v 2 = true) (ho : k.outstanding = true) : fld ((k.ctlMove 0 v).get 1) 8 4 = 7 := by
  have e : k.ctlMove 0 v = (k.setRun false).putFld 1 8 4 7 := by
    unfold Core.ctlMove
    rw [if_pos rfl, if_pos h2]
    exact if_pos ho
  rw [e, Core.get_putFld, if_pos rfl]
  exact fld_setFld _ _ _ _ (by decide)

end

/-! ### What a write of CC_CTL leaves -/

/-- What every write keeps: all that is not the run state, CC_CTL, the pending bits or a count of waiting. -/
structure State.CtlKept (s t : State) (c : Nat) : Prop where
  counted : ∃ u, s.Counted u c ∧ u.OnlyCore t c
  core : t.core c = { s.core c with csr := (t.core c).csr, ticked := (t.core c).ticked, wait := (t.core c).wait, stepping := (t.core c).stepping }
  csrs : ∀ n, n ≠ 1 → n ≠ 2 → n ≠ 0x17 → n < 0x2B0 ∨ 0x2B4 ≤ n → (t.core c).get n = (s.core c).get n

/-- Counting after a change of the core is a change of the core after counting. -/
theorem State.Counted.swap {s u t : State} {c : Nat} (o : s.OnlyCore u c) (k : u.Counted t c) : ∃ w, s.Counted w c ∧ w.OnlyCore t c := by
  refine ⟨t.setCore c (s.core c), ⟨?_, fun j hj => ?_, ?_, fun n _ => ?_, fun x hx => ?_⟩, ⟨rfl, fun x hx => (State.core_setCore_ne _ _ hx).symm⟩⟩
  · rw [k.state, o.state]; rfl
  · exact (k.regs j hj).trans (o.reg j)
  · rw [State.core_setCore_same]
  · rw [State.core_setCore_same]
  · rw [State.core_setCore_ne _ _ hx, k.others x hx, o.others x hx]

section
variable {s : State} {c rs : Nat} {v : Word}

/-- The core CC_CTL's write is made on, after its waits were counted. -/
theorem State.ctlMoved_base (s : State) (c rs : Nat) (v : Word) : ∃ u, (s.modCore c (Core.ctlNoted v)).Counted u c ∧
    s.ctlMoved c rs v = u.modCore c (Core.ctlMove rs v) := by
  unfold State.ctlMoved
  split
  · exact ⟨_, State.Counted.refl _ c, rfl⟩
  · exact ⟨_, State.Counted.stallTick _ c, rfl⟩

theorem State.ctlMoved_spec (h : (s.core c).rs = rs) : ∃ k : Core, k.rs = rs ∧ k.outstanding = (s.core c).outstanding ∧
    (s.ctlMoved c rs v).core c = k.ctlMove rs v ∧ (bit v 4 = true → bit (k.get 0x17) 7 = true) ∧ s.CtlKept (s.ctlMoved c rs v) c := by
  obtain ⟨u, hu, e⟩ := State.ctlMoved_base s c rs v
  have hc : (s.ctlMoved c rs v).core c = (u.core c).ctlMove rs v := by rw [e, State.core_modCore_same]
  have hn : (s.modCore c (Core.ctlNoted v)).core c = (s.core c).ctlNoted v := State.core_modCore_same ..
  have hcore : u.core c = { s.core c with csr := (u.core c).csr } := by rw [hu.core, hn, Core.ctlNoted_only]
  refine ⟨u.core c, ?_, ?_, hc, fun h4 => ?_, ?_, ?_, fun n h1 h2 h17 hs => ?_⟩
  · rw [hu.rs, hn, ← h]; exact congrArg (fld · 0 3) (Core.get_ctlNoted _ _ (by decide) (by decide))
  · rw [hcore]; rfl
  · rw [hu.get (by decide), hn, Core.bit_ctlNoted_host _ _ h4]
  · obtain ⟨w, hw, o⟩ := State.Counted.swap (State.onlyCore_modCore s c _) hu
    exact ⟨w, hw, e ▸ o.modCore _⟩
  · rw [hc, Core.ctlMove_only, hcore]
  · rw [hc, Core.get_ctlMove _ _ _ h1 h2, hu.get hs, hn, Core.get_ctlNoted _ _ h2 h17]

end

/-! ### The commands that write one bit of CC_CTL -/

/-- The bits of the word a command writes: GO is bit 3, the others are the command's. -/
theorem bit_ctlWord : ∀ b : BitVec 6, ∀ g : BitVec 1, b.toNat.testBit 3 = false → ∀ i : BitVec 3, i ≠ 3 →
    bit (BitVec.ofNat 32 (b.toNat + 8 * g.toNat)) i.toNat = b.toNat.testBit i.toNat := by decide +kernel

theorem fld_lt (w : Word) (lo len : Nat) : fld w lo len < 2 ^ len := Nat.mod_lt _ (Nat.two_pow_pos _)

/-- What a command that writes the bits `b` does to a core that is not fenced; `cmd` is what `b` says of HINT, STEP and LOAD, and of RUN. -/
theorem State.ctlCmd_eq {s : State} {c : Nat} (hc : isCore c = true) (h4 : (s.core c).rs ≠ 4) {b : Nat} (hb : b < 64) (h3 : b.testBit 3 = false) :
    ∃ v : Word, (∀ i, i < 8 → i ≠ 3 → bit v i = b.testBit i) ∧
      s.ctlCmd c b = if b.testBit 5 then (s.ctlMoved c (s.core c).rs v).fence c 2 else s.ctlMoved c (s.core c).rs v := by
  have hg : (s.core c).go < 2 ^ 1 := fld_lt ((s.core c).get 2) 3 1
  have hbits (i : Nat) (hi : i < 8) (hi3 : i ≠ 3) : bit (BitVec.ofNat 32 (b + 8 * (s.core c).go)) i = b.testBit i := by
    have := bit_ctlWord (BitVec.ofNat 6 b) (BitVec.ofNat 1 (s.core c).go) (by rwa [BitVec.toNat_ofNat, Nat.mod_eq_of_lt hb]) (BitVec.ofNat 3 i)
      (fun e => hi3 (by have := congrArg BitVec.toNat e; rwa [BitVec.toNat_ofNat, Nat.mod_eq_of_lt hi] at this))
    rwa [BitVec.toNat_ofNat, BitVec.toNat_ofNat, BitVec.toNat_ofNat, Nat.mod_eq_of_lt hb, Nat.mod_eq_of_lt hg, Nat.mod_eq_of_lt hi] at this
  refine ⟨_, hbits, ?_⟩
  unfold State.ctlCmd
  rw [if_pos hc, State.ctlWrite_eq _ _ _ h4, hbits 5 (by decide) (by decide)]

/-- What a command that writes the bits `b` of CC_CTL, UNRECOV not among them, does to a core that is not fenced (R53, R88, R91, R105). -/
structure State.CtlDone (s t : State) (c b : Nat) : Prop where
  kept : s.CtlKept t c
  rs : (t.core c).rs =
    if (s.core c).rs = 0 then if b.testBit 2 then if (s.core c).outstanding then 0 else 3 else if b.testBit 1 then 1 else if b.testBit 0 then 1 else 0
    else if !b.testBit 0 && ((s.core c).rs == 1 || (s.core c).rs == 2) then 0 else (s.core c).rs
  run : bit ((t.core c).get 2) 0 = if (s.core c).rs = 0 then !b.testBit 2 && (!b.testBit 1 && b.testBit 0) else b.testBit 0
  stepping : (s.core c).rs = 0 → b.testBit 2 = false → b.testBit 1 = true → (t.core c).stepping = true
  loaderr : (s.core c).rs = 0 → b.testBit 2 = true → (s.core c).outstanding = true → fld ((t.core c).get 1) 8 4 = 7
  host : b.testBit 4 = true → bit ((t.core c).get 0x17) 7 = true

theorem State.ctlCmd_done {s : State} {c : Nat} (hc : isCore c = true) (h4 : (s.core c).rs ≠ 4) {b : Nat} (hb : b < 32) (h3 : b.testBit 3 = false) :
    s.CtlDone (s.ctlCmd c b) c b := by
  obtain ⟨v, hv, e⟩ := State.ctlCmd_eq hc h4 (b := b) (by omega) h3
  rw [Nat.testBit_lt_two_pow (i := 5) hb, if_neg (by decide)] at e
  obtain ⟨j, hrs, ho, hj, hhost, K⟩ := State.ctlMoved_spec (s := s) (c := c) (v := v) rfl
  have v0 := hv 0 (by decide) (by decide)
  have v1 := hv 1 (by decide) (by decide)
  have v2 := hv 2 (by decide) (by decide)
  rw [e]
  refine ⟨K, ?_, ?_, fun h0 b2 b1 => ?_, fun h0 b2 hout => ?_, fun b4 => ?_⟩ <;> rw [hj]
  · rw [Core.rs_ctlMove _ _ _ hrs, v0, v1, v2, ho]
  · rw [Core.bit_ctlMove_run, v0, v1, v2]
  · rw [h0]; exact Core.ctlMove_steps _ _ (v2.trans b2) (v1.trans b1)
  · rw [h0]; exact Core.ctlMove_loaderr _ _ (v2.trans b2) (ho.trans hout)
  · rw [Core.get_ctlMove _ _ _ (by decide) (by decide)]
    exact hhost ((hv 4 (by decide) (by decide)).trans b4)

/-- A fenced core's registers are frozen (R538). -/
theorem State.ctlCmd_fenced {s : State} {c : Nat} (h4 : (s.core c).rs = 4) (b : Nat) : s.ctlCmd c b = s := by
  unfold State.ctlCmd State.ctlWrite
  rw [if_pos h4]
  exact ite_id _

/-- Whether a write halts a core: it runs or waits, and RUN is written 0 (R53). -/
theorem ctl_halts {rs r : Nat} {b : Bool} (hb : b = false ↔ r = 0) : (!b && (rs == 1 || rs == 2)) = true ↔ (rs = 1 ∨ rs = 2) ∧ r = 0 := by
  rw [Bool.and_eq_true, Bool.or_eq_true, beq_iff_eq, beq_iff_eq, Bool.not_eq_true', hb, and_comm]

/-- The bits of a command that writes back RUN: it is bit 0, and no other depends on it. -/
theorem testBit_add_run : ∀ b ∈ [2, 4, 16, 32], ∀ r < 2, ((b + r).testBit 0 = false ↔ r = 0) ∧ ∀ i < 6, i ≠ 0 → (b + r).testBit i = b.testBit i := by
  decide

theorem Core.fenced_eng (k : Core) (e : Nat) : (k.fenced.eng e).queue = [] ∧ (k.fenced.eng e).jobs = [] :=
  Map.get_mapAll_of eng0 (fun x : Eng => x.queue = [] ∧ x.jobs = []) _ _ _ ⟨rfl, rfl⟩ fun _ _ => ⟨rfl, rfl⟩

theorem Core.get_fenced (k : Core) {n : Nat} (h : n ≠ 1) : k.fenced.get n = k.get n := by
  unfold Core.fenced
  dsimp only
  rw [Core.get_setStatusBit, if_neg h, Core.get_setRs, if_neg h]
  rfl

/-- Settles O20: all commands are one write of CC_CTL; UNRECOV fences the core afterwards. -/
theorem runControlMovesTheRunState : Obligations.RunControlMovesTheRunState := by
  intro s c hc k halts kept
  have hr2 : k.cf 2 0 1 < 2 := fld_lt _ _ _
  refine ⟨fun h4 i hi => ?_, fun h4 => ?_⟩
  · simp only [List.mem_cons, List.not_mem_nil, or_false] at hi
    rcases hi with rfl | rfl | rfl | rfl | rfl | rfl <;> exact congrArg Host.Outcome.next (State.ctlCmd_fenced h4 _)
  have keep {t : State} (K : s.CtlKept t c) : kept t := by
    obtain ⟨u, hu, o⟩ := K.counted
    exact ⟨u, hu, o, fun r => by rw [K.core]; rfl, by rw [K.core], by rw [K.core], by rw [K.core], by rw [K.core], K.csrs⟩
  have cmd (b : Nat) (hb : b ∈ [2, 4, 16, 32]) := testBit_add_run b hb _ hr2
  refine ⟨?_, ?_, ?_, ?_, ?_, ?_⟩
  · have D := State.ctlCmd_done hc h4 (b := 1) (by decide) (by decide)
    refine ⟨_, rfl, keep D.kept, D.run.trans ?_, D.rs⟩
    split <;> rfl
  · have D := State.ctlCmd_done hc h4 (b := 0) (by decide) (by decide)
    refine ⟨_, rfl, keep D.kept, D.run.trans ?_, D.rs.trans ?_⟩
    · split <;> rfl
    · by_cases h0 : k.rs = 0
      · rw [if_neg (show ¬ (k.rs = 1 ∨ k.rs = 2) by omega)]
        exact (if_pos h0).trans h0.symm
      · rw [if_neg h0]
        exact if_congr ((ctl_halts (r := 0) (by decide)).trans (and_iff_left rfl)) rfl rfl
  · obtain ⟨b0, bi⟩ := cmd 2 (by decide)
    have b1 : (2 + k.cf 2 0 1).testBit 1 = true := bi 1 (by decide) (by decide)
    have b2 : (2 + k.cf 2 0 1).testBit 2 = false := bi 2 (by decide) (by decide)
    have D := State.ctlCmd_done hc h4 (b := 2 + k.cf 2 0 1) (by omega) (bi 3 (by decide) (by decide))
    refine ⟨_, rfl, keep D.kept, D.rs.trans ?_, fun h0 => D.stepping h0 b2 b1⟩
    rw [b2, b1]
    exact if_congr Iff.rfl rfl (if_congr (ctl_halts b0) rfl rfl)
  · obtain ⟨b0, bi⟩ := cmd 4 (by decide)
    have b2 : (4 + k.cf 2 0 1).testBit 2 = true := bi 2 (by decide) (by decide)
    have D := State.ctlCmd_done hc h4 (b := 4 + k.cf 2 0 1) (by omega) (bi 3 (by decide) (by decide))
    refine ⟨_, rfl, keep D.kept, D.rs.trans ?_, fun h0 => D.loaderr h0 b2⟩
    rw [b2]
    by_cases h0 : k.rs = 0
    · by_cases ho : k.outstanding = true
      · rw [if_neg (show ¬ (k.rs = 0 ∧ k.outstanding = false) from fun e => by rw [ho] at e; exact absurd e.2 (by decide)),
          if_neg (show ¬ halts from fun e => by have := e.1; omega)]
        exact (if_pos h0).trans ((if_pos rfl).trans ((if_pos ho).trans h0.symm))
      · rw [if_pos (show k.rs = 0 ∧ k.outstanding = false from ⟨h0, by simpa using ho⟩)]
        exact (if_pos h0).trans ((if_pos rfl).trans (if_neg ho))
    · rw [if_neg (show ¬ (k.rs = 0 ∧ k.outstanding = false) from fun e => h0 e.1)]
      exact (if_neg h0).trans (if_congr (ctl_halts b0) rfl rfl)
  · obtain ⟨b0, bi⟩ := cmd 16 (by decide)
    have D := State.ctlCmd_done hc h4 (b := 16 + k.cf 2 0 1) (by omega) (bi 3 (by decide) (by decide))
    refine ⟨_, rfl, keep D.kept, D.host (bi 4 (by decide) (by decide)), fun h0 => D.rs.trans ?_⟩
    rw [if_neg h0]
    exact if_congr (ctl_halts b0) rfl rfl
  · obtain ⟨b0, bi⟩ := cmd 32 (by decide)
    obtain ⟨v, -, e⟩ := State.ctlCmd_eq hc h4 (b := 32 + k.cf 2 0 1) (by omega) (bi 3 (by decide) (by decide))
    rw [bi 5 (by decide) (by decide), if_pos (by decide)] at e
    obtain ⟨-, -, -, -, -, K⟩ := State.ctlMoved_spec (s := s) (c := c) (v := v) rfl
    generalize s.ctlMoved c (s.core c).rs v = u at e K
    obtain ⟨hcore, hfen, hcause⟩ := State.fence_spec (s := u) hc 2
    refine ⟨_, congrArg Host.Outcome.next e, ?_⟩
    rw [hcore]
    refine ⟨Core.rs_fenced _, rfl, rfl, Core.fenced_eng _, fun r => ?_, ?_, ?_, fun n h1 h2 => ?_, hfen, hcause⟩
    · show (u.core c).s r = k.s r
      rw [K.core]; rfl
    · show (u.core c).spad = k.spad
      rw [K.core]
    · show (u.core c).imem = k.imem
      rw [K.core]
    · rw [Core.get_fenced _ (by omega)]
      exact K.csrs n (by omega) (by omega) (by omega) (by omega)

end Sys2Proof.Machine
end

section
/-!
SUPPORT and proofs. The end of a load (spec/02 R103-R105).
-/

namespace Sys2Proof.Machine

/-! ### Reading device memory with nothing in the way -/

/-- The registers below the region table of an M-tile, where accesses are counted. -/
def meterReg (k : Nat) : Prop := 0x300000 ≤ k ∧ k < 0x400000 ∧ (k - 0x300000) % 0x20000 < 0x400

theorem meterReg_mtKey {t o : Nat} (h : t < 8) (ho : o < 0x400) : meterReg (mtKey t + o) := by
  unfold meterReg mtKey; omega

/-- What the meters of a tile change. -/
theorem State.metered (s : State) {t : Nat} (n : Nat) (h : t < 8) : s.RegsBut ((s.tileWake t).bump (mtKey t + 0x138) n) meterReg := by
  have hw : s.RegsBut (s.tileWake t) meterReg := by
    unfold State.tileWake
    split
    · exact .setRegFld s _ _ _ (meterReg_mtKey h (by decide))
    · exact .refl s _
  exact hw.trans (.bump _ n (meterReg_mtKey h (by decide)) (meterReg_mtKey h (o := 0x13C) (by decide)))

theorem findSome?_congr_mem {α β : Type} {f g : α → Option β} {l : List α} (h : ∀ x ∈ l, f x = g x) : l.findSome? f = l.findSome? g := by
  induction l with
  | nil => rfl
  | cons x l ih => rw [List.findSome?_cons, List.findSome?_cons, h x (List.mem_cons_self ..), ih fun y hy => h y (List.mem_cons_of_mem _ hy)]

section
variable {s u : State} (h : s.RegsBut u meterReg)
include h

theorem State.RegsBut.xlate (p a : Nat) (hp : p < 64) : u.xlate p a = s.xlate p a := by
  have hf : u.fuse = s.fuse := by rw [h.state]
  unfold State.xlate
  rw [h.regs _ (by unfold meterReg; omega) (by unfold eventReg; omega), hf]

/-- Plain memory is plain whatever the meters show. -/
theorem State.Plain.metered {p a n t o : Nat} (hp : p < 64) (P : s.Plain p a n t o) : u.Plain p a n t o := by
  have reg {k : Nat} (h1 : ¬ meterReg k) (h2 : ¬ eventReg k) : u.reg k = s.reg k := h.regs k h1 h2
  have ht : t < 8 := State.chunks_tile P.map _ (List.mem_singleton_self _)
  have st (o : Nat) (ho : o < 0x400) : u.reg (stKey p o) = s.reg (stKey p o) := reg (by unfold meterReg stKey; omega) (by unfold eventReg stKey; omega)
  have hbase : u.vrBase p = s.vrBase p ∧ u.vrNum p = s.vrNum p := by
    unfold State.vrBase State.vrNum State.regFld
    rw [st _ (by decide), st _ (by decide), st _ (by decide)]
    exact ⟨rfl, rfl⟩
  refine ⟨?_, ?_, ?_, ?_, fun who write => ?_, ?_⟩
  · rw [← P.map]
    exact State.chunksAux_congr (fun x => h.xlate p x hp) _ _ _
  · rw [← P.recs]
    unfold State.recsIn
    rw [hbase.1, hbase.2]
  · rw [← P.page]
    unfold State.pageAt
    refine findSome?_congr_mem fun c hc => ?_
    have fd (o : Nat) (ho : o < 0x400) : u.reg (fdKey c o) = s.reg (fdKey c o) := by
      have := List.mem_range.1 hc
      exact reg (by unfold meterReg fdKey; omega) (by unfold eventReg fdKey; omega)
    unfold State.fdOn State.fdPart State.regFld State.reg64
    rw [fd 0 (by decide), fd 0x28 (by decide), show fdKey c 0x28 + 4 = fdKey c 0x2C from rfl, fd 0x2C (by decide)]
  · rw [← P.port]
    unfold State.cportAt State.reg64
    have sv (o : Nat) (ho : o < 0x400) : u.reg (svKey p o) = s.reg (svKey p o) := reg (by unfold meterReg svKey; omega) (by unfold eventReg svKey; omega)
    rw [sv 0 (by decide), sv 0x30 (by decide), show svKey p 0x30 + 4 = svKey p 0x34 from rfl, sv 0x34 (by decide)]
  · rw [← P.regions who write]
    unfold State.regionRefuses
    refine Bool.eq_iff_iff.2 ?_
    rw [List.any_eq_true, List.any_eq_true]
    refine exists_congr fun r => and_congr_right fun hr => ?_
    have hr16 := List.mem_range.1 hr
    have rg (o : Nat) (ho : o < 0x10) : u.reg (mtKey t + 0x400 + 0x10 * r + o) = s.reg (mtKey t + 0x400 + 0x10 * r + o) :=
      reg (by unfold meterReg mtKey; omega) (by unfold eventReg mtKey; omega)
    have hreg : u.region t r = s.region t r := by
      unfold State.region State.regFld
      dsimp only
      rw [rg 8 (by decide), rg 4 (by decide), show mtKey t + 0x400 + 0x10 * r = mtKey t + 0x400 + 0x10 * r + 0 from rfl, rg 0 (by decide)]
    have hpart : (s.region t r).part < 64 := fld_lt _ 8 6
    dsimp only
    rw [hreg]
    unfold State.regFld
    rw [reg (k := 0x80004 + 0x400 * (s.region t r).part) (by unfold meterReg; omega) (by unfold eventReg; omega)]
  · rw [← P.clean, h.state]

theorem State.RegsBut.diesUp (hd : s.DiesUp) : u.DiesUp := fun d hd4 => by
  have := hd d hd4
  unfold State.dieState State.regFld at this ⊢
  rwa [h.regs _ (by unfold meterReg; omega) (by unfold eventReg; omega)]

end

theorem coreDie_lt (c : Nat) : coreDie c < 4 := by
  unfold coreDie; split <;> split <;> omega

/-- A packet to a tile wakes no die where all are up (R653). -/
theorem State.DiesUp.memRoute {s : State} (h : s.DiesUp) {d p a n t o : Nat} (hd : d < 4) (hm : s.chunks p a n = some [⟨t, o, n⟩]) :
    s.memRoute d p a n = s := by
  have wake (l : List Nat) (hl : ∀ x ∈ l, x < 4) : s.wakeDies l = s := by
    unfold State.wakeDies
    induction l with
    | nil => rfl
    | cons x l ih =>
      rw [List.foldl_cons, if_neg (h x (hl x (List.mem_cons_self ..)))]
      exact ih fun y hy => hl y (List.mem_cons_of_mem _ hy)
  unfold State.memRoute
  rw [hm]
  have ht : siteDie t < 4 := by unfold siteDie; split_ifs <;> decide
  refine wake _ fun x hx => ?_
  have hroute : ∀ a < 4, ∀ b < 4, ∀ x ∈ a :: dieRoute a b, x < 4 := by decide
  exact hroute _ hd _ ht x hx

/-! ### What the end of a load leaves -/

/-- Every other core, device memory and the network are as before. -/
structure State.LoadKept (s t : State) (c : Nat) : Prop where
  others : ∀ d, d ≠ c → t.core d = s.core d
  mem : t.mem = s.mem
  net : t.net = s.net

section
variable {s t u : State} {c : Nat}

theorem State.LoadKept.refl (s : State) (c : Nat) : s.LoadKept s c := ⟨fun _ _ => rfl, rfl, rfl⟩
theorem State.LoadKept.trans (h : s.LoadKept t c) (g : t.LoadKept u c) : s.LoadKept u c :=
  ⟨fun d hd => (g.others d hd).trans (h.others d hd), g.mem.trans h.mem, g.net.trans h.net⟩
theorem State.LoadKept.modCore (s : State) (c : Nat) (f : Core → Core) : s.LoadKept (s.modCore c f) c :=
  ⟨fun _ hd => State.core_modCore_ne _ _ hd, rfl, rfl⟩
theorem State.LoadKept.quiet (h : s.Quiet t) (c : Nat) : s.LoadKept t c :=
  ⟨fun d _ => h.core d, by rw [h.state], by rw [h.state]⟩
theorem State.LoadKept.metered (h : s.RegsBut t meterReg) (c : Nat) : s.LoadKept t c := ⟨fun d _ => h.core d, h.mem, h.net⟩

theorem State.LoadKept.freeBytes (n : Nat) (s : State) (c : Nat) : s.LoadKept (freeBytes n s).1 c := by
  induction n generalizing s with
  | zero => exact .refl s c
  | succ n ih => exact .trans (t := s.freeVal.2) ⟨fun _ _ => rfl, rfl, rfl⟩ (ih _)

theorem State.LoadKept.bumpCsr (s : State) (c n d : Nat) : s.LoadKept (s.bumpCsr c n d) c := by
  obtain ⟨v, w, q, -, -⟩ := State.bumpCsr_eq s c n d
  exact .trans ⟨fun _ hd => State.core_setCore_ne _ _ hd, rfl, rfl⟩ (.quiet q c)

theorem State.LoadKept.spadFix (s : State) (c w : Nat) : s.LoadKept (s.spadFix c w) c := (State.LoadKept.modCore s c _).trans (.bumpCsr _ c _ _)

theorem State.LoadKept.spadBad (s : State) (c w cause action : Nat) : s.LoadKept (s.spadBad c w cause action) c := by
  unfold State.spadBad
  refine ((State.LoadKept.modCore s c _).trans (.bumpCsr _ c _ _)).trans (.quiet (State.Quiet.log _ _ ?_) c)
  have := State.corePart_lt ((s.modCore c fun k => k.put 0x142 (BitVec.ofNat 32 (8 * w))).bumpCsr c 0x143 1) c
  simp only [Option.getD_some]
  omega

theorem State.LoadKept.spadWrite (s : State) (c a : Nat) (d : List Byte) (cause action : Nat) : s.LoadKept (s.spadWrite c a d cause action).1 c := by
  have scan (f : Nat → Bool) (l : List (Nat × Nat)) (s : State) : s.LoadKept (l.foldl (fun s e =>
      if f e.1 then s.modCore c fun k => { k with spadErr := k.spadErr.set nat0 e.1 0 }
      else if e.2 = 1 then s.spadFix c e.1 else s.spadBad c e.1 cause action) s) c := by
    induction l generalizing s with
    | nil => exact .refl s c
    | cons e l ih =>
      rw [List.foldl_cons]
      refine State.LoadKept.trans ?_ (ih _)
      split
      · exact .modCore s c _
      split
      · exact .spadFix s c _
      · exact .spadBad s c _ _ _
  unfold State.spadWrite
  dsimp only
  split
  · exact .modCore s c fun k => { k with spad := Map.setN byte0 k.spad a d }
  · exact (scan (fun w => decide (a ≤ 8 * w) && decide (8 * w + 8 ≤ a + d.length)) _ s).trans (.modCore _ c fun k =>
      { k with spad := writeSkip k.spad _ a d })

/-- A failed load halts its core, with its LOADERR (R105). -/
theorem State.loadFailed_spec (s : State) (c code : Nat) (x : Option Image) :
    ((s.loadFailed c code x).core c).rs = 0 ∧ fld (((s.loadFailed c code x).core c).get 1) 8 4 = code % 16 ∧ s.LoadKept (s.loadFailed c code x) c := by
  have hlast (u : State) : ((u.modCore c fun k => (k.putFld 1 8 4 code).setRs 0).core c).rs = 0 ∧
      fld (((u.modCore c fun k => (k.putFld 1 8 4 code).setRs 0).core c).get 1) 8 4 = code % 16 := by
    rw [State.core_modCore_same]
    refine ⟨Core.rs_setRs _ 0, ?_⟩
    rw [Core.get_setRs, if_pos rfl, fld_setFld_other _ _ _ _ _ _ (by decide) (by decide), Core.get_putFld, if_pos rfl]
    exact fld_setFld _ _ _ _ (by decide)
  have hfirst := (State.LoadKept.freeBytes 6144 s c).trans (.modCore _ c fun k => k.imemWrite 0 (freeBytes 6144 s).2)
  unfold State.loadFailed
  refine ⟨(hlast _).1, (hlast _).2, State.LoadKept.trans ?_ (.modCore _ c _)⟩
  cases x with
  | none => exact hfirst
  | some x => exact (hfirst.trans (.freeBytes _ _ c)).trans (.spadWrite _ c _ _ _ _)

end

/-! ### A load that reads well -/

/-- Reading plain memory for a load: its bytes, and meters. -/
theorem State.Plain.read {s : State} {p c a n t o : Nat} (hd : s.DiesUp) (P : s.Plain p a n t o) :
    ∃ u, (s.memRoute (coreDie c) p a n).memRd p a n .ordinary 3 none = (u, .ok (s.mem.getN byte0 (memIdx t o) n)) ∧ s.RegsBut u meterReg := by
  rw [hd.memRoute (coreDie_lt c) P.map, P.memRd]
  exact ⟨_, rfl, State.metered s _ (State.chunks_tile P.map _ (List.mem_singleton_self _))⟩

/-- The core that starts an image (R104). -/
def Core.loaded (k : Core) (entry : Nat) : Core :=
  if ({ k with pc := BitVec.ofNat 32 entry, regs := [] }.putFld 1 8 4 0).go = 1 then
    { ({ k with pc := BitVec.ofNat 32 entry, regs := [] }.putFld 1 8 4 0).setRs 1 with
        ticked := k.ticked ||| ({ k with pc := BitVec.ofNat 32 entry, regs := [] }.putFld 1 8 4 0).counting }
  else ({ k with pc := BitVec.ofNat 32 entry, regs := [] }.putFld 1 8 4 0).setRs 0

/-- What follows the read of an image's header. -/
def State.loadHeader (u : State) (c p a : Nat) (h : List Byte) : State :=
  match imageHeader h with
  | .error e => u.loadFailed c e none
  | .ok x =>
    match (u.memRoute (coreDie c) p (a + 32) (x.ilen + x.slen)).memRd p (a + 32) (x.ilen + x.slen) .ordinary 3 none with
    | (s, .fault _) => s.loadFailed c 5 (some x)
    | (s, .ue _) => s.loadFailed c 6 (some x)
    | (s, .ok b) =>
      if crc32 b ≠ x.crc then s.loadFailed c 4 (some x)
      else ((s.modCore c fun k => k.imemWrite 0 (b.take x.ilen)).spadWrite c x.sbase (b.drop x.ilen) 0xF1 0).1.modCore c fun k => k.loaded x.entry

section
variable {s u : State} {c p a : Nat} {h b : List Byte} {x : Image}

theorem State.loadDone_misaligned (h3 : (s.core c).rs = 3) (ea : a = ((s.core c).get 5).toNat + 2 ^ 32 * (s.core c).cf 6 0 16) (ha : a % 32 ≠ 0) :
    s.loadDone c = s.loadFailed c 5 none := by
  subst ea
  unfold State.loadDone
  dsimp only
  rw [if_neg (not_not.2 h3)]
  exact if_pos ha

theorem State.loadDone_eq (h3 : (s.core c).rs = 3) (ea : a = ((s.core c).get 5).toNat + 2 ^ 32 * (s.core c).cf 6 0 16) (ha : a % 32 = 0)
    (hr : (s.memRoute (coreDie c) (s.corePart c) a 32).memRd (s.corePart c) a 32 .ordinary 3 none = (u, .ok h)) :
    s.loadDone c = u.loadHeader c (s.corePart c) a h := by
  subst ea
  unfold State.loadDone
  dsimp only
  rw [if_neg (not_not.2 h3), if_neg (not_not.2 ha), hr]
  rfl

theorem State.loadHeader_error {e : Nat} (he : imageHeader h = .error e) : u.loadHeader c p a h = u.loadFailed c e none := by
  unfold State.loadHeader
  rw [he]

variable {v : State} (hx : imageHeader h = .ok x)
  (hr : (u.memRoute (coreDie c) p (a + 32) (x.ilen + x.slen)).memRd p (a + 32) (x.ilen + x.slen) .ordinary 3 none = (v, .ok b))
include hx hr

theorem State.loadHeader_crc (hc : crc32 b ≠ x.crc) : u.loadHeader c p a h = v.loadFailed c 4 (some x) := by
  unfold State.loadHeader
  rw [hx]
  dsimp only
  rw [hr]
  exact if_pos hc

theorem State.loadHeader_ok (hc : crc32 b = x.crc) (hl : (b.drop x.ilen).length = x.slen) (he : errIn (v.core c).spadErr 8 x.sbase x.slen = []) :
    (u.loadHeader c p a h).core c =
      ({ (v.core c).imemWrite 0 (b.take x.ilen) with spad := Map.setN byte0 (v.core c).spad x.sbase (b.drop x.ilen) } : Core).loaded x.entry ∧
    v.LoadKept (u.loadHeader c p a h) c := by
  have hw := State.spadWrite_clean (s := v.modCore c fun k => k.imemWrite 0 (b.take x.ilen)) (c := c) (a := x.sbase) (d := b.drop x.ilen) 0xF1 0
    (by rw [State.core_modCore_same, hl]; exact he)
  have e : u.loadHeader c p a h = ((v.modCore c fun k => k.imemWrite 0 (b.take x.ilen)).modCore c fun k =>
      { k with spad := Map.setN byte0 k.spad x.sbase (b.drop x.ilen) }).modCore c fun k => k.loaded x.entry := by
    unfold State.loadHeader
    rw [hx]
    dsimp only
    rw [hr]
    dsimp only
    rw [if_neg (not_not.2 hc), hw]
  rw [e]
  refine ⟨?_, ((State.LoadKept.modCore v c _).trans (.modCore _ c _)).trans (.modCore _ c _)⟩
  rw [State.core_modCore_same, State.core_modCore_same, State.core_modCore_same]
  rfl

end

/-! ### The core an image starts -/

section
variable (k : Core) (entry : Nat)

theorem Core.loaded_only : k.loaded entry =
    { k with pc := BitVec.ofNat 32 entry, regs := [], csr := (k.loaded entry).csr, ticked := (k.loaded entry).ticked } := by
  unfold Core.loaded
  split <;> rfl

theorem Core.get_loaded {n : Nat} (h : n ≠ 1) : (k.loaded entry).get n = k.get n := by
  have hg (x : Nat) : ((({ k with pc := BitVec.ofNat 32 entry, regs := [] } : Core).putFld 1 8 4 0).setRs x).get n = k.get n := by
    rw [Core.get_setRs_ne _ _ h, Core.get_putFld, if_neg h]
    rfl
  unfold Core.loaded
  split
  · exact hg 1
  · exact hg 0

theorem Core.loaded_loaderr : fld ((k.loaded entry).get 1) 8 4 = 0 := by
  have hg (x : Nat) : fld (((({ k with pc := BitVec.ofNat 32 entry, regs := [] } : Core).putFld 1 8 4 0).setRs x).get 1) 8 4 = 0 := by
    rw [Core.get_setRs, if_pos rfl, fld_setFld_other _ _ _ _ _ _ (by decide) (by decide), Core.get_putFld, if_pos rfl]
    exact fld_setFld _ _ _ _ (by decide)
  unfold Core.loaded
  split
  · exact hg 1
  · exact hg 0

theorem Core.rs_loaded : (k.loaded entry).rs = if fld (k.get 2) 3 1 = 1 then 1 else 0 := by
  have hg : ({ k with pc := BitVec.ofNat 32 entry, regs := [] }.putFld 1 8 4 0 : Core).go = fld (k.get 2) 3 1 := by
    unfold Core.go Core.cf
    rw [Core.get_putFld, if_neg (by decide)]
    rfl
  unfold Core.loaded
  rw [hg]
  split
  · exact Core.rs_setRs _ 1
  · exact Core.rs_setRs _ 0

end

theorem length_getN {α : Type} (d : Nat → α) (m : Map α) (a n : Nat) : (m.getN d a n).length = n := by
  unfold Map.getN
  rw [List.length_map, List.length_range]

/-- A byte read after a stretch of bytes was written, told by the bytes' own positions. -/
theorem get_setN_getD (m : Map Byte) (a : Nat) (l : List Byte) (i : Nat) :
    Map.get byte0 (Map.setN byte0 m a l) i = if a ≤ i ∧ i < a + l.length then l.getD (i - a) 0 else Map.get byte0 m i := by
  rw [Map.get_setN]
  split
  · rw [List.getD_eq_getElem _ _ (by omega)]
  · rfl

theorem getD_take {l : List Byte} {n i : Nat} (h : i < n) : (l.take n).getD i 0 = l.getD i 0 := by
  rw [List.getD_eq_getElem?_getD, List.getD_eq_getElem?_getD, List.getElem?_take_of_lt h]

theorem getD_drop (l : List Byte) (n i : Nat) : (l.drop n).getD i 0 = l.getD (n + i) 0 := by
  rw [List.getD_eq_getElem?_getD, List.getD_eq_getElem?_getD, List.getElem?_drop]

/-- Settles O21: both reads change meters alone, and what follows them is `loadFailed` or the core the image starts. -/
theorem aLoadStartsTheImageOrHalts : Obligations.ALoadStartsTheImageOrHalts := by
  intro s c hc h3 k p a halts
  have hp : p < 64 := State.corePart_lt s c
  have ht : exec (.loadDone c) s = .next (s.loadDone c) := congrArg Host.Outcome.next (if_pos hc)
  have fail {u : State} (code : Nat) (x : Option Image) (hu : s.LoadKept u c) (e : s.loadDone c = u.loadFailed c code x) : halts code := by
    obtain ⟨h1, h2, K⟩ := State.loadFailed_spec u c code x
    have K' := hu.trans K
    rw [← e] at h1 h2 K'
    exact ⟨_, ht, h1, h2, K'.others, K'.mem, K'.net⟩
  refine ⟨fun ha => fail 5 none (.refl s c) (State.loadDone_misaligned h3 rfl ha), fun ti o ha hd P => ?_⟩
  obtain ⟨u, hu, hm⟩ := P.read (c := c) hd
  have heq : s.loadDone c = u.loadHeader c p a _ := State.loadDone_eq h3 rfl ha hu
  refine ⟨fun e he => fail e none (.metered hm c) (heq.trans (State.loadHeader_error he)), fun x tj o2 hx P2 => ?_⟩
  obtain ⟨v, hv, hm2⟩ := (P2.metered hm hp).read (c := c) (hm.diesUp hd)
  rw [hm.mem] at hv
  have hkept : s.LoadKept v c := .trans (.metered hm c) (.metered hm2 c)
  have hcore : v.core c = k := (hm2.core c).trans (hm.core c)
  refine ⟨fun hcrc => fail 4 (some x) hkept (heq.trans (State.loadHeader_crc hx hv hcrc)), fun hcrc herr => ?_⟩
  have hlen : (s.mem.getN byte0 (memIdx tj o2) (x.ilen + x.slen)).length = x.ilen + x.slen := length_getN ..
  generalize s.mem.getN byte0 (memIdx tj o2) (x.ilen + x.slen) = b at hv hcrc hlen
  have htake : (b.take x.ilen).length = x.ilen := by rw [List.length_take, hlen]; omega
  have hdrop : (b.drop x.ilen).length = x.slen := by rw [List.length_drop, hlen]; omega
  obtain ⟨hT, K⟩ := State.loadHeader_ok hx hv hcrc hdrop (by rw [hcore]; exact herr)
  have K' := hkept.trans K
  rw [hcore] at hT
  rw [← heq] at hT K'
  refine ⟨_, ht, ?_, fun r => ?_, ?_, ?_, fun i => ?_, fun i => ?_, fun n hn => ?_, K'.others, K'.mem, K'.net⟩ <;> rw [hT]
  · rw [Core.loaded_only]
  · rw [Core.loaded_only]
    unfold Core.s
    split <;> rfl
  · exact Core.loaded_loaderr _ _
  · exact Core.rs_loaded _ _
  · rw [Core.loaded_only]
    show Map.get byte0 (Map.setN byte0 k.imem 0 (b.take x.ilen)) i = _
    rw [get_setN_getD, htake, Nat.sub_zero]
    by_cases hi : i < x.ilen
    · rw [if_pos ⟨Nat.zero_le i, by omega⟩, if_pos hi, getD_take hi]
    · rw [if_neg (by omega), if_neg hi]
  · rw [Core.loaded_only]
    show Map.get byte0 (Map.setN byte0 k.spad x.sbase (b.drop x.ilen)) i = _
    rw [get_setN_getD, hdrop, getD_drop]
    rfl
  · exact Core.get_loaded _ _ hn

end Sys2Proof.Machine
end

section
/-!
SUPPORT and proofs. The cluster barrier (spec/02 R79-R81).
-/

namespace Sys2Proof.Machine

/-! ### A phase that goes on, and one that releases -/

/-- A phase that still waits for a participant, and has an arrival. -/
def Barrier.Open (b : Barrier) : Prop := b.arrived ≠ [] ∧ ∃ x ∈ b.parts, x ∉ b.arrived

theorem Barrier.Open.goes_on {b : Barrier} (h : b.Open) : ¬ (b.full || b.arrived.isEmpty) = true := by
  obtain ⟨hne, x, hx, hn⟩ := h
  rw [Bool.or_eq_true, List.isEmpty_iff]
  rintro (hf | he)
  · exact hn (of_decide_eq_true (List.all_eq_true.1 hf x hx))
  · exact hne he

section
variable {u : State} {c imm : Nat} (h0 : imm.testBit 0 = false)
include h0

theorem State.barPoke_eq : u.barPoke c imm =
    match u.barC.get none0 (coreCluster c) with
    | some b => u.barSettle false (coreCluster c) b
    | none => u := by
  unfold State.barPoke
  rw [h0]
  rfl

/-- A phase that goes on changes nothing. -/
theorem State.barPoke_open (h : ∀ b, u.barC.get none0 (coreCluster c) = some b → b.Open) :
    (∀ x, (u.barPoke c imm).core x = u.core x) ∧
      (u.barPoke c imm).barC.get none0 (coreCluster c) = u.barC.get none0 (coreCluster c) := by
  rw [State.barPoke_eq h0]
  cases hb : u.barC.get none0 (coreCluster c) with
  | none => exact ⟨fun _ => rfl, hb⟩
  | some b =>
    have e : u.barSettle false (coreCluster c) b = { u with barC := u.barC.set none0 (coreCluster c) (some b) } := by
      unfold State.barSettle
      rw [if_neg (h b hb).goes_on]
      rfl
    dsimp only
    rw [e]
    exact ⟨fun _ => rfl, Map.get_set_same none0 u.barC (coreCluster c) (some b)⟩

/-- One whose participants have all arrived releases them. -/
theorem State.barPoke_full {b : Barrier} (hb : u.barC.get none0 (coreCluster c) = some b) (hf : ∀ x ∈ b.parts, x ∈ b.arrived) :
    (∀ x, (u.barPoke c imm).core x = (u.releaseAll b.arrived).core x) ∧ (u.barPoke c imm).barC.get none0 (coreCluster c) = none := by
  have hfull : (b.full || b.arrived.isEmpty) = true := by
    rw [Bool.or_eq_true]
    exact Or.inl (List.all_eq_true.2 fun x hx => decide_eq_true (hf x hx))
  rw [State.barPoke_eq h0, hb]
  dsimp only
  unfold State.barSettle
  rw [if_pos hfull]
  exact ⟨fun _ => rfl, Map.get_set_same none0 (u.releaseAll b.arrived).barC (coreCluster c) none⟩

end

/-! ### Releasing -/

theorem Core.barRelease_away {k : Core} (h : k.barw = false) : k.barRelease = k := by
  unfold Core.barRelease
  rw [h]
  rfl

/-- A core that waits at its BAR goes on behind it. -/
theorem Core.barRelease_waiting {k : Core} {i : Nat} (hb : k.barw = true) (hr : k.rs = 2) (hw : k.wait = some (.bar i)) :
    k.barRelease.pc = k.pc + 4 ∧ k.barRelease.wait = none ∧ k.barRelease.barw = false := by
  have hs : (k.setStatusBit 5 false).rs = 2 := by
    rw [← hr]
    refine fld_ext fun j hj => ?_
    rw [Core.get_setStatusBit, if_pos rfl, bit_setBit _ _ _ _ (by decide), if_neg (by omega)]
  have e : k.barRelease = (k.setStatusBit 5 false).retire (k.pc + 4) := by
    unfold Core.barRelease
    rw [hb]
    show (match k.wait with
      | some (.bar _) => if (k.setStatusBit 5 false).rs = 2 then (k.setStatusBit 5 false).retire (k.pc + 4) else _
      | _ => _) = _
    rw [hw]
    exact if_pos hs
  rw [e]
  refine ⟨Core.pc_retire _ _, Core.wait_retire _ _, ?_⟩
  unfold Core.barw
  rw [Core.bit_status_retire _ _ (by decide), Core.get_setStatusBit, if_pos rfl, bit_setBit _ _ _ _ (by decide), if_pos rfl]

theorem State.releaseAll_away (l : List Nat) {s : State} {x : Nat} (h : (s.core x).barw = false) : (s.releaseAll l).core x = s.core x := by
  unfold State.releaseAll
  induction l generalizing s with
  | nil => rfl
  | cons y l ih =>
    have hy : (s.modCore y Core.barRelease).core x = s.core x := by
      rw [State.core_modCore]
      split
      · rename_i e
        rw [← e, Core.barRelease_away h]
      · rfl
    rw [List.foldl_cons, ih (by rw [hy]; exact h), hy]

/-- A release reaches a core as it was, however often it is listed. -/
theorem State.releaseAll_waiting {l : List Nat} {s : State} {x i : Nat} (hx : x ∈ l) (hb : (s.core x).barw = true) (hr : (s.core x).rs = 2)
    (hw : (s.core x).wait = some (.bar i)) : (s.releaseAll l).core x = (s.core x).barRelease := by
  induction l generalizing s with
  | nil => cases hx
  | cons y l ih =>
    show ((s.modCore y Core.barRelease).releaseAll l).core x = _
    by_cases e : x = y
    · subst e
      have hc : (s.modCore x Core.barRelease).core x = (s.core x).barRelease := State.core_modCore_same ..
      rw [State.releaseAll_away l (by rw [hc]; exact (Core.barRelease_waiting hb hr hw).2.2), hc]
    · have hc : (s.modCore y Core.barRelease).core x = s.core x := State.core_modCore_ne _ _ e
      rw [ih ((List.mem_cons.1 hx).resolve_left e) (by rwa [hc]) (by rwa [hc]) (by rwa [hc]), hc]

/-! ### BAR -/

/-- What BAR does before its phase is looked at again. -/
def State.barBody (c imm : Nat) (pc : Word) (s : State) : IRes :=
  if (s.core c).bard then .retire (s.modCore c fun k => k.setStatusBit 6 false) (pc + 4)
  else if (s.core c).barw then .wait s (.bar imm)
  else if (s.core c).fenceDone (imm / 2 ^ 12) then s.barArrive c imm else .wait s (.bar imm)

section
variable {s : State} {c : Nat} {imm : BitVec 16} (h : s.Ready c) (hz : imm.toNat / 2 % 2 ^ 11 = 0) (h0 : imm.toNat.testBit 0 = false)
include h hz

theorem State.Ready.exec_bar : exec (.bar c 0 0 imm) s =
    .next ((s.finishInstr c (s.barBody c imm.toNat (s.core c).pc)).barPoke c imm.toNat) := by
  refine congrArg (fun u : State => Host.Outcome.next (u.barPoke c imm.toNat)) ?_
  rw [h.instr]
  refine congrArg (s.finishInstr c) (if_neg ?_)
  rintro (e | e | e)
  · exact e rfl
  · exact e rfl
  · exact e hz

include h0

/-- BAR where the phase it meets goes on. -/
theorem State.Ready.bar_open {u : State} (hu : s.finishInstr c (s.barBody c imm.toNat (s.core c).pc) = u)
    (hp : ∀ b, u.barC.get none0 (coreCluster c) = some b → b.Open) :
    ∃ t, exec (.bar c 0 0 imm) s = .next t ∧ (∀ x, t.core x = u.core x) ∧ t.barC.get none0 (coreCluster c) = u.barC.get none0 (coreCluster c) := by
  obtain ⟨h1, h2⟩ := State.barPoke_open h0 hp
  exact ⟨_, by rw [h.exec_bar hz, hu], h1, h2⟩

/-- BAR where its arrival is the phase's last. -/
theorem State.Ready.bar_full {u : State} {b : Barrier} (hu : s.finishInstr c (s.barBody c imm.toNat (s.core c).pc) = u)
    (hb : u.barC.get none0 (coreCluster c) = some b) (hf : ∀ x ∈ b.parts, x ∈ b.arrived) :
    ∃ t, exec (.bar c 0 0 imm) s = .next t ∧ (∀ x, t.core x = (u.releaseAll b.arrived).core x) ∧ t.barC.get none0 (coreCluster c) = none := by
  obtain ⟨h1, h2⟩ := State.barPoke_full h0 hb hf
  exact ⟨_, by rw [h.exec_bar hz, hu], h1, h2⟩

end

section
variable {s : State} {c imm : Nat}

/-- The state in which core c has arrived at phase `b` and waits. -/
def State.arrivedAt (s : State) (c imm : Nat) (b : Barrier) : State :=
  ({ s with barC := s.barC.set none0 (coreCluster c) (some b) }.modCore c fun k => k.setStatusBit 5 true).modCore c fun k => k.waitFor (.bar imm)

theorem State.arrivedAt_spec (b : Barrier) : ((s.arrivedAt c imm b).core c).rs = 2 ∧ ((s.arrivedAt c imm b).core c).wait = some (.bar imm) ∧
    ((s.arrivedAt c imm b).core c).pc = (s.core c).pc ∧ ((s.arrivedAt c imm b).core c).barw = true ∧
    (∀ x, x ≠ c → (s.arrivedAt c imm b).core x = s.core x) ∧ (s.arrivedAt c imm b).barC.get none0 (coreCluster c) = some b := by
  have hc : (s.arrivedAt c imm b).core c = ((s.core c).setStatusBit 5 true).waitFor (.bar imm) := by
    unfold State.arrivedAt
    rw [State.core_modCore_same, State.core_modCore_same]
    rfl
  refine ⟨?_, ?_, ?_, ?_, fun x hx => ?_, Map.get_set_same none0 s.barC (coreCluster c) (some b)⟩
  · rw [hc]; exact Core.rs_setRs _ 2
  · rw [hc]; rfl
  · rw [hc]; rfl
  · rw [hc]
    show bit ((((s.core c).setStatusBit 5 true).setRs 2).get 1) 5 = true
    rw [Core.get_setRs, if_pos rfl, bit_setFld _ _ _ _ _ (by decide), if_neg (by omega), Core.get_setStatusBit, if_pos rfl,
      bit_setBit _ _ _ _ (by decide), if_pos rfl]
  · unfold State.arrivedAt
    rw [State.core_modCore_ne _ _ hx, State.core_modCore_ne _ _ hx]
    rfl

variable (hbard : (s.core c).bard = false) (hbarw : (s.core c).barw = false) (h0 : imm.testBit 0 = false)
include hbard hbarw

theorem State.barBody_fence (pc : Word) (hf : (s.core c).fenceDone (imm / 2 ^ 12) = false) : s.barBody c imm pc = .wait s (.bar imm) := by
  unfold State.barBody
  rw [hbard, hbarw, hf]
  rfl

include h0

theorem State.barBody_arrives (pc : Word) (hf : (s.core c).fenceDone (imm / 2 ^ 12) = true) {b : Barrier} (hb : s.arrive c false = .ok b) :
    s.finishInstr c (s.barBody c imm pc) = s.arrivedAt c imm b := by
  have e : s.barBody c imm pc = s.barArrive c imm := by
    unfold State.barBody
    rw [hbard, hbarw, hf]
    rfl
  rw [e]
  unfold State.barArrive
  rw [h0]
  dsimp only
  rw [hb]
  rfl

theorem State.barBody_fault (pc : Word) (hf : (s.core c).fenceDone (imm / 2 ^ 12) = true) {v : Nat} (hb : s.arrive c false = .error v) :
    s.barBody c imm pc = .exc s 0xA (BitVec.ofNat 32 v) := by
  have e : s.barBody c imm pc = s.barArrive c imm := by
    unfold State.barBody
    rw [hbard, hbarw, hf]
    rfl
  rw [e]
  unfold State.barArrive
  rw [h0]
  dsimp only
  rw [hb]

end

/-! ### Arrivals (R80) -/

section
variable {s : State} {c : Nat}

theorem State.arrive_first (h : s.barC.get none0 (coreCluster c) = none) (hp : c ∈ s.barParts c false) :
    s.arrive c false = .ok ⟨fld ((s.core c).get 0x40) 0 16, s.barParts c false, [c]⟩ := by
  unfold State.arrive
  dsimp only
  rw [if_neg (by decide), h]
  exact if_pos hp

theorem State.arrive_next {b : Barrier} (h : s.barC.get none0 (coreCluster c) = some b) (hm : b.mask = fld ((s.core c).get 0x40) 0 16)
    (hp : c ∈ b.parts) : s.arrive c false = .ok { b with arrived := b.arrived ++ [c] } := by
  unfold State.arrive
  dsimp only
  rw [if_neg (by decide), h]
  dsimp only
  rw [if_neg fun e => e.2 hm, if_neg (not_not.2 hp)]

theorem State.arrive_mask {b : Barrier} (h : s.barC.get none0 (coreCluster c) = some b) (hm : b.mask ≠ fld ((s.core c).get 0x40) 0 16) :
    s.arrive c false = .error 2 := by
  unfold State.arrive
  dsimp only
  rw [if_neg (by decide), h]
  exact if_pos ⟨by decide, hm⟩

end

/-- Settles O19: BAR is its body and then `barPoke`, which leaves an open phase alone and releases a full one. -/
theorem clusterBarriersReleaseTogether : Obligations.ClusterBarriersReleaseTogether := by
  intro s c imm h hz h0 hopen k cl
  refine ⟨fun hb => ?_, fun hb hw hf => ?_, fun hb hw hf => ⟨fun hnone hp hx => ?_, fun b hsome hm hp hall => ?_, fun htm b hsome hm => ?_⟩⟩
  · have hu : s.finishInstr c (s.barBody c imm.toNat k.pc) = (s.modCore c fun k => k.setStatusBit 6 false).modCore c fun j => j.retire (k.pc + 4) := by
      unfold State.barBody
      rw [if_pos hb]
      rfl
    obtain ⟨t, ht, hcore, -⟩ := h.bar_open hz h0 hu hopen
    have hc : t.core c = (k.setStatusBit 6 false).retire (k.pc + 4) := by rw [hcore, State.core_modCore_same, State.core_modCore_same]
    refine ⟨t, ht, by rw [hc, Core.pc_retire], ?_⟩
    rw [hc]
    unfold Core.bard
    rw [Core.bit_status_retire _ _ (by decide), Core.get_setStatusBit, if_pos rfl, bit_setBit _ _ _ _ (by decide), if_pos rfl]
  · have hu : s.finishInstr c (s.barBody c imm.toNat k.pc) = s.modCore c fun j => j.waitFor (.bar imm.toNat) := by
      rw [State.barBody_fence hb hw _ hf]
      rfl
    obtain ⟨t, ht, hcore, -⟩ := h.bar_open hz h0 hu hopen
    have hc : t.core c = k.waitFor (.bar imm.toNat) := by rw [hcore, State.core_modCore_same]
    refine ⟨t, ht, ?_⟩
    rw [hc]
    exact ⟨Core.rs_setRs _ 2, rfl, rfl⟩
  · have hu := State.barBody_arrives hb hw h0 k.pc hf (State.arrive_first hnone hp)
    obtain ⟨h1, h2, h3, h4, -, h6⟩ := State.arrivedAt_spec (s := s) (c := c) (imm := imm.toNat) ⟨fld (k.get 0x40) 0 16, s.barParts c false, [c]⟩
    obtain ⟨x, hx, hxc⟩ := hx
    obtain ⟨t, ht, hcore, hbar⟩ := h.bar_open hz h0 hu fun b e => by
      rw [h6] at e
      cases e
      exact ⟨by simp, x, hx, by simpa using hxc⟩
    exact ⟨t, ht, by rw [hcore]; exact h1, by rw [hcore]; exact h2, by rw [hcore]; exact h3, by rw [hcore]; exact h4, hbar.trans h6⟩
  · have hu := State.barBody_arrives hb hw h0 k.pc hf (State.arrive_next hsome hm hp)
    obtain ⟨h1, h2, h3, h4, h5, h6⟩ := State.arrivedAt_spec (s := s) (c := c) (imm := imm.toNat) { b with arrived := b.arrived ++ [c] }
    obtain ⟨t, ht, hcore, hbar⟩ := h.bar_full hz h0 hu h6 fun y hy => by
      rw [List.mem_append, List.mem_singleton]; exact hall y hy
    generalize hA : s.arrivedAt c imm.toNat { b with arrived := b.arrived ++ [c] } = A at *
    have rel {y i : Nat} (hy : y ∈ b.arrived ++ [c]) (e1 : (A.core y).barw = true) (e2 : (A.core y).rs = 2) (e3 : (A.core y).wait = some (.bar i)) :
        (t.core y).pc = (A.core y).pc + 4 ∧ (t.core y).wait = none ∧ (t.core y).barw = false := by
      rw [hcore, State.releaseAll_waiting hy e1 e2 e3]
      exact Core.barRelease_waiting e1 e2 e3
    obtain ⟨g1, g2, g3⟩ := rel (List.mem_append_right _ (List.mem_singleton_self c)) h4 h1 h2
    refine ⟨t, ht, by rw [g1, h3], g2, g3, hbar, fun y i hy hyc e1 e2 e3 => ?_⟩
    have hs := h5 y hyc
    have := rel (List.mem_append_left _ hy) (by rw [hs]; exact e1) (by rw [hs]; exact e2) (by rw [hs]; exact e3)
    rwa [hs] at this
  · have hu := congrArg (s.finishInstr c) (State.barBody_fault hb hw h0 k.pc hf (State.arrive_mask hsome hm))
    have T : s.Trapped (s.finishInstr c (.exc s 0xA (BitVec.ofNat 32 2))) c 0xA k.pc (BitVec.ofNat 32 2) := State.trapped_exception htm (by decide)
    obtain ⟨t, ht, hcore, hbar⟩ := h.bar_open hz h0 hu (by rw [T.only.state]; exact hopen)
    refine ⟨t, ht, by rw [hcore]; exact T.cause, by rw [hcore]; exact T.tval, by rw [hcore]; exact T.tm, hbar.trans ?_⟩
    rw [T.only.state]
    exact hsome

end Sys2Proof.Machine
end

section
/-!
SUPPORT and proofs. SEND, the reading of its payload, and credit (spec/02 R68, R72, R73; spec/03 R126, R127, R142).
-/

namespace Sys2Proof.Machine

/-! ### The queue of payloads -/

/-- Nothing is passed over while every send is live (R73). -/
theorem Core.drainSends_live {k : Core} (h : ∀ x ∈ k.sendq, x.live = true) : k.drainSends = k := by
  unfold Core.drainSends
  cases hq : k.sendq with
  | nil => unfold Core.drainSends.go; rw [← hq]
  | cons x l =>
    unfold Core.drainSends.go
    rw [if_pos (h x (by rw [hq]; exact List.mem_cons_self ..)), ← hq]

/-- A live send joins the queue behind live ones. -/
theorem Core.pushSend_live {k : Core} {x : SendItem} (h : ∀ y ∈ k.sendq, y.live = true) (hx : x.live = true) :
    k.pushSend x = { k with sendNext := nextTicket k.sendNext, sendq := k.sendq ++ [x], sacc := k.sacc ++ [x.ticket] } := by
  unfold Core.pushSend
  dsimp only
  rw [hx, if_pos rfl]
  refine Core.drainSends_live fun y hy => ?_
  rcases List.mem_append.1 hy with hy | hy
  · exact h y hy
  · rw [List.mem_singleton.1 hy]; exact hx

/-! ### A send that goes -/

section
variable {s u : State} {c : Nat} {rd ra rb rc : Reg} {fn : BitVec 6}

/-- How a send that goes leaves its core: transmit entries `tx`, the item queued, the ticket in RD, retired. -/
theorem State.sent_core {tx : Map (Option TxEntry)} {item : SendItem} {v npc : Word} {f : Core → Core}
    (hf : f (u.core c) = { u.core c with tx := tx, sendNext := nextTicket (u.core c).sendNext, sendq := (u.core c).sendq ++ [item],
                                         sacc := (u.core c).sacc ++ [item.ticket] }) :
    ∃ t, ((u.modCore c f).modCore c fun k => k.setS rd v).modCore c (fun k => k.retire npc) = t ∧ u.OnlyCore t c ∧ (u.core c).Wrote (t.core c) rd v ∧
      (t.core c).pc = npc ∧ (t.core c).wait = none ∧ (t.core c).tx = tx ∧ (t.core c).sendq = (u.core c).sendq ++ [item] ∧
      (t.core c).sacc = (u.core c).sacc ++ [item.ticket] ∧ (t.core c).sendNext = nextTicket (u.core c).sendNext ∧ (t.core c).spad = (u.core c).spad := by
  refine ⟨_, rfl, (((State.onlyCore_modCore u c f).modCore _).modCore _), ?_⟩
  rw [State.core_modCore_same, State.core_modCore_same, State.core_modCore_same, hf]
  refine ⟨Core.wrote_setS_retire rd v npc fun _ => rfl, Core.pc_retire _ _, Core.wait_retire _ _, ?_⟩
  rw [Core.retire_eq, Core.setS_rest]
  exact ⟨rfl, rfl, rfl, rfl, rfl⟩

/-- A datagram needs no credit (R126). -/
theorem State.doSend_datagram (hsel : bit ((u.core c).get 0x202) 4 = false) (addr len dst ch : Nat) : u.doSend c addr len dst 0 ch =
    some (u.modCore c fun k => k.pushSend { ticket := (u.core c).sendNext, live := true, addr := addr, len := len, dst := dst, src := u.relAddr c,
                                            cls := 0, ch := ch, units := 0, posBefore := 0 }) := by
  unfold State.doSend State.trySendMsg State.sourceAddr
  dsimp only
  rw [hsel]
  rfl

theorem State.Ready.exec_send (h : s.Ready c) (h3 : fn.toNat % 4 ≠ 3) (h8 : fn.toNat < 8)
    (hf : s.sendFault c ((s.core c).s ra) ((s.core c).s rb) ((s.core c).s rc) = none) :
    exec (.send c rd ra rb rc fn) s = .next (s.finishInstr c (match s.sendNow c rd ra rb rc fn.toNat with
      | some u => .retire u ((s.core c).pc + 4)
      | none => if fn.toNat.testBit 2 then IRes.put c (s.core c).pc s rd 0 else .wait s (.send rd ra rb rc fn.toNat))) := by
  refine congrArg Host.Outcome.next ?_
  rw [h.instr]
  dsimp only
  rw [if_neg (by omega), hf] <;> rfl

/-- The core after its oldest payload was read (R73). -/
def Core.payloadDone (k : Core) (rest : List SendItem) (ticket : Nat) : Core := ({ k with sendq := rest }.put 0x4E (BitVec.ofNat 32 ticket)).drainSends

theorem Core.payloadDone_live {k : Core} {rest : List SendItem} (h : ∀ y ∈ rest, y.live = true) (ticket : Nat) :
    k.payloadDone rest ticket = { k with sendq := rest }.put 0x4E (BitVec.ofNat 32 ticket) := Core.drainSends_live h

/-- The message a datagram's payload makes. -/
def SendItem.datagram (x : SendItem) (part c : Nat) (data : List Byte) : Msg :=
  { part := part, src := x.src, dst := x.dst, cls := 0, ch := x.ch, seq := x.ticket, ticket := x.ticket, origin := 0, orig := c, payload := data }

/-- Reading a datagram's payload that holds no failing word. -/
theorem State.payloadRead_datagram {x : SendItem} {rest : List SendItem} (hq : (s.core c).sendq = x :: rest) (hx : x.cls = 0)
    (herr : errIn (s.core c).spadErr 8 x.addr x.len = []) :
    s.payloadBad c = false ∧ s.payloadRead c = (s.modCore c fun k => k.payloadDone rest x.ticket).send
      (.msg (x.datagram (s.corePart c) c ((s.core c).spad.getN byte0 x.addr x.len))) := by
  have hr := State.spadRead_clean (s := s) (c := c) 0xF1 0 herr
  refine ⟨?_, ?_⟩
  · unfold State.payloadBad
    rw [hq]
    dsimp only
    rw [hr]
    rfl
  · unfold State.payloadRead
    rw [hq]
    dsimp only
    rw [hr]
    dsimp only
    rw [if_pos hx]
    dsimp only
    rw [if_pos hx]
    rfl

end

/-- Settles O17: a datagram's send always goes, and the read of a live payload passes over nothing. -/
theorem sendTakesATicketAndItsPayloadIsRead : Obligations.SendTakesATicketAndItsPayloadIsRead := by
  intro s c rd ra rb rc fn k w item
  refine ⟨fun h hd h8 hf hsel hlive => ?_, fun x rest hc hk hq hx hrest herr => ?_, fun hq => ?_, fun h htm => ⟨fun v h3 h8 hf => ⟨_, rfl, ?_⟩,
    fun hill => ⟨_, rfl, h.illegal htm ?_⟩⟩⟩
  · have hnow : s.sendNow c rd ra rb rc fn.toNat = some ((s.modCore c fun k => k.pushSend item).modCore c fun j =>
        j.setS rd (BitVec.ofNat 32 k.sendNext)) := by
      unfold State.sendNow
      dsimp only
      rw [hd, State.doSend_datagram hsel]
      rfl
    obtain ⟨t, ht, o, hw, hpc, -, -, hq, ha, hn, hs⟩ := State.sent_core (u := s) (c := c) (rd := rd) (v := BitVec.ofNat 32 k.sendNext) (npc := k.pc + 4)
      (tx := k.tx) (item := item) (f := fun k => k.pushSend item) (Core.pushSend_live hlive rfl)
    refine ⟨t, ?_, o, hw, hpc, hq, ha, hn, hs⟩
    rw [h.exec_send (by omega) h8 hf, hnow, ← ht]
    rfl
  · obtain ⟨hbad, hread⟩ := State.payloadRead_datagram hq hx herr
    have ht : exec (.sendPayloadRead c) s = .next (s.payloadRead c) := by
      refine congrArg Host.Outcome.next ?_
      rw [if_pos (by rw [hc, hk]; rfl), hbad]
      rfl
    have hcore : (s.payloadRead c).core c = { k with sendq := rest }.put 0x4E (BitVec.ofNat 32 x.ticket) := by
      rw [hread]
      show (s.modCore c fun k => k.payloadDone rest x.ticket).core c = _
      rw [State.core_modCore_same, Core.payloadDone_live hrest]
    refine ⟨_, ht, by rw [hcore]; rfl, by rw [hcore, Core.get_put_same], by rw [hcore]; rfl, fun y hy => ?_, by rw [hread]; rfl⟩
    rw [hread]
    exact State.core_modCore_ne s (fun k => k.payloadDone rest x.ticket) hy
  · refine congrArg Host.Outcome.next ?_
    have hbad : s.payloadBad c = false := by unfold State.payloadBad; rw [hq]
    have hread : s.payloadRead c = s := by unfold State.payloadRead; rw [hq]
    rw [hbad, hread]
    exact ite_id _
  · refine h.exc htm ?_ (by decide)
    dsimp only
    rw [if_neg (by omega), hf]
  · exact if_pos hill

/-! ### Credit (R126, R127) -/

/-- The credit a send of class `cls` and `n` units needs, and what it leaves. -/
def TxEntry.enough (e : TxEntry) (cls n : Nat) : Prop := if cls = 1 then e.pos + n ≤ e.cap + 1 ∧ n ≤ e.cred ∧ 0 < e.recs else 0 < e.cred
def TxEntry.spent (e : TxEntry) (cls n : Nat) : TxEntry :=
  if cls = 1 then { e with cred := e.cred - n, recs := e.recs - 1, pos := (e.pos + n) % (e.cap + 1) } else { e with cred := e.cred - 1 }

theorem TxEntry.charge_ge (e : TxEntry) (n : Nat) : n ≤ (e.charge n).1 := by
  unfold TxEntry.charge
  split
  · exact Nat.le_refl n
  split
  · exact Nat.le_refl n
  · exact Nat.le_add_left n _

section
variable {u : State} {c addr len dst cls ch i : Nat} {e : TxEntry} (hcls : cls = 1 ∨ cls = 2) (hsel : bit ((u.core c).get 0x202) 4 = false)
  (hdev : addrDev dst ≠ 0xFFFF) (hfind : u.txFind c dst ch (cls == 2) = some (i, e)) (hcap : (len + 31) / 32 ≤ e.cap)
include hcls hsel hdev hfind hcap

theorem State.doSend_spends (he : e.enough cls ((len + 31) / 32)) : ∃ item : SendItem, item.live = true ∧ item.ticket = (u.core c).sendNext ∧
    u.doSend c addr len dst cls ch = some (u.modCore c fun k => (k.setTx i (some (e.spent cls ((len + 31) / 32)))).pushSend item) := by
  unfold State.doSend State.trySendMsg State.sourceAddr
  dsimp only
  rw [hsel]
  rw [if_neg (by decide)]
  dsimp only
  rw [if_neg (by omega), if_neg hdev, hfind]
  dsimp only
  rw [if_neg (by omega)]
  rcases hcls with rfl | rfl
  · obtain ⟨hpos, hn, hrec⟩ := he
    have hch : e.charge ((len + 31) / 32) = ((len + 31) / 32, (e.pos + (len + 31) / 32) % (e.cap + 1)) := if_pos hpos
    rw [if_neg (by decide), hch]
    dsimp only
    rw [if_neg (by omega)]
    exact ⟨_, rfl, rfl, rfl⟩
  · have h0 : 0 < e.cred := he
    rw [if_pos rfl, if_neg (by omega)]
    exact ⟨_, rfl, rfl, rfl⟩

theorem State.doSend_short (h0 : e.cred = 0) (hn : 0 < (len + 31) / 32) : u.doSend c addr len dst cls ch = none := by
  unfold State.doSend State.trySendMsg State.sourceAddr
  dsimp only
  rw [hsel]
  rw [if_neg (by decide)]
  dsimp only
  rw [if_neg (by omega), if_neg hdev, hfind]
  dsimp only
  rw [if_neg (by omega)]
  rcases hcls with rfl | rfl
  · have := e.charge_ge ((len + 31) / 32)
    rw [if_neg (by decide)]
    rw [if_pos (by omega)]
  · rw [if_pos rfl, if_pos h0]

end

theorem State.Counted.txFind {s u : State} {c : Nat} (h : s.Counted u c) (dst ch : Nat) (rot : Bool) : u.txFind c dst ch rot = s.txFind c dst ch rot := by
  have hd : u.devId = s.devId := by
    unfold State.devId State.devBank State.regFld
    rw [show u.devAct = s.devAct by rw [h.state], h.regs _ (by unfold eventReg bankKey; omega)]
  have hn (a : Nat) : u.normAddr a = s.normAddr a := by unfold State.normAddr State.isOwn; rw [hd]
  unfold State.txFind
  simp only [hn, show (u.core c).tx = (s.core c).tx by rw [h.core]]

section
variable {u : State} {c : Nat} {rd ra rb rc : Reg} {fn i : Nat} {e : TxEntry} (hcls : fn % 4 = 1 ∨ fn % 4 = 2)
  (hsel : bit ((u.core c).get 0x202) 4 = false) (hdev : addrDev ((u.core c).s ra).toNat ≠ 0xFFFF)
  (hfind : u.txFind c ((u.core c).s ra).toNat (fld ((u.core c).s rc) 16 12) (fn % 4 == 2) = some (i, e))
  (hcap : (fld ((u.core c).s rc) 0 14 + 31) / 32 ≤ e.cap)
include hcls hsel hdev hfind hcap

/-- A send with credit goes: entry i pays, the ticket is written, the instruction retires. -/
theorem State.sendNow_spends (hlive : ∀ x ∈ (u.core c).sendq, x.live = true) (he : e.enough (fn % 4) ((fld ((u.core c).s rc) 0 14 + 31) / 32)) :
    ∃ v t, u.sendNow c rd ra rb rc fn = some v ∧ v.modCore c (fun k => k.retire ((u.core c).pc + 4)) = t ∧ (v.core c).pc = (u.core c).pc ∧
      u.OnlyCore t c ∧ (u.core c).Wrote (t.core c) rd (BitVec.ofNat 32 (u.core c).sendNext) ∧
      (t.core c).pc = (u.core c).pc + 4 ∧ (t.core c).wait = none ∧ (t.core c).tx.get none0 i = some (e.spent (fn % 4) ((fld ((u.core c).s rc) 0 14 + 31) / 32)) ∧
      (∀ j, j ≠ i → (t.core c).tx.get none0 j = (u.core c).tx.get none0 j) ∧ (t.core c).sacc = (u.core c).sacc ++ [(u.core c).sendNext] ∧
      (t.core c).spad = (u.core c).spad := by
  obtain ⟨item, hl, htick, hdo⟩ := State.doSend_spends (addr := ((u.core c).s rb).toNat) hcls hsel hdev hfind hcap he
  generalize e.spent (fn % 4) ((fld ((u.core c).s rc) 0 14 + 31) / 32) = sp at hdo ⊢
  have hpush : ((u.core c).setTx i (some sp)).pushSend item = { u.core c with
      tx := (u.core c).tx.set none0 i (some sp), sendNext := nextTicket (u.core c).sendNext, sendq := (u.core c).sendq ++ [item],
      sacc := (u.core c).sacc ++ [item.ticket] } := Core.pushSend_live hlive hl
  have hnow : u.sendNow c rd ra rb rc fn = some ((u.modCore c fun k => (k.setTx i (some sp)).pushSend item).modCore c fun k =>
      k.setS rd (BitVec.ofNat 32 (u.core c).sendNext)) := by
    unfold State.sendNow
    dsimp only
    rw [hdo]
    rfl
  obtain ⟨t, ht, o, hw, hpc, hwait, htx, -, ha, -, hs⟩ := State.sent_core (rd := rd) (v := BitVec.ofNat 32 (u.core c).sendNext)
    (npc := (u.core c).pc + 4) (f := fun k => (k.setTx i (some sp)).pushSend item) hpush
  refine ⟨_, t, hnow, ht, ?_, o, hw, hpc, hwait, ?_, fun j hj => ?_, by rw [ha, htick], hs⟩
  · rw [State.core_modCore_same, State.core_modCore_same, Core.pc_setS, hpush]
  · rw [htx]; exact Map.get_set_same none0 _ _ _
  · rw [htx]; exact Map.get_set_ne none0 _ _ hj

theorem State.sendNow_short (h0 : e.cred = 0) (hn : 0 < (fld ((u.core c).s rc) 0 14 + 31) / 32) : u.sendNow c rd ra rb rc fn = none := by
  unfold State.sendNow
  dsimp only
  rw [State.doSend_short hcls hsel hdev hfind hcap h0 hn]
  rfl

end

/-- Settles O18: an executed and a resumed send try the same send, the one before and the other after its wait was counted. -/
theorem streamAndRotateSendsSpendCredit : Obligations.StreamAndRotateSendsSpendCredit := by
  intro s c rd ra rb rc fn i e k w cls n enough spent sent hcls hsel hdev hfind hcap hlive
  refine ⟨fun h h8 hf => ?_, fun hw => ?_⟩
  · have hex := h.exec_send (rd := rd) (fn := fn) (show cls ≠ 3 by omega) h8 hf
    refine ⟨fun he => ?_, fun h0 ht hn => ?_, fun h0 ht hn => ?_⟩
    · obtain ⟨v, t, hnow, ht, -, hsent⟩ := State.sendNow_spends (rd := rd) (rb := rb) hcls hsel hdev hfind hcap hlive he
      refine ⟨t, ?_, hsent⟩
      rw [hex, hnow, ← ht]
      rfl
    · rw [State.sendNow_short hcls hsel hdev hfind hcap h0 hn] at hex
      dsimp only at hex
      rw [if_pos ht] at hex
      exact ⟨_, hex, State.writes_put rd 0 _⟩
    · rw [State.sendNow_short hcls hsel hdev hfind hcap h0 hn] at hex
      dsimp only at hex
      rw [ht] at hex
      exact ⟨_, hex, State.nowWaits s c _⟩
  · have hu := State.Counted.stallTick s c
    have hex : exec (.sendResume c) s = .next (match (s.stallTick c).sendNow c rd ra rb rc fn.toNat with
        | some u => u.modCore c fun k => k.retire (k.pc + 4)
        | none => s) := by
      refine congrArg Host.Outcome.next ?_
      rw [hw.wait]
      exact if_pos hw.rs
    generalize s.stallTick c = u at hu hex
    have hs (r : Reg) : (u.core c).s r = k.s r := hu.regS r
    have hfind' : u.txFind c ((u.core c).s ra).toNat (fld ((u.core c).s rc) 16 12) (fn.toNat % 4 == 2) = some (i, e) := by
      rw [hs, hs, hu.txFind]; exact hfind
    have hsel' : bit ((u.core c).get 0x202) 4 = false := by rw [hu.get (by decide)]; exact hsel
    have hcap' : (fld ((u.core c).s rc) 0 14 + 31) / 32 ≤ e.cap := by rw [hs]; exact hcap
    refine ⟨fun he => ?_, fun h0 hn => ?_⟩
    · obtain ⟨v, t, hnow, ht, hvpc, o, hwr, hpc, hwait, htx, hother, ha, hspad⟩ := State.sendNow_spends (rd := rd) (rb := rb) hcls hsel'
        (by rw [hs]; exact hdev) hfind' hcap' (by rw [hu.core]; exact hlive) (by rw [hs]; exact he)
      rw [hs] at htx
      rw [hu.core] at hother ha hspad
      rw [hu.pc] at hpc
      have hnext : (u.core c).sendNext = k.sendNext := by rw [hu.core]
      rw [hnext] at hwr
      refine ⟨t, u, ?_, hu, o, hwr.congr hs, hpc, hwait, htx, hother, ha, hspad⟩
      rw [hex, hnow, ← ht]
      exact congrArg Host.Outcome.next (State.modCore_congr _ _ (by rw [hvpc]))
    · rw [hex, State.sendNow_short hcls hsel' (by rw [hs]; exact hdev) hfind' hcap' h0 (by rw [hs]; exact hn)]

end Sys2Proof.Machine
end

section
/-!
SUPPORT and proofs. Messages at the core they are for (spec/03 R120-R123, R127, R129, R130).
-/

namespace Sys2Proof.Machine

/-! ### Packets on their way (R27, R130, R653) -/

theorem srcDie_lt {orig d : Nat} (h : srcDie orig = some d) : d < 4 := by
  unfold srcDie at h
  split at h
  · cases h; exact coreDie_lt orig
  · cases h

theorem State.addrDie_lt {s : State} {p a d : Nat} (h : s.addrDie p a = some d) : d < 4 := by
  unfold State.addrDie at h
  split at h
  · obtain ⟨c, -, rfl⟩ := Option.map_eq_some_iff.1 h; exact coreDie_lt c
  · cases h

theorem dieRoute_lt : ∀ a < 4, ∀ b < 4, ∀ x ∈ a :: dieRoute a b, x < 4 := by decide

/-- A packet wakes no die where all are up. -/
theorem State.DiesUp.wakeRoute {s : State} (h : s.DiesUp) {a b : Nat} (ha : a < 4) (hb : b < 4) : s.wakeRoute a b = s := by
  have wake (l : List Nat) (hl : ∀ x ∈ l, x < 4) : s.wakeDies l = s := by
    unfold State.wakeDies
    induction l with
    | nil => rfl
    | cons x l ih =>
      rw [List.foldl_cons, if_neg (h x (hl x (List.mem_cons_self ..)))]
      exact ih fun y hy => hl y (List.mem_cons_of_mem _ hy)
  exact wake _ (dieRoute_lt a ha b hb)

/-- A core that is awake takes a packet as it stands. -/
theorem State.Awake.reach {s : State} {c : Nat} (h : s.Awake c) {src : Option Nat} (hs : ∀ d, src = some d → d < 4) : s.reach src c = some s := by
  unfold State.reach
  dsimp only
  rw [if_neg (by rw [h.1]; decide)]
  cases src with
  | none => dsimp only; rw [h.wakeFor]
  | some d => dsimp only; rw [h.2.wakeRoute (hs d rfl) (coreDie_lt c), h.wakeFor]

/-- The state with an item gone from the network. -/
def State.took (s : State) (x : NetItem) : State := { s with net := s.net.erase x }

/-! ### Refusing and placing -/

section
variable {s : State} {c q addr : Nat} {m : Msg}

/-- The CSRs a refusal changes: its count and MU_STAT with CC_TPEND (R123). -/
def refuseCsr (n : Nat) : Prop := n = 0x206 ∨ n = 0x207 ∨ statCsr n

theorem State.refuseMsg_spec (h : m.origin = 0) :
    (s.core c).CsrOnly ((s.refuseMsg c m).core c) refuseCsr ∧ bit (((s.refuseMsg c m).core c).get 0x201) 3 = true ∧
      (s.refuseMsg c m).net = s.net ++ [if m.cls = 0 then
          .refusal { part := m.part, dst := m.src, src := m.dst, ch := m.ch, ticket := m.ticket, origin := 0, orig := m.orig }
        else .close { part := m.part, dst := m.src, src := m.dst, ch := m.ch, rot := m.cls == 2, refused := true, ticket := m.ticket, origin := 0,
                      orig := m.orig }] := by
  obtain ⟨hcore, hnet, -⟩ := State.bumpCsr_core s c 0x206 1
  have e : s.refuseMsg c m = ((s.bumpCsr c 0x206 1).modCore c fun k => k.muStat 3).send (if m.cls = 0 then
          .refusal { part := m.part, dst := m.src, src := m.dst, ch := m.ch, ticket := m.ticket, origin := 0, orig := m.orig }
        else .close { part := m.part, dst := m.src, src := m.dst, ch := m.ch, rot := m.cls == 2, refused := true, ticket := m.ticket, origin := 0,
                      orig := m.orig }) := by
    unfold State.refuseMsg
    rw [h]
    dsimp only
    split <;> rfl
  have hc : (s.refuseMsg c m).core c = ((s.bumpCsr c 0x206 1).core c).muStat 3 := by
    rw [e]; exact State.core_modCore_same (s.bumpCsr c 0x206 1) c fun k => k.muStat 3
  refine ⟨?_, ?_, ?_⟩
  · rw [hc]
    exact (hcore.mono fun n hn => hn.elim Or.inl fun h => Or.inr (Or.inl h)).trans ((Core.muStat_csr _ 3).mono fun n hn => Or.inr (Or.inr hn))
  · rw [hc]; exact Core.muStat_bit _ (by decide)
  · rw [e]; exact congrArg (· ++ _) hnet

/-- While a queue's watermark is off, a look at it may only arm it (R410). -/
theorem State.watermark_off (h : fld ((s.core c).get (0x2A8 + q)) 0 14 = 0) :
    (s.core c).CsrOnly ((s.watermark c q).core c) (· = 0x2A8 + q) ∧ (s.watermark c q).net = s.net ∧
      ∀ x, x ≠ c → (s.watermark c q).core x = s.core x := by
  unfold State.watermark
  dsimp only
  rw [if_neg fun e => e.1 h]
  split
  · refine ⟨?_, rfl, fun x hx => State.core_setCore_ne _ _ hx⟩
    rw [State.core_setCore_same]
    exact .put _ _ rfl
  · exact ⟨.refl _ _, rfl, fun _ _ => rfl⟩

theorem Core.sem_congr {k k' : Core} {n : Nat} (h : k'.get (0x100 + n) = k.get (0x100 + n)) : k'.sem n = k.sem n := congrArg (fld · 0 8) h

/-- The semaphore a receive queue signals (R122). -/
def Core.rqSem (k : Core) (q : Nat) : Nat := k.cf (rqCsr q 0) 16 6

theorem Core.semInc_muStat (k : Core) {n : Nat} (hn : n < 64) :
    k.CsrOnly (if (k.semInc n).2 then (k.semInc n).1.muStat 8 else (k.semInc n).1) (fun j => semCsr j ∨ statCsr j) ∧
      (if (k.semInc n).2 then (k.semInc n).1.muStat 8 else (k.semInc n).1).sem n = min 255 (k.sem n + 1) := by
  have h1 := (Core.semInc_csr k hn).mono (b := fun j => semCsr j ∨ statCsr j) fun _ => Or.inl
  have hv := Core.semInc_value k hn
  split
  · have h2 := Core.muStat_csr (k.semInc n).1 8
    refine ⟨h1.trans (h2.mono fun _ => Or.inr), ?_⟩
    rw [← hv]
    exact Core.sem_congr (h2.csrs _ (by unfold statCsr; omega))
  · exact ⟨h1, hv⟩

/-- A record joins its queue, and the queue's semaphore counts (R122). -/
theorem State.putRecord_core (s : State) (c q : Nat) (m : Msg) (len addr : Nat) :
    ((s.core c).setRxq q { (s.core c).rxq q with recs := ((s.core c).rxq q).recs ++ [recvRecord m len addr] }).CsrOnly
        ((s.putRecord c q m len addr false).core c) (fun j => semCsr j ∨ statCsr j) ∧
      (bit ((s.core c).get (rqCsr q 0)) 22 = true →
        ((s.putRecord c q m len addr false).core c).sem ((s.core c).rqSem q) = min 255 ((s.core c).sem ((s.core c).rqSem q) + 1)) := by
  have e : (s.putRecord c q m len addr false).core c =
      (fun k : Core => if bit (k.get (rqCsr q 0)) 22 then
        (if (k.semInc (k.rqSem q)).2 then (k.semInc (k.rqSem q)).1.muStat 8 else (k.semInc (k.rqSem q)).1) else k)
        ((s.core c).setRxq q { (s.core c).rxq q with recs := ((s.core c).rxq q).recs ++ [recvRecord m len addr] }) :=
    State.core_modCore_same ..
  rw [e]
  dsimp only
  obtain ⟨h1, h2⟩ := Core.semInc_muStat ((s.core c).setRxq q { (s.core c).rxq q with recs := ((s.core c).rxq q).recs ++ [recvRecord m len addr] })
    (n := (s.core c).rqSem q) (Nat.mod_lt _ (by decide))
  split
  · exact ⟨h1, fun _ => h2⟩
  · rename_i hb
    exact ⟨.refl _ _, fun h => absurd h hb⟩

/-- What the placing of message m at `addr` in queue q makes of core k (R121, R122). -/
structure Core.Placed (k k' : Core) (q addr : Nat) (m : Msg) : Prop where
  run : k.RunKept k'
  recs : (k'.rxq q).recs = (k.rxq q).recs ++ [recvRecord m m.payload.length addr]
  others : ∀ r, r ≠ q → k'.rxq r = k.rxq r
  bytes : ∀ i, i < m.payload.length → k'.spadByte (addr + i) = m.payload.getD i 0
  frame : ∀ i, i < addr ∨ addr + m.payload.length ≤ i → k'.spadByte i = k.spadByte i
  signal : bit (k.get (rqCsr q 0)) 22 = true → k'.sem (k.rqSem q) = min 255 (k.sem (k.rqSem q) + 1)

/-- The ring's HEAD and TAIL or the zone taken, noted before the record joins its queue. -/
structure Core.Noted (k k' : Core) (q : Nat) : Prop where
  core : k' = { k with csr := k'.csr, rx := k'.rx }
  csrs : ∀ n, n ≠ rqCsr q 5 → n ≠ rqCsr q 6 → k'.get n = k.get n
  recs : (k'.rxq q).recs = (k.rxq q).recs
  others : ∀ r, r ≠ q → k'.rxq r = k.rxq r

/-- A payload written, its place noted, its record queued, the watermark looked at, its source told. -/
theorem State.place_spec (hq : q < 8) (hw : fld ((s.core c).get (0x2A8 + q)) 0 14 = 0) {g : Core → Core}
    (hg : ∀ k : Core, k.Noted (g k) q) {u t : State}
    (hu : (s.modCore c fun k => { k with spad := Map.setN byte0 k.spad addr m.payload }).modCore c g = u)
    (ht : ((u.putRecord c q m m.payload.length addr false).watermark c q).accepted m = t) :
    (s.core c).Placed (t.core c) q addr m ∧ t.net = s.net ∧ ((t.core c).rxq q).zones = ((u.core c).rxq q).zones ∧
      ∀ n, 0x210 ≤ n → n < 0x250 → (t.core c).get n = (u.core c).get n := by
  have huc : u.core c = g { s.core c with spad := Map.setN byte0 (s.core c).spad addr m.payload } := by
    rw [← hu, State.core_modCore_same, State.core_modCore_same]
  have hn := hg { s.core c with spad := Map.setN byte0 (s.core c).spad addr m.payload }
  rw [← huc] at hn
  have hunet : u.net = s.net := by rw [← hu]; rfl
  have hget (n : Nat) (h5 : n ≠ rqCsr q 5) (h6 : n ≠ rqCsr q 6) : (u.core c).get n = (s.core c).get n := hn.csrs n h5 h6
  -- the record, the watermark, the source
  obtain ⟨hput, hsem⟩ := State.putRecord_core u c q m m.payload.length addr
  have hpnet : (u.putRecord c q m m.payload.length addr false).net = u.net := rfl
  generalize u.putRecord c q m m.payload.length addr false = v at hput hsem hpnet ht
  have hvget (n : Nat) (h : ¬ (semCsr n ∨ statCsr n)) : (v.core c).get n = (u.core c).get n := hput.csrs n h
  obtain ⟨hwat, hwnet, -⟩ := State.watermark_off (s := v) (c := c) (q := q)
    (by rw [hvget _ (by unfold semCsr statCsr; omega), hget _ (by unfold rqCsr; omega) (by unfold rqCsr; omega), hw])
  generalize v.watermark c q = w at hwat hwnet ht
  obtain ⟨hacc, hanet⟩ := State.accepted_core w m c
  rw [ht] at hacc hanet
  have htget (n : Nat) (h : n ≠ 0x2A8 + q) : (t.core c).get n = (v.core c).get n := by
    rw [← hwat.csrs n h, hacc]
    rfl
  have htc : t.core c = { s.core c with
      csr := (t.core c).csr, spad := Map.setN byte0 (s.core c).spad addr m.payload,
      rx := ((u.core c).setRxq q { (u.core c).rxq q with recs := ((u.core c).rxq q).recs ++ [recvRecord m m.payload.length addr] }).rx,
      sacc := (t.core c).sacc, saccFar := (t.core c).saccFar, engs := (t.core c).engs } := by
    obtain ⟨x, y, z, e1⟩ : ∃ x y z, t.core c = { w.core c with sacc := x, saccFar := y, engs := z } := ⟨_, _, _, hacc⟩
    obtain ⟨a, e2⟩ : ∃ a, w.core c = { v.core c with csr := a } := ⟨_, hwat.core⟩
    obtain ⟨b, e3⟩ : ∃ b, v.core c = { (u.core c).setRxq q _ with csr := b } := ⟨_, hput.core⟩
    obtain ⟨d, e, e4⟩ : ∃ d e, u.core c = { s.core c with spad := Map.setN byte0 (s.core c).spad addr m.payload, csr := d, rx := e } :=
      ⟨_, _, hn.core⟩
    rw [e1, e2, e3, e4]
    rfl
  have hrx (r : Nat) : (t.core c).rxq r = if r = q then { (u.core c).rxq q with recs := ((u.core c).rxq q).recs ++ [recvRecord m m.payload.length addr] }
      else (u.core c).rxq r := by
    rw [← Core.rxq_setRxq, htc]
    rfl
  obtain ⟨hin, hout⟩ := Core.spadByte_setN (k := s.core c) (k' := t.core c) (a := addr) (l := m.payload) (by rw [htc])
  refine ⟨⟨⟨fun r => by rw [htc]; rfl, by rw [htc], by rw [htc], by rw [htc], ?_⟩, ?_, fun r hr => ?_, hin, hout, fun hb => ?_⟩, ?_, ?_, fun n h0 h1 => ?_⟩
  · unfold Core.rs Core.cf
    rw [htget 1 (by omega), hvget 1 (by unfold semCsr statCsr; omega), hget 1 (by unfold rqCsr; omega) (by unfold rqCsr; omega)]
  · rw [hrx, if_pos rfl, hn.recs]; rfl
  · rw [hrx, if_neg hr, hn.others r hr]; rfl
  · have h0 : (u.core c).get (rqCsr q 0) = (s.core c).get (rqCsr q 0) := hget _ (by unfold rqCsr; omega) (by unfold rqCsr; omega)
    have hlt : (s.core c).rqSem q < 64 := Nat.mod_lt _ (by decide)
    have hs : (u.core c).rqSem q = (s.core c).rqSem q := congrArg (fld · 16 6) h0
    rw [h0, hs] at hsem
    rw [Core.sem_congr (htget _ (by omega)), hsem hb, Core.sem_congr (hget _ (by unfold rqCsr; omega) (by unfold rqCsr; omega))]
  · rw [hanet, hwnet, hpnet, hunet]
  · rw [hrx, if_pos rfl]
  · rw [htget n (by omega), hvget n (by unfold semCsr statCsr; omega)]

theorem Core.noted_ring (k : Core) (q head tail : Nat) : k.Noted ((k.setHead q head).setTail q tail) q :=
  ⟨rfl, fun n h5 h6 => by unfold Core.setTail Core.setHead; rw [Core.get_put_ne _ _ h6, Core.get_put_ne _ _ h5], rfl, fun _ _ => rfl⟩

theorem Core.noted_zone (k : Core) (q zone : Nat) : k.Noted (k.setRxq q { k.rxq q with zones := (k.rxq q).zones ++ [zone] }) q :=
  ⟨rfl, fun _ _ _ => rfl, by rw [Core.rxq_setRxq_same], fun r hr => by rw [Core.rxq_setRxq, if_neg hr]⟩

/-- A payload with room in its ring is placed (R121, R122). -/
theorem State.placeIn_ring {head tail : Nat} (hmode : (s.core c).rqMode q = 1 ∨ (s.core c).rqMode q = 2)
    (hdepth : ((s.core c).rxq q).recs.length < (s.core c).rqDepth q) (hplace : (s.core c).ringPlace q m.payload.length = some (addr, head, tail))
    (herr : errIn (s.core c).spadErr 8 addr m.payload.length = []) :
    s.placeIn c q m = ((((s.modCore c fun k => { k with spad := Map.setN byte0 k.spad addr m.payload }).modCore c fun k =>
      (k.setHead q head).setTail q tail).putRecord c q m m.payload.length addr false).watermark c q).accepted m := by
  unfold State.placeIn
  dsimp only
  rcases hmode with h | h <;>
  · rw [h]
    refine (if_neg (by omega : ¬ (s.core c).rqDepth q ≤ ((s.core c).rxq q).recs.length)).trans ?_
    rw [hplace]
    dsimp only
    rw [State.spadWrite_clean _ _ herr]
    rfl

/-- A rotate payload whose zone is free is placed there (R127). -/
theorem State.placeIn_zone (hmode : (s.core c).rqMode q = 3) (hlen : m.payload.length ≤ (s.core c).rqSize q / 2)
    (hdepth : ((s.core c).rxq q).recs.length < (s.core c).rqDepth q) (hzone : m.seq % 2 ∉ ((s.core c).rxq q).zones)
    (ha : (s.core c).rqBase q + m.seq % 2 * ((s.core c).rqSize q / 2) = addr)
    (herr : errIn (s.core c).spadErr 8 addr m.payload.length = []) :
    s.placeIn c q m = ((((s.modCore c fun k => { k with spad := Map.setN byte0 k.spad addr m.payload }).modCore c fun k =>
      k.setRxq q { k.rxq q with zones := (k.rxq q).zones ++ [m.seq % 2] }).putRecord c q m m.payload.length addr false).watermark c q).accepted m := by
  unfold State.placeIn
  dsimp only
  rw [hmode]
  rw [if_neg (by omega), if_neg (by rintro (h | h); exacts [absurd h (by omega), hzone h]), ha, State.spadWrite_clean _ _ herr]
  rfl

theorem State.placeIn_hold (hmode : (s.core c).rqMode q = 3) (hlen : m.payload.length ≤ (s.core c).rqSize q / 2)
    (h : (s.core c).rqDepth q ≤ ((s.core c).rxq q).recs.length ∨ m.seq % 2 ∈ ((s.core c).rxq q).zones) : s.placeIn c q m = s.holdMsg m := by
  unfold State.placeIn
  dsimp only
  rw [hmode]
  exact (if_neg (Nat.not_lt.2 hlen)).trans (if_pos h)

theorem State.placeIn_long (hmode : (s.core c).rqMode q = 3) (hlen : (s.core c).rqSize q / 2 < m.payload.length) :
    s.placeIn c q m = s.refuseMsg c m := by
  unfold State.placeIn
  dsimp only
  rw [hmode]
  exact if_pos hlen

/-- A message at an awake core goes to the queue that matches it (R120). -/
theorem State.deliver_match (hto : s.toCore m.part m.dst = some c) (ha : s.Awake c) (hred : s.redirect c = none) (hm : s.matchQueue c m = some q) :
    s.deliver m = s.placeIn c q m := by
  unfold State.deliver
  rw [hto]
  dsimp only
  rw [ha.reach fun _ => srcDie_lt]
  dsimp only
  rw [hred]
  dsimp only
  rw [hm]

/-- One that no queue matches is refused. -/
theorem State.deliver_unmatched (hto : s.toCore m.part m.dst = some c) (ha : s.Awake c) (hred : s.redirect c = none) (hm : s.matchQueue c m = none) :
    s.deliver m = s.refuseMsg c m := by
  unfold State.deliver
  rw [hto]
  dsimp only
  rw [ha.reach fun _ => srcDie_lt]
  dsimp only
  rw [hred]
  dsimp only
  rw [hm]

end

/-- Settles O23: an arrival is the placing of `matchQueue`'s answer, by the queue's mode, in the state without the message. -/
theorem messagesArriveInTheirQueue : Obligations.MessagesArriveInTheirQueue := by
  intro s m c hfirst hown hto hawake hred k n placed refuses
  have hex : exec (.messageArrival m) s = .next ((s.took (.msg m)).deliver m) :=
    congrArg Host.Outcome.next (if_pos (by rw [hfirst, hown]; rfl))
  have href (ho : m.origin = 0)
      (he : exec (.messageArrival m) s = .next ((s.took (.msg m)).refuseMsg c m)) : refuses := by
    obtain ⟨hcsr, hbit, hnet⟩ := State.refuseMsg_spec (s := s.took (.msg m)) (c := c) ho
    refine ⟨_, he, hbit, by rw [hcsr.core]; rfl, by rw [hcsr.core]; rfl, hcsr.run (by unfold refuseCsr statCsr; omega), fun h => ?_, fun h => ?_⟩
    · rw [hnet, if_pos h]; rfl
    · rw [hnet, if_neg h]; rfl
  have hplaced {t : State} {q addr : Nat} (h : k.Placed (t.core c) q addr m) (hnet : t.net = s.net.erase (.msg m)) : placed t q addr :=
    ⟨h.run, hnet, h.recs, h.others, h.bytes, h.frame, h.signal⟩
  refine ⟨fun q hq hm hw => ?_, fun hm ho => href ho (by rw [hex, State.deliver_unmatched (s := s.took (.msg m)) hto hawake hred hm])⟩
  have hex' : exec (.messageArrival m) s = .next ((s.took (.msg m)).placeIn c q m) := by
    rw [hex, State.deliver_match (s := s.took (.msg m)) hto hawake hred hm]
  refine ⟨fun addr head tail hmode hdepth hplace herr => ?_, fun hmode hlen hdepth hzone herr => ?_, fun hmode hlen hfull => ?_, fun hmode hlen ho => ?_⟩
  · rw [State.placeIn_ring (s := s.took (.msg m)) hmode hdepth hplace herr] at hex'
    obtain ⟨hp, hnet, -, hget⟩ := State.place_spec (s := s.took (.msg m)) hq hw
      (fun k => k.noted_ring q head tail) rfl rfl
    refine ⟨_, hex', hplaced hp hnet, ?_, ?_⟩
    · unfold Core.rqHead
      rw [hget _ (by unfold rqCsr; omega) (by unfold rqCsr; omega), State.core_modCore_same]
      unfold Core.setTail Core.setHead
      rw [Core.get_put_ne _ _ (by unfold rqCsr; omega), Core.get_put_same, BitVec.toNat_ofNat]
    · unfold Core.rqTail
      rw [hget _ (by unfold rqCsr; omega) (by unfold rqCsr; omega), State.core_modCore_same]
      unfold Core.setTail
      rw [Core.get_put_same, BitVec.toNat_ofNat]
  · rw [State.placeIn_zone (s := s.took (.msg m)) hmode hlen hdepth hzone rfl herr] at hex'
    obtain ⟨hp, hnet, hzones, -⟩ := State.place_spec (s := s.took (.msg m)) hq hw
      (fun k => k.noted_zone q (m.seq % 2)) rfl rfl
    refine ⟨_, hex', hplaced hp hnet, ?_⟩
    rw [hzones, State.core_modCore_same, Core.rxq_setRxq_same, State.core_modCore_same]
    rfl
  · rw [hex', State.placeIn_hold (s := s.took (.msg m)) hmode hlen hfull]
    rfl
  · exact href ho (by rw [hex', State.placeIn_long (s := s.took (.msg m)) hmode hlen])

end Sys2Proof.Machine
end

section
/-!
SUPPORT and proofs. Refusals, grants and closes at the core that sent (spec/03 R120, R123-R125, R128, R130).
-/

namespace Sys2Proof.Machine

/-- A counter CSR that does not reach its low word's end counts by `d` in it. -/
theorem State.bumpCsr_low (s : State) (c n d : Nat) (hs : bit ((s.core c).get (n + 1)) 31 = false) (hv : ((s.core c).get n).toNat + d < 2 ^ 32) :
    (((s.bumpCsr c n d).core c).get n).toNat = ((s.core c).get n).toNat + d := by
  obtain ⟨v, u, q, hlo, -⟩ := State.bumpCsr_eq s c n d
  rw [q.core c, State.core_setCore_same, Core.get_put_ne _ _ (by omega), Core.get_put_same, hlo]
  unfold ctrAdd
  rw [hs]
  dsimp only
  rw [if_neg (by decide), if_neg (by omega)]
  rw [BitVec.toNat_ofNat]
  omega

/-! ### Refusals (R123) -/

section
variable {s : State} {c : Nat} {r : Refused}

/-- The CSRs a refusal of a SEND changes at its source. -/
def refusedCsr (n : Nat) : Prop := n = 0x204 ∨ n = 0x205 ∨ n = 0x203 ∨ statCsr n

/-- The source's record of a refusal, once it is counted. -/
def Core.noteRefusal (k : Core) (ticket : Nat) : Core := ((k.forgetSend ticket).put 0x203 (BitVec.ofNat 32 (ticket % 65536))).muStat 2

theorem State.refusalAt_send (ho : r.origin = 0) (hw : s.waiter r.orig = some c) (ha : s.Awake c) :
    s.refusalAt r = (s.bumpCsr c 0x204 1).modCore c fun k => k.noteRefusal r.ticket := by
  unfold State.refusalAt
  rw [ho, hw]
  dsimp only
  rw [ha.reach fun _ h => by cases h]
  rfl

/-- What noting a refusal leaves: the CSRs it names, the ticket gone. -/
theorem Core.noteRefusal_spec (k : Core) (ticket : Nat) :
    (k.forgetSend ticket).CsrOnly (k.noteRefusal ticket) refusedCsr ∧ (k.noteRefusal ticket).get 0x203 = BitVec.ofNat 32 (ticket % 65536) ∧
      bit ((k.noteRefusal ticket).get 0x201) 2 = true ∧ (k.noteRefusal ticket).get 0x204 = k.get 0x204 := by
  have hm := Core.muStat_csr ((k.forgetSend ticket).put 0x203 (BitVec.ofNat 32 (ticket % 65536))) 2
  refine ⟨(Core.CsrOnly.put _ _ (Or.inr (Or.inr (Or.inl rfl)))).trans (hm.mono fun _ h => Or.inr (Or.inr (Or.inr h))), ?_, Core.muStat_bit _ (by decide), ?_⟩
  · exact (hm.csrs 0x203 (by unfold statCsr; omega)).trans (Core.get_put_same ..)
  · exact (hm.csrs 0x204 (by unfold statCsr; omega)).trans (Core.get_put_ne _ _ (by decide))

end

/-! ### Grants (R124, R125) -/

section
variable {s v : State} {c i : Nat} {g : Grant} {e : TxEntry}

/-- The entry a grant is for: that of its source and channel. -/
def State.grantFor (s : State) (g : Grant) (e : TxEntry) : Prop := s.normAddr e.dst = s.normAddr g.src ∧ e.ch = g.ch

/-- The transmit entry a grant meets, as `grantPut` seeks it. -/
def State.grantHit (s : State) (c : Nat) (g : Grant) : Option (Nat × TxEntry) :=
  (List.range 16).findSome? fun i => match (s.core c).tx.get none0 i with
    | some e => if s.normAddr e.dst = s.normAddr g.src ∧ e.ch = g.ch then some (i, e) else none
    | none => none

theorem findSome_range {β : Type} {f : Nat → Option β} {n i : Nat} {b : β} (hi : i < n) (hf : f i = some b) (h : ∀ j, j < i → f j = none) :
    (List.range n).findSome? f = some b := by
  induction n with
  | zero => omega
  | succ n ih =>
    rw [List.range_succ, List.findSome?_append]
    rcases Nat.lt_or_ge i n with hlt | hge
    · rw [ih hlt]; rfl
    · have e : i = n := by omega
      subst e
      rw [List.findSome?_eq_none_iff.2 fun j hj => h j (List.mem_range.1 hj)]
      simp [hf]

theorem find_range {p : Nat → Bool} {n i : Nat} (hi : i < n) (hp : p i = true) (h : ∀ j, j < i → p j = false) : (List.range n).find? p = some i := by
  induction n with
  | zero => omega
  | succ n ih =>
    rw [List.range_succ, List.find?_append]
    rcases Nat.lt_or_ge i n with hlt | hge
    · rw [ih hlt]; rfl
    · have e : i = n := by omega
      subst e
      rw [List.find?_eq_none.2 fun j hj => by rw [h j (List.mem_range.1 hj)]; decide]
      simp [hp]

/-- An entry of another source or channel is no hit. -/
theorem State.grantHit_miss {j : Nat} (h : ∀ x, (s.core c).tx.get none0 j = some x → ¬ s.grantFor g x) :
    (match (s.core c).tx.get none0 j with
      | some e => if s.normAddr e.dst = s.normAddr g.src ∧ e.ch = g.ch then some (j, e) else none
      | none => none) = none := by
  cases hx : (s.core c).tx.get none0 j with
  | none => rfl
  | some x => exact if_neg (h x hx)

theorem State.grantHit_some (hi : i < 16) (he : (s.core c).tx.get none0 i = some e) (hm : s.grantFor g e)
    (hfirst : ∀ j x, j < i → (s.core c).tx.get none0 j = some x → ¬ s.grantFor g x) : s.grantHit c g = some (i, e) := by
  refine findSome_range hi ?_ fun j hj => State.grantHit_miss fun x => hfirst j x hj
  rw [he]
  exact if_pos hm

theorem State.grantHit_none (h : ∀ j x, j < 16 → (s.core c).tx.get none0 j = some x → ¬ s.grantFor g x) : s.grantHit c g = none :=
  List.findSome?_eq_none_iff.2 fun j hj => State.grantHit_miss fun x => h j x (List.mem_range.1 hj)

/-- The entry a first grant makes. -/
def Grant.entry (g : Grant) : TxEntry := { dst := g.src, ch := g.ch, rot := g.rot, seq := 0, cred := g.units, cap := g.cap, recs := g.recs, pos := 0 }

/-- What a grant does, by the entry it meets (R125). -/
theorem State.grantPut_eq (s : State) (c : Nat) (g : Grant) : s.grantPut c g = match s.grantHit c g, g.first with
    | some (i, _), true => s.setCore c ((s.core c).setTx i (some g.entry))
    | some (i, e), false => s.setCore c ((s.core c).setTx i (some { e with cred := e.cred + g.units, recs := e.recs + g.recs }))
    | none, false => s
    | none, true =>
      match (List.range 16).find? fun i => ((s.core c).tx.get none0 i).isNone with
      | some i => s.setCore c ((s.core c).setTx i (some g.entry))
      | none => if s.isOwn (addrDev g.src) then
          match s.toUnit g.part g.src with
          | some r => s.modCore r fun k => k.muStat 4
          | none => s
        else s := rfl

/-- A grant that meets an entry renews it or adds to it. -/
theorem State.grantPut_hit (h : s.grantHit c g = some (i, e)) : s.grantPut c g = s.setCore c ((s.core c).setTx i
    (some (if g.first then g.entry else { e with cred := e.cred + g.units, recs := e.recs + g.recs }))) := by
  rw [State.grantPut_eq, h]
  cases g.first <;> rfl

/-- A further grant that meets none is ignored. -/
theorem State.grantPut_ignored (h : s.grantHit c g = none) (hf : g.first = false) : s.grantPut c g = s := by
  rw [State.grantPut_eq, h, hf]

/-- A first grant that meets none takes the lowest free entry. -/
theorem State.grantPut_new (h : s.grantHit c g = none) (hf : g.first = true) (hi : i < 16) (hn : (s.core c).tx.get none0 i = none)
    (hlow : ∀ j, j < i → ((s.core c).tx.get none0 j).isSome = true) :
    s.grantPut c g = s.setCore c ((s.core c).setTx i (some g.entry)) := by
  have hfind : ((List.range 16).find? fun i => ((s.core c).tx.get none0 i).isNone) = some i :=
    find_range hi (by rw [hn]; rfl) fun j hj => by
      obtain ⟨x, hx⟩ := Option.isSome_iff_exists.1 (hlow j hj)
      rw [hx]
      rfl
  rw [State.grantPut_eq, h, hf]
  dsimp only
  rw [hfind]

/-- A transfer does not go on where the DMA engine runs none. -/
theorem State.dmaPush_idle (h : ((s.core c).eng 4).jobs = []) (fuel : Nat) : s.dmaPush c fuel = s := by
  cases fuel with
  | zero => rfl
  | succ n =>
    unfold State.dmaPush
    rw [h]

/-- What a grant is to a core that runs no transfer: its entry, and the waits under way count. -/
theorem State.exec_grant (hin : .grant g ∈ s.net) (hown : s.isOwn (addrDev g.dst) = true) (hto : s.toUnit g.part g.dst = some c) (ha : s.Awake c)
    (hv : (s.took (.grant g)).grantPut c g = v) (hkeep : v.toUnit g.part g.dst = some c) (hcl : v.clState (coreCluster c) = 0)
    (hj : ((v.core c).eng 4).jobs = []) : exec (.grant g) s = .next (v.stallTick c) := by
  have hat : (s.took (.grant g)).grantAt g = v := by
    unfold State.grantAt
    rw [show (s.took (.grant g)).toUnit g.part g.dst = some c from hto]
    dsimp only
    rw [State.Awake.reach (s := s.took (.grant g)) ha fun _ => State.addrDie_lt]
    exact hv
  refine congrArg Host.Outcome.next ?_
  rw [if_pos ⟨hin, hown⟩]
  show (match ((s.took (.grant g)).grantAt g).toUnit g.part g.dst with
    | some c => if ((s.took (.grant g)).grantAt g).clState (coreCluster c) = 3 then (s.took (.grant g)).grantAt g
        else ((s.took (.grant g)).grantAt g).dmaResume c
    | none => (s.took (.grant g)).grantAt g) = _
  rw [hat, hkeep]
  dsimp only
  rw [if_neg (by rw [hcl]; decide)]
  have hu := State.Counted.stallTick v c
  exact State.dmaPush_idle (by rw [hu.core]; exact hj) dmaFuel

/-- Waits counted while a message was gone and transmit entries were others count alike where neither is so. -/
theorem State.Counted.behind {x : NetItem} {tx : Map (Option TxEntry)} {w : State}
    (h : ((s.took x).setCore c { s.core c with tx := tx }).Counted w c) :
    w.net = s.net.erase x ∧ (w.core c).tx = tx ∧ ∃ u, s.Counted u c ∧ w.core c = { u.core c with tx := (w.core c).tx } := by
  have hc : ((s.took x).setCore c { s.core c with tx := tx }).core c = { s.core c with tx := tx } := State.core_setCore_same ..
  have hcore := h.core
  rw [hc] at hcore
  have hnet : w.net = s.net.erase x := by rw [h.state]; rfl
  refine ⟨hnet, by rw [hcore], ({ w with net := s.net } : State).setCore c { w.core c with tx := (s.core c).tx }, ⟨?_, h.regs, ?_, fun n hn => ?_, fun y hy => ?_⟩, ?_⟩
  · conv_lhs => rw [h.state]
    rfl
  · rw [State.core_setCore_same]
    conv_lhs => rw [hcore]
  · rw [State.core_setCore_same]
    exact (h.csrs n hn).trans (by rw [hc]; rfl)
  · rw [State.core_setCore_ne _ _ hy]
    exact (h.others y hy).trans (State.core_setCore_ne _ _ hy)
  · rw [State.core_setCore_same]

end

/-! ### Closes (R120, R128) -/

section
variable {s : State} {c i : Nat} {x : Close} {e : TxEntry}

/-- The core a close leaves that meets entry i: the entry gone, a refusal noted. -/
def Core.closed (k : Core) (c i : Nat) (x : Close) : Core :=
  let k := k.setTx i none
  if x.refused then
    if x.origin = 0 ∧ x.orig = c then (k.muStat 0).forgetSend x.ticket else k.muStat 0
  else k

/-- A close at a core where no SEND and no transfer waits (R120, R128). -/
theorem State.closePut_idle (h : s.txFind c x.src x.ch x.rot = some (i, e)) (hw : (s.core c).wait = none) (hj : ((s.core c).eng 4).jobs = []) :
    ((s.closePut c x).core c = (s.core c).closed c i x) ∧ (s.closePut c x).net = s.net := by
  have hu : ∃ u : State, s.closePut c x = (u.dropWaitingSend c x.src x.ch x.rot).dropDma c x ∧ u.core c = (s.core c).closed c i x ∧ u.net = s.net := by
    unfold State.closePut
    rw [h]
    refine ⟨_, rfl, ?_, ?_⟩
    · unfold Core.closed
      dsimp only
      split
      · rw [State.core_modCore_same, State.core_modCore_same]
      · rw [State.core_modCore_same]
    · dsimp only
      split <;> rfl
  obtain ⟨u, hcl, hcore, hnet⟩ := hu
  have hkeep : ((s.core c).closed c i x).wait = none ∧ (((s.core c).closed c i x).eng 4).jobs = [] := by
    have hm := (Core.muStat_csr ((s.core c).setTx i none) 0).core
    unfold Core.closed
    dsimp only
    split
    · split <;> rw [hm] <;> exact ⟨hw, hj⟩
    · exact ⟨hw, hj⟩
  rw [← hcore] at hkeep ⊢
  obtain ⟨hw', hj'⟩ := hkeep
  have hsend : u.dropWaitingSend c x.src x.ch x.rot = u := by
    unfold State.dropWaitingSend
    dsimp only
    rw [hw']
  have hstall : (u.core c).txStalled = false := by
    unfold Core.txStalled
    rw [hw', hj']
    simp
  have hdma : u.dropDma c x = u.modCore c fun k => k := by
    unfold State.dropDma
    rw [hstall]
    refine State.modCore_congr u c ?_
    dsimp only
    rw [hj']
  rw [hcl, hsend, hdma]
  exact ⟨State.core_modCore_same .., hnet⟩

/-- What a close leaves of the core. -/
theorem Core.closed_spec (k : Core) (c i : Nat) (x : Close) :
    (k.setTx i none).RunKept (k.closed c i x) ∧ (k.closed c i x).tx = (k.setTx i none).tx ∧ (k.closed c i x).rx = k.rx ∧ (k.closed c i x).spad = k.spad ∧
      (x.refused = true → bit ((k.closed c i x).get 0x201) 0 = true ∧
        (x.origin = 0 → x.orig = c → (k.closed c i x).sacc = k.sacc.filter (· ≠ x.ticket))) ∧
      (x.refused = false → (k.closed c i x).sacc = k.sacc ∧ (k.closed c i x).csr = k.csr) := by
  have hm := Core.muStat_csr (k.setTx i none) 0
  have hb := Core.muStat_bit (k.setTx i none) (b := 0) (by decide)
  have hrun := hm.run (by unfold statCsr; omega)
  unfold Core.closed
  dsimp only
  split
  · rename_i hr
    have hno : ¬ x.refused = false := by rw [hr]; decide
    split
    · refine ⟨⟨hrun.regs, hrun.pc, hrun.imem, hrun.wait, hrun.rs⟩, by rw [hm.core]; rfl, by rw [hm.core]; rfl, by rw [hm.core]; rfl,
        fun _ => ⟨hb, fun _ _ => by rw [hm.core]; rfl⟩, fun h => absurd h hno⟩
    · rename_i hn
      exact ⟨hrun, by rw [hm.core], by rw [hm.core]; rfl, by rw [hm.core]; rfl, fun _ => ⟨hb, fun h0 h1 => absurd ⟨h0, h1⟩ hn⟩, fun h => absurd h hno⟩
  · rename_i hr
    exact ⟨.refl _, rfl, rfl, rfl, fun h => absurd h hr, fun _ => ⟨rfl, rfl⟩⟩

end

/-- Settles O24: each arrival is an update of the source core in the state without the item, `noteRefusal`, `grantPut` and `closed`. -/
theorem refusalsGrantsAndClosesReachTheirSource : Obligations.RefusalsGrantsAndClosesReachTheirSource := by
  intro s c k
  refine ⟨fun r hin hown hw ha ho => ?_, fun g hin hown hto ha hj => ?_, fun x i e hin hown hto ha hj hwait hfind => ?_⟩
  · have hex : exec (.refusal r) s = .next ((s.took (.refusal r)).refusalAt r) := congrArg Host.Outcome.next (if_pos ⟨hin, Or.inl hown⟩)
    rw [State.refusalAt_send (s := s.took (.refusal r)) ho hw ha] at hex
    obtain ⟨hb, hnet, -⟩ := State.bumpCsr_core (s.took (.refusal r)) c 0x204 1
    have hlow := State.bumpCsr_low (s.took (.refusal r)) c 0x204 1
    generalize (s.took (.refusal r)).bumpCsr c 0x204 1 = u at hex hb hnet hlow
    obtain ⟨hn, h203, h201, h204⟩ := Core.noteRefusal_spec (u.core c) r.ticket
    refine ⟨_, hex, hnet, ?_⟩
    rw [State.core_modCore_same]
    have hrun := ((hb.run (by omega)).trans ⟨fun _ => rfl, rfl, rfl, rfl, rfl⟩ : k.RunKept ((u.core c).forgetSend r.ticket))
    refine ⟨by rw [hn.core, hb.core]; rfl, h203, h201, fun h31 hlt => by rw [h204]; exact hlow h31 hlt, hrun.trans (hn.run (by unfold refusedCsr statCsr; omega)),
      by rw [hn.core, hb.core]; rfl, by rw [hn.core, hb.core]; rfl, by rw [hn.core, hb.core]; rfl⟩
  · intro mine fresh entry
    have hput {i : Nat} {e : TxEntry} (hp : (s.took (.grant g)).grantPut c g = (s.took (.grant g)).setCore c (k.setTx i (some e))) :
        ∃ t, exec (.grant g) s = .next t ∧ entry t i e := by
      have hc : ((s.took (.grant g)).setCore c (k.setTx i (some e))).core c = k.setTx i (some e) := State.core_setCore_same ..
      have hex := State.exec_grant hin hown hto ha hp hto ha.1 (by rw [hc]; exact hj)
      obtain ⟨hnet, htx, hu⟩ := State.Counted.behind (State.Counted.stallTick ((s.took (.grant g)).setCore c (k.setTx i (some e))) c)
      exact ⟨_, hex, hnet, fun j => by rw [htx]; exact Map.get_set none0 k.tx i j (some e), hu⟩
    refine ⟨fun i e hi he hm hfirst => ?_, fun hnone => ⟨fun hf => ?_, fun i hf hi hn hlow => ?_⟩⟩
    · exact hput (State.grantPut_hit (State.grantHit_some (s := s.took (.grant g)) hi he hm hfirst))
    · have hp := State.grantPut_ignored (State.grantHit_none (s := s.took (.grant g)) (c := c) (g := g) hnone) hf
      have hex := State.exec_grant hin hown hto ha hp hto ha.1 hj
      have hu := State.Counted.stallTick (s.took (.grant g)) c
      generalize (s.took (.grant g)).stallTick c = w at hex hu
      refine ⟨w, { w with net := s.net }, hex, ⟨?_, hu.regs, hu.core, hu.csrs, hu.others⟩, ?_⟩
      · conv_lhs => rw [hu.state]
        rfl
      · conv_lhs => rw [hu.state]
        conv_rhs => rw [hu.state]
        rfl
    · exact hput (State.grantPut_new (State.grantHit_none (s := s.took (.grant g)) hnone) hf hi hn hlow)
  · have hex : exec (.streamClose x) s = .next ((s.took (.close x)).closeAt x) := congrArg Host.Outcome.next (if_pos ⟨hin, hown⟩)
    have hat : (s.took (.close x)).closeAt x = (s.took (.close x)).closePut c x := by
      unfold State.closeAt
      rw [show (s.took (.close x)).toUnit x.part x.dst = some c from hto]
      dsimp only
      rw [State.Awake.reach (s := s.took (.close x)) ha fun _ => State.addrDie_lt]
    obtain ⟨hcore, hnet⟩ := State.closePut_idle (s := s.took (.close x)) hfind hwait hj
    rw [hat] at hex
    obtain ⟨hrun, htx, hrx, hspad, href, hnref⟩ := Core.closed_spec k c i x
    refine ⟨_, hex, hnet, ?_⟩
    rw [show ((s.took (.close x)).closePut c x).core c = k.closed c i x from hcore]
    exact ⟨fun j => by rw [htx]; exact Map.get_set none0 k.tx i j none, hrx, hspad, ⟨hrun.regs, hrun.pc, hrun.imem, hrun.wait, hrun.rs⟩, href, hnref⟩

end Sys2Proof.Machine
end

section
/-!
SUPPORT and proofs. Writes of semaphores and of receive-queue registers (spec/03 R116, R117, R121, R124, R127, R128; spec/11 R410).
-/

namespace Sys2Proof.Machine

section
variable {s : State} {c : Nat}

/-- A command that changes CSRs of core c alone. -/
theorem State.csrOnly_setCore {k' : Core} {may : Nat → Prop} (h : (s.core c).CsrOnly k' may) :
    s.OnlyCore (s.setCore c k') c ∧ (s.setCore c k').core c = { s.core c with csr := ((s.setCore c k').core c).csr } ∧
      ∀ n, ¬ may n → ((s.setCore c k').core c).get n = (s.core c).get n := by
  rw [State.core_setCore_same]
  exact ⟨⟨rfl, fun x hx => State.core_setCore_ne _ _ hx⟩, h.core, h.csrs⟩

/-! ### Semaphores (R116, R117) -/

theorem State.semWrite_eq (hc : isCore c = true) (n : BitVec 6) (v : Word) :
    ∃ w, s.csrCmd c (0x100 + n.toNat) v = s.setCore c ((s.core c).put (0x100 + n.toNat) w) ∧ fld w 0 8 = v.toNat % 256 := by
  obtain ⟨r, hf, hcodes⟩ := Option.map_eq_some_iff.1 (semCsr_codes n)
  simp only [Prod.mk.injEq] at hcodes
  obtain ⟨hrw, hw1c, hw1s⟩ := hcodes
  refine ⟨_, State.csrCmd_plain hc r hf (by omega) (State.csrHook_sem s c _ n.isLt v r hw1c), ?_⟩
  rw [fld_writeCode _ _ (by decide) fun i hi => ?_]
  · rfl
  · rw [hrw, hw1c, hw1s, Nat.zero_add, Nat.zero_testBit]
    refine ⟨?_, rfl, rfl⟩
    interval_cases i <;> decide

/-- SP_SIGNAL has a register, whose write is an increment. -/
theorem State.semSignal_eq (hc : isCore c = true) (v : Word) : s.csrCmd c 0x140 v = s.setCore c ((s.core c).semInc (fld v 0 6)).1 := by
  have hf : (findCsr 0x140).isSome = true := by decide +kernel
  obtain ⟨r, hr⟩ := Option.isSome_iff_exists.1 hf
  exact State.csrCmd_hook hc r hr (by decide) rfl

/-- Which CSRs an increment changes, and its overflow bit. -/
theorem Core.semInc_only (k : Core) (n : Nat) :
    k.CsrOnly (k.semInc n).1 (fun j => j = 0x100 + n ∨ j = 0x145 + n / 32) ∧
      (k.sem n = 255 → bit ((k.semInc n).1.get (0x145 + n / 32)) (n % 32) = true) := by
  unfold Core.semInc
  split
  · refine ⟨.put k _ (Or.inr rfl), fun _ => ?_⟩
    rw [Core.get_orCsr, if_pos rfl, bit_orBits _ _ _ (Nat.mod_lt _ (by decide)), Nat.testBit_two_pow_self, Bool.or_true]
  · rename_i hn
    exact ⟨.put k _ (Or.inl rfl), fun h => absurd h hn⟩

/-! ### Watermarks (R410) -/

theorem State.rqWm_eq (hc : isCore c = true) (q : BitVec 3) (v : Word) :
    ∃ w, s.csrCmd c (0x2A8 + q.toNat) v = s.setCore c ((s.core c).put (0x2A8 + q.toNat) w) ∧ bit w 30 = true ∧
      fld w 0 14 = fld v 0 14 ∧ fld w 16 14 = fld v 16 14 := by
  obtain ⟨r, hf, hcodes⟩ := Option.map_eq_some_iff.1 (rqCsr_codes q).2.2
  simp only [Prod.mk.injEq] at hcodes
  obtain ⟨hrw, hw1c, hw1s⟩ := hcodes
  have hrwbits : ∀ i, i < 14 → Nat.testBit 0xBFFF3FFF i = true ∧ Nat.testBit 0xBFFF3FFF (16 + i) = true := by decide
  refine ⟨_, State.csrCmd_hook hc r hf (by omega) (State.csrHook_rqWm s c _ q.isLt v r), ?_, ?_, ?_⟩
  · rw [bit_setBit _ _ _ _ (by decide), if_pos rfl]
  · unfold setBit
    rw [fld_setFld_other _ _ _ _ _ _ (by decide) (by decide)]
    refine fld_writeCode _ _ (by decide) fun i hi => ?_
    rw [hrw, hw1c, hw1s, Nat.zero_add]
    exact ⟨(hrwbits i hi).1, Nat.zero_testBit _, Nat.zero_testBit _⟩
  · unfold setBit
    rw [fld_setFld_other _ _ _ _ _ _ (by decide) (by decide)]
    refine fld_writeCode _ _ (by decide) fun i hi => ?_
    rw [hrw, hw1c, hw1s]
    exact ⟨(hrwbits i hi).2, Nat.zero_testBit _, Nat.zero_testBit _⟩

variable {q : Nat}

/-- An armed watermark that is off stays so. -/
theorem State.watermark_armed (h0 : fld ((s.core c).get (0x2A8 + q)) 0 14 = 0) (h30 : bit ((s.core c).get (0x2A8 + q)) 30 = true) :
    s.watermark c q = s := by
  unfold State.watermark
  dsimp only
  rw [if_neg fun e => e.1 h0, if_neg fun e => by rw [h30] at e; exact absurd e.1 (by decide)]

/-! ### Enabling and disabling (R128) -/

/-- The word of MU_RQq_CFG that enables a queue. -/
def cfgEnabled (old v : Word) : Word := setFld (setFld (setFld old 16 7 (fld v 16 7)) 8 6 (fld v 8 6)) 0 2 (fld v 0 2)

theorem fld_cfgEnabled (old v : Word) : fld (cfgEnabled old v) 0 2 = fld v 0 2 ∧ fld (cfgEnabled old v) 8 6 = fld v 8 6 := by
  have h2 : fld v 0 2 < 2 ^ 2 := fld_lt ..
  have h6 : fld v 8 6 < 2 ^ 6 := fld_lt ..
  unfold cfgEnabled
  rw [fld_setFld _ _ _ _ (by decide), fld_setFld_other _ _ _ _ _ _ (by decide) (by decide), fld_setFld _ _ _ _ (by decide)]
  exact ⟨Nat.mod_eq_of_lt h2, Nat.mod_eq_of_lt h6⟩

/-- The core whose queue q has just been enabled: empty at its base. -/
def Core.enabled (k : Core) (q : Nat) (v : Word) (standIn : Option Nat) : Core :=
  let j := k.put (rqCsr q 0) (cfgEnabled (k.get (rqCsr q 0)) v)
  ((j.setHead q (j.rqBase q)).setTail q (j.rqBase q)).setRxq q { Rxq.reset with standIn := standIn }

theorem Core.get_enabled (k : Core) (q : Nat) (v : Word) (standIn : Option Nat) (n : Nat) : (k.enabled q v standIn).get n =
    if n = rqCsr q 6 ∨ n = rqCsr q 5 then BitVec.ofNat 32 (k.rqBase q)
    else if n = rqCsr q 0 then cfgEnabled (k.get (rqCsr q 0)) v else k.get n := by
  have hbase : (k.put (rqCsr q 0) (cfgEnabled (k.get (rqCsr q 0)) v)).rqBase q = k.rqBase q := by
    unfold Core.rqBase
    rw [Core.get_put_ne _ _ (by unfold rqCsr; omega)]
  unfold Core.enabled Core.setTail Core.setHead
  dsimp only
  rw [hbase, Core.get_setRxq, Core.get_put, Core.get_put, Core.get_put]
  by_cases h6 : n = rqCsr q 6
  · rw [if_pos h6, if_pos (Or.inl h6)]
  · by_cases h5 : n = rqCsr q 5
    · rw [if_neg h6, if_pos h5, if_pos (Or.inr h5)]
    · rw [if_neg h6, if_neg h5, if_neg (not_or.2 ⟨h6, h5⟩)]

theorem Core.enabled_spec (k : Core) (q : Nat) (v : Word) (standIn : Option Nat) :
    k.RunKept (k.enabled q v standIn) ∧ (k.enabled q v standIn).rqMode q = fld v 0 2 ∧ (k.enabled q v standIn).rqDepth q = fld v 8 6 ∧
      (k.enabled q v standIn).rqHead q = k.rqBase q ∧ (k.enabled q v standIn).rqTail q = k.rqBase q ∧
      (k.enabled q v standIn).rxq q = { Rxq.reset with standIn := standIn } ∧ (k.enabled q v standIn).rqSize q = k.rqSize q ∧
      (k.enabled q v standIn).rqChLo q = k.rqChLo q ∧ (k.enabled q v standIn).rqSrc q = k.rqSrc q := by
  have hbase : k.rqBase q < 2 ^ 32 := BitVec.isLt _
  have hrest (i : Nat) (h0 : i ≠ 0) (h5 : i ≠ 5) (h6 : i ≠ 6) : (k.enabled q v standIn).get (rqCsr q i) = k.get (rqCsr q i) := by
    rw [Core.get_enabled, if_neg (by unfold rqCsr; omega), if_neg (by unfold rqCsr; omega)]
  have hcfg : (k.enabled q v standIn).get (rqCsr q 0) = cfgEnabled (k.get (rqCsr q 0)) v := by
    rw [Core.get_enabled, if_neg (by unfold rqCsr; omega), if_pos rfl]
  have hend (i : Nat) (h : i = 5 ∨ i = 6) : ((k.enabled q v standIn).get (rqCsr q i)).toNat = k.rqBase q := by
    rw [Core.get_enabled, if_pos (by rcases h with rfl | rfl; exacts [Or.inr rfl, Or.inl rfl]), BitVec.toNat_ofNat, Nat.mod_eq_of_lt hbase]
  refine ⟨⟨fun _ => rfl, rfl, rfl, rfl, ?_⟩, ?_, ?_, hend 5 (Or.inl rfl), hend 6 (Or.inr rfl), Core.rxq_setRxq_same .., ?_, ?_, ?_⟩
  · unfold Core.rs Core.cf
    rw [Core.get_enabled, if_neg (by unfold rqCsr; omega), if_neg (by unfold rqCsr; omega)]
  · unfold Core.rqMode Core.cf; rw [hcfg]; exact (fld_cfgEnabled _ v).1
  · unfold Core.rqDepth Core.cf; rw [hcfg]; exact (fld_cfgEnabled _ v).2
  · unfold Core.rqSize; rw [hrest 2 (by decide) (by decide) (by decide)]
  · unfold Core.rqChLo Core.cf; rw [hrest 3 (by decide) (by decide) (by decide)]
  · unfold Core.rqSrc; rw [hrest 4 (by decide) (by decide) (by decide)]

theorem State.rqCfgWrite_enable {v : Word} (h0 : (s.core c).rqMode q = 0) (h1 : fld v 0 2 ≠ 0) (hb : s.enableBad c q (fld v 0 2) (fld v 8 6) = false) :
    s.rqCfgWrite c q v =
      let u := s.setCore c ((s.core c).enabled q v (s.standsFor c q))
      if fld v 0 2 = 2 then u.sendGrant c q (((s.core c).rqSize q - 32) / 32) (fld v 8 6) true
      else if fld v 0 2 = 3 then u.sendGrant c q 2 0 true
      else u := by
  obtain ⟨-, -, -, -, -, -, hsize, -⟩ := (s.core c).enabled_spec q v (s.standsFor c q)
  unfold State.rqCfgWrite
  dsimp only
  rw [if_neg fun h => h1 h.2, if_pos h0, hb, if_neg (by decide), ← hsize]
  rfl

theorem State.enableBad_fits {mode depth : Nat} (hfit : (s.core c).rqBase q + (s.core c).rqSize q ≤ spadSize) (hbase : (s.core c).rqBase q % 32 = 0)
    (hsize : (s.core c).rqSize q % 64 = 0) (h64 : 64 ≤ (s.core c).rqSize q) (h1 : 1 ≤ depth) (h32 : depth ≤ 32)
    (hsum : depth + (((List.range 8).filter fun r => r ≠ q ∧ (s.core c).rqMode r ≠ 0).map (s.core c).rqDepth).sum ≤ 128)
    (hch : mode = 1 → (s.core c).rqChLo q ≤ (s.core c).rqChHi q)
    (hsrc : mode ≠ 1 → addrBad ((s.core c).rqSrc q) = false ∧ ∀ r, r < 8 → r ≠ q → 2 ≤ (s.core c).rqMode r →
      s.normAddr ((s.core c).rqSrc r) = s.normAddr ((s.core c).rqSrc q) → (s.core c).rqChLo r ≠ (s.core c).rqChLo q) :
    s.enableBad c q mode depth = false := by
  unfold State.enableBad
  dsimp only
  rw [hbase, hsize, inSpad_of_le hfit]
  simp only [Bool.or_eq_false_iff, Bool.and_eq_false_iff, decide_eq_false_iff_not, List.any_eq_false, List.mem_filter, List.mem_range]
  refine ⟨⟨⟨⟨⟨⟨⟨⟨rfl, rfl⟩, rfl⟩, by omega⟩, ?_⟩, by omega⟩, ?_⟩, ?_⟩, ?_⟩
  · exact beq_eq_false_iff_ne.2 (by omega)
  · exact Nat.not_lt.2 hsum
  · by_cases hm : mode = 1
    · exact Or.inr (Nat.not_lt.2 (hch hm))
    · exact Or.inl (beq_eq_false_iff_ne.2 hm)
  · by_cases hm : mode = 1
    · exact Or.inl (by omega)
    · obtain ⟨haddr, hother⟩ := hsrc hm
      refine Or.inr ⟨haddr, fun r ⟨hr, hd⟩ h => ?_⟩
      simp only [Bool.and_eq_true, decide_eq_true_eq, beq_iff_eq] at h
      obtain ⟨⟨h2, hn⟩, hc⟩ := h
      exact hother r hr (of_decide_eq_true hd).1 h2 hn hc

/-- The grant a queue sends (R124). -/
def State.grantOf (s : State) (c q units recs : Nat) (first : Bool) : Grant :=
  { part := s.corePart c, dst := (s.core c).rqSrc q, src := s.rqSelf c q, ch := (s.core c).rqChLo q, rot := (s.core c).rqMode q == 3, first := first,
    units := units, recs := recs, cap := if (s.core c).rqMode q == 3 then (s.core c).rqSize q / 64 else ((s.core c).rqSize q - 32) / 32 }

theorem State.sendGrant_eq (s : State) (c q units recs : Nat) (first : Bool) :
    s.sendGrant c q units recs first = s.send (.grant (s.grantOf c q units recs first)) := rfl

/-- A queue just enabled is empty at its base, and grants its units or its zones (R128). -/
theorem State.enable_spec {v : Word} (h0 : (s.core c).rqMode q = 0) (h1 : fld v 0 2 ≠ 0) (hb : s.enableBad c q (fld v 0 2) (fld v 8 6) = false) :
    let t := s.rqCfgWrite c q v
    (t.core c).rqMode q = fld v 0 2 ∧ (t.core c).rqDepth q = fld v 8 6 ∧ (t.core c).rqHead q = (s.core c).rqBase q ∧
      (t.core c).rqTail q = (s.core c).rqBase q ∧ ((t.core c).rxq q).recs = [] ∧ ((t.core c).rxq q).zones = [] ∧ (s.core c).RunKept (t.core c) ∧
      (∀ x, x ≠ c → t.core x = s.core x) ∧ (fld v 0 2 = 1 → t.net = s.net) ∧
      (2 ≤ fld v 0 2 → ∃ g : Grant, t.net = s.net ++ [.grant g] ∧ g.part = s.corePart c ∧ g.dst = (s.core c).rqSrc q ∧ g.ch = (s.core c).rqChLo q ∧
        g.first = true ∧ (fld v 0 2 = 2 → g.rot = false ∧ g.units = ((s.core c).rqSize q - 32) / 32 ∧ g.recs = fld v 8 6) ∧
        (fld v 0 2 = 3 → g.rot = true ∧ g.units = 2 ∧ g.recs = 0)) := by
  obtain ⟨hrun, hm, hd, hh, ht, hx, -, hl, hr⟩ := (s.core c).enabled_spec q v (s.standsFor c q)
  have hlt : fld v 0 2 < 4 := fld_lt v 0 2
  rw [State.rqCfgWrite_enable h0 h1 hb]
  generalize hu : s.setCore c ((s.core c).enabled q v (s.standsFor c q)) = u
  have hc : u.core c = (s.core c).enabled q v (s.standsFor c q) := by rw [← hu]; exact State.core_setCore_same ..
  have hothers (x : Nat) (hx : x ≠ c) : u.core x = s.core x := by rw [← hu]; exact State.core_setCore_ne _ _ hx
  have hnet : u.net = s.net := by rw [← hu]; rfl
  have hpart : u.corePart c = s.corePart c := by rw [← hu]; rfl
  rw [← hc] at hrun hm hd hh ht hx hl hr
  have hrecs : ((u.core c).rxq q).recs = [] := by rw [hx]; rfl
  have hzones : ((u.core c).rxq q).zones = [] := by rw [hx]; rfl
  have hrot (units recs : Nat) : (u.grantOf c q units recs true).rot = (fld v 0 2 == 3) := congrArg (· == 3) hm
  dsimp only
  rw [State.sendGrant_eq, State.sendGrant_eq]
  split_ifs with h2 h3
  · exact ⟨hm, hd, hh, ht, hrecs, hzones, hrun, hothers, fun h => by omega, fun _ => ⟨_, congrArg (· ++ _) hnet, hpart, hr, hl, rfl,
      fun _ => ⟨(hrot _ _).trans (by rw [h2]; rfl), rfl, rfl⟩, fun h => by omega⟩⟩
  · exact ⟨hm, hd, hh, ht, hrecs, hzones, hrun, hothers, fun h => by omega, fun _ => ⟨_, congrArg (· ++ _) hnet, hpart, hr, hl, rfl,
      fun h => by omega, fun _ => ⟨(hrot _ _).trans (by rw [h3]; rfl), rfl, rfl⟩⟩⟩
  · exact ⟨hm, hd, hh, ht, hrecs, hzones, hrun, hothers, fun _ => hnet, fun h => by omega⟩

/-- Disabling a queue: a stream or rotate queue sends its close, and its mode is 0. -/
theorem State.rqCfgWrite_disable (h : (s.core c).rqMode q ≠ 0) (h0 : fld ((s.core c).get (0x2A8 + q)) 0 14 = 0)
    (h30 : bit ((s.core c).get (0x2A8 + q)) 30 = true) {v : Word} (hv : fld v 0 2 = 0) (hq : q < 8) :
    ∃ w, fld w 0 2 = 0 ∧ s.rqCfgWrite c q v =
      (if 2 ≤ (s.core c).rqMode q then s.sendClose c q else s).modCore c fun k => k.put (rqCsr q 0) w := by
  refine ⟨setFld (setFld ((s.core c).get (rqCsr q 0)) 16 7 (fld v 16 7)) 0 2 0, fld_setFld _ _ _ _ (by decide), ?_⟩
  unfold State.rqCfgWrite
  dsimp only
  rw [if_neg fun e => h e.1, if_neg h, if_pos hv]
  have hget : ((if 2 ≤ (s.core c).rqMode q then s.sendClose c q else s).core c).get (0x2A8 + q) = (s.core c).get (0x2A8 + q) := by
    split <;> rfl
  refine State.watermark_armed ?_ ?_ <;> rw [State.core_modCore_same, Core.get_put_ne _ _ (by unfold rqCsr; omega), hget]
  · exact h0
  · exact h30

/-! ### Writes of TAIL (R121, R124, R127) -/

/-- The core whose ring has had `freed` bytes freed up to `tail`. -/
def Core.freedTo (k : Core) (q tail freed : Nat) : Core :=
  (k.setTail q tail).setRxq q { k.rxq q with ungrU := (k.rxq q).ungrU + freed / 32 }

theorem Core.freedTo_spec (k : Core) (q freed : Nat) {tail : Nat} (h : tail < 2 ^ 32) :
    (∀ n, n ≠ rqCsr q 6 → (k.freedTo q tail freed).get n = k.get n) ∧ (k.freedTo q tail freed).rqTail q = tail ∧
      (k.freedTo q tail freed).rxq q = { k.rxq q with ungrU := (k.rxq q).ungrU + freed / 32 } ∧ k.RunKept (k.freedTo q tail freed) := by
  have hget (n : Nat) (hn : n ≠ rqCsr q 6) : (k.freedTo q tail freed).get n = k.get n := Core.get_put_ne _ _ hn
  refine ⟨hget, ?_, Core.rxq_setRxq_same .., ⟨fun _ => rfl, rfl, rfl, rfl, congrArg (fld · 0 3) (hget 1 (by unfold rqCsr; omega))⟩⟩
  show (((k.setTail q tail).get (rqCsr q 6))).toNat = tail
  unfold Core.setTail
  rw [Core.get_put_same, BitVec.toNat_ofNat, Nat.mod_eq_of_lt h]

/-- What a further grant changes of its core: the amounts not yet granted. -/
theorem State.grantCheck_core (s : State) (c q : Nat) (now : Bool) :
    (s.grantCheck c q now).core c = { s.core c with rx := ((s.grantCheck c q now).core c).rx } ∧
      (((s.grantCheck c q now).core c).rxq q).recs = ((s.core c).rxq q).recs ∧ ∀ x, x ≠ c → (s.grantCheck c q now).core x = s.core x := by
  unfold State.grantCheck
  dsimp only
  split
  · have hc : (s.grantAll c q).core c = (s.core c).setRxq q { (s.core c).rxq q with ungrU := 0, ungrR := 0 } := State.core_modCore_same ..
    rw [hc, Core.rxq_setRxq_same]
    exact ⟨rfl, rfl, fun x hx => State.core_modCore_ne _ _ hx⟩
  · exact ⟨rfl, rfl, fun _ _ => rfl⟩

/-- No grant goes where the queue is no STREAM queue, or no threshold is met (R124). -/
theorem State.grantCheck_none {now : Bool} (h : (s.core c).rqMode q ≠ 2 ∨
    ((s.core c).rxq q).ungrU < max 1 ((s.core c).cf 0x200 24 8) ∧ ((s.core c).rxq q).ungrR = 0 ∧ now = false) : s.grantCheck c q now = s := by
  unfold State.grantCheck
  dsimp only
  refine if_neg ?_
  rintro ⟨h2, -, hm⟩
  rcases h with h | ⟨hu, hr, hn⟩
  · exact h h2
  · rcases hm with hm | hm | hm
    · omega
    · omega
    · rw [hn] at hm; cases hm

/-- Enough freed units are granted together with every freed record. -/
theorem State.grantCheck_units {now : Bool} (h2 : (s.core c).rqMode q = 2) (h : max 1 ((s.core c).cf 0x200 24 8) ≤ ((s.core c).rxq q).ungrU) :
    s.grantCheck c q now = (s.send (.grant (s.grantOf c q ((s.core c).rxq q).ungrU ((s.core c).rxq q).ungrR false))).modCore c fun k =>
      k.setRxq q { k.rxq q with ungrU := 0, ungrR := 0 } := by
  unfold State.grantCheck
  dsimp only
  rw [if_pos ⟨h2, Or.inl (by omega), Or.inl h⟩]
  rfl

/-- A write of TAIL to a ring. -/
theorem State.tailWrite_ring {v tail freed : Nat} (hmode : (s.core c).rqMode q = 1 ∨ (s.core c).rqMode q = 2) (hsize : 0 < (s.core c).rqSize q)
    (htail : (if v = (s.core c).rqBase q + (s.core c).rqSize q then (s.core c).rqBase q else v) = tail)
    (hfreed : (tail + (s.core c).rqSize q - (s.core c).rqTail q) % (s.core c).rqSize q = freed) :
    s.tailWrite c q v =
      if (v < (s.core c).rqBase q ∨ (s.core c).rqBase q + (s.core c).rqSize q < v ∨ (v - (s.core c).rqBase q) % 32 ≠ 0) ∨ (s.core c).ringUsed q < freed
      then s.setCore c ((s.core c).muStat 5)
      else ((s.setCore c ((s.core c).freedTo q tail freed)).grantCheck c q
        (decide (((s.core c).freedTo q tail freed).rqHead q = tail) && decide (0 < (((s.core c).freedTo q tail freed).rxq q).ungrU))).watermark c q := by
  have hf : (if (s.core c).rqSize q = 0 then 0 else (tail + (s.core c).rqSize q - (s.core c).rqTail q) % (s.core c).rqSize q) = freed := by
    rw [if_neg (by omega), hfreed]
  unfold State.tailWrite
  dsimp only
  rw [htail, hf]
  rcases hmode with h | h <;> rw [h] <;> rfl

/-- A ring with bytes freed, and the grant that may follow (R124). -/
theorem State.freed_granted {tail freed : Nat} {now : Bool} {t : State} (h0 : fld ((s.core c).get (0x2A8 + q)) 0 14 = 0)
    (h30 : bit ((s.core c).get (0x2A8 + q)) 30 = true) (hlt : tail < 2 ^ 32) (hq : q < 8)
    (ht : ((s.setCore c ((s.core c).freedTo q tail freed)).grantCheck c q now).watermark c q = t) :
    ((t.core c).rqTail q = tail ∧ (t.core c).rqHead q = (s.core c).rqHead q ∧ ((t.core c).rxq q).recs = ((s.core c).rxq q).recs ∧
      (s.core c).RunKept (t.core c) ∧ ∀ x, x ≠ c → t.core x = s.core x) ∧
    ((s.core c).rqMode q ≠ 2 → t.net = s.net) ∧
    ((s.core c).rqMode q = 2 → max 1 (fld ((s.core c).get 0x200) 24 8) ≤ ((s.core c).rxq q).ungrU + freed / 32 →
      ((t.core c).rxq q).ungrU = 0 ∧ ((t.core c).rxq q).ungrR = 0 ∧ ∃ g : Grant, t.net = s.net ++ [.grant g] ∧ g.dst = (s.core c).rqSrc q ∧
        g.ch = (s.core c).rqChLo q ∧ g.first = false ∧ g.units = ((s.core c).rxq q).ungrU + freed / 32 ∧ g.recs = ((s.core c).rxq q).ungrR) ∧
    ((s.core c).rqMode q = 2 → ((s.core c).rxq q).ungrU + freed / 32 < max 1 (fld ((s.core c).get 0x200) 24 8) → ((s.core c).rxq q).ungrR = 0 →
      now = false → t.net = s.net ∧ ((t.core c).rxq q).ungrU = ((s.core c).rxq q).ungrU + freed / 32) := by
  obtain ⟨hget, htail, hrxq, hrun⟩ := (s.core c).freedTo_spec q freed hlt
  have hothers (x : Nat) (hx : x ≠ c) : (s.setCore c ((s.core c).freedTo q tail freed)).core x = s.core x := State.core_setCore_ne _ _ hx
  have hunet : (s.setCore c ((s.core c).freedTo q tail freed)).net = s.net := rfl
  have hu : (s.setCore c ((s.core c).freedTo q tail freed)).core c = (s.core c).freedTo q tail freed := State.core_setCore_same ..
  rw [← hu] at hget htail hrxq hrun
  generalize s.setCore c ((s.core c).freedTo q tail freed) = u at hget htail hrxq hrun hothers hunet ht
  have hcsr (i : Nat) (h : i ≠ 6) : (u.core c).get (rqCsr q i) = (s.core c).get (rqCsr q i) := hget _ (by unfold rqCsr; omega)
  have hmode : (u.core c).rqMode q = (s.core c).rqMode q := congrArg (fld · 0 2) (hcsr 0 (by decide))
  have hmin : (u.core c).cf 0x200 24 8 = fld ((s.core c).get 0x200) 24 8 := congrArg (fld · 24 8) (hget _ (by unfold rqCsr; omega))
  have hwm : (u.core c).get (0x2A8 + q) = (s.core c).get (0x2A8 + q) := hget _ (by unfold rqCsr; omega)
  obtain ⟨hgc, hrecs, hgx⟩ := State.grantCheck_core u c q now
  have hgget (n : Nat) : ((u.grantCheck c q now).core c).get n = (u.core c).get n := by rw [hgc]; rfl
  rw [State.watermark_armed (by rw [hgget, hwm]; exact h0) (by rw [hgget, hwm]; exact h30)] at ht
  refine ⟨?_, fun h2 => ?_, fun h2 hm => ?_, fun h2 hm hr hn => ?_⟩
  · rw [← ht]
    refine ⟨?_, ?_, hrecs.trans (by rw [hrxq]), hrun.trans ⟨fun r => by rw [hgc]; rfl, by rw [hgc], by rw [hgc], by rw [hgc], congrArg (fld · 0 3) (hgget 1)⟩,
      fun x hx => (hgx x hx).trans (hothers x hx)⟩
    · exact (congrArg BitVec.toNat (hgget _)).trans htail
    · exact (congrArg BitVec.toNat (hgget _)).trans (congrArg BitVec.toNat (hcsr 5 (by decide)))
  · rw [← ht, State.grantCheck_none (Or.inl (by rw [hmode]; exact h2)), hunet]
  · rw [← ht, State.grantCheck_units (hmode.trans h2) (by rw [hmin, hrxq]; exact hm), State.core_modCore_same, Core.rxq_setRxq_same]
    refine ⟨rfl, rfl, _, congrArg (· ++ _) hunet, congrArg BitVec.toNat (hcsr 4 (by decide)), congrArg (fld · 0 12) (hcsr 3 (by decide)), rfl, ?_, ?_⟩
    · exact congrArg Rxq.ungrU hrxq
    · show ((u.core c).rxq q).ungrR = _
      rw [hrxq]
  · rw [← ht, State.grantCheck_none (Or.inr ⟨by rw [hmin, hrxq]; exact hm, by rw [hrxq]; exact hr, hn⟩), hunet, hrxq]
    exact ⟨rfl, rfl⟩

/-- A write of TAIL to a ROTATE queue frees its oldest filled zone. -/
theorem State.tailWrite_zone {v z : Nat} {rest : List Nat} (hmode : (s.core c).rqMode q = 3) (hz : ((s.core c).rxq q).zones = z :: rest)
    (h0 : fld ((s.core c).get (0x2A8 + q)) 0 14 = 0) (h30 : bit ((s.core c).get (0x2A8 + q)) 30 = true) :
    s.tailWrite c q v = (s.setCore c ((s.core c).setRxq q { (s.core c).rxq q with zones := rest })).sendGrant c q 1 0 false := by
  unfold State.tailWrite
  dsimp only
  rw [hmode, hz]
  have hc : ((s.setCore c ((s.core c).setRxq q { (s.core c).rxq q with zones := rest })).sendGrant c q 1 0 false).core c =
      (s.core c).setRxq q { (s.core c).rxq q with zones := rest } := State.core_setCore_same ..
  exact State.watermark_armed (by rw [hc]; exact h0) (by rw [hc]; exact h30)

end

/-- Settles O27: each write is the CSR hook of its register, whose effect on the core the lemmas above name. -/
theorem queueAndSemaphoreWritesActAsTheRulesSay : Obligations.QueueAndSemaphoreWritesActAsTheRulesSay := by
  intro s c hc k only
  refine ⟨fun n v => ?_, fun v n hn => ?_, fun q v n hn => ?_, fun qb q hqb h30 h0 => ?_⟩
  · obtain ⟨w, hw, hf⟩ := State.semWrite_eq (s := s) hc n v
    refine ⟨_, congrArg Host.Outcome.next hw, State.csrOnly_setCore (.put k w rfl), ?_⟩
    rw [State.core_setCore_same]
    exact (congrArg (fld · 0 8) (Core.get_put_same ..)).trans hf
  · subst hn
    obtain ⟨ho, hovf⟩ := k.semInc_only (fld v 0 6)
    refine ⟨_, congrArg Host.Outcome.next (State.semSignal_eq hc v), State.csrOnly_setCore ho, ?_⟩
    rw [State.core_setCore_same]
    exact ⟨Core.semInc_value k (fld_lt v 0 6), hovf⟩
  · subst hn
    obtain ⟨w, hw, hbit, hhi, hlo⟩ := State.rqWm_eq (s := s) hc q v
    refine ⟨_, congrArg Host.Outcome.next hw, State.csrOnly_setCore (.put k w rfl), ?_⟩
    rw [State.core_setCore_same, Core.get_put_same]
    exact ⟨hbit, hhi, hlo⟩
  · have hq : q < 8 := hqb ▸ qb.isLt
    obtain ⟨r0, hr0⟩ := Option.isSome_iff_exists.1 (rqCsr_codes qb).1
    obtain ⟨r6, hr6⟩ := Option.isSome_iff_exists.1 (rqCsr_codes qb).2.1
    have hcfg (v : Word) : s.csrCmd c (rqCsr qb.toNat 0) v = s.rqCfgWrite c q v := by
      rw [hqb]
      exact State.csrCmd_hook hc r0 hr0 (by unfold rqCsr; omega) (State.csrHook_rqCfg s c _ qb.isLt v r0)
    have htail (v : Word) : exec (.rqTailWrite c qb v) s = .next (s.tailWrite c q v.toNat) := by
      rw [hqb]
      exact congrArg Host.Outcome.next (State.csrCmd_hook hc r6 hr6 (by unfold rqCsr; omega) (State.csrHook_rqTail s c _ qb.isLt v r6))
    refine ⟨fun cfg hmode h1 hfit hbase hsize h64 hd1 hd32 hsum hch hsrc => ?_, fun hmode => ?_, fun v hm1 hm2 => ?_, fun v z rest hmode hz => ?_⟩
    · exact ⟨_, congrArg Host.Outcome.next ((if_neg h1).trans (hcfg cfg)),
        State.enable_spec hmode h1 (State.enableBad_fits hfit hbase hsize h64 hd1 hd32 hsum hch hsrc)⟩
    · obtain ⟨w, hw, hdis⟩ := State.rqCfgWrite_disable hmode h0 h30 (v := setFld (k.get (rqCsr q 0)) 0 2 0) (fld_setFld _ 0 2 0 (by decide)) hq
      have hex : exec (.rqDisable c qb) s = .next (s.rqCfgWrite c q (setFld (k.get (rqCsr q 0)) 0 2 0)) := congrArg Host.Outcome.next (by rw [← hcfg, hqb])
      rw [hdis] at hex
      have hcl (x : Nat) : (if 2 ≤ k.rqMode q then s.sendClose c q else s).core x = s.core x := by split <;> rfl
      refine ⟨_, hex, ?_⟩
      rw [State.core_modCore_same, hcl]
      refine ⟨(congrArg (fld · 0 2) (Core.get_put_same ..)).trans hw, rfl, .put k w (by unfold rqCsr; omega),
        fun x hx => (State.core_modCore_ne _ _ hx).trans (hcl x), fun h1 => ?_, fun h2 => ?_⟩
      · rw [if_neg (by rw [show (s.core c).rqMode q = 1 from h1]; decide)]; rfl
      · rw [if_pos h2]
        exact ⟨_, rfl, rfl, rfl, rfl, rfl, rfl⟩
    · intro newTail freed units bad
      have hring : k.rqMode q = 1 ∨ k.rqMode q = 2 :=
        (Nat.lt_or_eq_of_le hm2).imp_left fun h => Nat.le_antisymm (Nat.lt_succ_iff.1 h) hm1
      have hlt : newTail < 2 ^ 32 := by
        show ite _ _ _ < 2 ^ 32
        split_ifs
        exacts [BitVec.isLt _, v.isLt]
      refine ⟨fun hs hbad => ?_, fun hs hbad => ?_⟩
      · have hex := (htail v).trans (congrArg _ (State.tailWrite_ring hring hs rfl rfl))
        rw [if_pos (by rw [or_assoc, or_assoc]; exact hbad)] at hex
        refine ⟨_, hex, State.csrOnly_setCore (k.muStat_csr 5), ?_⟩
        rw [State.core_setCore_same]
        exact k.muStat_bit (by decide)
      · have hex := (htail v).trans (congrArg _ (State.tailWrite_ring hring hs rfl rfl))
        rw [if_neg (by rw [or_assoc, or_assoc]; exact hbad)] at hex
        obtain ⟨⟨f1, f2, f3, f4, f5⟩, fnet, fgrant, fwait⟩ := State.freed_granted h0 h30 hlt hq rfl
        refine ⟨_, hex, f1, f2, f3, f4, f5, fun h1 => fnet (by rw [show (s.core c).rqMode q = 1 from h1]; decide), fgrant, fun h2 hm hr hne => fwait h2 hm hr ?_⟩
        have hhead : (k.freedTo q newTail freed).rqHead q = k.rqHead q :=
          congrArg BitVec.toNat ((k.freedTo_spec q freed hlt).1 _ (by unfold rqCsr; omega))
        exact (congrArg (· && _) (decide_eq_false fun h => hne (hhead.symm.trans h))).trans (Bool.false_and _)
    · have hcore : ((s.setCore c (k.setRxq q { k.rxq q with zones := rest })).sendGrant c q 1 0 false).core c =
          k.setRxq q { k.rxq q with zones := rest } := State.core_setCore_same ..
      refine ⟨_, (htail v).trans (congrArg _ (State.tailWrite_zone hmode hz h0 h30)), ?_⟩
      rw [hcore, Core.rxq_setRxq_same]
      refine ⟨rfl, ⟨fun _ => rfl, rfl, rfl, rfl, rfl⟩, fun x hx => State.core_setCore_ne _ _ hx, _, rfl, ?_⟩
      rw [State.core_setCore_same]
      exact ⟨rfl, rfl, congrArg (· == 3) hmode, rfl, rfl, rfl⟩

end Sys2Proof.Machine
end

section
/-!
SUPPORT and proofs. Remote requests and their responses (spec/03 R112, R118, R130, R133, R140, R146, R152).
-/

namespace Sys2Proof.Machine

/-! ### What a packet wakes (R27, R130, R653) -/

/-- The registers of the power unit, where the states of dies and clusters stand and the wakes are counted (R648, R675, R676). -/
def powerReg (k : Nat) : Prop := 0x20000 ≤ k ∧ k < 0x21000

/-- `t` is `s` but for the power unit: its registers, its transitions and held actions, and the reporting of events. -/
structure State.Woken (s t : State) : Prop where
  state : t = { s with regs := t.regs, fns := t.fns, out := t.out, elog := t.elog, elogOver := t.elogOver, trans := t.trans, pwrHeld := t.pwrHeld }
  regs : ∀ k, ¬ powerReg k → ¬ eventReg k → t.reg k = s.reg k

namespace State.Woken
variable {s t u : State}

theorem refl (s : State) : s.Woken s := ⟨rfl, fun _ _ _ => rfl⟩
theorem trans (h : s.Woken t) (g : t.Woken u) : s.Woken u :=
  ⟨by rw [g.state, h.state], fun k h1 h2 => (g.regs k h1 h2).trans (h.regs k h1 h2)⟩
theorem ofRegs (h : s.RegsBut t powerReg) : s.Woken t := ⟨by rw [h.state], h.regs⟩
theorem moved (s : State) (l : List Trans) (n : Nat) : s.Woken { s with trans := l, pwrHeld := n } := ⟨rfl, fun _ _ _ => rfl⟩

theorem core (h : s.Woken t) (c : Nat) : t.core c = s.core c := by rw [h.state]; rfl
theorem net (h : s.Woken t) : t.net = s.net := by rw [h.state]
theorem mem (h : s.Woken t) : t.mem = s.mem := by rw [h.state]

theorem dieState (s : State) (d v : Nat) : s.Woken (s.setDieState d v) := .ofRegs (.setRegFld s _ _ _ (by unfold powerReg; omega))

theorem toP0 (s : State) : s.Woken s.toP0 := by
  have h : s.Woken { s.setRegFld 0x20000 0 2 0 with pwrHeld := 0, trans := s.trans.filter fun t => t.row != 13 } :=
    (ofRegs (.setRegFld s _ _ _ (by unfold powerReg; omega))).trans (.moved _ _ _)
  unfold State.toP0
  dsimp only
  split
  · exact h.trans (.ofRegs (.evSet _ _ (by unfold powerReg; omega) (by decide)))
  · exact h

theorem dieUp (s : State) (d : Nat) : s.Woken (s.dieUp d) := by
  have h : s.Woken { (s.setDieState d 1).bump 0x20418 1 with trans := s.trans.filter fun t => !((t.row == 8 || t.row == 9) && t.unit == d) } :=
    ((dieState s d 1).trans (.ofRegs (.bump _ 1 (by unfold powerReg; omega) (by unfold powerReg; omega)))).trans
      (.moved _ _ ((s.setDieState d 1).bump 0x20418 1).pwrHeld)
  unfold State.dieUp
  dsimp only
  split
  · exact h.trans (.moved _ _ ((s.setDieState d 1).bump 0x20418 1).pwrHeld)
  · split
    · exact h
    · exact h.trans (.toP0 _)

theorem dieUpIf (s : State) (d : Nat) : s.Woken (if s.dieState d = 2 then s.dieUp d else s) := by
  split
  · exact dieUp s d
  · exact refl s

theorem wakeDies (s : State) (l : List Nat) : s.Woken (s.wakeDies l) := by
  unfold State.wakeDies
  induction l generalizing s with
  | nil => exact refl s
  | cons d l ih => exact (dieUpIf s d).trans (ih _)

theorem wakeRoute (s : State) (a b : Nat) : s.Woken (s.wakeRoute a b) := wakeDies s _

/-- A packet's target cluster wakes; its state stands in a register of the power unit. -/
theorem wakeFor (s : State) {cl : Nat} (h : cl < 2048) : s.Woken (s.wakeFor cl) := by
  have g := dieUpIf s (clusterDie cl)
  unfold State.wakeFor
  dsimp only
  generalize (if s.dieState (clusterDie cl) = 2 then s.dieUp (clusterDie cl) else s) = v at g ⊢
  split
  · have hc : v.Woken (v.setClState cl 0) := .ofRegs (.setRegFld v _ _ _ (by unfold powerReg; omega))
    exact ((g.trans hc).trans (dieState _ (clusterDie cl) 0)).trans (.moved _ _ v.pwrHeld)
  · exact g

/-- Waking fences no core and frees none. -/
theorem isFenced (h : s.Woken t) {c : Nat} (hc : coreCluster c < 2048) : t.isFenced c = s.isFenced c := by
  have hi : coreIdx c < 16 := by unfold coreIdx; omega
  have : clKey (coreCluster c) + 4 * coreIdx c < 0x2000000 ∧ 0x800000 ≤ clKey (coreCluster c) + 4 * coreIdx c := by unfold clKey; omega
  unfold State.isFenced
  rw [h.regs _ (by unfold powerReg; omega) (by unfold eventReg; omega)]

end State.Woken

/-- An address names a core whose cluster has a register page. -/
theorem State.toCore_cluster {s : State} {p a c : Nat} (h : s.toCore p a = some c) : coreCluster c < 2048 := by
  unfold State.toCore at h
  dsimp only at h
  split at h
  · cases h
  · cases h
    have h1 : (s.rect p).cr < 32 := fld_lt _ 0 5
    have h2 : (s.rect p).cc < 32 := fld_lt _ 8 5
    have h3 : addrRow a < 128 := Nat.mod_lt _ (by decide)
    have h4 : addrCol a < 128 := Nat.mod_lt _ (by decide)
    unfold coreCluster coreRow coreCol
    omega

/-! ### The scratchpad without errors -/

theorem errIn_nil (unit a n : Nat) : errIn [] unit a n = [] := by
  unfold errIn
  split <;> rfl

section
variable {s : State} {c : Nat} (h : (s.core c).spadErr = [])
include h

theorem State.spadRead_noErr (a n cause action : Nat) : s.spadRead c a n cause action = (s, (s.core c).spad.getN byte0 a n, none) :=
  State.spadRead_clean cause action (by rw [h, errIn_nil])

theorem State.spadWrite_noErr (a : Nat) (d : List Byte) (cause action : Nat) :
    s.spadWrite c a d cause action = (s.modCore c fun k => { k with spad := Map.setN byte0 k.spad a d }, none) :=
  State.spadWrite_clean cause action (by rw [h, errIn_nil])

end

/-! ### Service (R112, R130, R140, R146) -/

section
variable {s : State} {r : Rq} {c : Nat}

/-- The bytes a request to change leaves: its data, or the old bytes combined with it (R112). -/
def Rq.newBytes (r : Rq) (old : List Byte) : List Byte := if r.op = 1 then r.data else (lanesOp (r.op - 2) 0 old r.data).1

/-- A request at an awake core is served there: a read is answered with the bytes, a write or an add changes them first. -/
theorem State.serve_awake (hto : s.toCore r.part r.dst = some c) (ha : s.Awake c) (hred : s.redirect c = none) (he : (s.core c).spadErr = []) :
    s.serve r = if r.op = 0 then s.send (r.answer false ((s.core c).spad.getN byte0 r.addr r.len)) else
      (s.modCore c fun k => { k with spad := Map.setN byte0 k.spad r.addr (r.newBytes ((s.core c).spad.getN byte0 r.addr r.len)) }).send (r.answer false []) := by
  have hs : s.servedBy c = c := by unfold State.servedBy; rw [hred]; rfl
  unfold State.serve
  rw [hto]
  dsimp only
  rw [ha.reach fun _ => State.addrDie_lt]
  dsimp only
  rw [hs, State.spadRead_noErr he]
  dsimp only
  unfold Rq.newBytes
  by_cases h1 : r.op = 1
  · rw [if_pos h1, if_pos h1, if_neg (by omega), State.spadWrite_noErr he]
    rfl
  · rw [if_neg h1, if_neg h1]
    split
    · rfl
    · rw [State.spadWrite_noErr he]
      rfl

end

/-! ### Responses (R118, R133) -/

section
variable {s : State} {r : Rsp} {c : Nat} {j : Job} {rest : List Job} {q : Rq}

/-- A response at the DMA engine of a core that is not in C3: the cluster wakes, then its error ends the descriptor, or its data lands and, with
nothing else to wait for, the descriptor is finished. -/
theorem State.response_dma (heng : r.eng = 4) (hto : s.toCore r.part r.dst = some c) (hcl : s.clState (coreCluster c) ≠ 3)
    (hfen : s.isFenced c = false) (hj : ((s.core c).eng 4).jobs = j :: rest) (htick : j.desc.ticket = r.ticket) (hf : j.fault = 0)
    (hq : j.request r.pos = some q) (hop : q.op = 0) (he : (s.core c).spadErr = []) (finish : State → Nat → State) :
    ∃ t, s.Woken t ∧ (r.err = true → s.response r finish =
        t.modCore c fun k => k.setJob 4 ({ j with out := j.out.filter fun x => x.pos ≠ r.pos }.failed 0xF5 r.pos)) ∧
      (r.err = false → j.todo = [] → (j.out.filter fun x => x.pos ≠ r.pos) = [] → s.response r finish =
        finish ((t.modCore c fun k => { k with spad := Map.setN byte0 k.spad q.land r.data }).modCore c fun k =>
          k.setJob 4 { j with out := [], stage := 3 }) c) := by
  have hlt := State.toCore_cluster hto
  have hw := State.Woken.wakeFor s hlt
  have hreach : s.reach none c = some (s.wakeFor (coreCluster c)) := if_neg hcl
  have hjob : ((((s.wakeFor (coreCluster c)).core c).eng 4).jobs = j :: rest) := by rw [hw.core, hj]
  have hgo : ¬ (j.desc.ticket ≠ r.ticket ∨ j.fault ≠ 0 ∨ (s.wakeFor (coreCluster c)).isFenced c = true) := by
    rw [hw.isFenced hlt, hfen]
    simp [htick, hf]
  refine ⟨s.wakeFor (coreCluster c), hw, fun herr => ?_, fun herr htodo hout => ?_⟩ <;> unfold State.response <;>
    rw [heng, if_neg (by decide), hto] <;> dsimp only <;> rw [hreach] <;> dsimp only <;> rw [hjob] <;> dsimp only <;> rw [hq] <;> dsimp only <;>
    rw [if_neg hgo, herr]
  · rfl
  · rw [hop, hout, htodo, State.spadWrite_noErr (by rw [hw.core]; exact he)]
    rfl

end

/-- Settles O25: a request is the scratchpad access it names and its answer, a response the landing of its data, and a timeout the end of the job. -/
theorem remoteRequestsAreServedAndAnswered : Obligations.RemoteRequestsAreServedAndAnswered := by
  refine ⟨?_, ?_, ?_⟩
  · intro s r c hspace hfirst hto ha hred he k old new
    have hex : exec (.remoteSpadRequest r) s = .next ((s.took (.req r)).serve r) := congrArg Host.Outcome.next (if_pos ⟨hspace, hfirst⟩)
    rw [State.serve_awake (s := s.took (.req r)) hto ha hred he] at hex
    refine ⟨fun hop => ?_, fun hop => ?_⟩
    · rw [if_pos hop] at hex
      exact ⟨_, hex, rfl, fun _ => rfl⟩
    · rw [if_neg hop] at hex
      refine ⟨_, hex, rfl, State.onlyCore_modCore s c fun k => { k with spad := Map.setN byte0 k.spad r.addr new }, ?_, ?_⟩
      · rw [State.core_send, State.core_modCore_same]
        rfl
      · rw [State.core_send, State.core_modCore_same]
        exact Core.spadByte_setN rfl
  · intro s r c j rest q hmem heng hto hcl hfen hj htick hf hq hop he k
    have hex : exec (.responseArrival r) s = .next ((s.took (.rsp r)).response r fun s c => if r.eng = 3 then s.rvFinish c else s) :=
      congrArg Host.Outcome.next (if_pos hmem)
    obtain ⟨t, hw, hbad, hgood⟩ := State.response_dma (s := s.took (.rsp r)) heng hto hcl hfen hj htick hf hq hop he
      (fun s c => if r.eng = 3 then s.rvFinish c else s)
    refine ⟨fun herr => ?_, fun herr htodo hout => ?_⟩
    · rw [hbad herr] at hex
      refine ⟨_, hex, hw.net, ?_, Job.failed { j with out := j.out.filter fun x => x.pos ≠ r.pos } 0xF5 r.pos, ?_, rfl, rfl⟩
      · rw [State.core_modCore_same, hw.core]; rfl
      · rw [State.core_modCore_same]
        exact congrArg Eng.jobs (Core.eng_setEng_same ..)
    · rw [hgood herr htodo hout, if_neg (by rw [heng]; decide)] at hex
      have hc : (((t.modCore c fun k => { k with spad := Map.setN byte0 k.spad q.land r.data }).modCore c fun k =>
          k.setJob 4 { j with out := [], stage := 3 }).core c) =
          { k with spad := Map.setN byte0 k.spad q.land r.data }.setJob 4 { j with out := [], stage := 3 } := by
        rw [State.core_modCore_same, State.core_modCore_same, hw.core]
        rfl
      obtain ⟨hin, hout⟩ := Core.spadByte_setN (k := k) (congrArg Core.spad hc)
      refine ⟨_, hex, hw.net, ?_, hin, hout, ?_⟩ <;> rw [hc]
      · exact ⟨fun _ => rfl, rfl, rfl, rfl, rfl⟩
      · exact congrArg Eng.jobs (Core.eng_setEng_same ..)
  · intro s c e j rest q out n hj htmo hf hout
    have hex : exec (.responseTimeout c e) s = .next (s.modCore c fun k => k.setJob n (j.failed 0xF5 q.pos)) := by
      show Host.Outcome.next (s.respTimeout c n) = _
      unfold State.respTimeout
      dsimp only
      rw [hj]
      dsimp only
      rw [if_neg (c := (s.core c).cf 0x200 16 8 = 0 ∨ j.fault ≠ 0) (not_or.2 ⟨htmo, not_not.2 hf⟩), hout]
    refine ⟨_, hex, State.onlyCore_modCore s c _, ?_, ?_⟩ <;> rw [State.core_modCore_same]
    · exact congrArg Eng.jobs (Core.eng_setEng_same ..)
    · rfl

end Sys2Proof.Machine
end

section
/-!
SUPPORT and proofs. Alias entries, mesh links and core-access windows (spec/03 R139, R141; spec/02 R106, R110; spec/01 R42).
-/

namespace Sys2Proof.Machine

/-! ### Alias entries (R141) -/

theorem bit_or (a b : Word) (i : Nat) : bit (a ||| b) i = (bit a i || bit b i) := by
  unfold bit
  rw [BitVec.toNat_or, Nat.testBit_or]

theorem bit_and (a b : Word) (i : Nat) : bit (a &&& b) i = (bit a i && bit b i) := by
  unfold bit
  rw [BitVec.toNat_and, Nat.testBit_and]

/-- The writable bits of an alias entry: TARGET, QUEUE and VALID (R141). -/
theorem bit_aliasMask : ∀ i < 11, (0x17F).testBit i = (decide (i < 7) || i == 8) := by decide

/-- A word whose masked bits come from `v`. -/
theorem bit_masked (w v : Word) {i : Nat} (hi : i < 32) :
    bit ((w &&& ~~~0x17F#32) ||| (v &&& 0x17F#32)) i = if (0x17F).testBit i then bit v i else bit w i := by
  rw [bit_or, bit_clr w 0x17F i hi, bit_and, show bit 0x17F#32 i = (0x17F).testBit i from rfl]
  cases (0x17F).testBit i <;> simp

section
variable {s : State} {cl i : Nat} {v : Word}

theorem State.aliasBad_false : s.aliasBad cl i v = false ↔
    bit v 8 = false ∨ (s.isFenced (clusterCore cl i) = true ∧ fld v 0 4 ≠ i ∧ s.isFenced (clusterCore cl (fld v 0 4)) = false ∧
      bit (s.reg (clKey cl + 4 * fld v 0 4)) 8 = false) := by
  unfold State.aliasBad
  simp only [Bool.and_eq_false_iff, Bool.or_eq_false_iff, Bool.not_eq_false', beq_eq_false_iff_ne, and_assoc]

/-- Writing AL_ERR clears it first; no lower bit changes. -/
theorem bit_aliasOld (w v : Word) {j : Nat} (hj : j < 10) : bit (if bit v 10 then setBit w 10 false else w) j = bit w j := by
  split
  · rw [bit_setBit _ _ _ _ (by decide), if_neg (by omega)]
  · rfl

/-- A good write sets the entry. -/
theorem State.setAlias_good (h : s.aliasBad cl i v = false) : ∃ w, s.setAlias cl i v = s.setReg (clKey cl + 4 * i) w ∧
    fld w 0 7 = fld v 0 7 ∧ bit w 8 = bit v 8 ∧ bit w 9 = bit (s.reg (clKey cl + 4 * i)) 9 := by
  unfold State.setAlias
  dsimp only
  rw [h]
  refine ⟨_, rfl, fld_ext fun j hj => ?_, ?_, ?_⟩
  · rw [bit_masked _ _ (by omega), bit_aliasMask _ (by omega), if_pos (by simp; omega)]
  · rw [bit_masked _ _ (by decide), if_pos (by decide)]
  · rw [bit_masked _ _ (by decide), if_neg (by decide), bit_aliasOld _ _ (by decide)]

/-- A bad one sets AL_ERR alone. -/
theorem State.setAlias_bad (h : s.aliasBad cl i v = true) : ∃ w, s.setAlias cl i v = s.setReg (clKey cl + 4 * i) w ∧
    bit w 10 = true ∧ ∀ j, j < 10 → bit w j = bit (s.reg (clKey cl + 4 * i)) j := by
  unfold State.setAlias
  dsimp only
  rw [h]
  refine ⟨_, rfl, ?_, fun j hj => ?_⟩
  · rw [bit_setBit _ _ _ _ (by decide), if_pos rfl]
  · rw [bit_setBit _ _ _ _ (by decide), if_neg (by omega), bit_aliasOld _ _ hj]

end

/-! ### Core-access windows (R42, R43, R106, R110) -/

/-- A number's bytes give it back, as far as they reach. -/
theorem leNat_leBytes (n v : Nat) : leNat (leBytes n v) = v % 256 ^ n := by
  induction n generalizing v with
  | zero => rw [leBytes, leNat, Nat.pow_zero, Nat.mod_one]
  | succ n ih =>
    rw [leBytes, leNat, ih, BitVec.toNat_ofNat]
    exact Nat.mod_mul.symm.trans (congrArg (v % ·) (Nat.pow_succ' (m := 256) (n := n)).symm)

/-- Bytes are those of their number. -/
theorem leBytes_leNat (l : List Byte) : leBytes l.length (leNat l) = l := by
  induction l with
  | nil => rfl
  | cons b l ih =>
    have hb := b.isLt
    have hhead : BitVec.ofNat 8 (b.toNat + 256 * leNat l) = b := BitVec.eq_of_toNat_eq (by rw [BitVec.toNat_ofNat]; omega)
    have htail : (b.toNat + 256 * leNat l) / 256 = leNat l := by omega
    rw [List.length_cons, leNat, leBytes, hhead, htail, ih]

/-- A word reads back as its bytes were stored. -/
theorem Core.spadWord_stored {k : Core} {a v : Nat} (h : ∀ i, i < 4 → k.spadByte (a + i) = (leBytes 4 v).getD i 0) :
    k.spadWord a = BitVec.ofNat 32 v := by
  have e : k.spad.getN byte0 a 4 = leBytes 4 v := by
    show [k.spadByte (a + 0), k.spadByte (a + 1), k.spadByte (a + 2), k.spadByte (a + 3)] = _
    rw [h 0 (by decide), h 1 (by decide), h 2 (by decide), h 3 (by decide)]
    rfl
  apply BitVec.eq_of_toNat_eq
  rw [← leNat_getN4, e, leNat_leBytes, BitVec.toNat_ofNat, show 256 ^ 4 = 2 ^ 32 from rfl]

section
variable {s : State} {f n off : Nat} {write : Bool}

/-- An aligned access of 4 bytes is one access of the window. -/
theorem State.access_word (v : DWord) (h : off < 0x40000) (ha : off % 4 = 0) :
    s.access f (0x1000000 + n * 0x40000 + off) write 4 v (fun s o w => s.winOne f n (o % 0x40000) write w) =
      (s.winOne f n off write (v.setWidth 32)).1.answer f write (leBytes 4 (s.winOne f n off write (v.setWidth 32)).2.toNat) := by
  have e : (0x1000000 + n * 0x40000 + off) % 0x40000 = off := by omega
  unfold State.access
  rw [if_pos ⟨rfl, by omega⟩]
  dsimp only
  rw [e]

theorem exec_windowWrite {f : BitVec 6} {n : BitVec 4} {off : BitVec 18} {v : DWord} {t : State} {w : Word} (hd : s.decodes f.toNat = true)
    (ha : off.toNat % 4 = 0) (h : s.winOne f.toNat n.toNat off.toNat true (v.setWidth 32) = (t, w)) :
    exec (.coreWindowAccess f n off true 4 v) s = .next t := by
  refine congrArg Host.Outcome.next ((if_pos hd).trans ?_)
  rw [State.access_word v off.isLt ha, h]
  rfl

theorem exec_windowRead {f : BitVec 6} {n : BitVec 4} {off : BitVec 18} {v : DWord} {t : State} {w : Word} (hd : s.decodes f.toNat = true)
    (ha : off.toNat % 4 = 0) (h : s.winOne f.toNat n.toNat off.toNat false (v.setWidth 32) = (t, w)) :
    exec (.coreWindowAccess f n off false 4 v) s = .next { t with out := t.out ++ [.completion f.toNat (leBytes 4 w.toNat) false] } := by
  refine congrArg Host.Outcome.next ((if_pos hd).trans ?_)
  rw [State.access_word v off.isLt ha, h]
  rfl

/-- An offset of a window at which a core has something: a CSR, instruction memory or the scratchpad (R42). -/
def winMapped (off : Nat) : Bool :=
  (decide (off < 0x4000) && (findCsr (off / 4)).isSome) || (decide (0x8000 ≤ off) && decide (off < 0xE000)) || decide (0x10000 ≤ off)

theorem winMapped_spad (h : 0x10000 ≤ off) : winMapped off = true := by
  unfold winMapped
  rw [decide_eq_true h, Bool.or_true]

theorem winMapped_imem (h0 : 0x8000 ≤ off) (h1 : off < 0xE000) : winMapped off = true := by
  unfold winMapped
  rw [decide_eq_true h0, decide_eq_true h1, Bool.and_true, Bool.or_true, Bool.true_or]

theorem winMapped_csr (h : off < 0x4000) (hf : findCsr (off / 4) ≠ none) : winMapped off = true := by
  unfold winMapped
  rw [decide_eq_true h, Option.isSome_iff_ne_none.2 hf]
  rfl

theorem winMapped_not (h : winMapped off = true) : ¬ (!((decide (off < 0x4000) && (findCsr (off / 4)).isSome) ||
    (decide (0x8000 ≤ off) && decide (off < 0xE000)) || decide (0x10000 ≤ off))) = true := by
  unfold winMapped at h
  rw [h]
  decide

/-- A mapped access through a window that selects no core sets ERR, and a read returns 0. -/
theorem State.winOne_unselected (v : Word) (hm : winMapped off = true) (h : s.winCore f n = none) :
    s.winOne f n off write v = (s.orReg (selKey f n) (2 ^ 30), 0) := by
  unfold State.winOne
  dsimp only
  refine (if_neg (winMapped_not hm)).trans ?_
  rw [h]

section
variable {c : Nat} {v : Word} (hm : winMapped off = true) (h : s.winCore f n = some c) (ha : s.Awake c) (hs : s.servedBy c = c)
include hm h ha hs

/-- Through a window that selects an awake core it reaches that core. -/
theorem State.winOne_done {t : State} {w : Word} (hw : s.winAccess c off write v = some (t, w, false)) : s.winOne f n off write v = (t, w) := by
  unfold State.winOne
  dsimp only
  refine (if_neg (winMapped_not hm)).trans ?_
  rw [h]
  dsimp only
  rw [ha.2.wakeRoute (by decide) (coreDie_lt c), ha.wakeFor, hs, hw]
  rfl

/-- Where the core refuses it, ERR is set and a read returns 0. -/
theorem State.winOne_refused (hw : s.winAccess c off write v = none) : s.winOne f n off write v = (s.orReg (selKey f n) (2 ^ 30), 0) := by
  unfold State.winOne
  dsimp only
  refine (if_neg (winMapped_not hm)).trans ?_
  rw [h]
  dsimp only
  rw [ha.2.wakeRoute (by decide) (coreDie_lt c), ha.wakeFor, hs, hw]

end

theorem State.winCore_none (h : bit (s.reg (selKey f n)) 31 = false) : s.winCore f n = none := by
  unfold State.winCore
  dsimp only
  rw [h]
  rfl

theorem State.winCore_awake {c : Nat} (h : bit (s.reg (selKey f n)) 31 = true)
    (hto : s.toCore f (fld (s.reg (selKey f n)) 0 7 + fld (s.reg (selKey f n)) 8 7 * 256) = some c) (ha : s.Awake c) : s.winCore f n = some c := by
  unfold State.winCore
  dsimp only
  rw [h, hto]
  dsimp only
  rw [ha.1]
  rfl

end

section
variable {s : State} {c off : Nat} {v : Word}

theorem State.winAccess_spadWrite {a : Nat} (ho : off = 0x10000 + a) (hr : (s.core c).rs ≠ 4) (he : errIn (s.core c).spadErr 8 a 4 = []) :
    s.winAccess c off true v = some (s.modCore c fun k => { k with spad := Map.setN byte0 k.spad a (leBytes 4 v.toNat) }, 0, false) := by
  unfold State.winAccess
  dsimp only
  rw [if_neg (by omega), if_neg hr, if_neg (by omega), show off - 0x10000 = a by omega, State.spadWrite_clean _ _ (by rw [length_leBytes]; exact he)]
  rfl

theorem State.winAccess_spadRead {a : Nat} (ho : off = 0x10000 + a) (hr : (s.core c).rs ≠ 4) (he : errIn (s.core c).spadErr 8 a 4 = []) :
    s.winAccess c off false v = some (s, (s.core c).spadWord a, false) := by
  unfold State.winAccess
  dsimp only
  rw [if_neg (by omega), if_neg hr, if_neg (by omega), show off - 0x10000 = a by omega, State.spadRead_clean _ _ he]
  dsimp only
  rw [leNat_getN4, BitVec.ofNat_toNat, BitVec.setWidth_eq]
  rfl

theorem State.csrWrite_noError {n : Nat} (hn : n ≠ 0x8A0) : (s.csrWrite c n v).2 = none := by
  unfold State.csrWrite
  cases findCsr n with
  | none => rfl
  | some r =>
    dsimp only
    rw [if_neg hn]
    cases s.csrHook c n v r <;> rfl

theorem State.winAccess_csrWrite (ho : off < 0x4000) (hr : (s.core c).rs ≠ 4) (hn : off / 4 ≠ 0x8A0) :
    s.winAccess c off true v = some ((s.csrWrite c (off / 4) v).1, 0, false) := by
  unfold State.winAccess
  dsimp only
  rw [if_pos ho, if_neg (fun h => hr h.1), if_pos rfl, State.csrWrite_noError hn]
  rfl

/-- The instruction memory of a core that runs or waits takes no write (R106). -/
theorem State.winAccess_imemBusy (h0 : 0x4000 ≤ off) (h1 : off < 0x10000) (hr : (s.core c).rs = 1 ∨ (s.core c).rs = 2) :
    s.winAccess c off true v = none := by
  unfold State.winAccess
  dsimp only
  rw [if_neg (by omega), if_neg (by omega), if_pos h1, if_pos rfl, if_neg (by omega)]

end

/-- The state once an access of window n of function f was refused: its ERR bit is set (R42). -/
def State.winErr (s : State) (f n : Nat) : State := s.orReg (selKey f n) (2 ^ 30)

theorem State.bit_winErr (s : State) (f n : Nat) : bit ((s.winErr f n).reg (selKey f n)) 30 = true := by
  unfold State.winErr State.orReg
  rw [State.reg_setReg_same, bit_orBits _ _ _ (by decide), Nat.testBit_two_pow_self, Bool.or_true]

theorem State.reg_emit (s : State) (l : List OutItem) (k : Nat) : ({ s with out := s.out ++ l } : State).reg k = s.reg k := rfl
theorem State.winErr_cores (s : State) (f n : Nat) : (s.winErr f n).cores = s.cores := State.orReg_cores s (selKey f n) (2 ^ 30)
theorem State.winErr_out (s : State) (f n : Nat) : (s.winErr f n).out = s.out := State.orReg_out s (selKey f n) (2 ^ 30)

section
variable {s : State} {f : BitVec 6} {n : BitVec 4} {off : BitVec 18} {v : DWord} (hd : s.decodes f.toNat = true) (ha : off.toNat % 4 = 0)
include hd ha

theorem exec_windowWrite_err (h : s.winOne f.toNat n.toNat off.toNat true (v.setWidth 32) = (s.winErr f.toNat n.toNat, 0)) :
    ∃ t, exec (.coreWindowAccess f n off true 4 v) s = .next t ∧ bit (t.reg (selKey f.toNat n.toNat)) 30 = true ∧ t.cores = s.cores :=
  ⟨_, exec_windowWrite hd ha h, s.bit_winErr _ _, s.winErr_cores _ _⟩

theorem exec_windowRead_err (h : s.winOne f.toNat n.toNat off.toNat false (v.setWidth 32) = (s.winErr f.toNat n.toNat, 0)) :
    ∃ t, exec (.coreWindowAccess f n off false 4 v) s = .next t ∧ bit (t.reg (selKey f.toNat n.toNat)) 30 = true ∧ t.cores = s.cores ∧
      t.out = s.out ++ [.completion f.toNat [0, 0, 0, 0] false] := by
  have hbit := s.bit_winErr f.toNat n.toNat
  have hcores := s.winErr_cores f.toNat n.toNat
  have hout := s.winErr_out f.toNat n.toNat
  generalize s.winErr f.toNat n.toNat = t at h hbit hcores hout
  rw [← State.reg_emit t [OutItem.completion f.toNat [0, 0, 0, 0] false]] at hbit
  exact ⟨_, exec_windowRead hd ha h, hbit, hcores, congrArg (· ++ [OutItem.completion f.toNat [0, 0, 0, 0] false]) hout⟩

end

/-- Settles O28: an alias write by `aliasBad`, a mesh link by its counter and the fatal event, a window by what its offset and its core say. -/
theorem aliasesWindowsAndMeshLinksActAsTheRulesSay : Obligations.AliasesWindowsAndMeshLinksActAsTheRulesSay := by
  refine ⟨?_, ?_, ?_⟩
  · intro s cl idx v key other hcl hkey hother good
    subst hkey hother
    have hex : exec (.aliasWrite cl idx v) s = .next (s.setAlias cl idx.toNat v) := congrArg Host.Outcome.next (if_pos hcl)
    have hgood : good ↔ s.aliasBad cl idx.toNat v = false := State.aliasBad_false.symm
    cases hb : s.aliasBad cl idx.toNat v with
    | false =>
      obtain ⟨w, he, hf, h8, h9⟩ := State.setAlias_good hb
      rw [he] at hex
      refine ⟨_, hex, rfl, fun j hj => State.reg_setReg_ne s w hj, fun _ => ?_, fun h => absurd (hgood.2 hb) h⟩
      rw [State.reg_setReg_same]
      exact ⟨hf, h8, h9⟩
    | true =>
      obtain ⟨w, he, h10, hlow⟩ := State.setAlias_bad hb
      rw [he] at hex
      refine ⟨_, hex, rfl, fun j hj => State.reg_setReg_ne s w hj, fun h => absurd (hgood.1 h) (by rw [hb]; decide), fun _ => ?_⟩
      rw [State.reg_setReg_same]
      exact ⟨h10, hlow⟩
  · intro s cl n key hcl hkey
    subst hkey
    have hex (b : Bool) : exec (.meshNak cl n b) s = .next (s.meshNak cl n b) := congrArg Host.Outcome.next (if_pos hcl)
    have hk : ¬ eventReg (clKey cl + 0x48) ∧ ¬ eventReg (clKey cl + 0x48 + 4) := by unfold eventReg clKey; omega
    refine ⟨fun hsat hsum => ?_, ?_⟩
    · exact ⟨_, hex false, State.bump_cores s _ n, fun j h h4 he => State.bump_reg s _ n h h4 he, State.bump_value s _ n hk.1 hk.2 hsat hsum⟩
    · obtain ⟨hbit, hcores, -, hhour, -⟩ := State.fatal_spec ((s.bump (clKey cl + 0x48) n).freeVal.2)
        { level := 0x24, unit := 3, cause := (s.bump (clKey cl + 0x48) n).freeVal.1.toNat % 256, action := 8, loc := cl } (by show (0 : Nat) < 192; decide)
      refine ⟨_, hex true, hcores.trans (State.bump_cores s _ n), hbit, hhour.trans ?_⟩
      show (s.bump (clKey cl + 0x48) n).hourFatals + 1 = _
      rw [State.bump_state]
  · intro s f n off v sel hdec hsel
    subst hsel
    refine ⟨?_, ?_, ?_⟩
    · intro c a hvalid hto hawake hal hrs
      have hcore := State.winCore_awake hvalid hto hawake
      have hserved : s.servedBy c = c := by
        unfold State.servedBy State.redirect
        dsimp only
        rw [hal]
        rfl
      refine ⟨fun ho ha he => ⟨?_, ?_⟩, fun ho ha hcsr hn => ?_, fun ho hlt6 ha hr => ?_⟩
      · have hone := State.winOne_done (winMapped_spad (by rw [ho]; exact Nat.le_add_right _ a)) hcore hawake hserved
          (State.winAccess_spadWrite (v := v.setWidth 32) ho hrs he)
        refine ⟨_, exec_windowWrite hdec (by omega) hone, State.onlyCore_modCore s c _, ?_⟩
        rw [State.core_modCore_same]
        obtain ⟨hin, hout⟩ := Core.spadByte_setN (k := s.core c)
          (k' := { s.core c with spad := Map.setN byte0 (s.core c).spad a (leBytes 4 (v.setWidth 32 : Word).toNat) }) rfl
        rw [length_leBytes] at hin hout
        refine ⟨⟨fun _ => rfl, rfl, rfl, rfl, rfl⟩, ?_, hout⟩
        rw [Core.spadWord_stored hin, BitVec.ofNat_toNat, BitVec.setWidth_eq]
      · exact exec_windowRead hdec (by omega)
          (State.winOne_done (winMapped_spad (by rw [ho]; exact Nat.le_add_right _ a)) hcore hawake hserved (State.winAccess_spadRead ho hrs he))
      · exact exec_windowWrite hdec ha (State.winOne_done (winMapped_csr ho hcsr) hcore hawake hserved (State.winAccess_csrWrite ho hrs hn))
      · exact exec_windowWrite_err hdec (by omega) (State.winOne_refused (winMapped_imem (by rw [ho]; exact Nat.le_add_right _ a) (by rw [ho]; omega))
          hcore hawake hserved (State.winAccess_imemBusy (off := off.toNat) (by omega) (by omega) hr))
    · intro hvalid ho ha
      exact exec_windowRead_err hdec ha (State.winOne_unselected (v.setWidth 32) (winMapped_spad ho) (State.winCore_none hvalid))
    · intro size h4 h8
      have hex : exec (.coreWindowAccess f n off true size v) s = .next (s.badAccess f.toNat (0x1000000 + n.toNat * 0x40000 + off.toNat) size true 1) := by
        refine congrArg Host.Outcome.next ((if_pos hdec).trans ?_)
        unfold State.access
        rw [if_neg (fun h => h4 h.1), if_neg (fun h => h8 h.1)]
        rfl
      exact ⟨_, hex, State.Quiet.log _ _ (by show f.toNat < 192; have := f.isLt; omega)⟩

end Sys2Proof.Machine
end

section
/-!
SUPPORT. Device memory on the way to it and back: what wakes and is metered leaves plain memory plain (spec/01 R27; spec/07 R499-R505, R653).
-/

namespace Sys2Proof.Machine

/-! ### What plain memory rests on -/

/-- The registers that say where memory lies and who may use it: partitions, records, command ports, feed channels, regions of M-tiles. -/
def mapReg (k : Nat) : Prop := (0x78000 ≤ k ∧ k < 0xD0000) ∨ (0x300000 ≤ k ∧ k < 0x400000 ∧ 0x400 ≤ (k - 0x300000) % 0x20000)

section
variable {s u : State} (hr : ∀ k, mapReg k → u.reg k = s.reg k) (hf : u.fuse = s.fuse)
include hr

theorem State.region_congr {t r : Nat} (ht : t < 8) (hr16 : r < 16) : u.region t r = s.region t r := by
  have reg (o : Nat) (ho : o < 0x10) : u.reg (mtKey t + 0x400 + 0x10 * r + o) = s.reg (mtKey t + 0x400 + 0x10 * r + o) :=
    hr _ (by unfold mapReg mtKey; omega)
  unfold State.region State.regFld
  dsimp only
  rw [reg 8 (by decide), reg 4 (by decide), show mtKey t + 0x400 + 0x10 * r = mtKey t + 0x400 + 0x10 * r + 0 from rfl, reg 0 (by decide)]

theorem State.regionRefuses_congr {p : Nat} {who : Who} {write : Bool} {c : Chunk} (ht : c.tile < 8) :
    u.regionRefuses p who write c = s.regionRefuses p who write c := by
  unfold State.regionRefuses
  refine Bool.eq_iff_iff.2 ?_
  rw [List.any_eq_true, List.any_eq_true]
  refine exists_congr fun r => and_congr_right fun hr16 => ?_
  have hpart : (s.region c.tile r).part < 64 := fld_lt _ 8 6
  dsimp only
  rw [State.region_congr hr ht (List.mem_range.1 hr16)]
  unfold State.regFld
  rw [hr (0x80004 + 0x400 * (s.region c.tile r).part) (by unfold mapReg; omega)]

theorem State.recsIn_congr {p a n : Nat} (hp : p < 64) : u.recsIn p a n = s.recsIn p a n := by
  have st (o : Nat) (ho : o < 0x400) : u.reg (stKey p o) = s.reg (stKey p o) := hr _ (by unfold mapReg stKey; omega)
  unfold State.recsIn State.vrBase State.vrNum State.regFld
  rw [st _ (by decide), st _ (by decide), st _ (by decide)]

theorem State.pageAt_congr (p a n : Nat) : u.pageAt p a n = s.pageAt p a n := by
  unfold State.pageAt
  refine findSome?_congr_mem fun c hc => ?_
  have fd (o : Nat) (ho : o < 0x400) : u.reg (fdKey c o) = s.reg (fdKey c o) := by
    have := List.mem_range.1 hc
    exact hr _ (by unfold mapReg fdKey; omega)
  unfold State.fdOn State.fdPart State.regFld State.reg64
  rw [fd 0 (by decide), fd 0x28 (by decide), show fdKey c 0x28 + 4 = fdKey c 0x2C from rfl, fd 0x2C (by decide)]

theorem State.cportAt_congr {p a n : Nat} (hp : p < 64) : u.cportAt p a n = s.cportAt p a n := by
  have sv (o : Nat) (ho : o < 0x400) : u.reg (svKey p o) = s.reg (svKey p o) := hr _ (by unfold mapReg svKey; omega)
  unfold State.cportAt State.reg64
  rw [sv 0 (by decide), sv 0x30 (by decide), show svKey p 0x30 + 4 = svKey p 0x34 from rfl, sv 0x34 (by decide)]

include hf

theorem State.chunks_congr {p a n : Nat} (hp : p < 64) : u.chunks p a n = s.chunks p a n :=
  State.chunksAux_congr (fun x => by
    unfold State.xlate
    rw [hr (0x78004 + 0x20 * p) (by unfold mapReg; omega), hf]) _ _ _

/-- Plain memory stays plain where none of this changes. -/
theorem State.Plain.congr {p a n t o : Nat} (hp : p < 64) (he : u.memErr = s.memErr) (P : s.Plain p a n t o) : u.Plain p a n t o where
  map := by rw [State.chunks_congr hr hf hp, P.map]
  recs := by rw [State.recsIn_congr hr hp, P.recs]
  page := by rw [State.pageAt_congr hr, P.page]
  port := by rw [State.cportAt_congr hr hp, P.port]
  regions who write := by
    rw [State.regionRefuses_congr hr (State.chunks_tile P.map _ (List.mem_singleton_self _)), P.regions]
  clean := by rw [he, P.clean]

end

/-! ### An access to memory -/

/-- `t` is `s` once packets have passed and tiles have metered: the power unit, the meters of M-tiles and the reporting of events may differ. -/
structure State.Accessed (s t : State) : Prop where
  state : t = { s with regs := t.regs, fns := t.fns, out := t.out, elog := t.elog, elogOver := t.elogOver, trans := t.trans, pwrHeld := t.pwrHeld }
  regs : ∀ k, ¬ powerReg k → ¬ meterReg k → ¬ eventReg k → t.reg k = s.reg k

namespace State.Accessed
variable {s t u : State}

theorem refl (s : State) : s.Accessed s := ⟨rfl, fun _ _ _ _ => rfl⟩
theorem trans (h : s.Accessed t) (g : t.Accessed u) : s.Accessed u :=
  ⟨by rw [g.state, h.state], fun k h1 h2 h3 => (g.regs k h1 h2 h3).trans (h.regs k h1 h2 h3)⟩
theorem ofWoken (h : s.Woken t) : s.Accessed t := ⟨h.state, fun k h1 _ h3 => h.regs k h1 h3⟩
theorem ofMeters (h : s.RegsBut t meterReg) : s.Accessed t := ⟨by rw [h.state], fun k _ h2 h3 => h.regs k h2 h3⟩

theorem core (h : s.Accessed t) (c : Nat) : t.core c = s.core c := by rw [h.state]; rfl
theorem net (h : s.Accessed t) : t.net = s.net := by rw [h.state]
theorem mem (h : s.Accessed t) : t.mem = s.mem := by rw [h.state]
theorem map (h : s.Accessed t) (k : Nat) (hk : mapReg k) : t.reg k = s.reg k :=
  h.regs k (by unfold powerReg; unfold mapReg at hk; omega) (by unfold meterReg; unfold mapReg at hk; omega)
    (by unfold eventReg; unfold mapReg at hk; omega)
theorem corePart (h : s.Accessed t) (c : Nat) : t.corePart c = s.corePart c :=
  State.clusterPart_congr (fun p hp => h.map _ (by unfold mapReg; omega)) _
theorem plain (h : s.Accessed t) {p a n k o : Nat} (hp : p < 64) (P : s.Plain p a n k o) : t.Plain p a n k o :=
  P.congr h.map (by rw [h.state]) hp (by rw [h.state])

/-- The way to a page of memory. -/
theorem route {d p a n k o : Nat} (hm : s.chunks p a n = some [⟨k, o, n⟩]) : s.Accessed (s.memRoute d p a n) := by
  unfold State.memRoute
  rw [hm]
  exact .ofWoken (.wakeRoute s _ _)

end State.Accessed

section
variable {s : State} {d p a t o : Nat} (hp : p < 64)
include hp

/-- A read of plain memory gives its bytes. -/
theorem State.Plain.fetch {n : Nat} (P : s.Plain p a n t o) (who : Who) (unit : Nat) (tk : Option Nat) :
    ∃ u, s.Accessed u ∧ (s.memRoute d p a n).memRd p a n who unit tk = (u, .ok (s.mem.getN byte0 (memIdx t o) n)) := by
  have hw := State.Accessed.route (d := d) P.map
  have hm := State.metered (s.memRoute d p a n) (Chunk.lines ⟨t, o, n⟩) (State.chunks_tile P.map _ (List.mem_singleton_self _))
  exact ⟨_, hw.trans (.ofMeters hm), by rw [(hw.plain hp P).memRd, hw.mem]⟩

/-- A write of plain memory changes its bytes. -/
theorem State.Plain.store {b : List Byte} (P : s.Plain p a b.length t o) (who : Who) (unit : Nat) (ports : Bool) :
    ∃ u, s.Accessed u ∧ (s.memRoute d p a b.length).memWr p a b who unit ports = ({ u with mem := Map.setN byte0 s.mem (memIdx t o) b }, .ok []) := by
  have hw := State.Accessed.route (d := d) P.map
  have ht : t < 8 := State.chunks_tile P.map _ (List.mem_singleton_self _)
  generalize hv : s.memRoute d p a b.length = v at hw
  have hwake : v.RegsBut (v.tileWake t) meterReg := by
    unfold State.tileWake
    split
    · exact .setRegFld v _ _ _ (meterReg_mtKey ht (by decide))
    · exact .refl v _
  have hcount : (v.tileWake t).RegsBut ((v.tileWake t).countWrite ⟨t, o, b.length⟩ 0) meterReg := by
    have hb (w : State) (n : Nat) {q : Nat} (hq : q < 0x3FC) : w.RegsBut (w.bump (mtKey t + q) n) meterReg :=
      .bump _ n (meterReg_mtKey ht (by omega)) (meterReg_mtKey ht (o := q + 4) (by omega))
    unfold State.countWrite
    dsimp only
    split
    · exact hb _ _ (by decide)
    · exact (hb _ _ (by decide)).trans (hb _ _ (by decide))
  exact ⟨_, hw.trans (.ofMeters (hwake.trans hcount)), by rw [(hw.plain hp P).memWr, hw.mem]⟩

end

end Sys2Proof.Machine
end

section
/-!
SUPPORT and proofs. DMA transfers (spec/03 R115, R131-R133).
-/

namespace Sys2Proof.Machine

/-! ### The job at the head of engine e -/

theorem Core.eng_setJob (k : Core) (e f : Nat) (j : Job) : (k.setJob e j).eng f = if f = e then { k.eng e with jobs := [j] } else k.eng f :=
  Core.eng_setEng ..

/-- `t` runs job `j` on engine e of core c, whose descriptor has just been taken; the run state of the core and the other cores are as in `s`. -/
structure State.Started (s s1 t : State) (c e : Nat) (j : Job) : Prop where
  run : (s.core c).RunKept (t.core c)
  others : ∀ y, y ≠ c → t.core y = s.core y
  eng : (t.core c).eng e = { (s1.core c).eng e with jobs := [j] }
  engs : ∀ f, f ≠ e → (t.core c).eng f = (s.core c).eng f

section
variable {s s1 t : State} {c e : Nat} {d : Desc} (h : s.takeDesc c e = some (d, s1))
include h

theorem State.takeDesc_run : (s.core c).RunKept (s1.core c) := by
  obtain ⟨-, -, -, -, -, -, hcore, hcsr, -⟩ := State.takeDesc_spec h
  refine ⟨fun r => by rw [hcore]; rfl, by rw [hcore], by rw [hcore], by rw [hcore], ?_⟩
  unfold Core.rs Core.cf
  rw [hcsr 1 (by unfold semCsr; omega)]

/-- A state with the job set on a core whose engines differ in the jobs of engine e at most. -/
theorem State.restarted {k : Core} {j : Job} {l : List Job} (hc : t.core c = k.setJob e j) (hrun : (s1.core c).RunKept k)
    (he : k.eng e = { (s1.core c).eng e with jobs := l }) (hf : ∀ f, f ≠ e → k.eng f = (s1.core c).eng f)
    (ho : ∀ y, y ≠ c → t.core y = s1.core y) : s.Started s1 t c e j := by
  obtain ⟨-, -, -, -, honly, hothers, -⟩ := State.takeDesc_spec h
  have hset : k.RunKept (k.setJob e j) := ⟨fun _ => rfl, rfl, rfl, rfl, rfl⟩
  refine ⟨?_, fun y hy => (ho y hy).trans (honly.others y hy), ?_, fun f hne => ?_⟩ <;> rw [hc]
  · exact ((State.takeDesc_run h).trans hrun).trans hset
  · rw [Core.eng_setJob, if_pos rfl, he]
  · rw [Core.eng_setJob, if_neg hne, hf f hne, hothers f hne]

/-- A state with the job set on a core that kept its engines. -/
theorem State.started {k : Core} {j : Job} (hc : t.core c = k.setJob e j) (hrun : (s1.core c).RunKept k) (hengs : k.engs = (s1.core c).engs)
    (ho : ∀ y, y ≠ c → t.core y = s1.core y) : s.Started s1 t c e j :=
  State.restarted h hc hrun (l := ((s1.core c).eng e).jobs) (Core.eng_of_engs hengs e) (fun f _ => Core.eng_of_engs hengs f) ho

theorem State.takeDesc_stepNo : s1.stepNo (s1.corePart c) = s.stepNo (s.corePart c) := by
  obtain ⟨-, -, -, -, honly, -⟩ := State.takeDesc_spec h
  rw [honly.state]
  rfl

end

/-! ### A transfer starts -/

section
variable {s s1 : State} {c kind : Nat} {d : Desc}

/-- What the command of the descriptor's kind does with the head of the queue (R132, R133). -/
theorem State.dmaStart_taken (hj : ((s.core c).eng 4).jobs = []) (h : s.takeDesc c 4 = some (d, s1)) (hk : (dmaDesc d.bytes).kind = kind)
    {code det : Nat} (hcheck : s1.dmaCheck c d.bytes = (code, det)) :
    s.dmaStart c kind =
      let j := { Job.fresh d (s.stepNo (s.corePart c)) 0 with stage := 1 }
      let u := if code = 7 then s1.modCore c fun k => k.muStat 6 else s1
      if code ≠ 0 then u.modCore c fun k => k.setJob 4 (j.failed code det)
      else if kind < 2 then u.dmaMove c j (dmaDesc d.bytes)
      else (u.modCore c fun k => k.setJob 4 j).dmaGo c := by
  obtain ⟨-, -, -, ⟨rest, hq, -⟩, -⟩ := State.takeDesc_spec h
  unfold State.dmaStart
  dsimp only
  rw [hq, hj]
  dsimp only
  refine (if_neg (by simp [hk])).trans ?_
  rw [h]
  dsimp only
  rw [hcheck, State.takeDesc_stepNo h]

end

/-! ### Copies inside the device -/

section
variable {s : State} {c t o : Nat} {j : Job} {x : DmaDesc} (hown : s.isOwn (x.dest / 65536) = true) (he : (s.core c).spadErr = [])
include hown he

/-- Memory to scratchpad. -/
theorem State.dmaMove_read (hk : x.kind = 0) (P : s.Plain (s.corePart c) x.mem x.len t o) :
    ∃ u, s.Accessed u ∧ s.dmaMove c j x =
      (u.modCore c fun k => { k with spad := Map.setN byte0 k.spad x.spad (s.mem.getN byte0 (memIdx t o) x.len) }).modCore c fun k =>
        k.setJob 4 { j with stage := 3 } := by
  obtain ⟨u, hu, hr⟩ := State.Plain.fetch (d := coreDie c) (State.corePart_lt s c) P .ordinary 3 (some (s.taker c))
  refine ⟨u, hu, ?_⟩
  unfold State.dmaMove
  dsimp only
  rw [if_pos hk, hown]
  refine (if_neg (by decide)).trans ?_
  rw [hr]
  dsimp only
  rw [State.spadWrite_noErr (by rw [hu.core]; exact he)]

/-- Scratchpad to memory. -/
theorem State.dmaMove_write (hk : x.kind = 1) (P : s.Plain (s.corePart c) x.mem x.len t o) :
    ∃ u, s.Accessed u ∧ s.dmaMove c j x =
      { u with mem := Map.setN byte0 s.mem (memIdx t o) ((s.core c).spad.getN byte0 x.spad x.len) }.modCore c fun k =>
        k.setJob 4 { j with stage := 3 } := by
  have hlen := length_getN byte0 (s.core c).spad x.spad x.len
  obtain ⟨u, hu, hw⟩ := State.Plain.store (s := s) (d := coreDie c) (p := s.corePart c) (a := x.mem) (t := t) (o := o) (State.corePart_lt s c)
    (b := (s.core c).spad.getN byte0 x.spad x.len) (by rw [hlen]; exact P) .ordinary 3 true
  rw [hlen] at hw
  refine ⟨u, hu, ?_⟩
  unfold State.dmaMove
  dsimp only
  rw [if_neg (by rw [hk]; decide), State.spadRead_noErr he, hown]
  dsimp only
  refine (if_neg (by decide)).trans ?_
  rw [hw]

end

/-! ### A transfer to a core of one message -/

section
variable {s : State} {c i : Nat} {e : TxEntry} {j : Job} {rest : List Job}

/-- A transfer that has sent all its bytes sends no more. -/
theorem State.dmaPush_done (hj : ((s.core c).eng 4).jobs = j :: rest) (h : (dmaDesc j.desc.bytes).len ≤ j.sent) (fuel : Nat) : s.dmaPush c fuel = s := by
  cases fuel with
  | zero => rfl
  | succ n =>
    unfold State.dmaPush
    rw [hj]
    exact if_pos (.inr (.inr h))

/-- The units a message of a transfer takes, and the write position after it (R125, R126). -/
def dmaUnits (x : DmaDesc) (e : TxEntry) : Nat × Nat := if x.cls = 2 then (1, e.pos) else e.charge ((x.len + 31) / 32)

/-- The entry once a message is charged to it. -/
def dmaCharged (x : DmaDesc) (e : TxEntry) : TxEntry :=
  { e with cred := e.cred - (dmaUnits x e).1, recs := if x.cls = 1 then e.recs - 1 else e.recs, pos := (dmaUnits x e).2, seq := (e.seq + 1) % 65536 }

/-- The bytes a message of kind 2 or 3 carries are at hand, and `u` is the state once they are read. -/
def State.DmaData (s u : State) (c : Nat) (x : DmaDesc) (data : List Byte) : Prop :=
  (x.kind = 2 ∧ u = s ∧ s.spadRead c x.spad x.len 0xF1 2 = (s, data, none)) ∨
    (x.kind = 3 ∧ (s.memRoute (coreDie c) (s.corePart c) x.mem x.len).memRd (s.corePart c) x.mem x.len .ordinary 3 none = (u, .ok data))

section
variable {x : DmaDesc} (hx : dmaDesc j.desc.bytes = x)
include hx

/-- The message has gone: nothing is left to send. -/
theorem State.dmaPush_sent {u : State} {m : Msg} {y : TxEntry} (fuel : Nat) :
    ((u.modCore c fun k => (k.setTx i (some y)).setJob 4 { j with sent := x.len, msgs := j.msgs + 1 }).send (.msg m)).dmaPush c fuel =
      (u.modCore c fun k => (k.setTx i (some y)).setJob 4 { j with sent := x.len, msgs := j.msgs + 1 }).send (.msg m) := by
  refine State.dmaPush_done (j := { j with sent := x.len, msgs := j.msgs + 1 }) (rest := []) ?_ (by rw [← hx]) fuel
  rw [State.core_send, State.core_modCore_same]
  exact congrArg Eng.jobs (Core.eng_setEng_same ..)

/-- A transfer that one message holds sends it against credit (R126, R132). -/
theorem State.dmaGo_one {u : State} {src : Nat} {data : List Byte} (hj : ((s.core c).eng 4).jobs = [j]) (hf : j.fault = 0) (hs : j.sent = 0)
    (hk : 2 ≤ x.kind) (hl : 0 < x.len) (hc : x.cls = 1 ∧ 0 < e.recs ∧ x.len ≤ 8192 ∨ x.cls = 2)
    (htx : s.txFind c x.dest x.ch (x.cls == 2) = some (i, e)) (hsrc : s.sourceAddr c = some src) (hcred : (dmaUnits x e).1 ≤ e.cred)
    (hd : s.DmaData u c x data) :
    s.dmaGo c = (u.modCore c fun k => (k.setTx i (some (dmaCharged x e))).setJob 4 { j with sent := x.len, msgs := j.msgs + 1 }).send
      (.msg { part := u.corePart c, src := src, dst := x.dest, cls := x.cls, ch := x.ch, seq := e.seq, ticket := j.desc.ticket, origin := 1,
              orig := c, payload := data }) := by
  have hn : (if x.cls = 2 then x.len else min 8192 (x.len - j.sent)) = x.len := by
    split <;> omega
  have hgo : ¬ (e.cred < (dmaUnits x e).1 ∨ (x.cls = 1 ∧ e.recs = 0)) := by omega
  unfold State.dmaGo dmaFuel
  rw [State.dmaPush, hj]
  dsimp only
  rw [hx, hn, htx, hsrc, hs, if_neg (by omega)]
  dsimp only
  simp only [Nat.add_zero, Nat.zero_add]
  refine (if_neg hgo).trans ?_
  rcases hd with ⟨h2, rfl, hread⟩ | ⟨h3, hread⟩
  · rw [if_pos h2, hread]
    exact State.dmaPush_sent hx _
  · rw [if_neg (by omega), hread]
    exact State.dmaPush_sent hx _

end

end

theorem getD_getN {α : Type} (d : Nat → α) (m : Map α) (a : Nat) {n i : Nat} (h : i < n) (x : α) : (m.getN d a n).getD i x = m.get d (a + i) := by
  simp [Map.getN, h]

/-- Data that has landed in the scratchpad, with the job set. -/
theorem State.landed {s u : State} (hu : s.Accessed u) (c e a : Nat) (b : List Byte) (j : Job) :
    ((u.modCore c fun k => { k with spad := Map.setN byte0 k.spad a b }).modCore c fun k => k.setJob e j).core c =
      { s.core c with spad := Map.setN byte0 (s.core c).spad a b }.setJob e j ∧
    ∀ y, y ≠ c → ((u.modCore c fun k => { k with spad := Map.setN byte0 k.spad a b }).modCore c fun k => k.setJob e j).core y = s.core y := by
  refine ⟨by rw [State.core_modCore_same, State.core_modCore_same, hu.core], fun y hy => ?_⟩
  rw [State.core_modCore_ne _ _ hy, State.core_modCore_ne _ _ hy, hu.core]

section
variable (s : State) (c e : Nat) (j : Job)

theorem State.txFind_setJob (a b : Nat) (r : Bool) : (s.modCore c fun k => k.setJob e j).txFind c a b r = s.txFind c a b r := by
  unfold State.txFind
  simp only [State.core_modCore_same]
  rfl

theorem State.sourceAddr_setJob : (s.modCore c fun k => k.setJob e j).sourceAddr c = s.sourceAddr c := by
  unfold State.sourceAddr
  rw [State.core_modCore_same]
  rfl

end

/-- A descriptor that fails its check holds the fault (R133). -/
theorem State.dmaStart_failed {s s1 : State} {c kind code det : Nat} {d : Desc} (hj : ((s.core c).eng 4).jobs = [])
    (h : s.takeDesc c 4 = some (d, s1)) (hk : (dmaDesc d.bytes).kind = kind) (hcheck : s1.dmaCheck c d.bytes = (code, det)) (hcode : code ≠ 0) :
    s.Started s1 (s.dmaStart c kind) c 4 ({ Job.fresh d (s.stepNo (s.corePart c)) 0 with stage := 1 }.failed code det) ∧
      ((s.dmaStart c kind).core c).spad = (s.core c).spad ∧ (s.dmaStart c kind).mem = s.mem ∧ (s.dmaStart c kind).net = s.net := by
  obtain ⟨-, -, -, -, honly, -, hcore, -⟩ := State.takeDesc_spec h
  rw [State.dmaStart_taken hj h hk hcheck]
  dsimp only
  rw [if_pos hcode]
  obtain ⟨hcsr, ho, hm, hn⟩ : (s1.core c).CsrOnly ((if code = 7 then s1.modCore c fun k => k.muStat 6 else s1).core c) statCsr ∧
      (∀ y, y ≠ c → (if code = 7 then s1.modCore c fun k => k.muStat 6 else s1).core y = s1.core y) ∧
      (if code = 7 then s1.modCore c fun k => k.muStat 6 else s1).mem = s1.mem ∧
      (if code = 7 then s1.modCore c fun k => k.muStat 6 else s1).net = s1.net := by
    split
    · exact ⟨by rw [State.core_modCore_same]; exact Core.muStat_csr _ 6, fun y hy => State.core_modCore_ne _ _ hy, rfl, rfl⟩
    · exact ⟨.refl _ _, fun _ _ => rfl, rfl, rfl⟩
  generalize (if code = 7 then s1.modCore c fun k => k.muStat 6 else s1) = u at hcsr ho hm hn
  refine ⟨State.started h (State.core_modCore_same u c _) (hcsr.run (by unfold statCsr; omega)) (by rw [hcsr.core])
    fun y hy => (State.core_modCore_ne _ _ hy).trans (ho y hy), ?_, ?_, ?_⟩
  · rw [State.core_modCore_same]
    show (u.core c).spad = _
    rw [hcsr.core, hcore]
  · exact hm.trans (by rw [honly.state])
  · exact hn.trans (by rw [honly.state])

/-- Settles O26: a transfer is its check, then its copy over plain memory or its one message, then its completion. -/
theorem transfersMoveTheirBytesOrFault : Obligations.TransfersMoveTheirBytesOrFault := by
  refine ⟨?_, ?_⟩
  · intro s s1 c d hj htake hclean k x job fresh
    obtain ⟨-, -, -, -, honly, -, hcore, -⟩ := State.takeDesc_spec htake
    have hjob {t : State} {j : Job} (h : s.Started s1 t c 4 j) : job t j := ⟨h.run, h.others, h.eng, h.engs⟩
    have hpart : s1.corePart c = s.corePart c := by rw [honly.state]; rfl
    have hspad : (s1.core c).spad = k.spad := by rw [hcore]
    have hmem : s1.mem = s.mem := by rw [honly.state]
    have hnet : s1.net = s.net := by rw [honly.state]
    have hclean1 : (s1.core c).spadErr = [] := by rw [hcore]; exact hclean
    refine ⟨?_, ?_⟩
    · -- a descriptor that fails its check
      intro kind i hi hk code det hcheck hcode
      have hex : exec i s = .next (s.dmaStart c kind) := by
        simp only [List.mem_cons, List.not_mem_nil, or_false, Prod.mk.injEq] at hi
        rcases hi with ⟨rfl, rfl⟩ | ⟨rfl, rfl⟩ | ⟨rfl, rfl⟩ | ⟨rfl, rfl⟩ <;> rfl
      obtain ⟨hs, hrest⟩ := State.dmaStart_failed hj htake hk hcheck hcode
      exact ⟨_, hex, hjob hs, hrest⟩
    · intro hcheck
      have hstart (kind : Nat) (hk : x.kind = kind) : s.dmaStart c kind =
          if kind < 2 then s1.dmaMove c fresh x else (s1.modCore c fun k => k.setJob 4 fresh).dmaGo c := State.dmaStart_taken hj htake hk hcheck
      refine ⟨fun tile o _ hown P => ⟨fun hk => ?_, fun hk => ?_⟩, ?_⟩
      · -- memory to scratchpad
        obtain ⟨u, hu, he⟩ := State.dmaMove_read (j := fresh) hown hclean1 hk (by rw [hpart]; exact P)
        have hex : exec (.memToSpad c) s = .next (s.dmaStart c 0) := rfl
        rw [hstart 0 hk, if_pos (by decide), he] at hex
        obtain ⟨hc, ho⟩ := State.landed hu c 4 x.spad (s1.mem.getN byte0 (memIdx tile o) x.len) { fresh with stage := 3 }
        obtain ⟨hin, hout⟩ := Core.spadByte_setN (k := s1.core c) (congrArg Core.spad hc)
        rw [length_getN] at hin hout
        refine ⟨_, hex, hjob (State.started htake hc ⟨fun _ => rfl, rfl, rfl, rfl, rfl⟩ rfl ho), hu.mem.trans hmem, fun b hb => ?_,
          fun b hb => (hout b hb).trans (congrArg (Map.get byte0 · b) hspad)⟩
        rw [hin b hb, getD_getN _ _ _ hb, hmem]
        unfold State.memByte memIdx
        rw [Nat.add_assoc]
      · -- scratchpad to memory
        obtain ⟨u, hu, he⟩ := State.dmaMove_write (j := fresh) hown hclean1 hk (by rw [hpart]; exact P)
        have hex : exec (.spadToMem c) s = .next (s.dmaStart c 1) := rfl
        rw [hstart 1 hk, if_pos (by decide), he, hspad, hmem] at hex
        have hc := State.core_modCore_same { u with mem := Map.setN byte0 s.mem (memIdx tile o) (k.spad.getN byte0 x.spad x.len) } c
          fun k => k.setJob 4 { fresh with stage := 3 }
        have hget (i : Nat) := get_setN_getD s.mem (memIdx tile o) (k.spad.getN byte0 x.spad x.len) i
        rw [length_getN] at hget
        refine ⟨_, hex, hjob (State.started htake (k := u.core c) hc (by rw [hu.core]; exact .refl _) (by rw [hu.core]) fun y hy => ?_), ?_,
          fun b hb => ?_, fun a ha => ?_⟩
        · exact (State.core_modCore_ne _ _ hy).trans (hu.core y)
        · rw [hc]
          exact (congrArg Core.spad (hu.core c)).trans hspad
        · have hb' : memIdx tile (o + b) = memIdx tile o + b := (Nat.add_assoc ..).symm
          refine (hget (memIdx tile (o + b))).trans ?_
          rw [hb', if_pos ⟨Nat.le_add_right .., Nat.add_lt_add_left hb _⟩, Nat.add_sub_cancel_left, getD_getN _ _ _ hb]
          rfl
        · exact (hget a).trans (if_neg fun h => ha.elim (fun hl => absurd h.1 (Nat.not_le.2 hl)) fun hl => absurd h.2 (Nat.not_lt.2 hl))
      · -- a transfer of one message to a core
        intro i e src hk2 hcls hlen htx hsrc u sent hcred
        have hgo {v : State} {data : List Byte} (hd : (s1.modCore c fun k => k.setJob 4 fresh).DmaData v c x data) :=
          State.dmaGo_one (s := s1.modCore c fun k => k.setJob 4 fresh) (c := c) (j := fresh) (x := x) rfl
            (by rw [State.core_modCore_same]; exact congrArg Eng.jobs (Core.eng_setEng_same ..)) rfl rfl hk2 hlen
            (hcls.imp_left fun h => ⟨h.1, h.2.1, h.2.2⟩) ((State.txFind_setJob ..).trans htx) ((State.sourceAddr_setJob ..).trans hsrc) hcred hd
        have hsent {v : State} (hv : (s1.modCore c fun k => k.setJob 4 fresh).Accessed v) (data : List Byte) :
            sent ((v.modCore c fun k => (k.setTx i (some (dmaCharged x e))).setJob 4 { fresh with sent := x.len, msgs := 1 }).send
              (.msg { part := v.corePart c, src := src, dst := x.dest, cls := x.cls, ch := x.ch, seq := e.seq, ticket := d.ticket, origin := 1,
                      orig := c, payload := data })) data := by
          have hcv : v.core c = (s1.core c).setJob 4 fresh := by rw [hv.core, State.core_modCore_same]
          have hc := State.core_modCore_same v c fun k => (k.setTx i (some (dmaCharged x e))).setJob 4 { fresh with sent := x.len, msgs := 1 }
          have hpv : v.corePart c = s.corePart c := (hv.corePart c).trans hpart
          refine ⟨hjob (State.restarted htake (l := [fresh]) hc ?_ ?_ (fun f hf => ?_) fun y hy => ?_), ?_, hv.mem.trans hmem, ?_, ?_⟩
          · rw [hcv]
            exact ⟨fun _ => rfl, rfl, rfl, rfl, rfl⟩
          · rw [hcv]
            exact Core.eng_setEng_same ..
          · rw [hcv]
            exact (Core.eng_setJob ..).trans (if_neg hf)
          · rw [State.core_send, State.core_modCore_ne _ _ hy, hv.core, State.core_modCore_ne _ _ hy]
          · rw [State.core_send, hc, hcv]
            exact hspad
          · rw [hpv]
            exact congrArg (· ++ _) (hv.net.trans hnet)
          · rw [State.core_send, hc]
            exact Map.get_set_same none0 (v.core c).tx i (some (dmaCharged x e))
        refine ⟨fun hk => ?_, fun tile o hk P => ?_⟩
        · have hex : exec (.spadToCore c) s = .next (s.dmaStart c 2) := rfl
          have hread := State.spadRead_noErr (s := s1.modCore c fun k => k.setJob 4 fresh) (c := c) (by rw [State.core_modCore_same]; exact hclean1)
            x.spad x.len 0xF1 2
          rw [hstart 2 hk, if_neg (by decide), hgo (.inl ⟨hk, rfl, hread⟩)] at hex
          refine ⟨_, hex, ?_⟩
          rw [State.core_modCore_same, show ((s1.core c).setJob 4 fresh).spad = k.spad from hspad]
          exact hsent (.refl _) _
        · have hex : exec (.memToCore c) s = .next (s.dmaStart c 3) := rfl
          obtain ⟨v, hv, hread⟩ := State.Plain.fetch (s := s1.modCore c fun k => k.setJob 4 fresh) (d := coreDie c) (p := s.corePart c)
            (State.corePart_lt s c) (P.modCore c _) .ordinary 3 none
          rw [hstart 3 hk, if_neg (by decide), hgo (.inr ⟨hk, by rw [show (s1.modCore c fun k => k.setJob 4 fresh).corePart c = s.corePart c from hpart]; exact hread⟩)] at hex
          refine ⟨_, hex, ?_⟩
          rw [show (s1.modCore c fun k => k.setJob 4 fresh).mem = s.mem from hmem]
          exact hsent hv _
  · -- a finished descriptor
    intro s c j rest
    refine ⟨fun hj hfin hmay => ?_, fun hj hfin hmay => ?_⟩
    · refine ⟨s.endDesc c 4 j j.fault j.detail, ?_, State.endDesc_spec (by decide) hmay⟩
      show execDmaComplete c s = _
      unfold execDmaComplete
      rw [hj]
      exact congrArg Host.Outcome.next (if_pos hfin)
    · refine ⟨s.endDesc c 3 j j.fault j.detail, ?_, State.endDesc_spec (by decide) hmay⟩
      show execRetrieverComplete c s = _
      unfold execRetrieverComplete
      rw [hj]
      exact congrArg Host.Outcome.next (if_pos hfin)

end Sys2Proof.Machine
end

section
/-!
SUPPORT. A run of the Retriever in a scratchpad without errors (spec/03 R108, R143-R147): its reads give the bytes there, its writes change the
bytes they name, and nothing else of the state changes but CC_FFLAGS.
-/

namespace Sys2Proof.Machine

/-! ### Bytes and words of a core's scratchpad -/

section
variable {k k' : Core} {a n : Nat}

theorem Core.spadWord_congr (h : ∀ i, i < 4 → k'.spadByte (a + i) = k.spadByte (a + i)) : k'.spadWord a = k.spadWord a := by
  unfold Core.spadWord
  rw [h 3 (by decide), h 2 (by decide), h 1 (by decide), show k'.spadByte a = k.spadByte a from h 0 (by decide)]

end

/-! ### Writing line by line (R108) -/

/-- The bytes of `d` stand at `a` of a scratchpad that held `old`. -/
def putBytes (a : Nat) (d : List Byte) (old : Nat → Byte) (b : Nat) : Byte := if a ≤ b ∧ b < a + d.length then d.getD (b - a) 0 else old b

section
variable {a b : Nat} {d : List Byte} {old : Nat → Byte}

theorem putBytes_in {i : Nat} (h : i < d.length) : putBytes a d old (a + i) = d.getD i 0 := by
  unfold putBytes
  rw [if_pos (by omega), Nat.add_sub_cancel_left]

theorem putBytes_out (h : b < a ∨ a + d.length ≤ b) : putBytes a d old b = old b := if_neg (by omega)

/-- A first part and what follows it. -/
theorem putBytes_append (n : Nat) : putBytes (a + n) (d.drop n) (putBytes a (d.take n) old) b = putBytes a d old b := by
  unfold putBytes
  rw [List.length_drop, List.length_take]
  by_cases h : a ≤ b ∧ b < a + d.length
  · rw [if_pos h]
    by_cases hn : a + n ≤ b
    · rw [if_pos (by omega), getD_drop, show n + (b - (a + n)) = b - a by omega]
    · rw [if_neg (by omega), if_pos (by omega), getD_take (by omega)]
  · rw [if_neg h, if_neg (by omega), if_neg (by omega)]

end

/-- `t` is `s` but for the bytes `d` at `a` of core c's scratchpad. -/
structure State.SpadPut (s t : State) (c a : Nat) (d : List Byte) : Prop where
  only : s.OnlyCore t c
  core : t.core c = { s.core c with spad := (t.core c).spad }
  byte : ∀ b, (t.core c).spadByte b = putBytes a d (s.core c).spadByte b

theorem State.SpadPut.setN (s : State) (c a : Nat) (d : List Byte) :
    s.SpadPut (s.modCore c fun k => { k with spad := Map.setN byte0 k.spad a d }) c a d := by
  refine ⟨State.onlyCore_modCore s c _, ?_, fun b => ?_⟩ <;> rw [State.core_modCore_same]
  exact get_setN_getD (s.core c).spad a d b

theorem State.engWriteAux_put {c : Nat} (fuel : Nat) : ∀ {s : State} {a : Nat} {d : List Byte}, (s.core c).spadErr = [] → d.length + a % 32 ≤ 32 * fuel →
    ∃ t, s.engWriteAux c fuel a d = (t, none) ∧ s.SpadPut t c a d := by
  have none' (s : State) (a : Nat) {d : List Byte} (hd : d.length = 0) : s.SpadPut s c a d :=
    ⟨⟨rfl, fun _ _ => rfl⟩, rfl, fun b => (putBytes_out (by omega)).symm⟩
  induction fuel with
  | zero => exact fun {s a d} _ hl => ⟨s, rfl, none' s a (by omega)⟩
  | succ fuel ih =>
    intro s a d he hl
    unfold State.engWriteAux
    split
    · rename_i hd
      exact ⟨s, rfl, none' s a (by rw [List.isEmpty_iff.1 hd]; rfl)⟩
    · dsimp only
      rw [State.spadWrite_noErr he]
      dsimp only
      have h1 := State.SpadPut.setN s c a (d.take (32 - a % 32))
      generalize (s.modCore c fun k => { k with spad := Map.setN byte0 k.spad a (d.take (32 - a % 32)) }) = u at h1
      obtain ⟨t, ht, h2⟩ := ih (s := u) (a := a + (32 - a % 32)) (d := d.drop (32 - a % 32)) (by rw [h1.core]; exact he)
        (by rw [List.length_drop]; omega)
      refine ⟨t, ht, h1.only.trans h2.only, by rw [h2.core, h1.core], fun b => (h2.byte b).trans ?_⟩
      rw [funext h1.byte]
      exact putBytes_append _

/-- A write of an engine puts its bytes where no word fails (R108, R110). -/
theorem State.engWrite_put {s : State} {c : Nat} (he : (s.core c).spadErr = []) (a : Nat) (d : List Byte) :
    ∃ t, s.engWrite c a d = (t, none) ∧ s.SpadPut t c a d :=
  State.engWriteAux_put _ he (by omega)

/-! ### A run that has met no fault -/

/-- `x` is a run of job `j` that began in `s` and has met no fault: of `s` only the scratchpad and CC_FFLAGS of core c have changed. -/
structure RvRun.Clean (s : State) (c : Nat) (j : Job) (x : RvRun) : Prop where
  job : x.j = j
  only : s.OnlyCore x.s c
  core : x.s.core c = { s.core c with csr := (x.s.core c).csr, spad := (x.s.core c).spad }
  csrs : ∀ n, n ≠ 0x801 → (x.s.core c).get n = (s.core c).get n

/-- The scratchpad of a run. -/
def RvRun.byte (x : RvRun) (c b : Nat) : Byte := (x.s.core c).spadByte b

section
variable {s : State} {c : Nat} {j : Job} {x : RvRun} (hj : j.fault = 0) (he : (s.core c).spadErr = []) (h : x.Clean s c j)

theorem RvRun.Clean.start (s : State) (c : Nat) (j : Job) : RvRun.Clean s c j ⟨s, j⟩ := ⟨rfl, ⟨rfl, fun _ _ => rfl⟩, rfl, fun _ _ => rfl⟩

include hj h in
theorem RvRun.Clean.bad : x.bad = false := by
  unfold RvRun.bad
  rw [h.job, hj]
  rfl

include h in
theorem RvRun.Clean.spadErr : (x.s.core c).spadErr = (s.core c).spadErr := by rw [h.core]

include hj he h

theorem RvRun.Clean.rd {a n : Nat} (ha : a + n ≤ spadSize) : x.rd c a n = (x, (x.s.core c).spad.getN byte0 a n) := by
  unfold RvRun.rd
  rw [h.bad hj, inSpad_of_le ha, State.spadRead_noErr (h.spadErr.trans he)]
  rfl

theorem RvRun.Clean.rdW {a : Nat} (ha : a + 4 ≤ spadSize) : x.rdW c a = (x, ((x.s.core c).spadWord a).toNat) := by
  unfold RvRun.rdW
  rw [h.rd hj he ha]
  dsimp only
  rw [leNat_getN4]

theorem RvRun.Clean.wr {a : Nat} {d : List Byte} (ha : a + d.length ≤ spadSize) :
    RvRun.Clean s c j (x.wr c a d) ∧ ∀ b, (x.wr c a d).byte c b = putBytes a d (x.byte c) b := by
  obtain ⟨t, ht, hp⟩ := State.engWrite_put (h.spadErr.trans he) a d
  have e : x.wr c a d = { x with s := t } := by
    unfold RvRun.wr
    rw [h.bad hj, inSpad_of_le ha, ht]
    rfl
  rw [e]
  refine ⟨⟨h.job, h.only.trans hp.only, by rw [hp.core, h.core], fun n hn => ?_⟩, hp.byte⟩
  rw [← h.csrs n hn, hp.core]
  rfl

omit he in
theorem RvRun.Clean.arith (i : Nat) {f : FFlags} (hf : f &&& flNP = 0) : RvRun.Clean s c j (x.arith c i f) ∧ ∀ b, (x.arith c i f).byte c b = x.byte c b := by
  have e : x.arith c i f = { x with s := x.s.modCore c fun k => k.orCsr 0x801 f.toNat } := by
    unfold RvRun.arith
    rw [h.bad hj, hf]
    rfl
  rw [e]
  refine ⟨⟨h.job, h.only.trans (State.onlyCore_modCore x.s c fun k => k.orCsr 0x801 f.toNat), ?_, fun n hn => ?_⟩, fun b => ?_⟩
  · rw [State.core_modCore_same]
    rw [h.core]
    rfl
  · rw [State.core_modCore_same]
    exact (Core.get_put_ne _ _ hn).trans (h.csrs n hn)
  · unfold RvRun.byte
    rw [State.core_modCore_same]
    rfl

end

end Sys2Proof.Machine
end

section
/-!
SUPPORT. How the Retriever's run begins and ends, and its indexed operations in the core's own scratchpad (spec/03 R143-R147).
-/

namespace Sys2Proof.Machine

/-! ### A descriptor starts -/

section
variable {s s1 : State} {c op : Nat} {d : Desc} {x y : RvRun}
  (hj : ((s.core c).eng 3).jobs = []) (h : s.takeDesc c 3 = some (d, s1)) (hop : (rvDesc d.bytes).op = op)

/-- The job of a descriptor the Retriever has just taken. -/
def State.rvJob (s : State) (c : Nat) (d : Desc) : Job := { Job.fresh d (s.stepNo (s.corePart c)) 0 with stage := 1 }

include hj h hop

theorem State.rvStart_taken : s.rvStart c op =
    if rvCheck d.bytes ≠ 0 then s1.modCore c fun k => k.setJob 3 ((s.rvJob c d).failed (rvCheck d.bytes) 0)
    else
      let x := (RvRun.go ⟨s1, s.rvJob c d⟩ c (rvDesc d.bytes)).defer
      let x := if x.j.todo.isEmpty then x.close c (rvDesc d.bytes) else x
      if x.bad || x.j.todo.isEmpty then x.s.modCore c fun k => k.setJob 3 { x.j with stage := 3, todo := [] }
      else (x.s.modCore c fun k => k.setJob 3 x.j).issueReqs c 3 (max 1 ((x.s.core c).cf 0x300 0 7)) := by
  obtain ⟨-, -, -, ⟨rest, hq, -⟩, -⟩ := State.takeDesc_spec h
  unfold State.rvStart
  dsimp only
  rw [hq, hj]
  dsimp only
  refine (if_neg (by simp [hop])).trans ?_
  rw [h]
  dsimp only
  rw [State.takeDesc_stepNo h]
  rfl

/-- A run that asked for nothing ends at once. -/
theorem State.rvStart_ended (hcheck : rvCheck d.bytes = 0) (hspace : (rvDesc d.bytes).space = 0)
    (hgo : RvRun.go ⟨s1, s.rvJob c d⟩ c (rvDesc d.bytes) = y) (htodo : y.j.todo = []) (hend : y.j.ending = none) :
    s.rvStart c op = y.s.modCore c fun k => k.setJob 3 { y.j with stage := 3, todo := [] } := by
  have hdefer : y.defer = y := if_neg (by rw [htodo]; simp)
  have hclose : y.close c (rvDesc d.bytes) = y := by
    unfold RvRun.close
    rw [if_neg (by omega)]
    dsimp only
    rw [hend]
  rw [State.rvStart_taken hj h hop, if_neg (not_not.2 hcheck), hgo]
  dsimp only
  have hsame : (if y.j.todo.isEmpty then y.close c (rvDesc d.bytes) else y) = y := by rw [hclose, ite_self]
  rw [hdefer, hsame]
  exact if_pos (by rw [htodo]; exact Bool.or_true _)

omit hj hop in
/-- What a run without faults leaves, whatever job it ends with. -/
theorem State.rv_left (hx : x.Clean s1 c (s.rvJob c d)) (j : Job) :
    s.Started s1 (x.s.modCore c fun k => k.setJob 3 j) c 3 j ∧ (x.s.modCore c fun k => k.setJob 3 j).mem = s.mem ∧
      (x.s.modCore c fun k => k.setJob 3 j).net = s.net ∧ ∀ b, ((x.s.modCore c fun k => k.setJob 3 j).core c).spadByte b = x.byte c b := by
  obtain ⟨-, -, -, -, honly, -⟩ := State.takeDesc_spec h
  have hrun : (s1.core c).RunKept (x.s.core c) := by
    refine ⟨fun r => by rw [hx.core]; rfl, by rw [hx.core], by rw [hx.core], by rw [hx.core], ?_⟩
    unfold Core.rs Core.cf
    rw [hx.csrs 1 (by decide)]
  refine ⟨State.started h (State.core_modCore_same x.s c _) hrun (by rw [hx.core]) fun y hy => ?_, ?_, ?_, fun b => ?_⟩
  · rw [State.core_modCore_ne _ _ hy, hx.only.others y hy]
  · show x.s.mem = _
    rw [hx.only.state, honly.state]
  · show x.s.net = _
    rw [hx.only.state, honly.state]
  · rw [State.core_modCore_same]
    rfl

/-- A run without faults is finished. -/
theorem State.rvStart_done (hcheck : rvCheck d.bytes = 0) (hspace : (rvDesc d.bytes).space = 0)
    (hgo : RvRun.go ⟨s1, s.rvJob c d⟩ c (rvDesc d.bytes) = y) (hy : y.Clean s1 c (s.rvJob c d)) :
    s.Started s1 (s.rvStart c op) c 3 { s.rvJob c d with stage := 3 } ∧ (s.rvStart c op).mem = s.mem ∧ (s.rvStart c op).net = s.net ∧
      ∀ b, ((s.rvStart c op).core c).spadByte b = y.byte c b := by
  rw [State.rvStart_ended hj h hop hcheck hspace hgo (by rw [hy.job]; rfl) (by rw [hy.job]; rfl), hy.job]
  exact State.rv_left h hy { s.rvJob c d with stage := 3, todo := [] }

end

/-! ### The first element alone -/

section
variable {c : Nat} {d : RvDesc} {x : RvRun}

theorem min_one_spad : min 1 (spadSize + 1) = 1 := by decide

theorem RvRun.go_one (hc : d.count = 1) (hop : d.op < 3) : x.go c d = x.index c d 0 := by
  unfold RvRun.go
  rw [if_pos hop, hc, min_one_spad]
  rfl

theorem RvRun.go_segment (hc : d.count = 1) (hop : d.op = 3) : x.go c d = x.segment c d 0 := by
  unfold RvRun.go
  rw [if_neg (by omega), if_pos hop, hc, min_one_spad]
  rfl

theorem RvRun.go_hash (hc : d.count = 1) (h4 : 4 ≤ d.op) (h6 : d.op < 6) :
    x.go c d = (x.hash c d 0 0).1.wr c d.stride (leBytes 4 (x.hash c d 0 0).2) := by
  unfold RvRun.go
  rw [if_neg (by omega), if_neg (by omega), if_pos h6, hc, min_one_spad]
  rfl

theorem RvRun.go_sets (h6 : 6 ≤ d.op) : x.go c d = (x.sets c d).1.wr c d.stride (leBytes 4 (x.sets c d).2) := by
  unfold RvRun.go
  rw [if_neg (by omega), if_neg (by omega), if_neg (by omega)]

end

/-! ### GATHER, SCATTER and SCATTER_ADD of one index (R144, R145) -/

section
variable {s : State} {c i : Nat} {j : Job} {x : RvRun} {d : RvDesc} (hj : j.fault = 0) (he : (s.core c).spadErr = []) (h : x.Clean s c j)
  (hspace : d.space = 0) (hidx : d.idx + 4 * i + 4 ≤ spadSize) (hdata : d.data + i * d.e + d.e ≤ spadSize)
  (hin : d.aux = 0 ∨ ((x.s.core c).spadWord (d.idx + 4 * i)).toNat < d.aux)
  (hrow : d.row ((x.s.core c).spadWord (d.idx + 4 * i)).toNat + d.e ≤ spadSize)
include hj he h hspace hidx hdata hin hrow

omit hdata in
/-- A row goes to its place in the data area. -/
theorem RvRun.Clean.gather (hop : d.op = 0) : x.index c d i =
    x.wr c (d.data + i * d.e) ((x.s.core c).spad.getN byte0 (d.row ((x.s.core c).spadWord (d.idx + 4 * i)).toNat) d.e) := by
  unfold RvRun.index
  rw [h.bad hj, h.rdW hj he hidx]
  dsimp only
  rw [h.bad hj, if_neg (by omega : ¬ (d.aux ≠ 0 ∧ d.aux ≤ _)), if_pos hop, hspace, h.rd hj he hrow]
  rfl

omit hrow in
/-- Data goes to its row. -/
theorem RvRun.Clean.scatter (hop : d.op = 1) : x.index c d i =
    x.wr c (d.row ((x.s.core c).spadWord (d.idx + 4 * i)).toNat) ((x.s.core c).spad.getN byte0 (d.data + i * d.e) d.e) := by
  unfold RvRun.index
  rw [h.bad hj, h.rdW hj he hidx]
  dsimp only
  rw [h.bad hj, if_neg (by omega : ¬ (d.aux ≠ 0 ∧ d.aux ≤ _)), hspace, h.rd hj he hdata, hop]
  rfl

/-- Data is added to its row. -/
theorem RvRun.Clean.scatterAdd (hop : d.op = 2) : x.index c d i =
    (fun r : List Byte × FFlags => (x.arith c i r.2).wr c (d.row ((x.s.core c).spadWord (d.idx + 4 * i)).toNat) r.1)
      (lanesOp d.dtype 0 ((x.s.core c).spad.getN byte0 (d.row ((x.s.core c).spadWord (d.idx + 4 * i)).toNat) d.e)
        ((x.s.core c).spad.getN byte0 (d.data + i * d.e) d.e)) := by
  unfold RvRun.index
  rw [h.bad hj, h.rdW hj he hidx]
  dsimp only
  rw [h.bad hj, if_neg (by omega : ¬ (d.aux ≠ 0 ∧ d.aux ≤ _)), hspace, h.rd hj he hdata, hop]
  dsimp only
  rw [h.rd hj he hrow]
  rfl

end

end Sys2Proof.Machine
end

section
/-!
SUPPORT. GATHER of a list of indices, and SEG_REDUCE of one segment (spec/03 R144, R147).
-/

namespace Sys2Proof.Machine

/-! ### GATHER (R144) -/

section
variable {s : State} {c : Nat} {j : Job} {x : RvRun} {d : RvDesc} (hj : j.fault = 0) (he : (s.core c).spadErr = []) (h : x.Clean s c j)

/-- Word i of the index list. -/
def RvRun.indexWord (x : RvRun) (c : Nat) (d : RvDesc) (i : Nat) : Nat := ((x.s.core c).spadWord (d.idx + 4 * i)).toNat

include hj he h

/-- The first n indices of a GATHER: their rows stand in the data area, and nothing else has changed. -/
theorem RvRun.Clean.gatherAll (hspace : d.space = 0) (hop : d.op = 0) (hidx : d.idx + 4 * d.count ≤ spadSize)
    (hdata : d.data + d.count * d.e ≤ spadSize) (hap : d.idx + 4 * d.count ≤ d.data ∨ d.data + d.count * d.e ≤ d.idx)
    (hrow : ∀ i, i < d.count → (d.aux = 0 ∨ x.indexWord c d i < d.aux) ∧ d.row (x.indexWord c d i) + d.e ≤ spadSize ∧
      (d.row (x.indexWord c d i) + d.e ≤ d.data ∨ d.data + d.count * d.e ≤ d.row (x.indexWord c d i))) (n : Nat) (hn : n ≤ d.count) :
    ((List.range n).foldl (fun x i => x.index c d i) x).Clean s c j ∧
      (∀ b, b < d.data ∨ d.data + n * d.e ≤ b → ((List.range n).foldl (fun x i => x.index c d i) x).byte c b = x.byte c b) ∧
      ∀ i b, i < n → b < d.e →
        ((List.range n).foldl (fun x i => x.index c d i) x).byte c (d.data + i * d.e + b) = x.byte c (d.row (x.indexWord c d i) + b) := by
  induction n with
  | zero => exact ⟨h, fun _ _ => rfl, fun i _ hi => absurd hi (Nat.not_lt_zero i)⟩
  | succ n ih =>
    obtain ⟨hy, hkept, hput⟩ := ih (by omega)
    rw [List.range_succ, List.foldl_append, List.foldl_cons, List.foldl_nil]
    generalize (List.range n).foldl (fun x i => x.index c d i) x = y at hy hkept hput
    have hend : n * d.e + d.e ≤ d.count * d.e := by rw [← Nat.succ_mul]; exact Nat.mul_le_mul_right _ hn
    obtain ⟨hin, hfit, hfar⟩ := hrow n (by omega)
    have hw : ((y.s.core c).spadWord (d.idx + 4 * n)).toNat = x.indexWord c d n :=
      congrArg BitVec.toNat (Core.spadWord_congr fun i hi => hkept _ (by omega))
    rw [hy.gather hj he hspace (by omega) (by rw [hw]; exact hin) (by rw [hw]; exact hfit) hop, hw]
    have hlen := length_getN byte0 (y.s.core c).spad (d.row (x.indexWord c d n)) d.e
    obtain ⟨hz, hbyte⟩ := hy.wr hj he (a := d.data + n * d.e) (d := (y.s.core c).spad.getN byte0 (d.row (x.indexWord c d n)) d.e)
      (by rw [hlen]; omega)
    refine ⟨hz, fun b hb => ?_, fun i b hi hb => ?_⟩ <;> rw [hbyte]
    · rw [Nat.succ_mul] at hb
      rw [putBytes_out (by rw [hlen]; omega), hkept b (by omega)]
    · rcases Nat.lt_succ_iff_lt_or_eq.1 hi with hi | rfl
      · have hle : i * d.e + d.e ≤ n * d.e := by rw [← Nat.succ_mul]; exact Nat.mul_le_mul_right _ hi
        rw [putBytes_out (by omega), hput i b hi hb]
      · rw [putBytes_in (by rw [hlen]; exact hb), getD_getN _ _ _ hb]
        exact hkept _ (by omega)

/-! ### SEG_REDUCE (R147) -/

variable {i : Nat} (hspace : d.space = 0) (hidx : d.idx + 4 * (i + 1) + 4 ≤ spadSize)
include hidx

/-- A falling offset is a fault. -/
theorem RvRun.Clean.segment_falling (hlt : x.indexWord c d (i + 1) < x.indexWord c d i) : x.segment c d i = x.fail 3 (i + 1) := by
  unfold RvRun.segment
  rw [h.bad hj, h.rdW hj he (by omega)]
  dsimp only
  rw [h.rdW hj he hidx]
  dsimp only
  rw [h.bad hj]
  exact if_pos hlt

include hspace

/-- An empty segment yields the unit of its operation. -/
theorem RvRun.Clean.segment_empty (heq : x.indexWord c d (i + 1) = x.indexWord c d i) : x.segment c d i =
    (x.arith c i 0).wr c (d.data + i * d.e) (laneRow d.dtype d.e (laneUnit d.dtype d.aux)) := by
  unfold RvRun.indexWord at heq
  unfold RvRun.segment
  rw [h.bad hj, h.rdW hj he (by omega)]
  dsimp only
  rw [h.rdW hj he hidx]
  dsimp only
  rw [h.bad hj, heq, Nat.sub_self, Nat.zero_min, ite_self, hspace, if_neg Bool.false_ne_true, if_neg Bool.false_ne_true, if_neg (lt_irrefl _)]
  rfl

/-- A segment of one row yields its reduction. -/
theorem RvRun.Clean.segment_one (heq : x.indexWord c d (i + 1) = x.indexWord c d i + 1) (hrow : d.row (x.indexWord c d i) + d.e ≤ spadSize) :
    x.segment c d i = (fun r : List Byte × FFlags => (x.arith c i r.2).wr c (d.data + i * d.e) r.1)
      (segReduce d.dtype d.aux d.e [(x.s.core c).spad.getN byte0 (d.row (x.indexWord c d i)) d.e]) := by
  have hn : x.indexWord c d (i + 1) - x.indexWord c d i = 1 := by omega
  have hread : x.segRow c d (x.indexWord c d i + 0) = (x, (x.s.core c).spad.getN byte0 (d.row (x.indexWord c d i)) d.e) := by
    unfold RvRun.segRow
    rw [hspace]
    exact h.rd hj he hrow
  have hle : ¬ x.indexWord c d (i + 1) < x.indexWord c d i := by omega
  have hne : ¬ d.space = 1 := by omega
  unfold RvRun.indexWord at hn hread hle
  unfold RvRun.segment
  rw [h.bad hj, h.rdW hj he (by omega)]
  dsimp only
  rw [h.rdW hj he hidx]
  dsimp only
  rw [h.bad hj, if_neg Bool.false_ne_true, if_neg Bool.false_ne_true, if_neg hle, hn, min_one_spad, ite_self, if_neg hne]
  dsimp only [List.range, List.range.loop, List.foldl]
  rw [h.bad hj, if_neg Bool.false_ne_true, hread]
  rfl

end

end Sys2Proof.Machine
end

section
/-!
SUPPORT. Lanes of a row, and what reducing one row gives (spec/03 R147).
-/

namespace Sys2Proof.Machine

/-! ### Lists of blocks of one length -/

section
variable {n m : Nat} {f : Nat → List Byte} (hf : ∀ i, i < m → (f i).length = n)
include hf

theorem length_blocks : ((List.range m).flatMap f).length = m * n := by
  induction m with
  | zero => rw [Nat.zero_mul]; rfl
  | succ m ih =>
    rw [List.range_succ, List.flatMap_append, List.length_append, ih fun i hi => hf i (by omega), List.flatMap_singleton, hf m (by omega), Nat.succ_mul]

/-- Byte q of block i. -/
theorem getD_blocks {i q : Nat} (hi : i < m) (hq : q < n) : ((List.range m).flatMap f).getD (n * i + q) 0 = (f i).getD q 0 := by
  induction m with
  | zero => omega
  | succ m ih =>
    have hlen := length_blocks (m := m) fun i hi => hf i (by omega)
    rw [List.range_succ, List.flatMap_append, List.flatMap_singleton]
    rcases Nat.lt_succ_iff_lt_or_eq.1 hi with hi | rfl
    · have hle : n * i + n ≤ m * n := by rw [Nat.mul_comm n, ← Nat.succ_mul]; exact Nat.mul_le_mul_right _ hi
      rw [List.getD_append _ _ _ _ (by omega)]
      exact ih (fun i hi => hf i (by omega)) hi
    · rw [List.getD_append_right _ _ _ _ (by rw [hlen, Nat.mul_comm]; omega), hlen, Nat.mul_comm i, Nat.add_sub_cancel_left]

end

/-- A field of a list, byte by byte. -/
theorem sliceB_eq {l : List Byte} {a n : Nat} (h : a + n ≤ l.length) : sliceB l a n = (List.range n).map fun q => l.getD (a + q) 0 := by
  have hlen : ((l.drop a).take n).length = n := by rw [List.length_take, List.length_drop]; omega
  unfold sliceB
  dsimp only
  rw [hlen, Nat.sub_self, List.replicate_zero, List.append_nil]
  refine List.ext_getElem (by rw [hlen, List.length_map, List.length_range]) fun q h1 h2 => ?_
  rw [hlen] at h1
  rw [List.getElem_map, List.getElem_range, List.getElem_take, List.getElem_drop, List.getD_eq_getElem _ _ (by omega)]

/-- The bytes of a field give the field's bytes back. -/
theorem getD_leBytes_leAt {l : List Byte} {a n q : Nat} (h : a + n ≤ l.length) (hq : q < n) : (leBytes n (leAt l a n)).getD q 0 = l.getD (a + q) 0 := by
  have hs := sliceB_eq h
  have hlen : (sliceB l a n).length = n := by rw [hs, List.length_map, List.length_range]
  have he : leBytes n (leAt l a n) = sliceB l a n := by
    have h := leBytes_leNat (sliceB l a n)
    rwa [hlen] at h
  rw [he, hs, List.getD_eq_getElem _ _ (by rw [List.length_map, List.length_range]; exact hq), List.getElem_map, List.getElem_range]

theorem leNat_lt (l : List Byte) : leNat l < 256 ^ l.length := by
  induction l with
  | nil => exact Nat.one_pos
  | cons b l ih =>
    have hb := b.isLt
    rw [leNat, List.length_cons, Nat.pow_succ]
    omega

theorem leAt_lt {l : List Byte} {a n : Nat} (h : a + n ≤ l.length) : leAt l a n < 256 ^ n := by
  have hlen : (sliceB l a n).length = n := by rw [sliceB_eq h, List.length_map, List.length_range]
  have hlt := leNat_lt (sliceB l a n)
  rwa [hlen] at hlt

/-! ### Lanes -/

theorem laneSize_pos (t : Nat) : 0 < laneSize t := by
  unfold laneSize
  split <;> decide

section
variable {t fn e v : Nat} {a b : List Byte}

theorem length_laneRow (h : laneSize t ∣ e) : (laneRow t e v).length = e := by
  unfold laneRow
  rw [length_blocks (n := laneSize t) fun _ _ => length_leBytes _ _, Nat.div_mul_cancel h]

/-- Every lane of a row of one value holds it. -/
theorem leAt_laneRow {i : Nat} (hi : i < e / laneSize t) : leAt (laneRow t e v) (laneSize t * i) (laneSize t) = v % 256 ^ laneSize t := by
  have hlen : (laneRow t e v).length = e / laneSize t * laneSize t := length_blocks fun _ _ => length_leBytes _ _
  have hle : laneSize t * i + laneSize t ≤ e / laneSize t * laneSize t := by
    rw [Nat.mul_comm (laneSize t), ← Nat.succ_mul]; exact Nat.mul_le_mul_right _ hi
  unfold leAt
  rw [sliceB_eq (by omega), ← leNat_leBytes]
  refine congrArg leNat (List.ext_getElem (by rw [List.length_map, List.length_range, length_leBytes]) fun q h1 h2 => ?_)
  rw [List.length_map, List.length_range] at h1
  rw [List.getElem_map, List.getElem_range]
  unfold laneRow
  rw [getD_blocks (n := laneSize t) (fun _ _ => length_leBytes _ _) hi h1, List.getD_eq_getElem _ _ h2]

theorem lanesOp_bytes : (lanesOp t fn a b).1 =
    (List.range (a.length / laneSize t)).flatMap fun i =>
      leBytes (laneSize t) (laneOp2 t fn (leAt a (laneSize t * i) (laneSize t)) (leAt b (laneSize t * i) (laneSize t))).1 := by
  unfold lanesOp
  dsimp only
  rw [List.flatMap_map]

theorem length_lanesOp (h : laneSize t ∣ a.length) : (lanesOp t fn a b).1.length = a.length := by
  rw [lanesOp_bytes, length_blocks (n := laneSize t) fun _ _ => length_leBytes _ _, Nat.div_mul_cancel h]

/-- What a reduction of integers starts from: 0 for the sum, the least value for the maximum, the greatest for the minimum. -/
theorem laneStart_int (ht : t ≠ 0) : laneStart t fn =
    if fn = 0 then 0 else if fn = 1 then 2 ^ (8 * laneSize t - 1) else 2 ^ (8 * laneSize t - 1) - 1 := by
  unfold laneStart laneUnit
  dsimp only
  rw [if_neg fun h => ht h.2, if_neg ht]

/-- On integers it changes no lane. -/
theorem laneOp2_start (ht : t ≠ 0) (hv : v < 2 ^ (8 * laneSize t)) : (laneOp2 t fn (laneStart t fn) v).1 = v := by
  have hpos := laneSize_pos t
  obtain ⟨h, hh⟩ : ∃ h, 2 ^ (8 * laneSize t - 1) = h := ⟨_, rfl⟩
  have hw : 2 ^ (8 * laneSize t) = 2 * h := by rw [← hh, ← Nat.pow_succ']; congr 1; omega
  have hsfld (u : Nat) (hu : u < 2 * h) : sfld u 0 (8 * laneSize t) = if u < h then (u : Int) else (u : Int) - 2 * (h : Int) := by
    have hi : (2 ^ (8 * laneSize t) : Int) = 2 * (h : Int) := by exact_mod_cast hw
    unfold sfld nfld
    rw [Nat.shiftRight_zero, hw, Nat.mod_eq_of_lt hu, hh, hi]
  rw [laneStart_int ht, hh]
  rw [hw] at hv
  unfold laneOp2
  dsimp only
  rw [if_neg ht]
  by_cases h0 : fn = 0
  · rw [if_pos h0, if_pos h0, Nat.zero_add, hw, Nat.mod_eq_of_lt hv]
  · by_cases h1 : fn = 1 <;> simp only [h0, h1, one_ne_zero, if_false, if_true]
    · rw [hsfld h (by omega), hsfld v hv]
      split_ifs <;> omega
    · rw [hsfld (h - 1) (by omega), hsfld v hv]
      split_ifs <;> omega

end

section
variable {t fn e : Nat} {b : List Byte} (hd : laneSize t ∣ e)
include hd

/-- The reduction of one row has the row's length. -/
theorem length_segReduce_one : (segReduce t fn e [b]).1.length = e := by
  have hrow := length_laneRow (v := laneStart t fn) hd
  exact (length_lanesOp (by rw [hrow]; exact hd)).trans hrow

/-- One row of integers reduces to itself. -/
theorem segReduce_int (ht : t ≠ 0) (hb : b.length = e) {q : Nat} (hq : q < e) : (segReduce t fn e [b]).1.getD q 0 = b.getD q 0 := by
  have hpos := laneSize_pos t
  have hp : (2 : Nat) ^ (8 * laneSize t) = 256 ^ laneSize t := by rw [Nat.pow_mul]
  have hs : laneStart t fn < 256 ^ laneSize t := by
    have h2 : 2 ^ (8 * laneSize t - 1) < 2 ^ (8 * laneSize t) := Nat.pow_lt_pow_right (by decide) (by omega)
    have h1 : 0 < 2 ^ (8 * laneSize t - 1) := Nat.two_pow_pos _
    rw [hp] at h2
    rw [laneStart_int ht]
    split_ifs <;> omega
  obtain ⟨m, rfl⟩ := hd
  have hi : q / laneSize t < m := Nat.div_lt_of_lt_mul hq
  have hm : m = laneSize t * m / laneSize t := (Nat.mul_div_cancel_left m hpos).symm
  have hle : laneSize t * (q / laneSize t) + laneSize t ≤ b.length := by
    rw [hb, ← Nat.mul_succ]; exact Nat.mul_le_mul_left _ hi
  show (lanesOp t fn (laneRow t (laneSize t * m) (laneStart t fn)) b).1.getD q 0 = _
  rw [lanesOp_bytes, length_laneRow ⟨m, rfl⟩, ← hm]
  conv_lhs => rw [← Nat.div_add_mod q (laneSize t)]
  rw [getD_blocks (n := laneSize t) (fun _ _ => length_leBytes _ _) hi (Nat.mod_lt _ hpos), leAt_laneRow (by rw [← hm]; exact hi),
    Nat.mod_eq_of_lt hs, laneOp2_start ht (by rw [hp]; exact leAt_lt hle), getD_leBytes_leAt hle (Nat.mod_lt _ hpos), Nat.div_add_mod]

end

end Sys2Proof.Machine
end

section
/-!
SUPPORT. One key of a hash table, and the sets of two ascending lists (spec/03 R148, R149).
-/

namespace Sys2Proof.Machine

/-! ### Hash tables (R148) -/

/-- The word a key compares with to say that there is none. -/
def noKey : Nat := 0xFFFFFFFF

/-- A word of a run's scratchpad. -/
def RvRun.word (x : RvRun) (c a : Nat) : Nat := ((x.s.core c).spadWord a).toNat

/-- The slot a key is sought from first. -/
def RvDesc.slot (d : RvDesc) (k : Nat) : Nat := hashOf k (d.aux % 32) % 2 ^ (d.aux % 32)

section
variable {s : State} {c : Nat} {j : Job} {x : RvRun} {d : RvDesc} (hj : j.fault = 0) (he : (s.core c).spadErr = []) (h : x.Clean s c j)
include hj he h

/-- The search ends at the first slot where that is empty or holds the key. -/
theorem RvRun.Clean.seek_first {base tb k g : Nat} (m : Nat) (hfit : base + 8 * (g % 2 ^ tb) + 4 ≤ spadSize) :
    (x.word c (base + 8 * (g % 2 ^ tb)) = noKey → x.seek c base tb k g (m + 1) 0 = (x, some (g % 2 ^ tb, false))) ∧
      (k ≠ noKey → x.word c (base + 8 * (g % 2 ^ tb)) = k → x.seek c base tb k g (m + 1) 0 = (x, some (g % 2 ^ tb, true))) := by
  unfold RvRun.word
  constructor
  · intro hw
    unfold RvRun.seek
    rw [Nat.add_zero]
    dsimp only
    rw [h.rdW hj he hfit]
    dsimp only
    rw [h.bad hj, if_neg Bool.false_ne_true]
    exact if_pos hw
  · intro hk hw
    unfold RvRun.seek
    rw [Nat.add_zero]
    dsimp only
    rw [h.rdW hj he hfit]
    dsimp only
    rw [h.bad hj, if_neg Bool.false_ne_true, if_neg (by rw [hw]; exact hk)]
    exact if_pos hw

omit hj he h in
/-- A search goes over at least one slot. -/
theorem RvDesc.hashLimit (d : RvDesc) :
    ∃ m, (if d.aux / 256 % 256 = 0 then 2 ^ (d.aux % 32) else min (d.aux / 256 % 256) (2 ^ (d.aux % 32))) = m + 1 := by
  have hp : 0 < 2 ^ (d.aux % 32) := Nat.two_pow_pos _
  refine ⟨_, (Nat.succ_pred_eq_of_pos ?_).symm⟩
  split <;> omega

variable (hidx : d.idx + 4 ≤ spadSize)
include hidx

/-- The key word that means none is not found (R148). -/
theorem RvRun.Clean.hash_none (hk : x.word c d.idx = noKey) : x.hash c d 0 0 = (x.wr c d.data (leBytes 4 noKey), 1) := by
  unfold RvRun.word at hk
  unfold RvRun.hash
  dsimp only
  rw [h.bad hj, if_neg Bool.false_ne_true, Nat.mul_zero, Nat.add_zero, h.rdW hj he hidx]
  dsimp only
  rw [h.bad hj, if_neg Bool.false_ne_true]
  exact if_pos hk

/-- What the end of a search at `slot` means to a key: a probe gives the value beside it or misses, an insert fills an empty slot (R148). -/
theorem RvRun.Clean.hash_seek {slot : Nat} {found : Bool} (hk : x.word c d.idx ≠ noKey)
    (hr : ∀ m, x.seek c d.base (d.aux % 32) (x.word c d.idx) (hashOf (x.word c d.idx) (d.aux % 32)) (m + 1) 0 = (x, some (slot, found))) :
    (d.op = 4 → found = true → d.base + 8 * slot + 8 ≤ spadSize →
      x.hash c d 0 0 = (x.wr c d.data (leBytes 4 (x.word c (d.base + 8 * slot + 4))), 0)) ∧
    (d.op = 4 → found = false → x.hash c d 0 0 = (x.wr c d.data (leBytes 4 noKey), 1)) ∧
    (d.op = 5 → found = false → d.idx + 8 ≤ spadSize → x.hash c d 0 0 =
      ((x.wr c (d.base + 8 * slot) (leBytes 4 (x.word c d.idx) ++ (x.s.core c).spad.getN byte0 (d.idx + 4) 4)).wr c d.data (leBytes 4 slot), 0)) := by
  obtain ⟨m, hm⟩ := d.hashLimit
  replace hr := hr m
  unfold RvRun.word at hk hr ⊢
  unfold noKey at hk
  refine ⟨fun hop hf hfit => ?_, fun hop hf => ?_, fun hop hf hfit => ?_⟩ <;> subst hf <;> unfold RvRun.hash <;> dsimp only <;>
    rw [h.bad hj, if_neg Bool.false_ne_true, Nat.mul_zero, Nat.mul_zero, Nat.add_zero, Nat.add_zero, h.rdW hj he hidx] <;> dsimp only <;>
    rw [h.bad hj, if_neg Bool.false_ne_true, if_neg hk, hm, hr] <;> dsimp only <;> rw [h.bad hj, if_neg Bool.false_ne_true, hop]
  · exact congrArg (fun r : RvRun × Nat => (r.1.wr c d.data (leBytes 4 r.2), 0)) (h.rdW hj he (by omega))
  · rfl
  · rw [h.rd hj he (by omega)]
    rfl

variable {a : Nat} (hk : x.word c d.idx ≠ noKey) (ha : a = d.base + 8 * d.slot (x.word c d.idx)) (hfit : a + 8 ≤ spadSize)
include hk ha hfit

/-- A probe finds the key in its first slot. -/
theorem RvRun.Clean.hash_hit (hop : d.op = 4) (hw : x.word c a = x.word c d.idx) :
    x.hash c d 0 0 = (x.wr c d.data (leBytes 4 (x.word c (a + 4))), 0) := by
  subst ha
  exact (h.hash_seek hj he hidx hk fun m => (h.seek_first hj he m (by unfold RvDesc.slot at hfit; omega)).2 hk hw).1 hop rfl hfit

/-- An empty first slot ends a probe. -/
theorem RvRun.Clean.hash_miss (hop : d.op = 4) (hw : x.word c a = noKey) : x.hash c d 0 0 = (x.wr c d.data (leBytes 4 noKey), 1) := by
  subst ha
  exact (h.hash_seek hj he hidx hk fun m => (h.seek_first hj he m (by unfold RvDesc.slot at hfit; omega)).1 hw).2.1 hop rfl

/-- An insert fills it. -/
theorem RvRun.Clean.hash_insert (hop : d.op = 5) (hi8 : d.idx + 8 ≤ spadSize) (hw : x.word c a = noKey) : x.hash c d 0 0 =
    ((x.wr c a (leBytes 4 (x.word c d.idx) ++ (x.s.core c).spad.getN byte0 (d.idx + 4) 4)).wr c d.data (leBytes 4 (d.slot (x.word c d.idx))), 0) := by
  subst ha
  exact (h.hash_seek hj he hidx hk fun m => (h.seek_first hj he m (by unfold RvDesc.slot at hfit; omega)).1 hw).2.2 hop rfl hi8

end

/-! ### Sorted sets (R149) -/

/-- The words of a list in a run's scratchpad. -/
def RvRun.words (x : RvRun) (c a n : Nat) : List Nat := (List.range n).map fun i => x.word c (a + 4 * i)

theorem RvRun.length_words (x : RvRun) (c a n : Nat) : (x.words c a n).length = n := by
  unfold RvRun.words
  rw [List.length_map, List.length_range]

theorem RvRun.getD_words (x : RvRun) (c a : Nat) {n i : Nat} (h : i < n) : (x.words c a n).getD i 0 = x.word c (a + 4 * i) := by
  simp [RvRun.words, h]

theorem RvRun.mem_words {x : RvRun} {c a n v : Nat} : v ∈ x.words c a n ↔ ∃ i, i < n ∧ x.word c (a + 4 * i) = v := by
  simp [RvRun.words]

theorem leAt_getN (k : Core) (a : Nat) {n i : Nat} (h : i < n) : leAt (k.spad.getN byte0 a (4 * n)) (4 * i) 4 = (k.spadWord (a + 4 * i)).toNat := by
  have hs : sliceB (k.spad.getN byte0 a (4 * n)) (4 * i) 4 = k.spad.getN byte0 (a + 4 * i) 4 := by
    rw [sliceB_eq (by rw [length_getN]; omega)]
    unfold Map.getN
    refine List.map_congr_left fun q hq => ?_
    have hq4 := List.mem_range.1 hq
    rw [show ((List.range (4 * n)).map fun i => Map.get byte0 k.spad (a + i)) = k.spad.getN byte0 a (4 * n) from rfl, getD_getN _ _ _ (by omega), Nat.add_assoc]
  unfold leAt
  rw [hs, leNat_getN4]

/-- An ascending list is read without a violation. -/
theorem RvRun.Clean.setList {s : State} {c a n : Nat} {j : Job} {x : RvRun} (hj : j.fault = 0) (he : (s.core c).spadErr = []) (h : x.Clean s c j)
    (hfit : a + 4 * n ≤ spadSize) (hasc : ∀ i, i + 1 < n → x.word c (a + 4 * i) < x.word c (a + 4 * (i + 1))) :
    x.setList c a n = (x, x.words c a n, none) := by
  have hread : (if n = 0 then (x, []) else x.rd c a (4 * n)) = (x, (x.s.core c).spad.getN byte0 a (4 * n)) := by
    split
    · rename_i hn
      rw [hn]
      rfl
    · exact h.rd hj he hfit
  have hwords : ((List.range (((x.s.core c).spad.getN byte0 a (4 * n)).length / 4)).map fun i => leAt ((x.s.core c).spad.getN byte0 a (4 * n)) (4 * i) 4) =
      x.words c a n := by
    rw [length_getN, Nat.mul_div_cancel_left n (by decide)]
    exact List.map_congr_left fun i hi => leAt_getN _ _ (List.mem_range.1 hi)
  unfold RvRun.setList
  rw [hread]
  dsimp only
  rw [hwords, x.length_words, List.find?_eq_none.2 fun i hi => ?_]
  · rfl
  · have hi := List.mem_range.1 hi
    rw [x.getD_words c a (by omega), x.getD_words c a (by omega)]
    have := hasc i (by omega)
    simpa using this

section
variable {u : Bool}

/-- What is below the head of an ascending list is not in it. -/
theorem not_mem_of_lt_head {v y : Nat} {l : List Nat} (h : (y :: l).Pairwise (· < ·)) (hv : v < y) : v ∉ y :: l := by
  intro hm
  rcases List.mem_cons.1 hm with rfl | hm
  · exact lt_irrefl _ hv
  · exact absurd ((List.pairwise_cons.1 h).1 v hm) (by omega)

/-- The merge of two ascending lists holds their joint or their common elements. -/
theorem mem_mergeSets (n : Nat) : ∀ {a b : List Nat} {v : Nat}, a.length + b.length ≤ n → a.Pairwise (· < ·) → b.Pairwise (· < ·) →
    (v ∈ mergeSets u n a b ↔ if u then v ∈ a ∨ v ∈ b else v ∈ a ∧ v ∈ b) := by
  induction n with
  | zero =>
    intro a b v hl _ _
    rw [List.length_eq_zero_iff.1 (by omega : a.length = 0), List.length_eq_zero_iff.1 (by omega : b.length = 0)]
    cases u <;> simp [mergeSets]
  | succ n ih =>
    intro a b v hl ha hb
    match a, b with
    | [], b => cases u <;> simp [mergeSets]
    | x :: ta, [] => cases u <;> simp [mergeSets]
    | x :: ta, y :: tb =>
      have hta := (List.pairwise_cons.1 ha).2
      have htb := (List.pairwise_cons.1 hb).2
      simp only [List.length_cons] at hl
      unfold mergeSets
      split
      · -- the heads are one element
        rename_i hxy
        have hr := ih (a := ta) (b := tb) (v := v) (by omega) hta htb
        rw [List.mem_cons, hr, ← hxy]
        cases u <;> simp only [List.mem_cons, if_true, if_false, Bool.false_eq_true] <;> tauto
      · split
        · -- the first list's head is the least element
          rename_i hlt
          have hr := ih (a := ta) (b := y :: tb) (v := v) (by rw [List.length_cons]; omega) hta hb
          have hnot : v = x → v ∉ y :: tb := by rintro rfl; exact not_mem_of_lt_head hb hlt
          cases u <;> simp only [if_true, if_false, Bool.false_eq_true] at hr ⊢ <;> simp only [List.mem_cons, hr] at hnot ⊢ <;> tauto
        · -- the second list's head is
          rename_i hne hge
          have hr := ih (a := x :: ta) (b := tb) (v := v) (by rw [List.length_cons]; omega) ha htb
          have hnot : v = y → v ∉ x :: ta := by rintro rfl; exact not_mem_of_lt_head ha (by omega)
          cases u <;> simp only [if_true, if_false, Bool.false_eq_true] at hr ⊢ <;> simp only [List.mem_cons, hr] at hnot ⊢ <;> tauto

/-- An element of a merge is of one of the lists. -/
theorem mem_of_mem_mergeSets {n v : Nat} {a b : List Nat} (hl : a.length + b.length ≤ n) (ha : a.Pairwise (· < ·)) (hb : b.Pairwise (· < ·))
    (h : v ∈ mergeSets u n a b) : v ∈ a ∨ v ∈ b := by
  have hm := (mem_mergeSets n hl ha hb).1 h
  split at hm
  · exact hm
  · exact Or.inl hm.1

theorem pairwise_mergeSets (n : Nat) : ∀ {a b : List Nat}, a.length + b.length ≤ n → a.Pairwise (· < ·) → b.Pairwise (· < ·) →
    (mergeSets u n a b).Pairwise (· < ·) := by
  induction n with
  | zero => intro a b _ _ _; exact .nil
  | succ n ih =>
    intro a b hl ha hb
    match a, b with
    | [], b => cases u; exacts [.nil, hb]
    | x :: ta, [] => cases u; exacts [.nil, ha]
    | x :: ta, y :: tb =>
      obtain ⟨hx, hta⟩ := List.pairwise_cons.1 ha
      obtain ⟨hy, htb⟩ := List.pairwise_cons.1 hb
      simp only [List.length_cons] at hl
      -- a head kept lies below the rest
      have keep {w : Nat} {a b : List Nat} (hl : a.length + b.length ≤ n) (ha : a.Pairwise (· < ·)) (hb : b.Pairwise (· < ·))
          (hwa : ∀ v ∈ a, w < v) (hwb : ∀ v ∈ b, w < v) : (w :: mergeSets u n a b).Pairwise (· < ·) :=
        List.pairwise_cons.2 ⟨fun v hv => (mem_of_mem_mergeSets hl ha hb hv).elim (hwa v) (hwb v), ih hl ha hb⟩
      unfold mergeSets
      split
      · rename_i hxy
        exact keep (by omega) hta htb hx fun v hv => hxy ▸ hy v hv
      · split
        · rename_i hlt
          have hl' : ta.length + (y :: tb).length ≤ n := by rw [List.length_cons]; omega
          cases u
          · exact ih hl' hta hb
          · exact keep hl' hta hb hx fun v hv => (List.mem_cons.1 hv).elim (fun e => e ▸ hlt) fun hv => lt_trans hlt (hy v hv)
        · rename_i hne hge
          have hlt : y < x := by omega
          have hl' : (x :: ta).length + tb.length ≤ n := by rw [List.length_cons]; omega
          cases u
          · exact ih hl' ha htb
          · exact keep hl' ha htb (fun v hv => (List.mem_cons.1 hv).elim (fun e => e ▸ hlt) fun hv => lt_trans hlt (hx v hv)) hy

theorem length_mergeSets (n : Nat) : ∀ (a b : List Nat), (mergeSets u n a b).length ≤ a.length + b.length := by
  induction n with
  | zero => intro a b; exact Nat.zero_le _
  | succ n ih =>
    intro a b
    match a, b with
    | [], b => cases u <;> simp [mergeSets]
    | x :: ta, [] => cases u <;> simp [mergeSets]
    | x :: ta, y :: tb =>
      have h1 := ih ta tb
      have h2 := ih ta (y :: tb)
      have h3 := ih (x :: ta) tb
      simp only [List.length_cons] at h1 h2 h3 ⊢
      unfold mergeSets
      split
      · rw [List.length_cons]; omega
      · split <;> cases u <;> dsimp only [Bool.false_eq_true, if_false, if_true]
        · rw [if_neg Bool.false_ne_true]; omega
        · rw [if_pos rfl, List.length_cons]; omega
        · rw [if_neg Bool.false_ne_true]; omega
        · rw [if_pos rfl, List.length_cons]; omega

end

/-! ### The bytes of a list of words -/

theorem flatMap_words (l : List Nat) : l.flatMap (leBytes 4) = (List.range l.length).flatMap fun i => leBytes 4 (l.getD i 0) := by
  have e : l = (List.range l.length).map fun i => l.getD i 0 :=
    List.ext_getElem (by rw [List.length_map, List.length_range]) fun i h1 h2 => by
      rw [List.getElem_map, List.getElem_range, List.getD_eq_getElem _ _ h1]
  conv_lhs => rw [e]
  rw [List.flatMap_map]

theorem length_flatMap_words (l : List Nat) : (l.flatMap (leBytes 4)).length = 4 * l.length := by
  rw [flatMap_words, length_blocks (n := 4) fun _ _ => length_leBytes _ _, Nat.mul_comm]

theorem getD_flatMap_words {l : List Nat} {n q : Nat} (hn : n < l.length) (hq : q < 4) :
    (l.flatMap (leBytes 4)).getD (4 * n + q) 0 = (leBytes 4 (l.getD n 0)).getD q 0 := by
  rw [flatMap_words]
  exact getD_blocks (n := 4) (fun _ _ => length_leBytes _ _) hn hq

/-! ### SET_ISECT and SET_UNION (R149) -/

/-- The elements a set operation writes. -/
def RvRun.merged (x : RvRun) (c : Nat) (d : RvDesc) : List Nat :=
  mergeSets (d.op == 7) (d.count + d.aux % 2 ^ 24) (x.words c d.idx d.count) (x.words c d.base (d.aux % 2 ^ 24))

theorem RvRun.length_merged (x : RvRun) (c : Nat) (d : RvDesc) : (x.merged c d).length ≤ d.count + d.aux % 2 ^ 24 := by
  have hm := length_mergeSets (u := d.op == 7) (d.count + d.aux % 2 ^ 24) (x.words c d.idx d.count) (x.words c d.base (d.aux % 2 ^ 24))
  rwa [x.length_words, x.length_words] at hm

theorem rangesMeet_apart {a n b m k : Nat} (hk : k ≤ n) (h : a + n ≤ b ∨ b + m ≤ a) : rangesMeet a k b m = false := by
  unfold rangesMeet
  simp only [Bool.and_eq_false_iff, decide_eq_false_iff_not]
  omega

section
variable {s : State} {c : Nat} {j : Job} {x : RvRun} {d : RvDesc} (hj : j.fault = 0) (he : (s.core c).spadErr = []) (h : x.Clean s c j)
include hj he h

/-- A set operation on ascending lists writes its elements (R149). -/
theorem RvRun.Clean.sets (hia : d.idx + 4 * d.count ≤ spadSize) (hib : d.base + 4 * (d.aux % 2 ^ 24) ≤ spadSize)
    (hout : d.data + 4 * (d.count + d.aux % 2 ^ 24) ≤ spadSize)
    (hap : d.data + 4 * (d.count + d.aux % 2 ^ 24) ≤ d.idx ∨ d.idx + 4 * d.count ≤ d.data)
    (hbp : d.data + 4 * (d.count + d.aux % 2 ^ 24) ≤ d.base ∨ d.base + 4 * (d.aux % 2 ^ 24) ≤ d.data)
    (hasc : ∀ i, i + 1 < d.count → x.word c (d.idx + 4 * i) < x.word c (d.idx + 4 * (i + 1)))
    (hbsc : ∀ i, i + 1 < d.aux % 2 ^ 24 → x.word c (d.base + 4 * i) < x.word c (d.base + 4 * (i + 1))) :
    ∃ y, x.sets c d = (y, (x.merged c d).length) ∧ y.Clean s c j ∧
      ∀ b, y.byte c b = putBytes d.data ((x.merged c d).flatMap (leBytes 4)) (x.byte c) b := by
  have hlen := x.length_merged c d
  have hmeet : (rangesMeet d.data (4 * (x.merged c d).length) d.idx (4 * d.count) ||
      rangesMeet d.data (4 * (x.merged c d).length) d.base (4 * (d.aux % 2 ^ 24))) = false := by
    rw [rangesMeet_apart (by omega) hap, rangesMeet_apart (by omega) hbp]
    rfl
  have hw := h.wr hj he (a := d.data) (d := (x.merged c d).flatMap (leBytes 4)) (by rw [length_flatMap_words]; omega)
  have hsets : x.sets c d = (if (x.merged c d).length = 0 then x else x.wr c d.data ((x.merged c d).flatMap (leBytes 4)), (x.merged c d).length) := by
    unfold RvRun.merged at hmeet ⊢
    unfold RvRun.sets
    dsimp only
    rw [h.setList hj he hia hasc]
    dsimp only
    rw [h.setList hj he hib hbsc]
    dsimp only
    rw [h.bad hj, if_neg Bool.false_ne_true, x.length_words, x.length_words, hmeet]
    rfl
  refine ⟨_, hsets, ?_⟩
  split
  · rename_i h0
    refine ⟨h, fun b => ?_⟩
    rw [List.length_eq_zero_iff.1 h0]
    exact (putBytes_out (show b < d.data ∨ d.data + 0 ≤ b by omega)).symm
  · exact hw

end

/-- Words each below the next are ascending. -/
theorem RvRun.pairwise_words {x : RvRun} {c a n : Nat} (h : ∀ i, i + 1 < n → x.word c (a + 4 * i) < x.word c (a + 4 * (i + 1))) :
    (x.words c a n).Pairwise (· < ·) := by
  have far (k i : Nat) (hn : i + k + 1 < n) : x.word c (a + 4 * i) < x.word c (a + 4 * (i + k + 1)) := by
    induction k with
    | zero => exact h i hn
    | succ k ih => exact lt_trans (ih (by omega)) (h (i + k + 1) hn)
  refine List.pairwise_iff_getElem.2 fun i q h1 h2 hiq => ?_
  have hq : q < n := x.length_words c a n ▸ h2
  rw [← List.getD_eq_getElem _ 0 h1, ← List.getD_eq_getElem _ 0 h2, x.getD_words c a (by omega), x.getD_words c a hq]
  have hlt := far (q - i - 1) i (by omega)
  rwa [show i + (q - i - 1) + 1 = q by omega] at hlt

/-- The elements are ascending, and are the joint or the common ones. -/
theorem RvRun.merged_spec {x : RvRun} {c : Nat} {d : RvDesc} (hasc : ∀ i, i + 1 < d.count → x.word c (d.idx + 4 * i) < x.word c (d.idx + 4 * (i + 1)))
    (hbsc : ∀ i, i + 1 < d.aux % 2 ^ 24 → x.word c (d.base + 4 * i) < x.word c (d.base + 4 * (i + 1))) :
    (x.merged c d).Pairwise (· < ·) ∧ ∀ v, v ∈ x.merged c d ↔
      if d.op == 7 then v ∈ x.words c d.idx d.count ∨ v ∈ x.words c d.base (d.aux % 2 ^ 24)
      else v ∈ x.words c d.idx d.count ∧ v ∈ x.words c d.base (d.aux % 2 ^ 24) := by
  have hl : (x.words c d.idx d.count).length + (x.words c d.base (d.aux % 2 ^ 24)).length ≤ d.count + d.aux % 2 ^ 24 := by
    rw [x.length_words, x.length_words]
  exact ⟨pairwise_mergeSets _ hl (pairwise_words hasc) (pairwise_words hbsc),
    fun _ => mem_mergeSets _ hl (pairwise_words hasc) (pairwise_words hbsc)⟩

theorem RvRun.words_lt {x : RvRun} {c a n v : Nat} (h : v ∈ x.words c a n) : v < 2 ^ 32 := by
  obtain ⟨_, -, rfl⟩ := RvRun.mem_words.1 h
  exact BitVec.isLt _

/-- The elements are words. -/
theorem RvRun.merged_lt {x : RvRun} {c v : Nat} {d : RvDesc}
    (hasc : ∀ i, i + 1 < d.count → x.word c (d.idx + 4 * i) < x.word c (d.idx + 4 * (i + 1)))
    (hbsc : ∀ i, i + 1 < d.aux % 2 ^ 24 → x.word c (d.base + 4 * i) < x.word c (d.base + 4 * (i + 1))) (h : v ∈ x.merged c d) : v < 2 ^ 32 := by
  have hm := ((RvRun.merged_spec hasc hbsc).2 v).1 h
  split at hm
  · exact hm.elim RvRun.words_lt RvRun.words_lt
  · exact RvRun.words_lt hm.1

end Sys2Proof.Machine
end

section
/-!
SUPPORT and proofs. The Retriever's operations in the core's own scratchpad (spec/03 R143-R150).
-/

namespace Sys2Proof.Machine

/-- The Retriever of core c has run descriptor d to its end without a fault, and the scratchpad's bytes are those of `f`. -/
structure State.RvEnded (s s1 : State) (c op : Nat) (d : Desc) (f : Nat → Byte) : Prop where
  started : s.Started s1 (s.rvStart c op) c 3 { s.rvJob c d with stage := 3 }
  mem : (s.rvStart c op).mem = s.mem
  net : (s.rvStart c op).net = s.net
  byte : ∀ b, ((s.rvStart c op).core c).spadByte b = f b

theorem rvDesc_e_pos (b : List Byte) : 0 < (rvDesc b).e := Nat.mul_pos (by decide) (Nat.two_pow_pos _)

/-- The lanes of a checked descriptor fill its rows. -/
theorem rvCheck_lanes {b : List Byte} (h : rvCheck b = 0) : laneSize (rvDesc b).dtype ∣ (rvDesc b).e := by
  have he : (rvDesc b).e = 4 * 2 ^ (byteAt b 3 % 8) := rfl
  have hne : ¬ ((rvDesc b).dtype = 2 ∧ (rvDesc b).e = 4) := by
    intro h24
    unfold rvCheck at h
    dsimp only at h
    rw [if_pos h24] at h
    split_ifs at h
  unfold laneSize
  split
  · rename_i h2
    obtain ⟨m, hm⟩ : ∃ m, byteAt b 3 % 8 = m + 1 := Nat.exists_eq_succ_of_ne_zero fun h0 => hne ⟨h2, by rw [he, h0]; rfl⟩
    rw [he, hm, Nat.pow_succ']
    exact ⟨2 ^ m, by omega⟩
  · exact ⟨_, he⟩

/-- The sum of two words as the Retriever forms it. -/
theorem lanesOp_add (k : Core) (a b : Nat) :
    lanesOp 1 0 (k.spad.getN byte0 a 4) (k.spad.getN byte0 b 4) = (leBytes 4 (((k.spadWord a).toNat + (k.spadWord b).toNat) % 2 ^ 32), 0) := by
  have ha : leAt (k.spad.getN byte0 a 4) 0 4 = (k.spadWord a).toNat := leAt_getN k a (n := 1) (i := 0) (by decide)
  have hb : leAt (k.spad.getN byte0 b 4) 0 4 = (k.spadWord b).toNat := leAt_getN k b (n := 1) (i := 0) (by decide)
  have hadd (p q : Nat) : laneOp2 1 0 p q = ((p + q) % 2 ^ 32, 0) := by
    unfold laneOp2
    dsimp only
    rw [if_neg (by decide), if_pos rfl, show 8 * laneSize 1 = 32 from rfl]
  unfold lanesOp
  dsimp only
  rw [length_getN, show (4 : Nat) / laneSize 1 = 1 from rfl]
  simp only [List.range_one, List.map_cons, List.map_nil, List.flatMap_cons, List.flatMap_nil, List.foldl_cons, List.foldl_nil, Nat.mul_zero,
    show laneSize 1 = 4 from rfl, ha, hb, List.append_nil, hadd]
  rfl

section
variable {s s1 : State} {c op : Nat} {d : Desc} (hj : ((s.core c).eng 3).jobs = []) (h : s.takeDesc c 3 = some (d, s1))
  (he : (s.core c).spadErr = []) (hcheck : rvCheck d.bytes = 0) (hspace : (rvDesc d.bytes).space = 0) (hop : (rvDesc d.bytes).op = op)

/-- The run as it begins. -/
def rvBegin (s s1 : State) (c : Nat) (d : Desc) : RvRun := ⟨s1, s.rvJob c d⟩

/-! ### The beginning and the end -/

include h in
theorem rvBegin_spad : ((rvBegin s s1 c d).s.core c).spad = (s.core c).spad := by
  obtain ⟨-, -, -, -, -, -, hcore, -⟩ := State.takeDesc_spec h
  exact (congrArg Core.spad hcore).trans rfl

include h in
theorem rvBegin_byte (b : Nat) : (rvBegin s s1 c d).byte c b = (s.core c).spadByte b := congrArg (Map.get byte0 · b) (rvBegin_spad h)

include h in
theorem rvBegin_word (a : Nat) : (rvBegin s s1 c d).word c a = ((s.core c).spadWord a).toNat :=
  congrArg BitVec.toNat (Core.spadWord_congr fun i _ => rvBegin_byte h (a + i))

include h he in
theorem rvBegin_err : (s1.core c).spadErr = [] := by
  obtain ⟨-, -, -, -, -, -, hcore, -⟩ := State.takeDesc_spec h
  rw [hcore]
  exact he

theorem rvBegin_clean : (rvBegin s s1 c d).Clean s1 c (s.rvJob c d) := .start s1 c _

include h in
theorem rvBegin_offsets {lo hi : Nat} (hlo : lo = ((s.core c).spadWord (rvDesc d.bytes).idx).toNat)
    (hhi : hi = ((s.core c).spadWord ((rvDesc d.bytes).idx + 4)).toNat) :
    (rvBegin s s1 c d).indexWord c (rvDesc d.bytes) 0 = lo ∧ (rvBegin s s1 c d).indexWord c (rvDesc d.bytes) (0 + 1) = hi :=
  ⟨(rvBegin_word h _).trans hlo.symm, (rvBegin_word h _).trans hhi.symm⟩

include hj h hcheck hspace hop

/-- The run of a descriptor that meets no fault is the descriptor's end. -/
theorem State.rvEnded {y : RvRun} {f : Nat → Byte} (hgo : (rvBegin s s1 c d).go c (rvDesc d.bytes) = y) (hy : y.Clean s1 c (s.rvJob c d))
    (hf : ∀ b, y.byte c b = f b) : s.RvEnded s1 c op d f := by
  obtain ⟨hs, hm, hn, hb⟩ := State.rvStart_done hj h hop hcheck hspace hgo hy
  exact ⟨hs, hm, hn, fun b => (hb b).trans (hf b)⟩

include he

omit hj hcheck hspace hop in
/-- One write more. -/
theorem State.rvRun_wr {y : RvRun} {a : Nat} {l : List Byte} {f : Nat → Byte} (hy : y.Clean s1 c (s.rvJob c d)) (hf : ∀ b, y.byte c b = f b)
    (hfit : a + l.length ≤ spadSize) : (y.wr c a l).Clean s1 c (s.rvJob c d) ∧ ∀ b, (y.wr c a l).byte c b = putBytes a l f b := by
  obtain ⟨hz, hb⟩ := hy.wr rfl (rvBegin_err h he) hfit
  exact ⟨hz, fun b => (hb b).trans (congrArg (putBytes a l · b) (funext hf))⟩

/-- A run that ends with one write. -/
theorem State.rvEnded_wr {y : RvRun} {a : Nat} {l : List Byte} {f : Nat → Byte} (hgo : (rvBegin s s1 c d).go c (rvDesc d.bytes) = y.wr c a l)
    (hy : y.Clean s1 c (s.rvJob c d)) (hf : ∀ b, y.byte c b = f b) (hfit : a + l.length ≤ spadSize) : s.RvEnded s1 c op d (putBytes a l f) := by
  obtain ⟨hz, hb⟩ := State.rvRun_wr h he hy hf hfit
  exact State.rvEnded hj h hcheck hspace hop hgo hz hb

/-! ### GATHER, SCATTER and SCATTER_ADD -/

omit hop in
/-- GATHER copies the rows its indices name. -/
theorem State.rvEnded_gather (hop : (rvDesc d.bytes).op = 0) (hidx : (rvDesc d.bytes).idx + 4 * (rvDesc d.bytes).count ≤ spadSize)
    (hdata : (rvDesc d.bytes).data + (rvDesc d.bytes).count * (rvDesc d.bytes).e ≤ spadSize)
    (hap : (rvDesc d.bytes).idx + 4 * (rvDesc d.bytes).count ≤ (rvDesc d.bytes).data ∨
      (rvDesc d.bytes).data + (rvDesc d.bytes).count * (rvDesc d.bytes).e ≤ (rvDesc d.bytes).idx)
    {w : Nat → Nat} (hw : ∀ i, w i = (rvBegin s s1 c d).word c ((rvDesc d.bytes).idx + 4 * i))
    (hrow : ∀ i, i < (rvDesc d.bytes).count → ((rvDesc d.bytes).aux = 0 ∨ w i < (rvDesc d.bytes).aux) ∧
      (rvDesc d.bytes).row (w i) + (rvDesc d.bytes).e ≤ spadSize ∧ ((rvDesc d.bytes).row (w i) + (rvDesc d.bytes).e ≤ (rvDesc d.bytes).data ∨
        (rvDesc d.bytes).data + (rvDesc d.bytes).count * (rvDesc d.bytes).e ≤ (rvDesc d.bytes).row (w i))) :
    ∃ f, s.RvEnded s1 c 0 d f ∧
      (∀ b, b < (rvDesc d.bytes).data ∨ (rvDesc d.bytes).data + (rvDesc d.bytes).count * (rvDesc d.bytes).e ≤ b → f b = (s.core c).spadByte b) ∧
      ∀ i b, i < (rvDesc d.bytes).count → b < (rvDesc d.bytes).e →
        f ((rvDesc d.bytes).data + i * (rvDesc d.bytes).e + b) = (s.core c).spadByte ((rvDesc d.bytes).row (w i) + b) := by
  have hmin : min (rvDesc d.bytes).count (spadSize + 1) = (rvDesc d.bytes).count := by
    have := Nat.le_mul_of_pos_right (rvDesc d.bytes).count (rvDesc_e_pos d.bytes)
    omega
  have hgo : (rvBegin s s1 c d).go c (rvDesc d.bytes) =
      (List.range (rvDesc d.bytes).count).foldl (fun x i => x.index c (rvDesc d.bytes) i) (rvBegin s s1 c d) := by
    unfold RvRun.go
    rw [if_pos (by omega)]
    dsimp only
    rw [hmin]
  obtain ⟨hy, hkept, hput⟩ := rvBegin_clean.gatherAll rfl (rvBegin_err h he) hspace hop hidx hdata hap
    (fun i hi => by have := hrow i hi; rw [hw] at this; exact this) _ (Nat.le_refl _)
  refine ⟨_, State.rvEnded hj h hcheck hspace hop hgo hy fun _ => rfl, fun b hb => (hkept b hb).trans (rvBegin_byte h b), fun i b hi hb => ?_⟩
  rw [hput i b hi hb, rvBegin_byte h, hw]
  rfl

section
variable (hcount : (rvDesc d.bytes).count = 1) (hidx : (rvDesc d.bytes).idx + 4 ≤ spadSize)
  (hdata : (rvDesc d.bytes).data + (rvDesc d.bytes).e ≤ spadSize) {w : Nat} (hw : w = ((s.core c).spadWord (rvDesc d.bytes).idx).toNat)
  (hin : (rvDesc d.bytes).aux = 0 ∨ w < (rvDesc d.bytes).aux) (hrow : (rvDesc d.bytes).row w + (rvDesc d.bytes).e ≤ spadSize)
include hcount hidx hdata hw hin hrow
omit hop

/-- SCATTER writes a row. -/
theorem State.rvEnded_scatter (hop : (rvDesc d.bytes).op = 1) : s.RvEnded s1 c 1 d
    (putBytes ((rvDesc d.bytes).row w) ((s.core c).spad.getN byte0 (rvDesc d.bytes).data (rvDesc d.bytes).e) (s.core c).spadByte) := by
  have hword : (((rvBegin s s1 c d).s.core c).spadWord ((rvDesc d.bytes).idx + 4 * 0)).toNat = w := (rvBegin_word h _).trans hw.symm
  refine State.rvEnded_wr hj h he hcheck hspace hop ?_ rvBegin_clean (rvBegin_byte h) (by rw [length_getN]; exact hrow)
  rw [RvRun.go_one hcount (by omega), rvBegin_clean.scatter rfl (rvBegin_err h he) hspace hidx (by omega) (by rw [hword]; exact hin) hop]
  rw [hword, rvBegin_spad h, Nat.zero_mul, Nat.add_zero]

/-- SCATTER_ADD of a word adds to it. -/
theorem State.rvEnded_scatterAdd (hop : (rvDesc d.bytes).op = 2) (hd : (rvDesc d.bytes).dtype = 1) (h4 : (rvDesc d.bytes).e = 4) : s.RvEnded s1 c 2 d
    (putBytes ((rvDesc d.bytes).row w)
      (leBytes 4 ((((s.core c).spadWord ((rvDesc d.bytes).row w)).toNat + ((s.core c).spadWord (rvDesc d.bytes).data).toNat) % 2 ^ 32))
      (s.core c).spadByte) := by
  have hword : (((rvBegin s s1 c d).s.core c).spadWord ((rvDesc d.bytes).idx + 4 * 0)).toNat = w := (rvBegin_word h _).trans hw.symm
  obtain ⟨hy, hb⟩ := rvBegin_clean (s := s) (s1 := s1) (c := c) (d := d).arith rfl 0 (f := 0) rfl
  refine State.rvEnded_wr hj h he hcheck hspace hop ?_ hy (fun b => (hb b).trans (rvBegin_byte h b)) (by rw [length_leBytes]; omega)
  rw [RvRun.go_one hcount (by omega), rvBegin_clean.scatterAdd rfl (rvBegin_err h he) hspace hidx (by omega) (by rw [hword]; exact hin)
    (by rw [hword]; exact hrow) hop]
  rw [hword, rvBegin_spad h, Nat.zero_mul, Nat.add_zero, hd, h4, lanesOp_add]

end

/-! ### SEG_REDUCE -/

section
omit hop
variable (hop3 : (rvDesc d.bytes).op = 3) (hcount : (rvDesc d.bytes).count = 1) (hidx : (rvDesc d.bytes).idx + 8 ≤ spadSize)
  {lo hi : Nat} (hlo : lo = ((s.core c).spadWord (rvDesc d.bytes).idx).toNat) (hhi : hi = ((s.core c).spadWord ((rvDesc d.bytes).idx + 4)).toNat)

include hj h he hcheck hspace hop3 hcount hidx hlo hhi

/-- A falling offset ends the descriptor. -/
theorem State.rvStart_falling (hlt : hi < lo) :
    s.Started s1 (s.rvStart c 3) c 3 ((s.rvJob c d).failed 3 1) ∧ (s.rvStart c 3).mem = s.mem ∧ (s.rvStart c 3).net = s.net ∧
      ((s.rvStart c 3).core c).spad = (s.core c).spad := by
  obtain ⟨h0, h1⟩ := rvBegin_offsets h hlo hhi
  have hgo : RvRun.go ⟨s1, s.rvJob c d⟩ c (rvDesc d.bytes) = (rvBegin s s1 c d).fail 3 1 := by
    rw [RvRun.go_segment hcount hop3]
    exact rvBegin_clean.segment_falling rfl (rvBegin_err h he) (by omega) (by rw [h0, h1]; exact hlt)
  have hfail : (rvBegin s s1 c d).fail 3 1 = ⟨s1, (s.rvJob c d).failed 3 1⟩ := rfl
  obtain ⟨hs, hm, hn, -⟩ := State.rv_left h (rvBegin_clean (s := s) (s1 := s1) (c := c) (d := d)) ((s.rvJob c d).failed 3 1)
  rw [State.rvStart_ended hj h hop3 hcheck hspace (hgo.trans hfail) rfl rfl]
  refine ⟨hs, hm, hn, ?_⟩
  rw [State.core_modCore_same]
  exact rvBegin_spad (s1 := s1) h

variable (hdata : (rvDesc d.bytes).data + (rvDesc d.bytes).e ≤ spadSize)
include hdata

/-- One row is reduced. -/
theorem State.rvEnded_segment (heq : hi = lo + 1) (hrow : (rvDesc d.bytes).row lo + (rvDesc d.bytes).e ≤ spadSize)
    {r : List Byte × FFlags} (hr : r = segReduce (rvDesc d.bytes).dtype (rvDesc d.bytes).aux (rvDesc d.bytes).e
      [(s.core c).spad.getN byte0 ((rvDesc d.bytes).row lo) (rvDesc d.bytes).e]) (hlen : r.1.length = (rvDesc d.bytes).e) (hnp : r.2 &&& flNP = 0) :
    s.RvEnded s1 c 3 d (putBytes (rvDesc d.bytes).data r.1 (s.core c).spadByte) := by
  obtain ⟨h0, h1⟩ := rvBegin_offsets h hlo hhi
  obtain ⟨hy, hb⟩ := rvBegin_clean (s := s) (s1 := s1) (c := c) (d := d).arith rfl 0 hnp
  refine State.rvEnded_wr hj h he hcheck hspace hop3 ?_ hy (fun b => (hb b).trans (rvBegin_byte h b)) (by rw [hlen]; exact hdata)
  rw [RvRun.go_segment hcount hop3, rvBegin_clean.segment_one (i := 0) rfl (rvBegin_err h he) hspace (by omega) (by rw [h0, h1]; exact heq)
    (by rw [h0]; exact hrow), h0, rvBegin_spad h, ← hr, Nat.zero_mul, Nat.add_zero]

/-- No row yields the unit. -/
theorem State.rvEnded_empty (heq : hi = lo) (hlen : laneSize (rvDesc d.bytes).dtype ∣ (rvDesc d.bytes).e) :
    s.RvEnded s1 c 3 d (putBytes (rvDesc d.bytes).data
      (laneRow (rvDesc d.bytes).dtype (rvDesc d.bytes).e (laneUnit (rvDesc d.bytes).dtype (rvDesc d.bytes).aux)) (s.core c).spadByte) := by
  obtain ⟨h0, h1⟩ := rvBegin_offsets h hlo hhi
  obtain ⟨hy, hb⟩ := rvBegin_clean (s := s) (s1 := s1) (c := c) (d := d).arith rfl 0 (f := 0) rfl
  refine State.rvEnded_wr hj h he hcheck hspace hop3 ?_ hy (fun b => (hb b).trans (rvBegin_byte h b)) (by rw [length_laneRow hlen]; exact hdata)
  rw [RvRun.go_segment hcount hop3, rvBegin_clean.segment_empty (i := 0) rfl (rvBegin_err h he) hspace (by omega) (by rw [h0, h1]; exact heq),
    Nat.zero_mul, Nat.add_zero]

end

/-! ### HASH_PROBE and HASH_INSERT -/

/-- What a key comes to is written, then the count of misses. -/
theorem State.rvEnded_hash (h4 : 4 ≤ op) (h6 : op < 6) (hcount : (rvDesc d.bytes).count = 1) (hdata : (rvDesc d.bytes).data + 4 ≤ spadSize)
    (hstride : (rvDesc d.bytes).stride + 4 ≤ spadSize) {y : RvRun} {v miss : Nat} {f : Nat → Byte}
    (hhash : (rvBegin s s1 c d).hash c (rvDesc d.bytes) 0 0 = (y.wr c (rvDesc d.bytes).data (leBytes 4 v), miss))
    (hy : y.Clean s1 c (s.rvJob c d)) (hf : ∀ b, y.byte c b = f b) :
    s.RvEnded s1 c op d (putBytes (rvDesc d.bytes).stride (leBytes 4 miss) (putBytes (rvDesc d.bytes).data (leBytes 4 v) f)) := by
  obtain ⟨hz, hb⟩ := State.rvRun_wr h he hy hf (a := (rvDesc d.bytes).data) (l := leBytes 4 v) (by rw [length_leBytes]; exact hdata)
  refine State.rvEnded_wr hj h he hcheck hspace hop ?_ hz hb (by rw [length_leBytes]; exact hstride)
  rw [RvRun.go_hash hcount (by omega) (by omega), hhash]

section
variable (hcount : (rvDesc d.bytes).count = 1) (hidx : (rvDesc d.bytes).idx + 8 ≤ spadSize) (hdata : (rvDesc d.bytes).data + 4 ≤ spadSize)
  (hstride : (rvDesc d.bytes).stride + 4 ≤ spadSize) {key a : Nat} (hkey : (rvBegin s s1 c d).word c (rvDesc d.bytes).idx = key)
  (ha : a = (rvDesc d.bytes).base + 8 * (rvDesc d.bytes).slot key) (hfit : a + 8 ≤ spadSize)
include hcount hidx hdata hstride hkey
omit hop

/-- A probe of a key that says there is none, or whose first slot is empty, misses. -/
theorem State.rvEnded_miss (hop : (rvDesc d.bytes).op = 4) (ha : a = (rvDesc d.bytes).base + 8 * (rvDesc d.bytes).slot key) (hfit : a + 8 ≤ spadSize)
    (hnone : key = noKey ∨ (rvBegin s s1 c d).word c a = noKey) : s.RvEnded s1 c 4 d
    (putBytes (rvDesc d.bytes).stride (leBytes 4 1) (putBytes (rvDesc d.bytes).data (leBytes 4 noKey) (s.core c).spadByte)) := by
  have hhash : (rvBegin s s1 c d).hash c (rvDesc d.bytes) 0 0 = ((rvBegin s s1 c d).wr c (rvDesc d.bytes).data (leBytes 4 noKey), 1) := by
    by_cases hk : key = noKey
    · exact rvBegin_clean.hash_none rfl (rvBegin_err h he) (by omega) (hkey.trans hk)
    · exact rvBegin_clean.hash_miss rfl (rvBegin_err h he) (by omega) (by rw [hkey]; exact hk) (by rw [hkey]; exact ha) hfit hop (hnone.resolve_left hk)
  exact State.rvEnded_hash hj h he hcheck hspace hop (by decide) (by decide) hcount hdata hstride hhash rvBegin_clean (rvBegin_byte h)

include ha hfit

/-- A probe of the key of its first slot gives the value beside it. -/
theorem State.rvEnded_hit (hop : (rvDesc d.bytes).op = 4) (hk : key ≠ noKey) (hw : (rvBegin s s1 c d).word c a = key) : s.RvEnded s1 c 4 d
    (putBytes (rvDesc d.bytes).stride (leBytes 4 0)
      (putBytes (rvDesc d.bytes).data (leBytes 4 ((rvBegin s s1 c d).word c (a + 4))) (s.core c).spadByte)) := by
  have hhash := rvBegin_clean.hash_hit rfl (rvBegin_err h he) (by omega) (by rw [hkey]; exact hk) (by rw [hkey]; exact ha) hfit hop (hw.trans hkey.symm)
  exact State.rvEnded_hash hj h he hcheck hspace hop (by decide) (by decide) hcount hdata hstride hhash rvBegin_clean (rvBegin_byte h)

/-- An insert fills its empty first slot. -/
theorem State.rvEnded_insert (hop : (rvDesc d.bytes).op = 5) (hk : key ≠ noKey) (hw : (rvBegin s s1 c d).word c a = noKey) : s.RvEnded s1 c 5 d
    (putBytes (rvDesc d.bytes).stride (leBytes 4 0) (putBytes (rvDesc d.bytes).data (leBytes 4 ((rvDesc d.bytes).slot key))
      (putBytes a (leBytes 4 key ++ (s.core c).spad.getN byte0 ((rvDesc d.bytes).idx + 4) 4) (s.core c).spadByte))) := by
  have hhash := rvBegin_clean.hash_insert rfl (rvBegin_err h he) (by omega) (by rw [hkey]; exact hk) (by rw [hkey]; exact ha) hfit hop hidx hw
  rw [hkey, rvBegin_spad h] at hhash
  obtain ⟨hy, hb⟩ := State.rvRun_wr h he rvBegin_clean (rvBegin_byte h) (a := a)
    (l := leBytes 4 key ++ (s.core c).spad.getN byte0 ((rvDesc d.bytes).idx + 4) 4) (by rw [List.length_append, length_leBytes, length_getN]; exact hfit)
  exact State.rvEnded_hash hj h he hcheck hspace hop (by decide) (by decide) hcount hdata hstride hhash hy hb

end

/-! ### SET_ISECT and SET_UNION -/

/-- A set operation writes its elements and their number. -/
theorem State.rvEnded_sets (h6 : 6 ≤ op) (hia : (rvDesc d.bytes).idx + 4 * (rvDesc d.bytes).count ≤ spadSize)
    (hib : (rvDesc d.bytes).base + 4 * ((rvDesc d.bytes).aux % 2 ^ 24) ≤ spadSize) (hstride : (rvDesc d.bytes).stride + 4 ≤ spadSize)
    (hout : (rvDesc d.bytes).data + 4 * ((rvDesc d.bytes).count + (rvDesc d.bytes).aux % 2 ^ 24) ≤ spadSize)
    (hap : (rvDesc d.bytes).data + 4 * ((rvDesc d.bytes).count + (rvDesc d.bytes).aux % 2 ^ 24) ≤ (rvDesc d.bytes).idx ∨
      (rvDesc d.bytes).idx + 4 * (rvDesc d.bytes).count ≤ (rvDesc d.bytes).data)
    (hbp : (rvDesc d.bytes).data + 4 * ((rvDesc d.bytes).count + (rvDesc d.bytes).aux % 2 ^ 24) ≤ (rvDesc d.bytes).base ∨
      (rvDesc d.bytes).base + 4 * ((rvDesc d.bytes).aux % 2 ^ 24) ≤ (rvDesc d.bytes).data)
    (hasc : ∀ i, i + 1 < (rvDesc d.bytes).count → (rvBegin s s1 c d).word c ((rvDesc d.bytes).idx + 4 * i) <
      (rvBegin s s1 c d).word c ((rvDesc d.bytes).idx + 4 * (i + 1)))
    (hbsc : ∀ i, i + 1 < (rvDesc d.bytes).aux % 2 ^ 24 → (rvBegin s s1 c d).word c ((rvDesc d.bytes).base + 4 * i) <
      (rvBegin s s1 c d).word c ((rvDesc d.bytes).base + 4 * (i + 1))) :
    s.RvEnded s1 c op d (putBytes (rvDesc d.bytes).stride (leBytes 4 ((rvBegin s s1 c d).merged c (rvDesc d.bytes)).length)
      (putBytes (rvDesc d.bytes).data (((rvBegin s s1 c d).merged c (rvDesc d.bytes)).flatMap (leBytes 4)) (s.core c).spadByte)) := by
  obtain ⟨y, hsets, hy, hb⟩ := rvBegin_clean.sets rfl (rvBegin_err h he) hia hib hout hap hbp hasc hbsc
  refine State.rvEnded_wr hj h he hcheck hspace hop ?_ hy (fun b => (hb b).trans (congrArg (putBytes _ _ · b) (funext (rvBegin_byte h))))
    (by rw [length_leBytes]; exact hstride)
  rw [RvRun.go_sets (by omega), hsets]

end

/-! ### Reading what was written -/

theorem RvDesc.row_local {d : RvDesc} (h : d.space = 0) (j : Nat) : d.row j = d.base + j * d.stride := by
  unfold RvDesc.row
  rw [if_neg (by omega)]

theorem Core.getN_word (k : Core) (a : Nat) : k.spad.getN byte0 a 4 = leBytes 4 (k.spadWord a).toNat := by
  have h := leBytes_leNat (k.spad.getN byte0 a 4)
  rw [length_getN, leNat_getN4] at h
  exact h.symm

section
variable {k : Core} {a b v : Nat} {f : Nat → Byte} {l : List Byte}

/-- A word on top. -/
theorem Core.spadWord_put (h : ∀ i, i < 4 → k.spadByte (a + i) = putBytes a (leBytes 4 v) f (a + i)) : k.spadWord a = BitVec.ofNat 32 v :=
  Core.spadWord_stored fun i hi => (h i hi).trans (putBytes_in (by rw [length_leBytes]; exact hi))

/-- Bytes elsewhere on top of what is read. -/
theorem putBytes_skip {n : Nat} (hp : a + n ≤ b ∨ b + l.length ≤ a) {i : Nat} (hi : i < n) : putBytes b l f (a + i) = f (a + i) :=
  putBytes_out (by omega)

end

section
variable {s s1 : State} {c op a b : Nat} {d : Desc} {f : Nat → Byte}

/-- Two words that lie apart read as they were written. -/
theorem State.RvEnded.results {v m : Nat} (r : s.RvEnded s1 c op d (putBytes b (leBytes 4 m) (putBytes a (leBytes 4 v) f)))
    (hap : a + 4 ≤ b ∨ b + 4 ≤ a) :
    ((s.rvStart c op).core c).spadWord a = BitVec.ofNat 32 v ∧ ((s.rvStart c op).core c).spadWord b = BitVec.ofNat 32 m := by
  refine ⟨Core.spadWord_put (f := f) fun i hi => ?_, Core.spadWord_put fun i _ => r.byte _⟩
  rw [r.byte, putBytes_skip (n := 4) (by rw [length_leBytes]; exact hap) hi]

/-- A list of words and, apart from it, its length read as they were written. -/
theorem State.RvEnded.list {l : List Nat} (r : s.RvEnded s1 c op d (putBytes b (leBytes 4 l.length) (putBytes a (l.flatMap (leBytes 4)) f)))
    (hap : a + 4 * l.length ≤ b ∨ b + 4 ≤ a) (hlen : l.length < 2 ^ 32) (hlt : ∀ v ∈ l, v < 2 ^ 32) :
    (((s.rvStart c op).core c).spadWord b).toNat = l.length ∧
      ∀ n, n < l.length → (((s.rvStart c op).core c).spadWord (a + 4 * n)).toNat = l.getD n 0 := by
  refine ⟨?_, fun n hn => ?_⟩
  · rw [Core.spadWord_put fun i _ => r.byte _, BitVec.toNat_ofNat, Nat.mod_eq_of_lt hlen]
  · have hv : l.getD n 0 < 2 ^ 32 := by
      rw [List.getD_eq_getElem _ _ hn]
      exact hlt _ (List.getElem_mem hn)
    rw [Core.spadWord_stored (v := l.getD n 0) fun i hi => ?_, BitVec.toNat_ofNat, Nat.mod_eq_of_lt hv]
    rw [r.byte, putBytes_out (by rw [length_leBytes]; omega), Nat.add_assoc, putBytes_in (by rw [length_flatMap_words]; omega),
      getD_flatMap_words hn hi]

/-- A word pair beneath two words that lie apart from it reads as it was written. -/
theorem State.RvEnded.pair {e v m p q : Nat}
    (r : s.RvEnded s1 c op d (putBytes b (leBytes 4 m) (putBytes a (leBytes 4 v) (putBytes e (leBytes 4 p ++ leBytes 4 q) f))))
    (ha : e + 8 ≤ a ∨ a + 4 ≤ e) (hb : e + 8 ≤ b ∨ b + 4 ≤ e) :
    ((s.rvStart c op).core c).spadWord e = BitVec.ofNat 32 p ∧ ((s.rvStart c op).core c).spadWord (e + 4) = BitVec.ofNat 32 q := by
  have hlen : (leBytes 4 p ++ leBytes 4 q).length = 8 := by rw [List.length_append, length_leBytes, length_leBytes]
  have hpair (i : Nat) (hi : i < 8) : ((s.rvStart c op).core c).spadByte (e + i) = (leBytes 4 p ++ leBytes 4 q).getD i 0 := by
    rw [r.byte, putBytes_skip (n := 8) (by rw [length_leBytes]; exact hb) hi, putBytes_skip (n := 8) (by rw [length_leBytes]; exact ha) hi]
    exact putBytes_in (by rw [hlen]; exact hi)
  refine ⟨Core.spadWord_stored fun i hi => ?_, Core.spadWord_stored fun i hi => ?_⟩
  · rw [hpair i (by omega), List.getD_append _ _ _ _ (by rw [length_leBytes]; exact hi)]
  · rw [Nat.add_assoc, hpair (4 + i) (by omega), List.getD_append_right _ _ _ _ (by rw [length_leBytes]; omega), length_leBytes, Nat.add_sub_cancel_left]

end

/-- A byte outside both of two places written. -/
theorem putBytes_two_out {a b m : Nat} {p q : List Byte} {f : Nat → Byte} {l : List (Nat × Nat)}
    (h : ∀ r ∈ (a, p.length) :: (b, q.length) :: l, m < r.1 ∨ r.1 + r.2 ≤ m) : putBytes b q (putBytes a p f) m = f m := by
  rw [putBytes_out (h _ (List.mem_cons_of_mem _ (List.mem_cons_self ..))), putBytes_out (h _ (List.mem_cons_self ..))]

theorem mem_leBytes_zero (n : Nat) : ∀ y ∈ leBytes n 0, y = 0 := by
  induction n with
  | zero => exact fun y hy => absurd hy List.not_mem_nil
  | succ n ih => exact fun y hy => (List.mem_cons.1 hy).elim id (ih y)

theorem getD_laneRow_zero (t e b : Nat) : (laneRow t e 0).getD b 0 = 0 := by
  rcases Nat.lt_or_ge b (laneRow t e 0).length with hb | hb
  · obtain ⟨_, -, hy⟩ := List.mem_flatMap.1 (List.getElem_mem hb)
    rw [List.getD_eq_getElem _ _ hb]
    exact mem_leBytes_zero _ _ hy
  · rw [List.getD_eq_default _ _ hb]

theorem ofNat_word (w : Word) : BitVec.ofNat 32 w.toNat = w := by rw [BitVec.ofNat_toNat, BitVec.setWidth_eq]

/-- Settles O29: each operation is its run (`RvEnded`), whose scratchpad is the old one with the bytes it writes put over it. -/
theorem retrieverOperationsDoTheirWork : Obligations.RetrieverOperationsDoTheirWork := by
  intro s s1 c d hj h he k x fresh left done word inside row slot at' kept apart
  have hdone {op : Nat} {f : Nat → Byte} (r : s.RvEnded s1 c op d f) : done (s.rvStart c op) :=
    ⟨r.started.run, r.started.others, r.mem, r.net, r.started.eng, r.started.engs⟩
  have hkept {op : Nat} {f : Nat → Byte} {l : List (Nat × Nat)} (r : s.RvEnded s1 c op d f)
      (hf : ∀ b, (∀ q ∈ l, b < q.1 ∨ q.1 + q.2 ≤ b) → f b = k.spadByte b) : kept (s.rvStart c op) l := fun b hb => (r.byte b).trans (hf b hb)
  have hword (a : Nat) : (rvBegin s s1 c d).word c a = word a := rvBegin_word h a
  have hone {a n b : Nat} (hb : ∀ q ∈ [(a, n)], b < q.1 ∨ q.1 + q.2 ≤ b) : b < a ∨ a + n ≤ b := hb _ (List.mem_singleton_self _)
  refine ⟨?_, fun hcheck hspace => ⟨?_, ?_, ?_, ?_, ?_⟩⟩
  · -- a descriptor that fails its check
    intro op i hi hop hcode
    have hex : exec i s = .next (s.rvStart c op) := by
      simp only [List.mem_cons, List.not_mem_nil, or_false, Prod.mk.injEq] at hi
      rcases hi with ⟨rfl, rfl⟩ | ⟨rfl, rfl⟩ | ⟨rfl, rfl⟩ | ⟨rfl, rfl⟩ | ⟨rfl, rfl⟩ | ⟨rfl, rfl⟩ | ⟨rfl, rfl⟩ | ⟨rfl, rfl⟩ <;> rfl
    rw [State.rvStart_taken hj h hop, if_pos hcode] at hex
    obtain ⟨hs, hm, hn, -⟩ := State.rv_left h (rvBegin_clean (s := s) (s1 := s1) (c := c) (d := d)) (fresh.failed (rvCheck d.bytes) 0)
    refine ⟨_, hex, ⟨hs.run, hs.others, hm, hn, hs.eng, hs.engs⟩, ?_⟩
    rw [State.core_modCore_same]
    exact rvBegin_spad (s1 := s1) h
  · -- GATHER
    intro hop hidx hdata hap hrow
    have hr (i : Nat) : x.row (word (x.idx + 4 * i)) = row i := RvDesc.row_local hspace _
    obtain ⟨f, hrun, hout, hin⟩ := State.rvEnded_gather hj h he hcheck hspace hop hidx hdata hap (w := fun i => word (x.idx + 4 * i))
      (fun i => (hword _).symm) (fun i hi => by rw [hr i]; exact hrow i hi)
    refine ⟨_, rfl, hdone hrun, hkept hrun fun b hb => hout b (hone hb), fun i b hi hb => ?_⟩
    rw [hrun.byte, hin i b hi hb, hr]
  · -- SCATTER and SCATTER_ADD of one index
    intro hcount hidx hdata hins hrow
    have hr : x.row (word x.idx) = row 0 := RvDesc.row_local hspace _
    refine ⟨fun hop => ?_, fun hop hdt h4 => ?_⟩
    · have hrun := State.rvEnded_scatter hj h he hcheck hspace hcount hidx hdata rfl hins (by rw [hr]; exact hrow) hop
      have hlen := length_getN byte0 k.spad x.data x.e
      rw [hr] at hrun
      refine ⟨_, rfl, hdone hrun, hkept hrun fun b hb => putBytes_out (by rw [hlen]; exact hone hb), fun b hb => ?_⟩
      rw [hrun.byte, putBytes_in (by rw [hlen]; exact hb), getD_getN _ _ _ hb]
      rfl
    · have hrun := State.rvEnded_scatterAdd hj h he hcheck hspace hcount hidx hdata rfl hins (by rw [hr]; exact hrow) hop hdt h4
      rw [hr] at hrun
      refine ⟨_, rfl, hdone hrun, hkept hrun fun b hb => putBytes_out (by rw [length_leBytes]; exact hone hb), ?_⟩
      rw [Core.spadWord_put fun i _ => hrun.byte _]
      exact BitVec.eq_of_toNat_eq (by rw [BitVec.toNat_ofNat, BitVec.toNat_add, Nat.mod_mod])
  · -- SEG_REDUCE of one segment
    intro hop hcount hidx hdata
    have hr : x.row (word x.idx) = row 0 := RvDesc.row_local hspace _
    have hlanes := rvCheck_lanes hcheck
    refine ⟨fun hlt => ?_, fun heq hrow hnp => ?_, fun heq haux => ?_⟩
    · obtain ⟨hs, hm, hn, hspad⟩ := State.rvStart_falling hj h he hcheck hspace hop hcount hidx rfl rfl hlt
      exact ⟨_, rfl, ⟨hs.run, hs.others, hm, hn, hs.eng, hs.engs⟩, hspad⟩
    · have hlen := length_segReduce_one (t := x.dtype) (fn := x.aux) (e := x.e) (b := k.spad.getN byte0 (x.row (word x.idx)) x.e) hlanes
      have hrun := State.rvEnded_segment hj h he hcheck hspace hop hcount hidx rfl rfl hdata heq (by rw [hr]; exact hrow) rfl hlen (by rw [hr]; exact hnp)
      rw [hr] at hrun hlen
      refine ⟨_, rfl, hdone hrun, hkept hrun fun b hb => putBytes_out (by rw [hlen]; exact hone hb), fun b hb => ?_⟩
      rw [hrun.byte, putBytes_in (by rw [hlen]; exact hb)]
      refine ⟨rfl, fun hdt => ?_⟩
      rw [segReduce_int hlanes hdt (length_getN ..) hb, getD_getN _ _ _ hb]
      rfl
    · have hrun := State.rvEnded_empty hj h he hcheck hspace hop hcount hidx rfl rfl hdata heq hlanes
      refine ⟨_, rfl, hdone hrun, hkept hrun fun b hb => putBytes_out (by rw [length_laneRow hlanes]; exact hone hb), fun b hb => ?_⟩
      rw [hrun.byte, putBytes_in (by rw [length_laneRow hlanes]; exact hb), show laneUnit (rvDesc d.bytes).dtype (rvDesc d.bytes).aux = 0 from if_pos haux]
      exact getD_laneRow_zero _ _ _
  · -- one key of a hash table
    intro hcount hidx hdata hstride hfit hap
    refine ⟨fun hop => ⟨fun hk hw => ?_, fun hnone => ?_⟩, fun hop hk hw hap1 hap2 => ?_⟩
    · have hrun := State.rvEnded_hit hj h he hcheck hspace hcount hidx hdata hstride (hword _) (a := at') rfl hfit hop hk ((hword _).trans hw)
      obtain ⟨hv, hm⟩ := hrun.results hap
      refine ⟨_, rfl, hdone hrun, hkept hrun fun b hb => putBytes_two_out hb, ?_, hm⟩
      rw [hv, hword]
      exact ofNat_word _
    · have hrun := State.rvEnded_miss hj h he hcheck hspace hcount hidx hdata hstride (hword _) (a := at') hop rfl hfit
        (hnone.imp_right fun hw => (hword _).trans hw)
      obtain ⟨hv, hm⟩ := hrun.results hap
      exact ⟨_, rfl, hdone hrun, hkept hrun fun b hb => putBytes_two_out hb, hv, hm⟩
    · have hrun := State.rvEnded_insert hj h he hcheck hspace hcount hidx hdata hstride (hword _) (a := at') rfl hfit hop hk ((hword _).trans hw)
      rw [Core.getN_word] at hrun
      obtain ⟨hv, hm⟩ := hrun.results hap
      obtain ⟨hkey, hval⟩ := hrun.pair hap1 hap2
      refine ⟨_, rfl, hdone hrun, hkept hrun fun b hb => ?_, hkey.trans (ofNat_word _), hval.trans (ofNat_word _), hv, hm⟩
      rw [putBytes_two_out hb]
      exact putBytes_out (hb _ (List.mem_cons_of_mem _ (List.mem_cons_of_mem _ (List.mem_cons_self ..))))
  · -- the sets of two ascending lists
    intro na nb hna hnb hia hib hstride hdata hap hbp hsp hasc hbsc i hi
    subst hna hnb
    have hasc' : ∀ i, i + 1 < x.count → (rvBegin s s1 c d).word c (x.idx + 4 * i) < (rvBegin s s1 c d).word c (x.idx + 4 * (i + 1)) := fun i hi => by
      rw [hword, hword]; exact hasc i hi
    have hbsc' : ∀ i, i + 1 < x.aux % 2 ^ 24 → (rvBegin s s1 c d).word c (x.base + 4 * i) < (rvBegin s s1 c d).word c (x.base + 4 * (i + 1)) :=
      fun i hi => by rw [hword, hword]; exact hbsc i hi
    obtain ⟨hsorted, hmem⟩ := RvRun.merged_spec hasc' hbsc'
    obtain ⟨op, hop, h67, hex⟩ : ∃ op, x.op = op ∧ (op = 6 ∨ op = 7) ∧ exec i s = .next (s.rvStart c op) := by
      rcases hi with ⟨hop, rfl⟩ | ⟨hop, rfl⟩
      · exact ⟨6, hop, .inl rfl, rfl⟩
      · exact ⟨7, hop, .inr rfl, rfl⟩
    have hrun := State.rvEnded_sets hj h he hcheck hspace hop (by omega) hia hib hstride hdata hap hbp hasc' hbsc'
    have hshort : ((rvBegin s s1 c d).merged c x).length ≤ x.count + x.aux % 2 ^ 24 := (rvBegin s s1 c d).length_merged c x
    have hlt := fun v => RvRun.merged_lt (v := v) hasc' hbsc'
    generalize (rvBegin s s1 c d).merged c (rvDesc d.bytes) = l at hsorted hmem hrun hshort hlt
    have hsize : x.data + 4 * (x.count + x.aux % 2 ^ 24) ≤ 0x30000 := hdata
    have hfar : x.data + 4 * (x.count + x.aux % 2 ^ 24) ≤ x.stride ∨ x.stride + 4 ≤ x.data := hsp
    have hclear : x.data + 4 * l.length ≤ x.stride ∨ x.stride + 4 ≤ x.data := by omega
    obtain ⟨hcnt, hels⟩ := hrun.list hclear (by omega) hlt
    refine ⟨_, l, hex, hdone hrun, hkept hrun fun b hb => putBytes_two_out (by rw [length_flatMap_words]; exact hb), hcnt, hels, hsorted, fun v => ?_⟩
    rw [hmem v, RvRun.mem_words, RvRun.mem_words, hop]
    simp only [hword]
    rcases h67 with rfl | rfl <;> rfl

end Sys2Proof.Machine
end
